-- ==== Sys2Proof/Word.lean ====
section
/-! DEFINITION. The word types of the Orodom machine and the sparse table type that the state is built from. -/

namespace Sys2Proof

/-- A 64-bit register word. -/
abbrev Word := BitVec 64

/-- A byte of memory. -/
abbrev Byte := BitVec 8

/-- A 16-bit instruction word (R185). -/
abbrev Half := BitVec 16

/-- A vector register's 512 bits (R158). -/
abbrev VWord := BitVec 512

/-- A sparse table: pairs of key and value, keys strictly rising. Lookups of a key that is not listed give
the default that the reader names. -/
abbrev SMap (α : Type) := List (Nat × α)

end Sys2Proof
end

