-- ==== Sys2Proof/Config.lean ====
section
/-! DEFINITION. What an implementation fixes and the values that the specification leaves open. An opaque constant
has no value that a proof could use. -/

namespace Sys2Proof

/-- A free value, by the counter of free values in the state. -/
opaque Config.freeWord : Nat → Word

/-- The 192 bits above the queue word that a Piste word carries, which the specification leaves open; a figure-mode run depends
on nothing else (R413). -/
opaque Config.queueHigh : Word → BitVec 192

/-- The bits of a half-flit of a message, by its words and its place, which the specification leaves open. -/
opaque Config.halfFlit : List Word → Nat → BitVec 256

/-- The SM3 digest of a byte string, a published standard whose results the specification does not state. -/
opaque Config.sm3 : List Byte → BitVec 256

/-- An SM2 signature by the device identity key over a byte string, likewise a published standard. -/
opaque Config.sm2Sign : List Byte → List Byte

/-- Whether an SM2 signature over an SM3 digest is right under a public key. -/
opaque Config.sm2Verify : List Byte → List Byte → BitVec 256 → Bool

/-- The SM3 hashes of the Caraskum test key and of the owner key (R429). -/
opaque Config.testKeyHash : BitVec 256
opaque Config.ownerKeyHash : BitVec 256

/-- The supervisor firmware image that stands to be booted: body, public key, digest and signature (R429). -/
opaque Config.imageBody : List Byte
opaque Config.imageKey : List Byte
opaque Config.imageDigest : BitVec 256
opaque Config.imageSignature : List Byte

/-- The SM3 digests of boot ROM, supervisor firmware and scan-core firmware as measured at load (R415), 1 to 3. -/
opaque Config.firmwareDigest : Nat → BitVec 256

/-- The latent error test of IEEE 802.1CB on a stream's frames passed and discarded; the specification gives no register for
its parameters (R21, R62). -/
opaque Config.latentError : Nat → Nat → Nat → Bool

/-- By how much a gPTP domain's time is ahead of the local oscillator after a Sync or Follow_Up message of its grandmaster, which
IEEE 802.1AS computes with delays that the part measures (R21, R62). -/
opaque Config.syncOffset : List Byte → Nat → Nat

/-- The silicon revision of the capability list (R468). -/
opaque Config.siliconRevision : BitVec 16

/-- LPDDR 6 data bytes per channel (R63). -/
def Config.channelBytes (large : Bool) : Nat := if large then 0x3E0000000 else 0x1F0000000

end Sys2Proof
end

