-- ==== Sys2Proof/Machine/Bits.lean ====
section
/-! DEFINITION. Bit fields, sign extension and byte order helpers (R4, R5, R9), and sparse tables. -/

namespace Sys2Proof.Machine

/-- `Bits(x, hi, lo)` of R9 on a natural number. -/
def nbits (x hi lo : Nat) : Nat := x / 2 ^ lo % 2 ^ (hi + 1 - lo)

/-- Bit `i` of a natural number. -/
def nbit (x i : Nat) : Bool := x.testBit i

/-- `Bits(x, hi, lo)` of a word, as a natural number. -/
def fld (x : Word) (hi lo : Nat) : Nat := nbits x.toNat hi lo

/-- Bit `i` of a word. -/
def bitOf (x : Word) (i : Nat) : Bool := x.getLsbD i

/-- Replaces bits [hi:lo] of a word by the low bits of `v`. -/
def setFld (x : Word) (hi lo v : Nat) : Word :=
  BitVec.ofNat 64 (x.toNat - fld x hi lo * 2 ^ lo + v % 2 ^ (hi + 1 - lo) * 2 ^ lo)

/-- A boolean as the number of its bit. -/
def b2n (b : Bool) : Nat := if b then 1 else 0

/-- `SignExt` of a `w`-bit pattern held in a natural number (R9). -/
def sext (w x : Nat) : Int :=
  if x % 2 ^ w < 2 ^ (w - 1) then (x % 2 ^ w : Nat) else (x % 2 ^ w : Nat) - (2 ^ w : Nat)

/-- Assignment of an int to `bits(w)`: the low `w` bits in two's complement (R9). -/
def toBits (w : Nat) (x : Int) : Nat := (x % (2 ^ w : Nat)).toNat

/-- A word from an int. -/
def ofI (x : Int) : Word := BitVec.ofInt 64 x

/-- A word from a natural number. -/
def ofN (x : Nat) : Word := BitVec.ofNat 64 x

/-- The little-endian bytes of a value, lowest address first (R5). -/
def bytesOf : Nat → Nat → List Byte
  | 0, _ => []
  | n + 1, x => BitVec.ofNat 8 x :: bytesOf n (x / 256)

/-- The value of little-endian bytes (R5). -/
def ofBytes : List Byte → Nat
  | [] => 0
  | b :: bs => b.toNat + 256 * ofBytes bs

end Sys2Proof.Machine

namespace Sys2Proof

/-- Lookup in a sparse table; an absent key reads as `d`. -/
def SMap.val {α : Type} (m : SMap α) (k : Nat) (d : α) : α :=
  match m with
  | [] => d
  | (k', v) :: m => if k = k' then v else SMap.val m k d

/-- Update of a sparse table, which keeps the keys rising. -/
def SMap.put {α : Type} (m : SMap α) (k : Nat) (v : α) : SMap α :=
  match m with
  | [] => [(k, v)]
  | (k', v') :: m' =>
    if k < k' then (k, v) :: (k', v') :: m'
    else if k = k' then (k, v) :: m' else (k', v') :: SMap.put m' k v

/-- Removal of a key. -/
def SMap.del {α : Type} (m : SMap α) (k : Nat) : SMap α := m.filter (fun e => !decide (e.1 = k))

/-- Whether a key is listed. -/
def SMap.has {α : Type} (m : SMap α) (k : Nat) : Bool := m.any (fun e => decide (e.1 = k))

/-- Lookup that tells an absent key. -/
def SMap.seek {α : Type} (m : SMap α) (k : Nat) : Option α :=
  match m with
  | [] => none
  | (k', v) :: m => if k = k' then some v else SMap.seek m k

end Sys2Proof
end

