-- ==== Sys2Proof/Syntax.lean ====
section
/-! DEFINITION. The instructions of the machine: one constructor for each row of the opcode table. The rows that
carry instruction words are the instructions of chapters 9 to 12, with their operand numbers and qualifiers; the
other rows are indivisible steps of the part's other agents, with what the step names. -/

namespace Sys2Proof

/-- A scalar operand number (R154): 0 to 23 name g0 to g23, 24 to 31 name q0 to q7. -/
abbrev Reg := Fin 32
/-- A vector register number (R154). -/
abbrev VReg := Fin 16
/-- A predicate number (R154). -/
abbrev PReg := Fin 16
/-- A condition number (R157). -/
abbrev Cond := Fin 32
/-- An accumulator number (R154). -/
abbrev Acc := Fin 8

/-- An element type (R195). -/
inductive ElemTy
  | f32 | bf16 | f16 | c8 | c4 | s8 | s16 | s32 | s64 | z8 | z16 | z32 | z64
  deriving DecidableEq, Repr

/-- A scope code (R195); `dflt` is code 0, the instruction's default. -/
inductive Scope
  | dflt | slot | core | die | part | dev
  deriving DecidableEq, Repr

/-- An ordering code (R195). -/
inductive Ord
  | none | acq | rel | ar
  deriving DecidableEq, Repr

/-- A relation code (R195); the `z` relations compare unsigned. -/
inductive Rel
  | eq | ne | lt | le | gt | ge | ltz | lez | gtz | gez
  deriving DecidableEq, Repr

/-- What becomes of the head tile after `M.STEP` (R282). -/
inductive Disp
  | send | keep | drop
  deriving DecidableEq, Repr

/-- The match kind of a shoot-down (R83). -/
inductive TlbKind
  | page | asn | part
  deriving DecidableEq, Repr

/-- The operation of a RED or AMO at a home slice (R96, R239, R240). -/
inductive RedOp
  | swap | cas | add | and | or | xor | min | max | minz | maxz | fadd
  deriving DecidableEq, Repr

/-- What the error code of a memory word or unit finds on a read (R69, R401). -/
inductive MemOutcome
  | clean | corrected | uncorrectable
  deriving DecidableEq, Repr

/-- A gate operation that travels over the sync link (R385): 0 POST, 1 WAIT, 2 TRY, 3 ARRIVE, 4 STAT, 5 OPEN, 6 CLOSE,
7 HOLD, 8 HOLD.rel. A tag names the operation to its sender. -/
inductive BridgeMsg
  /-- the master's result of the operation with a tag: d, and the payload of a wait -/
  | result (tag : Nat) (d : Word) (v : Option VWord)
  /-- the fault that the master's table raises for it -/
  | fault (tag code : Nat)
  /-- an operation of the partner, on its gate `peer`, for gate `gate` of this table -/
  | request (tag part gate peer op : Nat) (operand : Word) (payload : VWord)
  /-- word 3 of the partner's entry of a gate: BRIDGE, MASTER and PEER, as the partner's supervisor has stored it -/
  | entry (gate : Nat) (w : Word)
  deriving DecidableEq, Repr

/-- A unit that patrols its own arrays (R402). -/
inductive SramUnit
  | core | slice | hub
  deriving DecidableEq, Repr

/-- A reduction packet (R147). -/
structure RedPacket where
  tree : Nat
  epoch : Nat
  src : Nat
  lanes : Nat
  incomplete : Bool
  present : Nat
  data : List Nat
  deriving DecidableEq, Repr

/-- The steps of the part's agents other than the instruction of a slot: what an agenda of due steps holds. -/
inductive Event
  /-- R428. At power-on the part checks fuses and firmware, runs BIST, trains DRAM and links, wipes memories and starts firmware, or enters the safe report state. -/
  | powerOnSelfTest (failStep detail : Nat)
  /-- R429. A write of LCREQ requests the next life-cycle state, which blows a fuse and takes effect at the next reset; any other value is dropped. -/
  | lcreqWrite (w : Word)
  /-- R431. A die reaching TWARN sets SVIRQ.THERM. -/
  | thermalWarn (die : Nat) (temp : Int)
  /-- R431. A die reaching TTRIP puts the part into the safe report state within 1 ms, and compute state is lost. -/
  | thermalTrip (die : Nat) (temp : Int)
  /-- R431. Package power above 480 W for 10 consecutive ms sets OVERPWR and SVIRQ.THERM. -/
  | overpwr (pwr : Nat)
  /-- R7. A write to a register with no row of its own takes effect by its access code, with reserved fields ignored and refused hub accesses counted in HUBERR. -/
  | registerWrite (pa : Nat) (w : Word)
  /-- R366. At each aligned gPTP instant the scan unit makes a tick, which latches the input image and swaps and judges the result image at the latch instant. -/
  | scanTick
  /-- R366. In the core tick cycle, 100 to 200 ns after the tick, every core makes the new scan current, loads PTAGs, refills budgets and wakes waiters. -/
  | coreTick
  /-- R362. At each beat instant every core sets the current beat and wakes REALIGN waiters on beats. -/
  | beat
  /-- R364. A write of SCANCFG sets EN, PHASE and PERIOD, applied at the next tick when EN is set, or refused with CFGERR. -/
  | scancfgWrite (w : Word)
  /-- R364. A write of SCANNUM sets the current scan while EN is 0 and is refused with CFGERR otherwise. -/
  | scannumWrite (w : Word)
  /-- R365. Loss of a synchronised grandmaster on domain 0 sets HOLDOVER and ticks follow the local oscillator. -/
  | holdover
  /-- R365. When synchronisation returns or gPTP time steps, each tick moves at most 100 ns toward alignment until the error is below 10 ns. -/
  | slew (err : Int)
  /-- R23. A frame received on a TSN port is matched by the lowest valid stream filter, passed through its gate and meter, and commits its payload to its process-image region. -/
  | tsnFrameReceive (port : Nat) (frame : List Byte) (fcsOk : Bool)
  /-- R62. A write of QBVCTL.CHANGE schedules the admin gate control list to become operational at its base time. -/
  | qbvChange (port : Nat) (w : Word)
  /-- R62. At the first BASE + j × CYCLE instant not in the past the admin Qbv list becomes the operational list and PENDING clears. -/
  | qbvListActivate (port : Nat)
  /-- R62. When an entry's interval ends the port's transmission gates take the next entry's states, and the list is cut or held at CYCLE. -/
  | qbvGateIntervalEnd (port : Nat)
  /-- R62. A write of CHANGE in a stream gate control entry schedules its admin list to become operational. -/
  | streamGateChange (gate : Nat) (w : Word)
  /-- R62. At its base time a stream gate's admin list becomes operational. -/
  | streamGateListActivate (gate : Nat)
  /-- R62. A read of a gPTP domain's TIME word latches the domain's time in ns. -/
  | gptpTimeLatch (domain : Nat)
  /-- R57. The egress engine sends a decided frame in the first open window of its TC after the tick, built in the order of R55, unless the part is a standby. -/
  | egressFrameSend (stream : Nat)
  /-- R24. A write of PISPLIT moves the input/result boundary at the next tick, zeroing moved bytes, or is ignored and counted in HUBERR. -/
  | pisplitWrite (w : Word)
  /-- R61. A write of PIBIND.f word 0 binds, rebinds or unbinds a region, taking effect at the next tick with SEL 0 and zeroed bytes, or is refused. -/
  | pibindWrite (filter : Nat) (w : Word)
  /-- R54. A write of ESCFG.e configures an egress stream, is refused by its checks, and zeroes the stream's status entry when EN is set from 0. -/
  | escfgWrite (stream : Nat) (w : Word)
  /-- R55. A write of ESHDR.e sets the frame header for the next frame decided, refusing VID 0 and 0xFFF with CTAG. -/
  | eshdrWrite (stream word : Nat) (w : Word)
  /-- R56. A write to the result view lands in the current back buffer in arrival order and sets the stream's W bit when it covers a stamp-word byte. -/
  | resultViewWrite (off : Nat) (bytes : List Byte)
  /-- R27. A frame on a sensor streaming port is taken in only with EtherType SKTYPE and no error, and its Skein records are queued for the front end. -/
  | sensorFrameReceive (port : Nat) (frame : List Byte) (fcsOk : Bool)
  /-- R60. A write of SPCFG sets SKTYPE, PAUSEEN and SLOWMULT, refusing SLOWMULT below 8 with CFGERR. -/
  | spcfgWrite (port : Nat) (w : Word)
  /-- R60. Writing 1 to SPCFG.CLR clears every counter of the sensor port. -/
  | spcfgClr (port : Nat)
  /-- R32. The front end checks a record's header and limits in order before allocation, rejecting it with a counted reason and LOSTROWS. -/
  | skeinRecordCheck (port : Nat)
  /-- R33. A record that passed its checks allocates its decoded size in the port's staging once space is free and starts decoding. -/
  | stagingAllocate (port : Nat)
  /-- R30. A fast lane finishes decoding a record and its rows enter the Loom array in record order, or a DECODE_ERROR replaces them with placeholders. -/
  | decodeComplete (port elapsed : Nat)
  /-- R35. When a record's decode time reaches SLOWMULT × mean it moves to the slow lane and placeholder rows with the late mark are injected. -/
  | slowLaneMove (port : Nat)
  /-- R35. A slow-lane decode ends and its rows are injected with a slow-fill mark, or discarded as stale or on DECODE_ERROR. -/
  | slowDecodeEnd (port : Nat)
  /-- R39. A running Loom element executes one stage word per HCLK cycle, stalling on empty or full links. -/
  | loomStage (row col : Nat)
  /-- R42. A write of LECTL starts or stops an element, sets NM1 or clears error bits. -/
  | lectlWrite (row col : Nat) (w : Word)
  /-- R41. A write of a stage word is taken while RUN is clear and ignored with CFGERR while RUN is set. -/
  | stageWordWrite (row col k : Nat) (w : Word)
  /-- R45. A write of LXCFG.i configures or enables an exit, judged and refused with CFGERR, discarding open and held rows when EN clears. -/
  | lxcfgWrite (exit : Nat) (w : Word)
  /-- R45. A write of LXDST.i sets the consumer core and window, refused while EN is 1 if it changes them. -/
  | lxdstWrite (exit : Nat) (w : Word)
  /-- R46. An exit cuts a row at EOR, pairs it with its metadata, and adds it to the open batch or holds or drops it by the window's FATE. -/
  | exitRowComplete (exit : Nat)
  /-- R48. BATCHWAIT µs after its first row an open batch closes. -/
  | batchwaitExpiry (exit : Nat)
  /-- R47. Metadata that finds no row within 1 ms is dropped, its row counted lost, and MEMERR set. -/
  | metadataTimeout (exit : Nat)
  /-- R52. The Loom writes a closed batch's header, rows and tile tags into a free window slot and then pushes its descriptor onto CSLOT's q5. -/
  | batchDeliver (exit : Nat)
  /-- R50. A write of SWCFG.w enables, reconfigures or stops a stream window, refused with CFGERR by its checks. -/
  | swcfgWrite (core win : Nat) (w : Word)
  /-- R52. A write of SWREL.w by CSLOT frees the oldest filled slots, setting OVREL on excess, or sets FOREIGN from another slot. -/
  | swrelWrite (core slot win : Nat) (w : Word)
  /-- R52. Within 200 ns the new free count reaches the exit, which forms held rows into batches. -/
  | freeCountUpdate (exit : Nat)
  /-- R69. A channel controller returns a read's sectors, corrected, or marked poisoned on an uncorrectable error or set poison bit. -/
  | dramReadReturn (channel addr : Nat) (outcome : MemOutcome)
  /-- R69. A channel controller writes a unit or a sector with its poison bits, reading the other sector first for a sector write. -/
  | dramWrite (channel addr sectors poison : Nat) (other : MemOutcome)
  /-- R70. Each controller patrols every data unit of its channels once every 12 hours under the rules of R69. -/
  | dramPatrol (channel addr : Nat) (outcome : MemOutcome)
  /-- R402. Each core, slice and hub block patrols its SECDED arrays every 100 ms in idle port cycles, counting uncorrectable words in LASTUE. -/
  | sramPatrol (unit : SramUnit) (index struct place : Nat) (outcome : MemOutcome)
  /-- R74. A cluster walker takes the oldest queued request and walks the three levels, installing the leaf or raising PAGE_ABSENT or POISON. -/
  | pageWalk (cluster part asn root va : Nat)
  /-- R84. A cluster, after removing matching entries and waiting for accesses through them to be performed, debits 1 from the barrier. -/
  | shootdownDebit (cluster : Nat)
  /-- R93. A home slice serves a die-local read, sending sectors and adding a sharer, after allocating or recalling as needed. -/
  | sliceRead (core key : Nat)
  /-- R93. A home slice serves a die-local store request by invalidating other tracked copies and granting EXC. -/
  | sliceStoreRequest (core key : Nat)
  /-- R93. A home slice merges written-back dirty bytes in merge order and makes the line UNC when the sender owned it. -/
  | sliceWriteBack (core key : Nat)
  /-- R93. A home slice serves a cross-die read with no directory entry, recalling an EXC owner's dirty sectors first. -/
  | crossDieRead (core key : Nat)
  /-- R93. A home slice merges a cross-die write, release flush or Carter write and invalidates tracked copies of the written sectors. -/
  | crossDieWrite (core key : Nat) (bytes : List Byte)
  /-- R93. A home slice serves an ATTR 1 read or store at the slice with no L1D copy. -/
  | attr1Access (core key width : Nat) (write : Option Word)
  /-- R93. An EXC owner's recalled dirty sectors arrive and merge, and the waiting request completes. -/
  | recallResponse (core key : Nat)
  /-- R114. A requested sector arrives at the L1D and fills the line, keeping bytes that later stores covered. -/
  | sectorFill (core key : Nat)
  /-- R96. A home slice applies a non-returning RED to its word in arrival order, after recalling and then invalidating copies of its sector. -/
  | redApply (gslot : Nat) (op : RedOp) (w32 etol : Bool) (key : Nat) (v : Word)
  /-- R97. A home slice reads up to eight words of one line as it stands and returns them packed in one response. -/
  | hgathServe (gslot : Nat) (v : VReg) (key : Nat) (sel : Word) (etol : Bool)
  /-- R98. A reservation for an AMO word enters the slice's reservation queue. -/
  | amoReserve (gslot key : Nat)
  /-- R98. When a reservation reaches the head for its word the slice recalls the sector and sends the word to the core as the grant. -/
  | amoGrant (slice : Nat)
  /-- R98. The slice writes the released value, invalidates tracked copies, and forwards it as the next reservation's grant. -/
  | amoRelease (gslot key width : Nat) (v : Option Word)
  /-- R369. On pre-emption a queued reservation is withdrawn, and a grant that arrives afterwards is released at once without a write. -/
  | amoWithdraw (gslot : Nat)
  /-- R105. After recalling a leaving page's dirty sectors the slice takes a pool frame, writes the dirty lines, swaps the leaf and shoots down, or posts LEAFCHANGED. -/
  | lateAttach (slice part asn vpn : Nat)
  /-- R106. A leaving page's dirty line enters the evict holding buffer when room is free, stalling the partition at the slice while none is. -/
  | holdingBufferEntry (slice : Nat)
  /-- R107. Within 2 µs of a page's first line entering the holding buffer the slice posts an UNBACKED_EVICT event. -/
  | unbackedEvict (slice : Nat)
  /-- R111. Retiring a slice runs R104 for its pages, writes back dirty lines, invalidates copies and leaves it serving uncached. -/
  | sliceRetire (slice : Nat)
  /-- R118. A given-away LM bank finishes its wipe within 1,024 ACLK cycles, and the new owner's waiting accesses proceed. -/
  | lmWipeDone (core bank : Nat)
  /-- R126. The Carter reads, lands and debits one chunk of a queue's head command, holding or closing the command on a fault. -/
  | carterChunk (gslot : Nat)
  /-- R136. In its frame cycle a valid INJ entry takes a word from its source and puts it on its link. -/
  | pisteInject (core : Nat)
  /-- R137. A Piste word arriving on a link is forwarded and deposited as its IN entry says, or dropped as STRAY. -/
  | pisteArrival (core link : Nat)
  /-- R143. At the destination network interface a message is delivered to the inbox or bounced by the checks of R143. -/
  | messageArrival (gslot : Nat)
  /-- R143. 4,096 ACLK cycles after the first refusal at a full inbox the message is bounced TIMEOUT. -/
  | messageTimeout (gslot : Nat)
  /-- R144. A bounced message enters the sender's inbox, or the fault queue as STALE_TIN when the sender's TIN has changed. -/
  | bounceArrival (gslot : Nat)
  /-- R149. A reduction packet arrives at a node and is held, waits, or is dropped as late or malformed, and the node combines when every part is present. -/
  | treePacketArrival (core : Nat) (p : RedPacket)
  /-- R148. When a node's timer reaches its time-out it combines what has arrived with INCOMPLETE set. -/
  | treeTimeout (core tree : Nat)
  /-- R278. A ring tile arriving at a core goes to an empty latch bank or the spill ring, or is refused with SCHEDULE_TAG to the holder. -/
  | ringTileArrival (core src : Nat)
  /-- R177. A bank in SEALING finishes building its views within 1,024 ACLK cycles and becomes SEALED. -/
  | sealComplete (core bank : Nat)
  /-- R263. On the slot's engine turn the head engine instruction reads its sources, makes its own checks and starts. -/
  | engineTurn (gslot : Nat)
  /-- R287. A started matrix step writes its accumulator elements 20 ACLK cycles after the unit frees, and the tile is sent, kept or dropped. -/
  | matrixStepComplete (core : Nat)
  /-- R289. An active replay issues its next buffered instruction on an engine turn with renamed registers and advanced address copies. -/
  | treadleReplayIssue (gslot : Nat)
  /-- R345. The dispatcher takes a launch packet, checks the header and opens the launch entry, or refuses it with a LAUNCH record. -/
  | launchOpen (die part asn handle : Nat)
  /-- R348. The dispatcher checks a work packet at its queue head and takes its WIDs in ascending order, or refuses it. -/
  | packetTake (die part asn handle : Nat)
  /-- R349. A watch-table wake shows a packet's dependence counters met its thresholds, and it becomes eligible. -/
  | packetEligible (die part asn handle : Nat)
  /-- R355. The dispatcher binds a WID to a free slot in one step, loading TIN, shadow registers, PTROOT, SW and PC, with the slot acquiring at .part. -/
  | taskBind (die part : Nat)
  /-- R353. A non-resident queue is made resident by writing back an LRU unpinned entry and loading its descriptor, within 2 µs. -/
  | queueMiss (die part asn handle : Nat)
  /-- R358. Every 4,096 ACLK cycles the dispatchers collect idle state and SENT and RECV sums, and end a counted launch at its second quiet sweep. -/
  | launchSweep
  /-- R359. When the completion counter reaches the end count the dispatcher adds to ENDCTR at .die and closes the launch. -/
  | deferredLaunchEnd (part entry : Nat)
  /-- R368. When LEFT reaches 0 the scalar stream stops at its next boundary and the slot parks for budget. -/
  | budgetEnd (gslot : Nat)
  /-- R369. The watchdog kills a slot's thread when debt exceeds one budget or one instruction spans over 4,096 ACLK cycles. -/
  | watchdog (gslot : Nat)
  /-- R396. A pre-emption request stops a slot at its next instruction boundary within 3 µs, abandoning pre-emptible waits and saving engine queue and replay. -/
  | preemptRequest (gslot : Nat)
  /-- R392. After the faulting slot's accesses are performed and it parks, the hub writes its record to the fault queue and raises TAIL. -/
  | faultRecordWrite (queue : Nat)
  /-- R390. A deferred fault is raised against its slot at the next instruction boundary, or at once if the slot waits or is parked. -/
  | deferredFault (gslot : Nat)
  /-- R393. A write of FQHEAD.p consumes records, ignored when it would pass TAIL, letting waiting records enter. -/
  | fqheadWrite (part : Nat) (w : Word)
  /-- R379. Every µs each time-sliced member that is neither switched in nor ready gains one µs of credit up to its SLICE. -/
  | tsCreditAccrue
  /-- R379. When the switched-in member's allotment ends or it stops being ready the schedule picks the next ready member and starts a switch. -/
  | tsSliceEnd
  /-- R380. Once the outgoing member's state is saved and the incoming member's loaded and resealed, the incoming member's slots issue. -/
  | tsSwitchComplete
  /-- R386. A reset of Pn by an FLR of VFn or by the supervisor stops binding, parks Pn's slots and lets its outstanding work drain. -/
  | partitionReset (part : Nat)
  /-- R386. After the drain Pn's slots are scrubbed, queues and launches closed, gates changed, translations shot down and memories wiped, by 2 ms. -/
  | resetDrainEnd (part : Nat)
  /-- R382. A supervisor store to a gate entry creates, changes or ends the gate in arrival order, or is dropped into HUBERR. -/
  | gateTableWrite (gate word : Nat) (w : Word)
  /-- R383. Every PERIOD.p µs a bucket not HELD gains one token up to DEPTH.p. -/
  | gateTokenRefill (gate part : Nat)
  /-- R385. An operation on a non-master bridged entry travels over the sync link, applies at the master and its result returns. -/
  | bridgedGateOp (m : BridgeMsg)
  /-- R388. A write of REMAP with GO moves rights, buckets, masks, owner and waiters from FROM to TO on every HELD gate. -/
  | remapWrite (w : Word)
  /-- R388. A remap completes within 100 µs and DONE returns to 1. -/
  | remapDone
  /-- R405. A write of LMFENCE fences banks, and clearing a fence bit wipes the bank before it answers again. -/
  | lmfenceWrite (core : Nat) (w : Word)
  /-- R408. REPLAYCTL REBIND binds a killed task's packet on its remapped core and slot by R355, or is refused with ERR. -/
  | rebind (gslot mode : Nat)
  /-- R408. REPLAYCTL COMPLETE adds 1 to the packet's completion counter and clears PEND. -/
  | replayComplete (gslot : Nat)
  /-- R408. REPLAYCTL DROP clears the replay entry only. -/
  | replayDrop (gslot : Nat)
  /-- R409. While EN is set a core posts a heartbeat every 65,536 ACLK cycles, raising BEATS and clearing MISSES. -/
  | heartbeatPost (core : Nat)
  /-- R409. Each 65,536 ACLK cycles the hub closes a period, adding a miss when no post came, and at 2 misses sets SUSPECT. -/
  | heartbeatPeriodClose (core : Nat)
  /-- R410. Within 200 µs of OFFLINE the core's slots are killed, its L1D written back or poisoned, and EN cleared with every bank fenced. -/
  | offlineComplete (core : Nat)
  /-- R429. An SPDM GET_VERSION request on a function's DOE is answered. -/
  | spdmGetVersion (function : Nat) (request : List Byte)
  /-- R429. An SPDM GET_CAPABILITIES request is answered. -/
  | spdmGetCapabilities (function : Nat) (request : List Byte)
  /-- R429. An SPDM NEGOTIATE_ALGORITHMS request selects SM2_P256 and SM3_256. -/
  | spdmNegotiateAlgorithms (function : Nat) (request : List Byte)
  /-- R429. An SPDM GET_DIGESTS request is answered. -/
  | spdmGetDigests (function : Nat) (request : List Byte)
  /-- R429. An SPDM GET_CERTIFICATE request is answered. -/
  | spdmGetCertificate (function : Nat) (request : List Byte)
  /-- R429. An SPDM CHALLENGE request is answered under the device identity key. -/
  | spdmChallenge (function : Nat) (request : List Byte)
  /-- R416. An SPDM GET_MEASUREMENTS request returns signed measurement blocks, with indices a VF may not see reported absent. -/
  | spdmGetMeasurements (function index : Nat) (request : List Byte)
  /-- R429. Any other SPDM request is answered with UnsupportedRequest. -/
  | spdmUnsupportedRequest (function : Nat) (request : List Byte)
  /-- R419. A host write to VFn's data window merges at its home slice as a cross-die write ranked after core 255. -/
  | dataWindowWrite (vf off : Nat) (bytes : List Byte)
  /-- R419. A host read of VFn's data window is served at the home slice. -/
  | dataWindowRead (vf off len : Nat)
  /-- R419. A host access outside a window's defined bytes completes with Unsupported Request, writes nothing and is logged by AER. -/
  | unsupportedRequest (function off : Nat) (write : Bool)
  /-- R419. A write of HWIN.n maps VFn's data window, dropped into HUBERR when outside Pn's groups or misaligned. -/
  | hwinWrite (vf : Nat) (w : Word)
  /-- R420. A DOORBELL write copies a staging slot and, after earlier writes land, pushes it to the named queue and updates DBSTAT. -/
  | doorbell (vf : Nat) (w : Word)
  /-- R421. A write of HOSTIRQ fires the named MSI-X vector of a function, dropped for vector 0. -/
  | hostirqWrite (w : Word)
  /-- R421. An FLR of VFn runs the reset of Pn, and its windows drop writes until it completes. -/
  | vfFlr (vf : Nat)
  /-- R423. A slot command PARK acts as SLOT.PARK on any slot and sets DONE when it stands parked. -/
  | sccmdPark (gslot : Nat)
  /-- R423. A slot command RUN acts as SLOT.RUN on the target. -/
  | sccmdRun (gslot : Nat)
  /-- R423. A slot command RUN.NEW starts a thread at ARG0 with PTROOT from ARG1, as SLOT.RUN.new. -/
  | sccmdRunNew (gslot : Nat) (arg0 arg1 : Word)
  /-- R423. A slot command SAVE acts as CTX.SAVE to a physically addressed area. -/
  | sccmdSave (gslot : Nat) (arg0 : Word)
  /-- R423. A slot command LOAD acts as CTX.LOAD from a physically addressed area. -/
  | sccmdLoad (gslot : Nat) (arg0 : Word)
  /-- R423. A slot command SCRUB acts as SLOT.SCRUB on the target. -/
  | sccmdScrub (gslot : Nat)
  /-- R423. A slot command SETSTACK writes SBASE and SLIM of a parked target, or returns 1 or 2 and changes nothing. -/
  | setstack (gslot : Nat) (arg0 : Word)
  /-- R424. With no valid flit for 10 µs the sync link is down, LINKDOWN is raised, bridged gates go to PEER_RESET and retraining starts. -/
  | syncLinkDown
  /-- R424. The sync link completes retraining and LINKUP returns to 1. -/
  | syncLinkUp
  /-- R426. Within 40 µs of the latch instant each package sends the digest of its egress decisions on the sync link and port HBPORT. -/
  | pairFrameSend
  /-- R426. A pair frame from the partner is compared with the package's own digest, setting MISMATCH on a difference. -/
  | pairFrameReceive (scan : Nat) (digest : BitVec 256)
  /-- R427. A mirrored line lands single-copy atomic on the partner, which sets INPROG and writes SCAN after the last line. -/
  | mirrorLineLand (pa : Nat) (bytes : List Byte) (last : Bool) (scan : Nat)
  /-- R250. Within 16 ACLK cycles of an add that meets a watched threshold the slice wakes the waiting slot. -/
  | evtWatchWake (slice : Nat)
  /-- R250. A waiter without a watch-table entry rereads its counter every 1,024 ACLK cycles. -/
  | evtWaitPoll (gslot : Nat)
  /-- R248. A parked WAIT whose condition holds or whose time-out ends issues again and writes d. -/
  | waitWake (gslot : Nat)
  /-- R418. A conventional reset of the part wipes its state, applies a pending life-cycle change, and is the only way out of the safe report state. -/
  | conventionalReset
  /-- R418. A function-level reset of PF0 arrives from the host. -/
  | pf0Flr
  /-- R418. A DOE discovery request on a function's mailbox is answered, and it reports only DOE discovery and SPDM. -/
  | doeDiscovery (function index : Nat)
  /-- R191. A slot issues a chain whose prefixes are malformed or whose (page, OP, FN) cell is empty, and the chain raises ILLEGAL_PREFIX or ILLEGAL_OPCODE with no effect. -/
  | illegalOpcode (prefixFault : Bool)
  /-- R76. The fetch of an instruction chain lies in a page that translation refuses, and the fault is raised before decode, naming the first word. -/
  | instructionFetchFault (code : Nat) (addr : Word) (cause : Nat)
  /-- R62. When RESETMS ms pass with no frame, the recovery reset time-out of an 802.1CB recovered stream expires and its recovery history is reset. -/
  | recoveryResetTimeout (stream : Nat)
  /-- R62. When the interval of an operational stream gate list entry ends, the stream gate takes the OPEN state of the next entry. -/
  | streamGateIntervalEnd (gate : Nat)
  /-- R62. While the part is grandmaster of a running gPTP domain, it sends Sync and Follow_Up every 2^LOGSYNC s on each port in service. -/
  | gptpSyncTransmit (domain : Nat)
  /-- R428. In the safe report state the TSN ports send the safe frames of the safe table from the signed image. -/
  | safeFrames
  deriving DecidableEq, Repr

/-- The instructions of the opcode map, and after them the steps of the other agents. -/
inductive Instr
  /-- R208. Writes a + b to d. -/
  | add (d a b : Reg)
  /-- R208. Writes a − b to d. -/
  | sub (d a b : Reg)
  /-- R208. Writes a and b to d. -/
  | and (d a b : Reg)
  /-- R208. Writes a or b to d. -/
  | or (d a b : Reg)
  /-- R208. Writes a xor b to d. -/
  | xor (d a b : Reg)
  /-- R208. Writes a and not b to d. -/
  | andn (d a b : Reg)
  /-- R208. Shifts a left by b, giving 0 for counts of 64 or more. -/
  | shl (d a b : Reg)
  /-- R208. Shifts a right logically by b. -/
  | shr (d a b : Reg)
  /-- R208. Shifts a right arithmetically by b. -/
  | sar (d a b : Reg)
  /-- R208. Writes the low 64 bits of the signed product. -/
  | mul (d a b : Reg)
  /-- R208. Writes the signed lesser of a and b. -/
  | min (d a b : Reg)
  /-- R208. Writes the signed greater of a and b. -/
  | max (d a b : Reg)
  /-- R211. Copies a to d, popping and pushing queues. -/
  | mov (d a : Reg)
  /-- R219. Jumps to the address in a after the target checks. -/
  | jmpi (a : Reg)
  /-- R221. Pushes the return address on the LM stack and jumps to the address in a. -/
  | calli (a : Reg)
  /-- R221. Pops the return address from the LM stack and jumps to it. -/
  | ret
  /-- R222. Changes nothing but the PC. -/
  | nop
  /-- R223. Waits for the slot's work to finish, then releases at die scope, adds to the completion counter, returns the inbox and frees the slot. -/
  | tend
  /-- R210. Writes a plus the signed immediate to d. -/
  | addi (d a : Reg) (imm : Int)
  /-- R210. Writes the signed immediate to d. -/
  | movi (d : Reg) (imm : Int)
  /-- R234. Loads a zero-extended byte from a + imm. -/
  | ldZ8 (d a : Reg) (imm : Int)
  /-- R234. Loads a zero-extended half-word. -/
  | ldZ16 (d a : Reg) (imm : Int)
  /-- R234. Loads a zero-extended word. -/
  | ldZ32 (d a : Reg) (imm : Int)
  /-- R234. Loads 8 bytes. -/
  | ldZ64 (d a : Reg) (imm : Int)
  /-- R234. Loads a sign-extended byte. -/
  | ldS8 (d a : Reg) (imm : Int)
  /-- R234. Loads a sign-extended half-word. -/
  | ldS16 (d a : Reg) (imm : Int)
  /-- R234. Loads a sign-extended word. -/
  | ldS32 (d a : Reg) (imm : Int)
  /-- R234. Stores the low byte of d at a + imm. -/
  | stZ8 (d a : Reg) (imm : Int)
  /-- R234. Stores the low half-word of d. -/
  | stZ16 (d a : Reg) (imm : Int)
  /-- R234. Stores the low word of d. -/
  | stZ32 (d a : Reg) (imm : Int)
  /-- R234. Stores 8 bytes of d. -/
  | stZ64 (d a : Reg) (imm : Int)
  /-- R235. Loads 8 bytes from LM at a + imm, page-0 encoding. -/
  | ldLZ64 (d a : Reg) (imm : Int)
  /-- R235. Stores 8 bytes to LM at a + imm, page-0 encoding. -/
  | stLZ64 (d a : Reg) (imm : Int)
  /-- R218. Branches by a half-word offset when the condition equals SENSE. -/
  | br (c : Cond) (sense : Bool) (off : Int)
  /-- R219. Jumps by a signed half-word offset. -/
  | jmp (off : Int)
  /-- R221. Pushes the return address and jumps by a signed offset. -/
  | call (off : Int)
  /-- R205. Checks the previous block's signature and arms the checker with EXPECT and ENTRY. -/
  | sig (imm : Nat)
  /-- R220. Decrements g and branches while it is not zero. -/
  | loop (g : Reg) (off : Int)
  /-- R208. Writes the high 64 bits of the signed product. -/
  | mulh (d a b : Reg)
  /-- R208. Writes the high 64 bits of the unsigned product. -/
  | mulhz (d a b : Reg)
  /-- R209. Writes the signed quotient, all ones on division by zero. -/
  | div (d a b : Reg)
  /-- R209. Writes the unsigned quotient. -/
  | divz (d a b : Reg)
  /-- R209. Writes the signed remainder. -/
  | rem (d a b : Reg)
  /-- R209. Writes the unsigned remainder. -/
  | remz (d a b : Reg)
  /-- R208. Writes the unsigned lesser. -/
  | minz (d a b : Reg)
  /-- R208. Writes the unsigned greater. -/
  | maxz (d a b : Reg)
  /-- R208. Rotates a left by b mod 64. -/
  | rol (d a b : Reg)
  /-- R211. Counts leading zero bits of a. -/
  | clz (d a : Reg)
  /-- R211. Counts trailing zero bits of a. -/
  | ctz (d a : Reg)
  /-- R211. Counts one bits of a. -/
  | popc (d a : Reg)
  /-- R211. Reverses the bits of a. -/
  | brev (d a : Reg)
  /-- R211. Reverses the bytes of a. -/
  | bswap (d a : Reg)
  /-- R211. Sign-extends the low N bits of a. -/
  | sext (t : ElemTy) (d a : Reg)
  /-- R211. Zero-extends the low N bits of a. -/
  | zext (t : ElemTy) (d a : Reg)
  /-- R210. Shifts a left by an immediate 0 to 63. -/
  | shli (d a : Reg) (imm : Nat)
  /-- R210. Shifts a right logically by an immediate. -/
  | shri (d a : Reg) (imm : Nat)
  /-- R210. Shifts a right arithmetically by an immediate. -/
  | sari (d a : Reg) (imm : Nat)
  /-- R210. Rotates a left by an immediate. -/
  | roli (d a : Reg) (imm : Nat)
  /-- R212. Extracts a bit field of a, zero- or sign-extended. -/
  | bfx (d a : Reg) (imm : Nat)
  /-- R212. Inserts the low bits of a into a field of d. -/
  | bfi (d a : Reg) (imm : Nat)
  /-- R215. Writes 1 to a predicate when the relation holds between two registers. -/
  | cmp (rel : Rel) (d : PReg) (a b : Reg)
  /-- R215. Writes 1 to a predicate when the relation holds against an immediate. -/
  | cmpi (rel : Rel) (d : PReg) (a : Reg) (imm : Int)
  /-- R214. Writes a when the condition holds and b otherwise. -/
  | sel (c : Cond) (d a b : Reg)
  /-- R213. Writes a + b × 2^sh. -/
  | lea (sh : Fin 4) (d a b : Reg)
  /-- R216. Writes c1 and c2 to a predicate. -/
  | pand (d : PReg) (x y : Cond)
  /-- R216. Writes c1 or c2 to a predicate. -/
  | por (d : PReg) (x y : Cond)
  /-- R216. Writes c1 xor c2 to a predicate. -/
  | pxor (d : PReg) (x y : Cond)
  /-- R216. Writes not c1 to a predicate. -/
  | pnot (d : PReg) (x : Cond)
  /-- R216. Writes the condition c1 to a predicate. -/
  | pmov (d : PReg) (x : Cond)
  /-- R235. Loads an element of the MOD5 type from LM. -/
  | ldL (t : ElemTy) (d a : Reg) (imm : Int)
  /-- R235. Stores the low bits of d to LM. -/
  | stL (t : ElemTy) (d a : Reg) (imm : Int)
  /-- R236. Checks a block's tile tag and staleness, then loads 8 bytes of LM. -/
  | ldt (scanOnly : Bool) (d a b : Reg)
  /-- R237. Writes a 48-bit tile tag for the LM block holding a. -/
  | stt (a b : Reg)
  /-- R238. Loads 64 aligned bytes into a vector register. -/
  | vld (lm : Bool) (v : VReg) (a : Reg)
  /-- R238. Stores a vector register to 64 aligned bytes. -/
  | vst (lm : Bool) (v : VReg) (a : Reg)
  /-- R238. Loads strided elements into lanes. -/
  | vlds (lm : Bool) (t : ElemTy) (v : VReg) (a b : Reg)
  /-- R238. Gathers lanes from base plus vector offsets. -/
  | vgath (lm : Bool) (t : ElemTy) (v : VReg) (a : Reg) (x : VReg)
  /-- R238. Scatters lanes to base plus vector offsets in ascending lane order. -/
  | vscat (lm : Bool) (t : ElemTy) (v : VReg) (a : Reg) (x : VReg)
  /-- R252. Starts a fetch of a sector into the L1D or slice without faulting. -/
  | pref (home : Bool) (a : Reg)
  /-- R239. Atomically swaps a word, returning the old value. -/
  | amoSwap (o : Ord) (sc : Scope) (w32 : Bool) (d a b : Reg)
  /-- R239. Atomically compares with d and swaps, returning the old value. -/
  | amoCas (o : Ord) (sc : Scope) (w32 : Bool) (d a b : Reg)
  /-- R239. Atomically adds, returning the old value. -/
  | amoFadd (o : Ord) (sc : Scope) (w32 : Bool) (d a b : Reg)
  /-- R239. Atomically ands, returning the old value. -/
  | amoFand (o : Ord) (sc : Scope) (w32 : Bool) (d a b : Reg)
  /-- R239. Atomically ors, returning the old value. -/
  | amoFor (o : Ord) (sc : Scope) (w32 : Bool) (d a b : Reg)
  /-- R239. Atomically xors, returning the old value. -/
  | amoFxor (o : Ord) (sc : Scope) (w32 : Bool) (d a b : Reg)
  /-- R239. Atomically takes the signed minimum, returning the old value. -/
  | amoFmin (o : Ord) (sc : Scope) (w32 : Bool) (d a b : Reg)
  /-- R239. Atomically takes the signed maximum, returning the old value. -/
  | amoFmax (o : Ord) (sc : Scope) (w32 : Bool) (d a b : Reg)
  /-- R239. Atomically takes the unsigned minimum, returning the old value. -/
  | amoFminz (o : Ord) (sc : Scope) (w32 : Bool) (d a b : Reg)
  /-- R239. Atomically takes the unsigned maximum, returning the old value. -/
  | amoFmaxz (o : Ord) (sc : Scope) (w32 : Bool) (d a b : Reg)
  /-- R241. Gathers up to eight words of one line at its home slice into a vector. -/
  | hgath (v : VReg) (a b : Reg)
  /-- R234. Loads a zero-extended byte with acquire at a scope. -/
  | ldZ8Ordered (o : Ord) (sc : Scope) (d a : Reg) (imm : Int)
  /-- R234. Loads a zero-extended half-word with acquire. -/
  | ldZ16Ordered (o : Ord) (sc : Scope) (d a : Reg) (imm : Int)
  /-- R234. Loads a zero-extended word with acquire. -/
  | ldZ32Ordered (o : Ord) (sc : Scope) (d a : Reg) (imm : Int)
  /-- R234. Loads 8 bytes with acquire. -/
  | ldZ64Ordered (o : Ord) (sc : Scope) (d a : Reg) (imm : Int)
  /-- R234. Loads a sign-extended byte with acquire. -/
  | ldS8Ordered (o : Ord) (sc : Scope) (d a : Reg) (imm : Int)
  /-- R234. Loads a sign-extended half-word with acquire. -/
  | ldS16Ordered (o : Ord) (sc : Scope) (d a : Reg) (imm : Int)
  /-- R234. Loads a sign-extended word with acquire. -/
  | ldS32Ordered (o : Ord) (sc : Scope) (d a : Reg) (imm : Int)
  /-- R234. Stores a byte with release at a scope. -/
  | stZ8Ordered (o : Ord) (sc : Scope) (d a : Reg) (imm : Int)
  /-- R234. Stores a half-word with release. -/
  | stZ16Ordered (o : Ord) (sc : Scope) (d a : Reg) (imm : Int)
  /-- R234. Stores a word with release. -/
  | stZ32Ordered (o : Ord) (sc : Scope) (d a : Reg) (imm : Int)
  /-- R234. Stores 8 bytes with release. -/
  | stZ64Ordered (o : Ord) (sc : Scope) (d a : Reg) (imm : Int)
  /-- R240. Adds b to a word at its home slice without return. -/
  | redAdd (o : Ord) (sc : Scope) (w32 : Bool) (a b : Reg)
  /-- R240. Ands b into a word at its home slice. -/
  | redAnd (o : Ord) (sc : Scope) (w32 : Bool) (a b : Reg)
  /-- R240. Ors b into a word at its home slice. -/
  | redOr (o : Ord) (sc : Scope) (w32 : Bool) (a b : Reg)
  /-- R240. Xors b into a word at its home slice. -/
  | redXor (o : Ord) (sc : Scope) (w32 : Bool) (a b : Reg)
  /-- R240. Takes the signed minimum into a word at its home slice. -/
  | redMin (o : Ord) (sc : Scope) (w32 : Bool) (a b : Reg)
  /-- R240. Takes the signed maximum into a word at its home slice. -/
  | redMax (o : Ord) (sc : Scope) (w32 : Bool) (a b : Reg)
  /-- R240. Takes the unsigned minimum into a word at its home slice. -/
  | redMinz (o : Ord) (sc : Scope) (w32 : Bool) (a b : Reg)
  /-- R240. Takes the unsigned maximum into a word at its home slice. -/
  | redMaxz (o : Ord) (sc : Scope) (w32 : Bool) (a b : Reg)
  /-- R240. Adds an FP32 value to a word at its home slice under RNE. -/
  | redFadd (o : Ord) (sc : Scope) (a b : Reg)
  /-- R246. Releases at the object's scope and counts one arrival, returning the phase. -/
  | barArr (d a : Reg)
  /-- R246. Parks until PHASE differs from b, then acquires at the object's scope. -/
  | barWait (a b : Reg)
  /-- R246. Arrives, then waits on the phase arrived in. -/
  | barAw (d a : Reg)
  /-- R247. Registers or deregisters the slot with the core's combiner for an object. -/
  | barExp (dereg : Bool) (d a : Reg)
  /-- R246. Initialises a barrier object's EXPECT, LEVEL, SCOPE and PART and raises PHASE. -/
  | barInit (sc : Scope) (a b c : Reg)
  /-- R243. Runs release and/or acquire steps at the named scope. -/
  | fence (o : Ord) (sc : Scope)
  /-- R250. Releases and adds b to an event counter at its home slice. -/
  | evtAdd (sc : Scope) (a b : Reg)
  /-- R250. Parks until the counter reaches b, then acquires. -/
  | evtWait (sc : Scope) (a b : Reg)
  /-- R248. Parks until any or all masked conditions hold, or a time-out, and writes the sampled conditions. -/
  | wait (all : Bool) (d a b : Reg)
  /-- R249. Parks until the next tick or beat and writes scan × 16 + beat. -/
  | realign (beat : Bool) (d : Reg)
  /-- R298. Writes the slot's queue status word, or a tree entry's status with .tree. -/
  | qstat (tree : Bool) (d a : Reg)
  /-- R296. Sends the outbox as a message to a core, slot and TIN, with optional release. -/
  | msgSend (o : Ord) (sc : Scope) (a b : Reg)
  /-- R297. Waits for a message and writes the head message's info word without popping. -/
  | msgInfo (d : Reg)
  /-- R299. Places a local contribution from a vector pair into a tree entry's current epoch. -/
  | redPkt (v : VReg) (a b : Reg)
  /-- R300. Waits for a tree result and writes its lanes and status, or its MISSING mask with .miss. -/
  | redRecv (miss : Bool) (v : VReg) (d a : Reg)
  /-- R301. Writes one route-plan entry of the core after its checks. -/
  | rteSet (a b : Reg)
  /-- R302. Writes a tree entry, resetting its epoch and dropping held parts. -/
  | treeSet (a b : Reg)
  /-- R266. Adds lanes, optionally saturating. -/
  | vAdd (sat : Bool) (t : ElemTy) (d a b : VReg)
  /-- R266. Subtracts lanes. -/
  | vSub (sat : Bool) (t : ElemTy) (d a b : VReg)
  /-- R266. Multiplies lanes. -/
  | vMul (t : ElemTy) (d a b : VReg)
  /-- R266. Computes a × b + d with one rounding. -/
  | vFma (d a b : VReg)
  /-- R266. Computes a × b − d with one rounding. -/
  | vFms (d a b : VReg)
  /-- R267. Takes the lesser lane. -/
  | vMin (t : ElemTy) (d a b : VReg)
  /-- R267. Takes the greater lane. -/
  | vMax (t : ElemTy) (d a b : VReg)
  /-- R266. Takes each lane's absolute value. -/
  | vAbs (sat : Bool) (t : ElemTy) (d a : VReg)
  /-- R266. Negates each lane. -/
  | vNeg (sat : Bool) (t : ElemTy) (d a : VReg)
  /-- R268. Computes 1/x per lane with one rounding. -/
  | vRcp (d a : VReg)
  /-- R268. Computes 1/√x per lane. -/
  | vRsq (d a : VReg)
  /-- R268. Computes √x per lane. -/
  | vSqrt (d a : VReg)
  /-- R268. Computes 2^x per lane. -/
  | vExp2 (d a : VReg)
  /-- R268. Computes log2 x per lane. -/
  | vLog2 (d a : VReg)
  /-- R269. Ands 512 bits. -/
  | vAnd (d a b : VReg)
  /-- R269. Ors 512 bits. -/
  | vOr (d a b : VReg)
  /-- R269. Xors 512 bits. -/
  | vXor (d a b : VReg)
  /-- R269. Computes a and not b over 512 bits. -/
  | vAndn (d a b : VReg)
  /-- R269. Shifts each lane left by the matching lane of b. -/
  | vShl (t : ElemTy) (d a b : VReg)
  /-- R269. Shifts each lane right logically. -/
  | vShr (t : ElemTy) (d a b : VReg)
  /-- R269. Shifts each lane right arithmetically. -/
  | vSar (t : ElemTy) (d a b : VReg)
  /-- R270. Writes an all-ones lane where the relation holds. -/
  | vCmp (rel : Rel) (t : ElemTy) (d a b : VReg)
  /-- R270. Selects bits of a where the mask in d is set and b elsewhere. -/
  | vSel (d a b : VReg)
  /-- R271. Sums every lane in the pairwise tree into lane 0. -/
  | vRedAdd (t : ElemTy) (d a : VReg)
  /-- R271. Reduces lanes to the minimum in lane 0. -/
  | vRedMin (t : ElemTy) (d a : VReg)
  /-- R271. Reduces lanes to the maximum in lane 0. -/
  | vRedMax (t : ElemTy) (d a : VReg)
  /-- R272. Broadcasts a scalar to every lane. -/
  | vBcast (t : ElemTy) (d : VReg) (a : Reg)
  /-- R272. Extracts one lane into a scalar. -/
  | vExt (t : ElemTy) (d : Reg) (a : VReg) (b : Reg)
  /-- R272. Inserts a scalar into one lane. -/
  | vIns (t : ElemTy) (d : VReg) (a b : Reg)
  /-- R273. Permutes bytes of a by the selectors in b. -/
  | vPerm (d a b : VReg)
  /-- R274. Converts lanes between two types. -/
  | vCvt (dst src : ElemTy) (d a : VReg)
  /-- R276. Applies an E8M0 block scale, or its inverse, to every FP32 lane. -/
  | vScl (inv : Bool) (d a : VReg) (b : Reg)
  /-- R275. Converts two registers into one of half width. -/
  | vPack (dst src : ElemTy) (d a b : VReg)
  /-- R275. Converts half of a register into one of double width. -/
  | vUnpk (dst src : ElemTy) (d a : VReg) (h : Fin 8)
  /-- R277. Decodes 16 bytes of codes through VBANK to FP32 lanes. -/
  | vDec8 (d a : VReg) (h : Fin 8)
  /-- R277. Encodes 16 FP32 lanes to bytes of codes through VBANK. -/
  | vEnc8 (d a : VReg) (h : Fin 8)
  /-- R277. Decodes 16 four-bit codes to FP32 lanes. -/
  | vDec4 (d a : VReg) (h : Fin 8)
  /-- R277. Encodes 16 FP32 lanes to four-bit codes. -/
  | vEnc4 (d a : VReg) (h : Fin 8)
  /-- R285. Sets every element of an accumulator to +0. -/
  | mClr (m : Acc)
  /-- R281. Reads a B tile from LM into an empty latch bank with a given STEP. -/
  | mLatch (a b : Reg)
  /-- R282. Multiplies A by the head ring tile into an accumulator and sends, keeps or drops the tile. -/
  | mStep (disp : Disp) (m : Acc) (a b : Reg)
  /-- R283. Multiplies A by B both read from LM into an accumulator. -/
  | mLocal (m : Acc) (a b : Reg)
  /-- R284. Relays the head tile to the successor without computing. -/
  | mPass
  /-- R285. Reads 16 accumulator elements into a vector. -/
  | mRd (v : VReg) (m : Acc) (b : Reg)
  /-- R285. Writes 16 accumulator elements from a vector. -/
  | mWr (m : Acc) (v : VReg) (b : Reg)
  /-- R279. Takes the latch and sets ring neighbours, or leaves it with .leave. -/
  | mRing (leave : Bool) (d a b : Reg)
  /-- R286. Writes the slot's matrix status word. -/
  | mStat (d : Reg)
  /-- R286. Waits until earlier matrix instructions completed and sent tiles arrived. -/
  | mSync
  /-- R288. Captures the next instructions into the Treadle buffer without executing them. -/
  | trDef (imm : Nat)
  /-- R289. Starts a replay of the buffer for COUNT passes with strides and increments. -/
  | trGo (a : Reg) (imm : Nat)
  /-- R291. Waits until no replay is active and writes its pass count. -/
  | trWait (d : Reg)
  /-- R291. Ends the active replay and writes its pass count. -/
  | trStop (d : Reg)
  /-- R259. Queues a Carter copy from global memory to own LM. -/
  | cpG2L (a b c : Reg)
  /-- R259. Queues a Carter copy from own LM to global memory. -/
  | cpL2G (a b c : Reg)
  /-- R259. Queues a Carter copy from own LM to another core's LM. -/
  | cpL2L (a b c : Reg)
  /-- R259. Queues a Carter copy between global addresses. -/
  | cpG2G (a b c : Reg)
  /-- R259. Queues a Carter fill of global or own LM with a 64-bit pattern. -/
  | cpFill (a b c : Reg)
  /-- R259. Queues a two-dimensional Carter copy of the kind in cN. -/
  | cp2D (a b c : Reg)
  /-- R260. Writes the slot's Carter status word and clears CPERR. -/
  | cpStat (d : Reg)
  /-- R127. Stops the running command at a chunk boundary, drops queued ones and debits their uncredited bytes. -/
  | cpAbort
  /-- R303. Releases at .part and appends a work packet to a task queue, writing 1 when full. -/
  | tqPush (d a b : Reg)
  /-- R304. Builds a packet from the task's shadow registers and pushes it. -/
  | tqSpawn (d a b : Reg)
  /-- R305. Pins or unpins a queue handle on every die of the partition. -/
  | tqPin (unpin : Bool) (d a : Reg)
  /-- R306. Writes the status of a queue handle. -/
  | tqStat (d a : Reg)
  /-- R307. Writes the task status word. -/
  | tstat (d : Reg)
  /-- R310. Releases, takes a token, raises POSTCNT, stores the payload in the ring and wakes met waiters. -/
  | gtPost (d : Reg) (v : VReg) (a : Reg)
  /-- R311. Waits until POSTCNT reaches the target, then returns the count and payload and acquires. -/
  | gtWait (d : Reg) (v : VReg) (a : Reg)
  /-- R311. Returns the count and, when met, the payload without waiting on the count. -/
  | gtTry (d : Reg) (v : VReg) (a : Reg)
  /-- R312. Counts the partition's arrival in the gate's round and waits for the round to complete. -/
  | gtArrive (d a : Reg)
  /-- R313. Writes the gate's state word. -/
  | gtStat (d a : Reg)
  /-- R314. The owner opens the gate. -/
  | gtOpen (a : Reg)
  /-- R314. The owner closes the gate. -/
  | gtClose (a : Reg)
  /-- R314. The supervisor holds a gate, or with .rel returns it to its prior state. -/
  | gtHold (rel : Bool) (a : Reg)
  /-- R251. Writes back dirty bytes of a range in the scope and then to DRAM. -/
  | clWb (sc : Scope) (a b : Reg)
  /-- R251. Writes back and drops a range from the L1Ds and L1Is of the scope. -/
  | clInv (sc : Scope) (a b : Reg)
  /-- R109. Drops whole lines everywhere on their home's die without write-back. -/
  | clDisc (a b : Reg)
  /-- R99. Asks the home slice to pin a line in the partition's reserved ways. -/
  | hrPin (d a : Reg)
  /-- R99. Returns a pinned line to normal replacement. -/
  | hrUnpin (d a : Reg)
  /-- R254. Translates an address without faulting and writes its leaf. -/
  | pgProbe (d a : Reg)
  /-- R84. Releases, credits the barrier with the cluster count and starts a shoot-down of the named kind in the scope. -/
  | tlbInv (kind : TlbKind) (sc : Scope) (a b c : Reg)
  /-- R102. Reserves free blocks of a slice as frames for unbacked pages and returns the reservation word. -/
  | ubRsv (d a b : Reg)
  /-- R102. Returns unbound frames to the pin area. -/
  | ubRel (d a b : Reg)
  /-- R110. Moves an unbacked page to a target slice and rewrites its leaf's HOME. -/
  | ubMig (d a b : Reg)
  /-- R315. Reads a system register. -/
  | sysRd (d : Reg) (n : Nat)
  /-- R315. Writes a system register under its access rules. -/
  | sysWr (a : Reg) (n : Nat)
  /-- R316. Writes a decode table entry, or loads a ROM table with .rom, unsealing the bank. -/
  | tblWr (rom : Bool) (a b : Reg)
  /-- R317. Checks a bank and, on success, starts building its sorted views. -/
  | tblSeal (d a : Reg)
  /-- R318. Reads a capability word by computed index. -/
  | capRd (d a : Reg)
  /-- R319. Writes one partition table word after its checks, applied by every structure it controls, or returns a refusal code. -/
  | partSet (d a b : Reg)
  /-- R320. Asks another slot to stop at its next boundary and waits until it stands parked. -/
  | slotPark (d a : Reg)
  /-- R321. Resumes or wakes a parked slot, or starts a new thread with .new. -/
  | slotRun (new : Bool) (d a b : Reg)
  /-- R322. Writes a parked slot's context into a save area. -/
  | ctxSave (d a b : Reg)
  /-- R322. Checks a save area's header and replaces a parked slot's context. -/
  | ctxLoad (d a b : Reg)
  /-- R226. Checks the handler block's signature, restores the set-aside state and returns to TRAPPC. -/
  | eret
  /-- R227. Parks the slot and reports a BRK record, resuming at the next instruction. -/
  | brk
  /-- R228. Parks the slot clock-gated until an arrival, a Carter end, a tick or SLOT.RUN. -/
  | wfe
  /-- R225. Takes a local trap with TRAPADDR holding the immediate and length, or is reported. -/
  | trap (imm : Nat)
  /-- R323. Aborts, frees and zeroes a parked slot's state and leaves it holding no task. -/
  | slotScrub (d a : Reg)
  /-- R324. HB.CTL action 0 enables heartbeat posting of a core. -/
  | hbCtlEnable (a b : Reg)
  /-- R324. HB.CTL action 1 disables heartbeat posting. -/
  | hbCtlDisable (a b : Reg)
  /-- R324. HB.CTL action 2 clears the miss count and SUSPECT. -/
  | hbCtlClear (a b : Reg)
  /-- R410. HB.CTL action 3 starts offlining a core, bouncing messages and ending Carter commands to it at once. -/
  | hbCtlOffline (a b : Reg)
  /-- R410. HB.CTL action 4 wipes an offline core's memories and clears OFFLINE, fences and misses. -/
  | hbCtlOnline (a b : Reg)
  /-- R324. Writes the health entry of a core. -/
  | hbStat (d a : Reg)
  /-- R428. At power-on the part checks fuses and firmware, runs BIST, trains DRAM and links, wipes memories and starts firmware, or enters the safe report state. -/
  | powerOnSelfTest (failStep detail : Nat)
  /-- R429. A write of LCREQ requests the next life-cycle state, which blows a fuse and takes effect at the next reset; any other value is dropped. -/
  | lcreqWrite (w : Word)
  /-- R431. A die reaching TWARN sets SVIRQ.THERM. -/
  | thermalWarn (die : Nat) (temp : Int)
  /-- R431. A die reaching TTRIP puts the part into the safe report state within 1 ms, and compute state is lost. -/
  | thermalTrip (die : Nat) (temp : Int)
  /-- R431. Package power above 480 W for 10 consecutive ms sets OVERPWR and SVIRQ.THERM. -/
  | overpwr (pwr : Nat)
  /-- R7. A write to a register with no row of its own takes effect by its access code, with reserved fields ignored and refused hub accesses counted in HUBERR. -/
  | registerWrite (pa : Nat) (w : Word)
  /-- R366. At each aligned gPTP instant the scan unit makes a tick, which latches the input image and swaps and judges the result image at the latch instant. -/
  | scanTick
  /-- R366. In the core tick cycle, 100 to 200 ns after the tick, every core makes the new scan current, loads PTAGs, refills budgets and wakes waiters. -/
  | coreTick
  /-- R362. At each beat instant every core sets the current beat and wakes REALIGN waiters on beats. -/
  | beat
  /-- R364. A write of SCANCFG sets EN, PHASE and PERIOD, applied at the next tick when EN is set, or refused with CFGERR. -/
  | scancfgWrite (w : Word)
  /-- R364. A write of SCANNUM sets the current scan while EN is 0 and is refused with CFGERR otherwise. -/
  | scannumWrite (w : Word)
  /-- R365. Loss of a synchronised grandmaster on domain 0 sets HOLDOVER and ticks follow the local oscillator. -/
  | holdover
  /-- R365. When synchronisation returns or gPTP time steps, each tick moves at most 100 ns toward alignment until the error is below 10 ns. -/
  | slew (err : Int)
  /-- R23. A frame received on a TSN port is matched by the lowest valid stream filter, passed through its gate and meter, and commits its payload to its process-image region. -/
  | tsnFrameReceive (port : Nat) (frame : List Byte) (fcsOk : Bool)
  /-- R62. A write of QBVCTL.CHANGE schedules the admin gate control list to become operational at its base time. -/
  | qbvChange (port : Nat) (w : Word)
  /-- R62. At the first BASE + j × CYCLE instant not in the past the admin Qbv list becomes the operational list and PENDING clears. -/
  | qbvListActivate (port : Nat)
  /-- R62. When an entry's interval ends the port's transmission gates take the next entry's states, and the list is cut or held at CYCLE. -/
  | qbvGateIntervalEnd (port : Nat)
  /-- R62. A write of CHANGE in a stream gate control entry schedules its admin list to become operational. -/
  | streamGateChange (gate : Nat) (w : Word)
  /-- R62. At its base time a stream gate's admin list becomes operational. -/
  | streamGateListActivate (gate : Nat)
  /-- R62. A read of a gPTP domain's TIME word latches the domain's time in ns. -/
  | gptpTimeLatch (domain : Nat)
  /-- R57. The egress engine sends a decided frame in the first open window of its TC after the tick, built in the order of R55, unless the part is a standby. -/
  | egressFrameSend (stream : Nat)
  /-- R24. A write of PISPLIT moves the input/result boundary at the next tick, zeroing moved bytes, or is ignored and counted in HUBERR. -/
  | pisplitWrite (w : Word)
  /-- R61. A write of PIBIND.f word 0 binds, rebinds or unbinds a region, taking effect at the next tick with SEL 0 and zeroed bytes, or is refused. -/
  | pibindWrite (filter : Nat) (w : Word)
  /-- R54. A write of ESCFG.e configures an egress stream, is refused by its checks, and zeroes the stream's status entry when EN is set from 0. -/
  | escfgWrite (stream : Nat) (w : Word)
  /-- R55. A write of ESHDR.e sets the frame header for the next frame decided, refusing VID 0 and 0xFFF with CTAG. -/
  | eshdrWrite (stream word : Nat) (w : Word)
  /-- R56. A write to the result view lands in the current back buffer in arrival order and sets the stream's W bit when it covers a stamp-word byte. -/
  | resultViewWrite (off : Nat) (bytes : List Byte)
  /-- R27. A frame on a sensor streaming port is taken in only with EtherType SKTYPE and no error, and its Skein records are queued for the front end. -/
  | sensorFrameReceive (port : Nat) (frame : List Byte) (fcsOk : Bool)
  /-- R60. A write of SPCFG sets SKTYPE, PAUSEEN and SLOWMULT, refusing SLOWMULT below 8 with CFGERR. -/
  | spcfgWrite (port : Nat) (w : Word)
  /-- R60. Writing 1 to SPCFG.CLR clears every counter of the sensor port. -/
  | spcfgClr (port : Nat)
  /-- R32. The front end checks a record's header and limits in order before allocation, rejecting it with a counted reason and LOSTROWS. -/
  | skeinRecordCheck (port : Nat)
  /-- R33. A record that passed its checks allocates its decoded size in the port's staging once space is free and starts decoding. -/
  | stagingAllocate (port : Nat)
  /-- R30. A fast lane finishes decoding a record and its rows enter the Loom array in record order, or a DECODE_ERROR replaces them with placeholders. -/
  | decodeComplete (port elapsed : Nat)
  /-- R35. When a record's decode time reaches SLOWMULT × mean it moves to the slow lane and placeholder rows with the late mark are injected. -/
  | slowLaneMove (port : Nat)
  /-- R35. A slow-lane decode ends and its rows are injected with a slow-fill mark, or discarded as stale or on DECODE_ERROR. -/
  | slowDecodeEnd (port : Nat)
  /-- R39. A running Loom element executes one stage word per HCLK cycle, stalling on empty or full links. -/
  | loomStage (row col : Nat)
  /-- R42. A write of LECTL starts or stops an element, sets NM1 or clears error bits. -/
  | lectlWrite (row col : Nat) (w : Word)
  /-- R41. A write of a stage word is taken while RUN is clear and ignored with CFGERR while RUN is set. -/
  | stageWordWrite (row col k : Nat) (w : Word)
  /-- R45. A write of LXCFG.i configures or enables an exit, judged and refused with CFGERR, discarding open and held rows when EN clears. -/
  | lxcfgWrite (exit : Nat) (w : Word)
  /-- R45. A write of LXDST.i sets the consumer core and window, refused while EN is 1 if it changes them. -/
  | lxdstWrite (exit : Nat) (w : Word)
  /-- R46. An exit cuts a row at EOR, pairs it with its metadata, and adds it to the open batch or holds or drops it by the window's FATE. -/
  | exitRowComplete (exit : Nat)
  /-- R48. BATCHWAIT µs after its first row an open batch closes. -/
  | batchwaitExpiry (exit : Nat)
  /-- R47. Metadata that finds no row within 1 ms is dropped, its row counted lost, and MEMERR set. -/
  | metadataTimeout (exit : Nat)
  /-- R52. The Loom writes a closed batch's header, rows and tile tags into a free window slot and then pushes its descriptor onto CSLOT's q5. -/
  | batchDeliver (exit : Nat)
  /-- R50. A write of SWCFG.w enables, reconfigures or stops a stream window, refused with CFGERR by its checks. -/
  | swcfgWrite (core win : Nat) (w : Word)
  /-- R52. A write of SWREL.w by CSLOT frees the oldest filled slots, setting OVREL on excess, or sets FOREIGN from another slot. -/
  | swrelWrite (core slot win : Nat) (w : Word)
  /-- R52. Within 200 ns the new free count reaches the exit, which forms held rows into batches. -/
  | freeCountUpdate (exit : Nat)
  /-- R69. A channel controller returns a read's sectors, corrected, or marked poisoned on an uncorrectable error or set poison bit. -/
  | dramReadReturn (channel addr : Nat) (outcome : MemOutcome)
  /-- R69. A channel controller writes a unit or a sector with its poison bits, reading the other sector first for a sector write. -/
  | dramWrite (channel addr sectors poison : Nat) (other : MemOutcome)
  /-- R70. Each controller patrols every data unit of its channels once every 12 hours under the rules of R69. -/
  | dramPatrol (channel addr : Nat) (outcome : MemOutcome)
  /-- R402. Each core, slice and hub block patrols its SECDED arrays every 100 ms in idle port cycles, counting uncorrectable words in LASTUE. -/
  | sramPatrol (unit : SramUnit) (index struct place : Nat) (outcome : MemOutcome)
  /-- R74. A cluster walker takes the oldest queued request and walks the three levels, installing the leaf or raising PAGE_ABSENT or POISON. -/
  | pageWalk (cluster part asn root va : Nat)
  /-- R84. A cluster, after removing matching entries and waiting for accesses through them to be performed, debits 1 from the barrier. -/
  | shootdownDebit (cluster : Nat)
  /-- R93. A home slice serves a die-local read, sending sectors and adding a sharer, after allocating or recalling as needed. -/
  | sliceRead (core key : Nat)
  /-- R93. A home slice serves a die-local store request by invalidating other tracked copies and granting EXC. -/
  | sliceStoreRequest (core key : Nat)
  /-- R93. A home slice merges written-back dirty bytes in merge order and makes the line UNC when the sender owned it. -/
  | sliceWriteBack (core key : Nat)
  /-- R93. A home slice serves a cross-die read with no directory entry, recalling an EXC owner's dirty sectors first. -/
  | crossDieRead (core key : Nat)
  /-- R93. A home slice merges a cross-die write, release flush or Carter write and invalidates tracked copies of the written sectors. -/
  | crossDieWrite (core key : Nat) (bytes : List Byte)
  /-- R93. A home slice serves an ATTR 1 read or store at the slice with no L1D copy. -/
  | attr1Access (core key width : Nat) (write : Option Word)
  /-- R93. An EXC owner's recalled dirty sectors arrive and merge, and the waiting request completes. -/
  | recallResponse (core key : Nat)
  /-- R114. A requested sector arrives at the L1D and fills the line, keeping bytes that later stores covered. -/
  | sectorFill (core key : Nat)
  /-- R96. A home slice applies a non-returning RED to its word in arrival order, after recalling and then invalidating copies of its sector. -/
  | redApply (gslot : Nat) (op : RedOp) (w32 etol : Bool) (key : Nat) (v : Word)
  /-- R97. A home slice reads up to eight words of one line as it stands and returns them packed in one response. -/
  | hgathServe (gslot : Nat) (v : VReg) (key : Nat) (sel : Word) (etol : Bool)
  /-- R98. A reservation for an AMO word enters the slice's reservation queue. -/
  | amoReserve (gslot key : Nat)
  /-- R98. When a reservation reaches the head for its word the slice recalls the sector and sends the word to the core as the grant. -/
  | amoGrant (slice : Nat)
  /-- R98. The slice writes the released value, invalidates tracked copies, and forwards it as the next reservation's grant. -/
  | amoRelease (gslot key width : Nat) (v : Option Word)
  /-- R369. On pre-emption a queued reservation is withdrawn, and a grant that arrives afterwards is released at once without a write. -/
  | amoWithdraw (gslot : Nat)
  /-- R105. After recalling a leaving page's dirty sectors the slice takes a pool frame, writes the dirty lines, swaps the leaf and shoots down, or posts LEAFCHANGED. -/
  | lateAttach (slice part asn vpn : Nat)
  /-- R106. A leaving page's dirty line enters the evict holding buffer when room is free, stalling the partition at the slice while none is. -/
  | holdingBufferEntry (slice : Nat)
  /-- R107. Within 2 µs of a page's first line entering the holding buffer the slice posts an UNBACKED_EVICT event. -/
  | unbackedEvict (slice : Nat)
  /-- R111. Retiring a slice runs R104 for its pages, writes back dirty lines, invalidates copies and leaves it serving uncached. -/
  | sliceRetire (slice : Nat)
  /-- R118. A given-away LM bank finishes its wipe within 1,024 ACLK cycles, and the new owner's waiting accesses proceed. -/
  | lmWipeDone (core bank : Nat)
  /-- R126. The Carter reads, lands and debits one chunk of a queue's head command, holding or closing the command on a fault. -/
  | carterChunk (gslot : Nat)
  /-- R136. In its frame cycle a valid INJ entry takes a word from its source and puts it on its link. -/
  | pisteInject (core : Nat)
  /-- R137. A Piste word arriving on a link is forwarded and deposited as its IN entry says, or dropped as STRAY. -/
  | pisteArrival (core link : Nat)
  /-- R143. At the destination network interface a message is delivered to the inbox or bounced by the checks of R143. -/
  | messageArrival (gslot : Nat)
  /-- R143. 4,096 ACLK cycles after the first refusal at a full inbox the message is bounced TIMEOUT. -/
  | messageTimeout (gslot : Nat)
  /-- R144. A bounced message enters the sender's inbox, or the fault queue as STALE_TIN when the sender's TIN has changed. -/
  | bounceArrival (gslot : Nat)
  /-- R149. A reduction packet arrives at a node and is held, waits, or is dropped as late or malformed, and the node combines when every part is present. -/
  | treePacketArrival (core : Nat) (p : RedPacket)
  /-- R148. When a node's timer reaches its time-out it combines what has arrived with INCOMPLETE set. -/
  | treeTimeout (core tree : Nat)
  /-- R278. A ring tile arriving at a core goes to an empty latch bank or the spill ring, or is refused with SCHEDULE_TAG to the holder. -/
  | ringTileArrival (core src : Nat)
  /-- R177. A bank in SEALING finishes building its views within 1,024 ACLK cycles and becomes SEALED. -/
  | sealComplete (core bank : Nat)
  /-- R263. On the slot's engine turn the head engine instruction reads its sources, makes its own checks and starts. -/
  | engineTurn (gslot : Nat)
  /-- R287. A started matrix step writes its accumulator elements 20 ACLK cycles after the unit frees, and the tile is sent, kept or dropped. -/
  | matrixStepComplete (core : Nat)
  /-- R289. An active replay issues its next buffered instruction on an engine turn with renamed registers and advanced address copies. -/
  | treadleReplayIssue (gslot : Nat)
  /-- R345. The dispatcher takes a launch packet, checks the header and opens the launch entry, or refuses it with a LAUNCH record. -/
  | launchOpen (die part asn handle : Nat)
  /-- R348. The dispatcher checks a work packet at its queue head and takes its WIDs in ascending order, or refuses it. -/
  | packetTake (die part asn handle : Nat)
  /-- R349. A watch-table wake shows a packet's dependence counters met its thresholds, and it becomes eligible. -/
  | packetEligible (die part asn handle : Nat)
  /-- R355. The dispatcher binds a WID to a free slot in one step, loading TIN, shadow registers, PTROOT, SW and PC, with the slot acquiring at .part. -/
  | taskBind (die part : Nat)
  /-- R353. A non-resident queue is made resident by writing back an LRU unpinned entry and loading its descriptor, within 2 µs. -/
  | queueMiss (die part asn handle : Nat)
  /-- R358. Every 4,096 ACLK cycles the dispatchers collect idle state and SENT and RECV sums, and end a counted launch at its second quiet sweep. -/
  | launchSweep
  /-- R359. When the completion counter reaches the end count the dispatcher adds to ENDCTR at .die and closes the launch. -/
  | deferredLaunchEnd (part entry : Nat)
  /-- R368. When LEFT reaches 0 the scalar stream stops at its next boundary and the slot parks for budget. -/
  | budgetEnd (gslot : Nat)
  /-- R369. The watchdog kills a slot's thread when debt exceeds one budget or one instruction spans over 4,096 ACLK cycles. -/
  | watchdog (gslot : Nat)
  /-- R396. A pre-emption request stops a slot at its next instruction boundary within 3 µs, abandoning pre-emptible waits and saving engine queue and replay. -/
  | preemptRequest (gslot : Nat)
  /-- R392. After the faulting slot's accesses are performed and it parks, the hub writes its record to the fault queue and raises TAIL. -/
  | faultRecordWrite (queue : Nat)
  /-- R390. A deferred fault is raised against its slot at the next instruction boundary, or at once if the slot waits or is parked. -/
  | deferredFault (gslot : Nat)
  /-- R393. A write of FQHEAD.p consumes records, ignored when it would pass TAIL, letting waiting records enter. -/
  | fqheadWrite (part : Nat) (w : Word)
  /-- R379. Every µs each time-sliced member that is neither switched in nor ready gains one µs of credit up to its SLICE. -/
  | tsCreditAccrue
  /-- R379. When the switched-in member's allotment ends or it stops being ready the schedule picks the next ready member and starts a switch. -/
  | tsSliceEnd
  /-- R380. Once the outgoing member's state is saved and the incoming member's loaded and resealed, the incoming member's slots issue. -/
  | tsSwitchComplete
  /-- R386. A reset of Pn by an FLR of VFn or by the supervisor stops binding, parks Pn's slots and lets its outstanding work drain. -/
  | partitionReset (part : Nat)
  /-- R386. After the drain Pn's slots are scrubbed, queues and launches closed, gates changed, translations shot down and memories wiped, by 2 ms. -/
  | resetDrainEnd (part : Nat)
  /-- R382. A supervisor store to a gate entry creates, changes or ends the gate in arrival order, or is dropped into HUBERR. -/
  | gateTableWrite (gate word : Nat) (w : Word)
  /-- R383. Every PERIOD.p µs a bucket not HELD gains one token up to DEPTH.p. -/
  | gateTokenRefill (gate part : Nat)
  /-- R385. An operation on a non-master bridged entry travels over the sync link, applies at the master and its result returns. -/
  | bridgedGateOp (m : BridgeMsg)
  /-- R388. A write of REMAP with GO moves rights, buckets, masks, owner and waiters from FROM to TO on every HELD gate. -/
  | remapWrite (w : Word)
  /-- R388. A remap completes within 100 µs and DONE returns to 1. -/
  | remapDone
  /-- R405. A write of LMFENCE fences banks, and clearing a fence bit wipes the bank before it answers again. -/
  | lmfenceWrite (core : Nat) (w : Word)
  /-- R408. REPLAYCTL REBIND binds a killed task's packet on its remapped core and slot by R355, or is refused with ERR. -/
  | rebind (gslot mode : Nat)
  /-- R408. REPLAYCTL COMPLETE adds 1 to the packet's completion counter and clears PEND. -/
  | replayComplete (gslot : Nat)
  /-- R408. REPLAYCTL DROP clears the replay entry only. -/
  | replayDrop (gslot : Nat)
  /-- R409. While EN is set a core posts a heartbeat every 65,536 ACLK cycles, raising BEATS and clearing MISSES. -/
  | heartbeatPost (core : Nat)
  /-- R409. Each 65,536 ACLK cycles the hub closes a period, adding a miss when no post came, and at 2 misses sets SUSPECT. -/
  | heartbeatPeriodClose (core : Nat)
  /-- R410. Within 200 µs of OFFLINE the core's slots are killed, its L1D written back or poisoned, and EN cleared with every bank fenced. -/
  | offlineComplete (core : Nat)
  /-- R429. An SPDM GET_VERSION request on a function's DOE is answered. -/
  | spdmGetVersion (function : Nat) (request : List Byte)
  /-- R429. An SPDM GET_CAPABILITIES request is answered. -/
  | spdmGetCapabilities (function : Nat) (request : List Byte)
  /-- R429. An SPDM NEGOTIATE_ALGORITHMS request selects SM2_P256 and SM3_256. -/
  | spdmNegotiateAlgorithms (function : Nat) (request : List Byte)
  /-- R429. An SPDM GET_DIGESTS request is answered. -/
  | spdmGetDigests (function : Nat) (request : List Byte)
  /-- R429. An SPDM GET_CERTIFICATE request is answered. -/
  | spdmGetCertificate (function : Nat) (request : List Byte)
  /-- R429. An SPDM CHALLENGE request is answered under the device identity key. -/
  | spdmChallenge (function : Nat) (request : List Byte)
  /-- R416. An SPDM GET_MEASUREMENTS request returns signed measurement blocks, with indices a VF may not see reported absent. -/
  | spdmGetMeasurements (function index : Nat) (request : List Byte)
  /-- R429. Any other SPDM request is answered with UnsupportedRequest. -/
  | spdmUnsupportedRequest (function : Nat) (request : List Byte)
  /-- R419. A host write to VFn's data window merges at its home slice as a cross-die write ranked after core 255. -/
  | dataWindowWrite (vf off : Nat) (bytes : List Byte)
  /-- R419. A host read of VFn's data window is served at the home slice. -/
  | dataWindowRead (vf off len : Nat)
  /-- R419. A host access outside a window's defined bytes completes with Unsupported Request, writes nothing and is logged by AER. -/
  | unsupportedRequest (function off : Nat) (write : Bool)
  /-- R419. A write of HWIN.n maps VFn's data window, dropped into HUBERR when outside Pn's groups or misaligned. -/
  | hwinWrite (vf : Nat) (w : Word)
  /-- R420. A DOORBELL write copies a staging slot and, after earlier writes land, pushes it to the named queue and updates DBSTAT. -/
  | doorbell (vf : Nat) (w : Word)
  /-- R421. A write of HOSTIRQ fires the named MSI-X vector of a function, dropped for vector 0. -/
  | hostirqWrite (w : Word)
  /-- R421. An FLR of VFn runs the reset of Pn, and its windows drop writes until it completes. -/
  | vfFlr (vf : Nat)
  /-- R423. A slot command PARK acts as SLOT.PARK on any slot and sets DONE when it stands parked. -/
  | sccmdPark (gslot : Nat)
  /-- R423. A slot command RUN acts as SLOT.RUN on the target. -/
  | sccmdRun (gslot : Nat)
  /-- R423. A slot command RUN.NEW starts a thread at ARG0 with PTROOT from ARG1, as SLOT.RUN.new. -/
  | sccmdRunNew (gslot : Nat) (arg0 arg1 : Word)
  /-- R423. A slot command SAVE acts as CTX.SAVE to a physically addressed area. -/
  | sccmdSave (gslot : Nat) (arg0 : Word)
  /-- R423. A slot command LOAD acts as CTX.LOAD from a physically addressed area. -/
  | sccmdLoad (gslot : Nat) (arg0 : Word)
  /-- R423. A slot command SCRUB acts as SLOT.SCRUB on the target. -/
  | sccmdScrub (gslot : Nat)
  /-- R423. A slot command SETSTACK writes SBASE and SLIM of a parked target, or returns 1 or 2 and changes nothing. -/
  | setstack (gslot : Nat) (arg0 : Word)
  /-- R424. With no valid flit for 10 µs the sync link is down, LINKDOWN is raised, bridged gates go to PEER_RESET and retraining starts. -/
  | syncLinkDown
  /-- R424. The sync link completes retraining and LINKUP returns to 1. -/
  | syncLinkUp
  /-- R426. Within 40 µs of the latch instant each package sends the digest of its egress decisions on the sync link and port HBPORT. -/
  | pairFrameSend
  /-- R426. A pair frame from the partner is compared with the package's own digest, setting MISMATCH on a difference. -/
  | pairFrameReceive (scan : Nat) (digest : BitVec 256)
  /-- R427. A mirrored line lands single-copy atomic on the partner, which sets INPROG and writes SCAN after the last line. -/
  | mirrorLineLand (pa : Nat) (bytes : List Byte) (last : Bool) (scan : Nat)
  /-- R250. Within 16 ACLK cycles of an add that meets a watched threshold the slice wakes the waiting slot. -/
  | evtWatchWake (slice : Nat)
  /-- R250. A waiter without a watch-table entry rereads its counter every 1,024 ACLK cycles. -/
  | evtWaitPoll (gslot : Nat)
  /-- R248. A parked WAIT whose condition holds or whose time-out ends issues again and writes d. -/
  | waitWake (gslot : Nat)
  /-- R418. A conventional reset of the part wipes its state, applies a pending life-cycle change, and is the only way out of the safe report state. -/
  | conventionalReset
  /-- R418. A function-level reset of PF0 arrives from the host. -/
  | pf0Flr
  /-- R418. A DOE discovery request on a function's mailbox is answered, and it reports only DOE discovery and SPDM. -/
  | doeDiscovery (function index : Nat)
  /-- R191. A slot issues a chain whose prefixes are malformed or whose (page, OP, FN) cell is empty, and the chain raises ILLEGAL_PREFIX or ILLEGAL_OPCODE with no effect. -/
  | illegalOpcode (prefixFault : Bool)
  /-- R76. The fetch of an instruction chain lies in a page that translation refuses, and the fault is raised before decode, naming the first word. -/
  | instructionFetchFault (code : Nat) (addr : Word) (cause : Nat)
  /-- R62. When RESETMS ms pass with no frame, the recovery reset time-out of an 802.1CB recovered stream expires and its recovery history is reset. -/
  | recoveryResetTimeout (stream : Nat)
  /-- R62. When the interval of an operational stream gate list entry ends, the stream gate takes the OPEN state of the next entry. -/
  | streamGateIntervalEnd (gate : Nat)
  /-- R62. While the part is grandmaster of a running gPTP domain, it sends Sync and Follow_Up every 2^LOGSYNC s on each port in service. -/
  | gptpSyncTransmit (domain : Nat)
  /-- R428. In the safe report state the TSN ports send the safe frames of the safe table from the signed image. -/
  | safeFrames
  deriving DecidableEq, Repr

end Sys2Proof
end

