-- ==== Sys2Proof/Machine/State.lean ====
section
/-! DEFINITION. The state of the whole part as plain data: slots, cores, home slices, DRAM, dispatchers and hub;
the reasons a step can stop; and the state after reset. Sparse tables list only what differs from its value after
reset. -/

namespace Sys2Proof.Machine

/-! ## The state of a slot (R153) -/

/-- A word of q0 to q3 with its sideband (R133, R138). -/
structure QWord where
  val : Word
  nxm : Bool
  fmt : Nat
  deriving DecidableEq, Repr, Inhabited

/-- A message, delivered or bounced, as an inbox entry keeps it (R141): the peer's core, slot and TIN, the
REASON, the sender's sideband and tag, every word, and how many words have been popped. -/
structure Message where
  core : Nat
  slot : Nat
  tin : Nat
  reason : Nat
  nxm : Bool
  fmt : Nat
  utag : Nat
  words : List Word
  popped : Nat
  deriving DecidableEq, Repr, Inhabited

/-- Where a message in flight stands (R142 to R144). -/
inductive FlightAt
  /-- in the sender's network interface, not yet accepted by the destination -/
  | sender
  /-- crossing to the destination, by Piste half-flits in figure and tracing mode -/
  | crossing
  /-- whole at the destination's network interface, and judged with the next arrivals -/
  | arrived
  /-- refused at the destination's network interface, its bounce waiting there -/
  | destBounce
  /-- a bounce waiting in the sender's network interface -/
  | senderBounce
  deriving DecidableEq, Repr

/-- A message in flight, `msg` naming the destination or intended receiver as its peer: the copy that the sender's network interface keeps (R142), with the sender's TIN, the
destination, the cycle of its first refusal at a full inbox (R143), the half-flits injected (R144), and the
launch entry and partition whose RECV the end of the flight adds to (R358). -/
structure Flight where
  fromTin : Nat
  part : Nat
  dstCore : Nat
  dstSlot : Nat
  msg : Message
  pos : FlightAt
  firstRefusal : Option Nat
  halves : Nat
  /-- number by which its half-flits name it -/
  num : Nat := 0
  launch : Option Nat
  /-- counts among the four messages in flight (R142); a message that `TEND` or a scrub returns does not -/
  counted : Bool
  /-- crosses the mesh through route-plan entries (R144) -/
  plan : Bool
  deriving DecidableEq, Repr

/-- The signature checker's state (R205). -/
structure SigState where
  armed : Bool
  expect : Nat
  run : Nat
  lastXfer : Bool
  deriving DecidableEq, Repr, Inhabited

/-- State of a decode table bank (R177). -/
inductive BankState
  | unsealed | sealing | sealed
  deriving DecidableEq, Repr

/-- A decode table bank: the ROM table it was loaded from, the entries written since, its state and its TID
(R175 to R178). -/
structure TBank where
  rom : Nat
  written : SMap (BitVec 32)
  st : BankState
  tid : Nat
  deriving DecidableEq, Repr

/-- An engine instruction issued and not started, with its words, its PC and its scalar sources as read at
issue (R263, R397). -/
structure EngEntry where
  instr : Instr
  words : List Half
  pc : Nat
  srcs : List Word
  /-- decode table banks as they stood when a later `TBL.WR` changed them (R177) -/
  banks : SMap TBank
  /-- the cycle of its issue (R263) -/
  since : Nat := 0
  deriving DecidableEq, Repr

/-- An instruction captured in the Treadle buffer, with the address of its first word (R288, R394). -/
structure TrEntry where
  pc : Nat
  instr : Instr
  words : List Half
  deriving DecidableEq, Repr

/-- The Treadle of a slot: buffer, capture in progress and replay (R288 to R292). -/
structure Treadle where
  buf : List TrEntry
  /-- instructions that `TR.DEF` still has to capture -/
  capture : Nat
  areg0 : Nat
  areg1 : Nat
  active : Bool
  p : Nat
  j : Nat
  c0 : Word
  c1 : Word
  inc0 : Nat
  inc1 : Nat
  count : Nat
  stride : Nat
  /-- passes of the last replay whose every instruction issued -/
  passes : Nat
  /-- a `TR.STOP` has ended the replay and waits for the instructions that have started (R291) -/
  stopping : Bool := false
  deriving DecidableEq, Repr

/-- The kind of a Carter command (R124). -/
inductive CpKind
  | g2l | l2g | l2l | g2g | fillG | fillL
  deriving DecidableEq, Repr

/-- The translation that an access has used (R84): partition, ASN, 16 KiB page and level of the leaf. -/
structure Via where
  part : Nat := 0
  asn : Nat := 0
  page : Nat := 0
  level : Nat := 0
  deriving DecidableEq, Repr

/-- A Carter command as accepted (R123, R258), with what it has done so far (R126). -/
structure CpCmd where
  kind : CpKind
  /-- operands a and b, then cN to cN+3 -/
  a : Word
  b : Word
  c0 : Word
  c1 : Word
  c2 : Word
  c3 : Word
  rows : Nat
  idx : Nat
  /-- privilege and PTROOT at acceptance, and the home key of the barrier object as checked there -/
  priv : Bool
  ptroot : Word
  barKey : Nat
  /-- row and byte within the row of the first byte not landed -/
  row : Nat
  col : Nat
  landed : Nat
  held : Bool
  /-- row and byte of the first byte not put on the Piste, for a command that rides it (R127, R136) -/
  sentRow : Nat := 0
  sentCol : Nat := 0
  /-- the translation of its barrier object (R84), and the words of its chunk whose bytes wait behind a reservation (R98) -/
  barVia : Via := {}
  late : Option (List Nat) := none
  deriving DecidableEq, Repr

/-- The Carter queue of a slot with its status (R123, R128). -/
structure Carter where
  queue : List CpCmd
  /-- commands accepted, of which an index is the value mod 16 -/
  accepted : Nat
  code : Nat
  cperr : Bool
  idx : Nat
  deriving DecidableEq, Repr

/-- A fault as its rule raises it: code (R390), TRAPADDR value, and the record facts of R395. -/
structure FaultInfo where
  code : Nat
  addr : Word
  /-- of class L (R390): a local trap takes it when R391 allows -/
  loc : Bool
  kind : Nat
  cause : Nat
  /-- bytes 32 to 127 that the record names, as (offset, bytes) in ascending offset -/
  extra : List (Nat × List Byte)
  deriving DecidableEq, Repr

/-- What a waiting slot waits for. -/
inductive WaitFor
  /-- a page walk (R78) -/
  | walk
  /-- a queue word or room, a bank, a unit, a message place: the instruction issues again and tests -/
  | retry
  /-- a gate or a barrier at which it has issued: it issues again and tests, and its issue has been charged (R367) -/
  | sync
  /-- an engine store of which the bytes of these words wait behind a reservation (R98) -/
  | stores (words : List Nat)
  /-- the masked conditions of `WAIT` (R248) -/
  | conds (mask : Nat) (all : Bool)
  /-- the wake of a `WAIT`, with the conditions as sampled there and whether its time-out ended it (R248) -/
  | woken (conds : Nat) (timeout : Bool)
  /-- the target of a `SLOT.PARK` that it has asked to stop (R320) -/
  | parking
  /-- the next scan tick, the next beat (R249), with the scan and beat at the issue -/
  | tick (scan : Nat)
  | beat (scan beat : Nat)
  /-- an event of `WFE` (R228), with the address after it and the checker's state after it (R205) -/
  | wfe (npc : Nat) (sig : SigState)
  /-- a counter of `EVT.WAIT` (R250): physical home key and threshold; watched tells whether a watch-table entry is held,
  and via through which translation -/
  | event (key : Nat) (thr : Nat) (watched : Bool) (via : Via)
  deriving DecidableEq, Repr

/-- Why a slot stands parked. -/
inductive ParkWhy
  /-- no thread (R465) -/
  | noThread
  /-- `SLOT.PARK`, CTX.LOAD or another pre-emption request (R396) -/
  | stopped
  /-- budget end (R368) -/
  | budget
  /-- a reported fault (R392) -/
  | fault
  /-- a time-slice switch (R380) -/
  | switched
  /-- a reset of the partition (R386) -/
  | reset
  deriving DecidableEq, Repr

/-- Whether a slot issues. -/
inductive Run
  | ready
  | waiting (w : WaitFor)
  | parked (why : ParkWhy)
  deriving DecidableEq, Repr

/-- The task facts that the dispatcher keeps for a bound slot (R355, R465). `packet` is absent for a thread
that `SLOT.RUN.new` started. -/
structure Task where
  part : Nat
  /-- logical lane, 0xFFFF in free mode and for a thread without packet (R307) -/
  lane : Nat
  /-- launch entry, completion counter index, and entry PC at the binding -/
  packet : Option (Nat × Nat × Nat)
  deriving DecidableEq, Repr

/-- Result of a walk (R74): absent, poisoned, or the leaf with its level and address; or it waits at a slice that stalls the
partition (R106). -/
inductive Walk
  | absent
  | poisoned
  | stall
  | leaf (level : Nat) (e : Word) (pa : Nat)
  deriving DecidableEq, Repr

/-- What asks for a translation: the scalar stream, the engine stream, the fetch and the Carter of a slot (R77). -/
inductive AskKind
  | data | engine | fetch | carter
  deriving DecidableEq, Repr

/-- The result of a walk that a slot asked for, kept until the access that waited for it is done (R78, R82). -/
structure WalkAns where
  kind : AskKind
  part : Nat
  asn : Nat
  page : Nat
  res : Walk
  deriving DecidableEq, Repr

/-- The state of one hardware thread slot (R153). -/
structure Slot where
  g : Vector Word 24
  /-- p1 to p15; bit 0 is not used, since p0 always reads 1 (R157) -/
  p : BitVec 16
  v : Vector VWord 16
  /-- inbound and outbound FIFOs q0 to q3 (R156), oldest first -/
  inq : Vector (List QWord) 4
  outq : Vector (List QWord) 4
  inbox : List Message
  outbox : List Word
  q5 : List Word
  q6 : List Word
  q7 : List Word
  pc : Nat
  sw : Word
  sbase : Word
  slim : Word
  trapv : Word
  trappc : Word
  trapcode : Word
  trapaddr : Word
  subcnt : Word
  clampcnt : Word
  mringPred : Nat
  mringSucc : Nat
  vbank : Nat
  ptroot : Word
  fa : Word
  fb : Word
  fc : Word
  sa : Word
  sb : Word
  sc : Word
  wid : Word
  tin : Nat
  cstamp : Word
  /-- BUDGET.LEFT, signed, and BUDGET.LIMIT (R162) -/
  left : Int
  limit : Nat
  ptag : Vector Word 8
  sig : SigState
  sigAside : SigState
  handler : Bool
  engq : List EngEntry
  tr : Treadle
  cp : Carter
  flights : List Flight
  run : Run
  task : Option Task
  /-- resume state: `WAIT` time left (while it waits, the cycle of its time-out), WSEQ, `CL.*` position (R397) -/
  waitLeft : Option Nat
  /-- the phase in which a `BAR.AW` that waits has arrived (R246) -/
  awPhase : Option Nat
  wseq : Option Nat
  clPos : Option Nat
  /-- cycle, plus 1, of the last event of R228; 0 for none -/
  event : Nat
  /-- the first cycle in which the slot may issue (R355) -/
  startAt : Nat
  /-- whether the resume of a parked slot runs its instruction again (FLAGS[2] of R398) -/
  again : Bool
  /-- deferred faults waiting for the next instruction boundary (R390) -/
  deferred : List FaultInfo
  /-- results of walks for accesses of the slot that are not done -/
  walked : List WalkAns
  /-- a pre-emption request that waits for a started matrix step of the slot (R287, R396) -/
  stop : Option ParkWhy := none
  /-- cycle, plus 1, in which a waiting `WFE` last completed (R325), and in which the slot last parked (R373) -/
  wokeAt : Nat := 0
  parkedAt : Nat := 0
  /-- the words that an engine store has still to write (R98) -/
  late : Option (List Nat) := none
  deriving DecidableEq, Repr

/-! ## The state of a core -/

/-- A stream window with what SWSTAT shows (R49 to R53). -/
structure Window where
  cfg : Word
  dropRows : Nat
  filled : Nat
  free : Nat
  /-- ring index of the oldest filled slot -/
  head : Nat
  alarm : Bool
  ovrel : Bool
  foreign : Bool
  cfgerr : Bool
  /-- rows dropped since the previous delivered batch (R51) -/
  dropped : Nat
  /-- partition whose banks hold the ring: CSLOT's when EN was set (R50, R118) -/
  owner : Nat := 0
  deriving DecidableEq, Repr

/-- A route-plan entry with its running pointer and HOLE bit (R134), and the entry that stands until the
cycle in which a newer write takes effect (R301). -/
structure RteEntry where
  val : Word
  ptr : Nat
  hole : Bool
  deriving DecidableEq, Repr

/-- What a word between network interfaces belongs to (R144, R278): a half-flit of a message, by the global slot that sent it
and the number of its flight, or of its bounce; or a word of the ring tile that a core sends. -/
inductive NiWord
  | half (slot num : Nat) (bounce : Bool)
  | tile (src : Nat)
  deriving DecidableEq, Repr

/-- A Piste word on its way to a core: arrival cycle, arrival link (1 N, 2 E, 3 S, 4 W), valid bit, data, sideband. -/
structure PisteWord where
  cycle : Nat
  link : Nat
  valid : Bool
  data : BitVec 256
  nxm : Bool
  fmt : Nat
  /-- what it carries between network interfaces -/
  ni : Option NiWord
  /-- for a chunk of a Carter command: the global slot, the command's index, and the bytes it carries (R136) -/
  cp : Option (Nat × Nat × Nat) := none
  /-- the core that injected it (R395) -/
  src : Nat := 0
  deriving DecidableEq, Repr

/-- What an LM deposit of the Piste writes one cycle after its word arrived (R131, R138): the cycle of the write, the offset
and bytes written, if any, the tile-tag entry and tag, if any, and the Carter chunk that lands with it. -/
structure Landing where
  cycle : Nat
  bytes : Option (Nat × List Byte)
  tag : Option (Nat × BitVec 48)
  cp : Option (Nat × Nat × Nat)
  deriving DecidableEq, Repr

/-- A result in the root's buffer (R149, R300), with the lane width of its tree's TYPE. -/
structure TreeResult where
  width : Nat
  epoch : Nat
  lanes : Nat
  incomplete : Bool
  missing : Nat
  data : List Nat
  deriving DecidableEq, Repr

/-- A tree entry with its node (R146 to R149). -/
structure TreeNode where
  entry : Word
  epoch : Nat
  left : Option RedPacket
  right : Option RedPacket
  loc : Option RedPacket
  /-- lane count of the first arrival of the epoch, and the cycle of that arrival -/
  firstLanes : Option Nat
  timer : Option Nat
  /-- packets of later epochs or waiting for a credit, in arrival order -/
  early : List RedPacket
  result : Option TreeResult
  /-- a root whose time-out has come while its buffer held an unread result: no later part of the epoch counts (R148,
  R149) -/
  frozen : Bool := false
  latered : Nat
  treebad : Nat
  deriving DecidableEq, Repr

/-- A ring tile (R278): k × 32 operand elements as raw bytes row by row, scales, and its labels. -/
structure RingTile where
  k : Nat
  elem : Nat
  data : List Byte
  scales : List Byte
  /-- decode bank of the core that computes with it is named by FB; the tile carries the format identifier -/
  fmt : Nat
  scaled : Bool
  nxm : Bool
  step : Nat
  src : Nat
  deriving DecidableEq, Repr

/-- A ring tile on its way out of a core (R151, R278): its destination, whether it crosses through the route plan, and the
words that have left and that have arrived there. -/
structure Sending where
  dest : Nat
  tile : RingTile
  plan : Bool
  put : Nat
  got : Nat
  deriving DecidableEq, Repr

/-- The B operand latch of a core (R278, R287). -/
structure Latch where
  holder : Option Nat
  bank0 : Option RingTile
  bank1 : Option RingTile
  rstep : Nat
  /-- a tile that the holder sent and that has not left the core (R151) -/
  sending : Option Sending
  /-- tiles sent that have not reached the successor's bank or spill ring -/
  outstanding : Nat
  /-- partition and slot of a switched-out member for which the latch is reserved (R287) -/
  reserved : Option (Nat × Nat)
  deriving DecidableEq, Repr

/-- A started matrix step whose elements are not yet written (R287): slot, accumulator, the cycle in which the unit
frees, the cycle of the write, and the elements. -/
structure MatrixWrite where
  slot : Nat
  acc : Nat
  free : Nat
  done : Nat
  elems : List (BitVec 32)
  deriving DecidableEq, Repr

/-- A barrier combiner (R247): the object's home key, its partition, members, and members arrived in the round. -/
structure Combiner where
  key : Nat
  part : Nat
  members : List Nat
  arrived : List Nat
  deriving DecidableEq, Repr

/-- State of an L1D line (R114). -/
inductive L1State
  | s | e | u
  deriving DecidableEq, Repr

/-- A 32-byte L1D line: state, bytes, dirty mask, mask of unfetched bytes, poison mark (R114); its way and the core's
use count at its last use (R113); the partition that had it allocated, and for an unbacked line the address of the leaf
and the leaf, which its write-back carries (R103). -/
structure L1Line where
  st : L1State
  data : BitVec 256
  dirty : BitVec 32
  unfetched : BitVec 32
  poison : Bool
  way : Nat := 0
  used : Nat := 0
  part : Nat := 0
  leafPa : Nat := 0
  leaf : Word := 0
  deriving DecidableEq, Repr

/-- A 64-byte L1I line: its bytes, its way and the core's use count at its last use (R117). -/
structure ILine where
  data : BitVec 512
  way : Nat
  used : Nat
  deriving DecidableEq, Repr

/-- A TLB entry (R77): partition, ASN, level of the leaf, virtual page number at that level, leaf. -/
structure TlbEntry where
  part : Nat
  asn : Nat
  level : Nat
  vpn : Nat
  leaf : Word
  /-- physical address of the leaf entry, which an unbacked access carries (R103) -/
  leafPa : Nat
  deriving DecidableEq, Repr

/-- The health entry of a core (R404, R409, R410). -/
structure Health where
  en : Bool
  beats : Nat
  misses : Nat
  suspect : Bool
  offline : Bool
  /-- offlining in progress: messages and Carter commands are already turned away (R410) -/
  leaving : Bool
  spare : Bool
  lmfence : Nat
  cecnt : Word
  uecnt : Word
  lastue : Word
  sigcnt : Word
  /-- cycle at which EN was last set, and whether a post came in the running period -/
  enSince : Nat
  posted : Bool
  deriving DecidableEq, Repr

/-- The state of one core (R153). -/
structure Core where
  slots : SMap Slot
  /-- LM bytes; an unlisted byte is zero -/
  lm : List Host.Cell
  /-- tile-tag RAM (R121) -/
  tags : SMap (BitVec 48)
  /-- LM words (offset / 8) and tile-tag entries that hold an uncorrectable error (R119, R121) -/
  lmBad : List Nat
  tagBad : List Nat
  /-- LM banks whose wipe is in progress (R118) -/
  wiping : List Nat
  /-- accumulator element (i, j) of tile t at t × 1024 + i × 32 + j (R159) -/
  acc : SMap (BitVec 32)
  /-- started matrix steps, oldest first -/
  matrix : List MatrixWrite
  tb : SMap TBank
  /-- who was last given LM bank b (at b), decode bank k (at 16 + k) and tile t (at 32 + t); P0 where nothing is listed -/
  owners : SMap Nat
  windows : SMap Window
  /-- entry of table T and frame cycle t at T × 64 + t (R134) -/
  route : SMap RteEntry
  /-- route entries written and not yet in effect: cycle of effect, index, entry (R301) -/
  routePending : List (Nat × Nat × RteEntry)
  piste : List PisteWord
  /-- LM writes of deposits that have arrived (R131), oldest first -/
  landing : List Landing
  /-- LM bytes read ahead for injections, with the cycle of the injection and whether a word read is uncorrectable
  (R136) -/
  ahead : List (Nat × List Byte × Option Nat)
  /-- half-flits received whose message is not complete, oldest first (R144) -/
  halfIn : List (Nat × Nat × Bool)
  pistStray : Nat
  pistHole : Nat
  pistQdrop : Nat
  pistFmterr : Nat
  pistIllegal : Nat
  trees : SMap TreeNode
  latch : Latch
  /-- spill ring (R151), with the slot each tile is for -/
  spill : List (Nat × RingTile)
  combiners : List Combiner
  /-- L1D lines by home key / 32 -/
  l1d : SMap L1Line
  /-- L1I lines by home key / 64 (R117) -/
  l1i : SMap ILine
  /-- uses of the L1D and the L1I so far, by which the least recently used line is found (R113) -/
  uses : Nat
  /-- L1D sectors and L1I lines that a patrol found uncorrectable, and register words, unit × 16 + slot (R401, R402) -/
  l1dBad : List Nat
  l1iBad : List Nat
  regBad : List Nat
  /-- ITLB and DTLB, last used first (R77) -/
  itlb : List TlbEntry
  dtlb : List TlbEntry
  /-- the slot that the Carter served last (R123) -/
  cpLast : Nat
  health : Health
  scan : Nat
  beat : Nat
  deriving DecidableEq, Repr

/-! ## Translation, home slices, barriers -/

/-- An entry of a cluster's walker cache (R77): a table entry of level 2 or 1 that points to a next table. -/
structure TableEntry where
  part : Nat
  asn : Nat
  level : Nat
  vpn : Nat
  entry : Word
  deriving DecidableEq, Repr

/-- Who asks for a translation. -/
structure Asker where
  slot : Nat
  kind : AskKind
  deriving DecidableEq, Repr

/-- A request in a cluster's walk queue (R78), with everyone that merged onto it. -/
structure WalkReq where
  part : Nat
  asn : Nat
  /-- ROOT of the request's PTROOT, in bytes -/
  root : Nat
  /-- 16 KiB page -/
  page : Nat
  askers : List Asker
  deriving DecidableEq, Repr

/-- A shoot-down that a cluster has still to run (R84): kind (0 PAGE, 1 ASN, 2 PART), partition, ASN, address,
the home key of the barrier it debits, if it debits one; once the entries are removed, the slots whose AMOs translated
through one of them and are not performed. -/
structure Shootdown where
  cluster : Nat
  kind : Nat
  part : Nat
  asn : Nat
  va : Nat
  bar : Option Nat
  removed : Option (List Nat) := none
  deriving DecidableEq, Repr

/-- Directory state of a line (R92). -/
inductive Dir
  | unc
  /-- up to four sharer pointers -/
  | shd (sharers : List Nat)
  /-- coarse: a vector of the die's clusters -/
  | coarse (clusters : List Nat)
  | exc (owner : Nat)
  deriving DecidableEq, Repr

/-- A frame record of an unbacked page (R100): place (way × 16 + block), page, leaf address and leaf as bound,
dirty lines. -/
structure FrameRec where
  place : Nat
  part : Nat
  asn : Nat
  vpn : Nat
  leafPa : Nat
  leaf : Word
  dirty : BitVec 64
  deriving DecidableEq, Repr

/-- A page whose lines are in the evict holding buffer or wait to enter it (R104 to R107). -/
structure HeldPage where
  part : Nat
  asn : Nat
  vpn : Nat
  leafPa : Nat
  leaf : Word
  /-- lines held in the buffer, lines that still wait in the frame for room -/
  held : BitVec 64
  waiting : BitVec 64
  cause : Nat
  frame : Nat
  posted : Bool
  deriving DecidableEq, Repr

/-- What stands in the queue of a word at its home slice (R98): a reservation, or a write or a RED that waits behind
one. -/
inductive WordOp
  | reserve
  | write (ps : List (Nat × Byte))
  | red (op : RedOp) (w32 etol : Bool) (v : Word)
  deriving DecidableEq, Repr

/-- Whether an entry of the queue is a write. -/
def WordOp.isWrite : WordOp → Bool
  | .write _ => true
  | _ => false

/-- An entry of a slice's reservation queue (R98): word key, core, slot, whether it has been granted, what it is, and the
translation of its access with ETOL of its leaf. -/
structure AmoRes where
  key : Nat
  core : Nat
  slot : Nat
  granted : Bool
  op : WordOp := .reserve
  via : Via := {}
  etol : Bool := false
  deriving DecidableEq, Repr

/-- A backed line that a slice holds (R86): its way, the slice's use count at its last use, valid and dirty sectors, and
the nonzero bytes and poison marks that DRAM still holds under a line with dirty sectors. -/
structure SliceLine where
  way : Nat
  used : Nat
  valid : BitVec 8
  dirty : BitVec 8
  under : List Host.Cell
  underBad : SMap Nat
  deriving DecidableEq, Repr

/-- A home slice (R86 to R111). -/
structure Slice where
  /-- directory by line (home key / 256) -/
  dir : SMap Dir
  /-- the backed lines that it holds, by line (R86), and its uses so far -/
  lines : SMap SliceLine
  uses : Nat
  /-- sectors (home key / 32) with an uncorrectable word that no access has met, and sets whose tags are lost (R401) -/
  badData : List Nat
  badSets : List Nat
  /-- pinned lines (home key / 256), with the partition + 16 × the way (R99) -/
  pinned : SMap Nat
  /-- frames reserved: place (way × 16 + block) with its partition (R102) -/
  frames : SMap Nat
  pages : List FrameRec
  holding : List HeldPage
  /-- partitions whose reserved ways a reset has wiped, until `PART.SET` writes their masks here again (R111) -/
  noWays : List Nat := []
  /-- partition, ASN and page of the `UNBACKED_EVICT` records that a reset has marked cancelled (R108) -/
  cancelled : List (Nat × Nat × Nat) := []
  amo : List AmoRes
  /-- watch table: counter key, threshold, global slot (R250) -/
  watch : List (Nat × Nat × Nat)
  retired : Bool
  cecnt : Word
  uecnt : Word
  lastue : Word
  deriving DecidableEq, Repr

/-- A DRAM channel's error counts (R69). -/
structure Channel where
  ce : Nat
  ue : Nat
  lastUe : Nat
  deriving DecidableEq, Repr

/-! ## The dispatchers (chapter 14) -/

/-- A launch entry of a partition (R345, R358, R359). -/
structure Launch where
  isOpen : Bool
  header : List Byte
  lastWid : Option Nat
  endCount : Nat
  sent : Nat
  recv : Nat
  /-- cores that ran a task of the launch -/
  cores : List Nat
  /-- sums of the last sweep when every core was idle in it -/
  lastSweep : Option (Nat × Nat)
  /-- the die of a deferred launch (R345 code 8) -/
  die : Nat
  deriving DecidableEq, Repr

/-- A resident queue of a die's dispatcher (R353): its place, use order, and the descriptor as loaded with that die's
DHEAD. TAIL, MISSES and PINNED stand at the descriptor's home. -/
structure Resident where
  die : Nat
  part : Nat
  asn : Nat
  handle : Nat
  pinned : Bool
  lastUse : Nat
  ring : Nat
  log2n : Nat
  prio : Nat
  dhead : Nat
  deriving DecidableEq, Repr

/-- A queue's current packet on a die, with the index of the next WID to take (R349, R354). -/
structure Taking where
  die : Nat
  part : Nat
  asn : Nat
  handle : Nat
  prio : Nat
  packet : List Byte
  next : Nat
  deriving DecidableEq, Repr

/-- What the dispatchers have found of a packet that some die has still to take: its number in its queue, the code of
R345 or R348 or 0, and whether it is eligible (R349). -/
structure PacketMark where
  part : Nat
  asn : Nat
  handle : Nat
  num : Nat
  code : Nat
  eligible : Bool
  deriving DecidableEq, Repr

/-- A WID in a lane FIFO (R351): partition, launch entry, lane, packet bytes, WID. -/
structure LaneWid where
  part : Nat
  launch : Nat
  lane : Nat
  packet : List Byte
  wid : Word
  deriving DecidableEq, Repr

/-- A replay entry (R407). -/
structure ReplayEntry where
  packet : List Byte
  pend : Bool
  cause : Nat
  lane : Nat
  launch : Nat
  part : Nat
  scan : Nat
  deriving DecidableEq, Repr

/-! ## Partitions and gates (chapter 16) -/

/-- The partition table words of one partition (R377): W0, W2 to W14, and the live counters. -/
structure PartWords where
  w0 : Word
  clist : SMap Nat
  acc : SMap Nat
  w3 : Word
  ways : SMap Nat
  l1ways : SMap Nat
  w6 : Word
  w7 : Word
  w8 : Word
  w9 : Word
  w10 : Word
  w11 : Word
  w12 : Word
  w13 : Word
  w14 : Word
  staleSub : Word
  lfbad : Nat
  qmiss : Nat
  deriving DecidableEq, Repr

/-- The schedule of the time-sliced group (R379): member switched in, its allotment and time run in µs, credits,
and the member to which a switch is in progress. -/
structure TsSched where
  member : Option Nat
  allot : Nat
  ran : Nat
  credit : SMap Nat
  switching : Option Nat
  /-- members that were ready when the schedule last looked -/
  ready : List Nat
  deriving DecidableEq, Repr

/-- What a waiter at a gate gets at its next sample: d and v, by a post or a round, or the fault of the gate's new state. -/
inductive GateFate
  | done (d : Word) (v : VWord)
  | fault (code : Nat)
  deriving DecidableEq, Repr

/-- A waiter at a gate (R309, R387): global slot, or 4096 for one of the partner's; partition; WSEQ; target, or none for an
arrival; its fate once a post, a round or a change of the gate has decided it; and whether its slot stands parked, so that
it samples afresh when it issues again. -/
structure GateWaiter where
  slot : Nat
  part : Nat
  wseq : Nat
  target : Option Nat
  answer : Option GateFate := none
  parked : Bool := false
  deriving DecidableEq, Repr

/-- A gate (R381): the three words of its entry that are not buckets, the post count, the buckets, the ring and the waiters. -/
structure Gate where
  w0 : Word
  rights : Word
  postcnt : Word
  w3 : Word
  buckets : SMap Nat
  ring : SMap VWord
  waiters : List GateWaiter
  /-- ACLK cycles since VALID was set, or since a bucket's token last fell due (R383, R461) -/
  elapsed : SMap Nat
  /-- arrivals of reset partitions that `GT.HOLD.rel` takes out of ARRMASK (R384) -/
  relClear : Nat := 0
  deriving DecidableEq, Repr

/-- A gate operation of a slot on a bridged entry that is not the master (R385): what it sends, and the answer. -/
structure BridgedOp where
  tag : Nat
  slot : Nat
  gate : Nat
  op : Nat
  operand : Word
  payload : VWord
  reply : Option BridgeMsg
  deriving DecidableEq, Repr

/-- An operation of the partner's that waits at this table, with its WSEQ (R385). -/
structure RemoteOp where
  tag : Nat
  part : Nat
  gate : Nat
  peer : Nat
  op : Nat
  operand : Word
  payload : VWord
  wseq : Nat
  deriving DecidableEq, Repr

/-- The saved state of a switched-out member's slot that the hardware itself updates (R380): its saved inbox and TIN
stand in memory; the area is named by SWBASE. -/
structure SavedMember where
  part : Nat
  /-- contexts by global slot, as switched out -/
  slots : SMap Slot
  /-- cores whose core block of the SWAREA holds a VALIDMAP (R399) -/
  valid : List Nat
  deriving DecidableEq, Repr


/-! ## The hub die (chapters 2, 15, 18, 19) -/

/-- Region bookkeeping of a stream filter (R25, R26, R61). -/
structure PiRegion where
  sel : Bool
  /-- a commit in the running scan: payload length -/
  commit : Option Nat
  commits : Nat
  oversize : Bool
  /-- the status entry as the last tick wrote it (R26) -/
  status : BitVec 128
  /-- a binding written and not yet taken over by a tick -/
  pending : Option Word
  /-- word 0 of the binding in force; of a cleared one without V -/
  bound : Word
  deriving DecidableEq, Repr

/-- How a record has left its fast lane: its rows stand decoded in staging, or placeholder rows stand in for them. -/
inductive SkEnd
  | decoded | placeholders
  deriving DecidableEq, Repr

/-- A frame in a receive FIFO (R33): bytes not yet checked, arrival time in ns and scan, and the bytes it takes. -/
structure SkFrame where
  rest : List Byte
  arrived : Nat
  scan : Nat
  size : Nat
  deriving DecidableEq, Repr

/-- A Skein record that a front end has accepted (R29, R32 to R35). -/
structure SkRecord where
  header : List Byte
  payload : List Byte
  /-- stamp scan taken at the check (R37), and the frame's arrival time -/
  stamp : Nat
  arrived : Nat
  /-- SLOWMULT and PLACEVAL of the port at the check (R60) -/
  slowMult : Nat
  place : Nat
  /-- the ACLK cycle in which its staging was allocated and its decode began (R33) -/
  started : Option Nat
  /-- its staging: ranges of the port's 128 KiB (R33) -/
  runs : List (Nat × Nat)
  /-- what stands in for it once a lane is done with it (R35, R36) -/
  ended : Option SkEnd
  deriving DecidableEq, Repr

/-- A sensor port (R27 to R37). -/
structure SensorPort where
  /-- frames in the receive FIFO, oldest first -/
  fifo : List SkFrame
  records : List SkRecord
  slowq : List SkRecord
  /-- decode times of the last 256 fast-lane records, newest first -/
  times : List Nat
  mean : Nat
  counters : SMap Nat
  paused : Bool
  deriving DecidableEq, Repr

/-- A 64-bit link word with its end-of-row bit (R38). -/
structure LinkWord where
  data : Word
  eor : Bool
  /-- its row met an uncorrectable word of an element memory (R401) -/
  spoiled : Bool := false
  deriving DecidableEq, Repr

/-- A Loom element (R38 to R44): registers, memory, the four link FIFOs (0 N, 1 E, 2 S, 3 W), next stage word. -/
structure Element where
  e : SMap Word
  mem : List Host.Cell
  links : SMap (List LinkWord)
  stage : Nat
  /-- memory words (offset / 8) with an uncorrectable error (R401) -/
  bad : List Nat := []
  /-- the row in flight has met one -/
  spoiled : Bool := false
  deriving DecidableEq, Repr

/-- Row metadata (R37), with the HCLK time in ns at which it entered its queue. -/
structure RowMeta where
  stream : Nat
  line : Nat
  stamp : Nat
  sampled : Nat
  late : Bool
  slowFill : Bool
  since : Nat
  /-- a link word of placeholder samples of the row -/
  fill : Word := 0
  deriving DecidableEq, Repr

/-- A row that waits to enter the array (R34, R35): its metadata, its bytes, and where they stand in staging; no range for
a placeholder row. -/
structure FeedRow where
  info : RowMeta
  len : Nat
  runs : List (Nat × Nat)
  deriving DecidableEq, Repr

/-- A completed row (R46). -/
structure Row where
  info : RowMeta
  bytes : List Byte
  clip : Bool
  deriving DecidableEq, Repr

/-- A closed batch on its way to its window (R48, R51): sequence number, rows, row pitch, rows of a full batch, core and
window. -/
structure Batch where
  seq : Nat
  rows : List Row
  pitch : Nat
  per : Nat
  core : Nat
  win : Nat
  deriving DecidableEq, Repr

/-- A stream exit (R45 to R48, R53). -/
structure Exit where
  seq : Nat
  /-- link words of the row that is coming in, newest first; whether the row is whole; whether the rest up to EOR is
  being discarded -/
  row : List Word
  whole : Bool
  skip : Bool
  batch : List Row
  batchSince : Nat
  held : List Row
  /-- closed batches not yet written into the window -/
  closed : List Batch
  /-- free count as the exit sees it (R52) -/
  free : Nat
  /-- HOLD and BATCHWAIT as the last row that completed found them (R45) -/
  hold : Nat := 0
  wait : Nat := 0
  /-- the row that is coming in met an uncorrectable word (R401) -/
  spoiled : Bool := false
  /-- a whole row with its metadata that BLOCK keeps (R47, R53) -/
  blocked : Option Row := none
  deriving DecidableEq, Repr

/-- A frame that the egress engine has decided and not sent (R56, R57). -/
structure EgFrame where
  stream : Nat
  scan : Nat
  payload : List Byte
  /-- ESCFG and ESHDR as they stood at the decision -/
  cfg : Word
  hdr0 : Word
  hdr1 : Word
  deriving DecidableEq, Repr

/-- The running part of a gate control list (R62): entry, time at which its interval ends, states. -/
structure ListPos where
  entry : Nat
  until_ : Nat
  gates : Nat
  /-- start of the running cycle -/
  cycle0 : Nat
  running : Bool
  /-- length of the operational list -/
  len : Nat
  deriving DecidableEq, Repr

/-- What an answer of a DOE mailbox says (R416, R418, R429). The published standards give its bytes. -/
inductive DoeAnswer
  /-- the protocol of a discovery index (0 DOE discovery, 1 SPDM) if there is one, and the next index -/
  | discovery (protocol : Option Nat) (next : Nat)
  | version
  | capabilities
  /-- SM2_P256 and SM3_256 selected -/
  | algorithms
  | digests
  | certificate
  /-- signed with the identity key, when the life-cycle state has one -/
  | challenge (signature : List Byte)
  /-- a measurement block, absent where the index may not be seen, and the signature -/
  | measurements (index : Nat) (block : Option (List Byte)) (signature : List Byte)
  | unsupportedRequest
  deriving DecidableEq, Repr

/-- What leaves the part: frames, interrupts, responses (host interface). -/
inductive Output
  | frame (port : Nat) (bytes : List Byte)
  | pause (port : Nat) (quanta : Nat)
  /-- the frames of the safe table of a TSN port (R428), whose bytes stand in the signed image -/
  | safeFrame (port : Nat)
  /-- Sync and Follow_Up of a gPTP domain, with the time that they carry -/
  | gptpSync (port domain ns : Nat)
  | msix (function vector : Nat)
  | doe (function : Nat) (answer : DoeAnswer)
  /-- an entry of the error log of a function (AER) -/
  | aer (function : Nat)
  | hostRead (function : Nat) (value : Option Nat)
  | pairFrame (scan : Nat) (digest : BitVec 256)
  /-- the same as an Ethernet frame with EtherType 0x88B6 on a TSN port (R426) -/
  | pairEthernet (port scan : Nat) (digest : BitVec 256)
  /-- a line of the mirror copy; whether it is the last one, and the scan whose tick began the copy (R427) -/
  | mirrorLine (pa : Nat) (bytes : List Byte) (last : Bool) (scan : Nat)
  | svInterrupt (k : Nat)
  /-- an operation sent to the partner's gate table, and the answer to one of the partner's -/
  | gateRequest (tag part gate peer op : Nat) (operand : Word) (payload : VWord)
  | gateReply (gate : Nat) (answer : BridgeMsg)
  /-- word 3 of an entry of this table, for the partner (R385) -/
  | gateEntry (gate : Nat) (w : Word)
  deriving DecidableEq, Repr

/-- Life-cycle state (R429). -/
inductive LifeCycle
  | manufacture | provisioned | deployed | return_
  deriving DecidableEq, Repr

/-- State of the hub die. Registers that are plain storage stand in `regs`, by physical address of their 8
bytes; an unlisted register holds its value after wipe (`Hub.wipe`). -/
structure Hub where
  regs : SMap Word
  huberr : Nat
  /-- corrected and uncorrectable errors of the hub's arrays, and the place of the last uncorrectable one (R401, R402) -/
  cecnt : Word := 0
  uecnt : Word := 0
  lastue : Word := 0
  /-- process image: byte of buffer b at b × 4 MiB + offset; both parts (R24) -/
  image : List Host.Cell
  imageBad : List Nat
  split : Nat
  splitPending : Option Nat
  regions : SMap PiRegion
  /-- offset, length and SEL of bindings that have ended, newest first: the input view goes on showing those bytes (R61) -/
  ghosts : List (Nat × Nat × Bool) := []
  resBack : Nat
  wbits : SMap Bool
  egStat : SMap Word
  egSeq : SMap Nat
  egFrames : List EgFrame
  /-- gPTP time at which a TSN port ends the frame that it sends -/
  portBusy : SMap Nat
  sensors : SMap SensorPort
  elements : SMap Element
  /-- row metadata, rows on their way into the W link, and the words left of the row that is entering, by array row (R37) -/
  rowMeta : SMap (List RowMeta)
  feed : SMap (List FeedRow)
  entering : SMap (List LinkWord) := []
  exits : SMap Exit
  /-- scan unit (R362 to R365): current scan, next tick instant, pending SCANCFG, flags -/
  scan : Nat
  nextTick : Option Nat
  lastTick : Nat
  /-- cycle of the last tick and its instant (R373), and the scan and HCLK cycle of a tick whose pair check is due (R426) -/
  tickAt : Option (Nat × Nat) := none
  pairDue : Option (Nat × Nat) := none
  cfgPending : Option Word
  holdover : Bool
  slew : Bool
  scanCfgErr : Bool
  lastErr : Int
  /-- cycle of the coming core tick, and of the coming beat with its number -/
  coreTick : Option Nat
  nextBeat : Nat
  /-- the scan and beat that every core has current; a core that is not listed holds them -/
  coreScan : Nat
  coreBeat : Nat
  /-- gPTP of the domains: ns ahead of the local oscillator, latched values, synchronised flags, and the best announced
  grandmaster with the local time of its last Announce (R21) -/
  ptp : SMap Nat
  ptpLatched : SMap Nat
  synced : SMap Bool
  announced : SMap (Nat × Nat) := []
  /-- Qbv lists of ports and stream gate lists of gates: PENDING and running position -/
  qbvPending : SMap Bool
  qbvPos : SMap ListPos
  sgPending : SMap Bool
  sgPos : SMap ListPos
  /-- meters: committed and excess tokens in bits, time of the last update, REDSTATE -/
  meterTok : SMap (Nat × Nat × Nat)
  meterRed : SMap Bool
  /-- recovered streams: last number, history, frames passed, and time of the last frame -/
  recov : SMap (Nat × Nat × Nat)
  pair : SMap (BitVec 256)
  /-- digests of the partner, by scan -/
  partner : SMap (BitVec 256)
  linkUp : Bool
  mismatch : Bool
  switched : Bool
  hbmiss : Nat
  misscan : Nat
  /-- the mirror copy in progress: next line and lines left; the scan whose tick began it; whether another one starts after
  it -/
  mirrorNext : Option (Nat × Nat)
  mirrorFrom : Nat
  mirrorAgain : Bool
  mirInprog : Bool
  mirScan : Nat
  bridged : List BridgedOp
  /-- the tag of the next operation sent, and the partner's operations that wait here (R385) -/
  bridgeTag : Nat
  remote : List RemoteOp
  /-- word 3 of the partner's gate entries as the sync link has brought it; zero after wipe (R385) -/
  partnerGates : SMap Word := []
  stageSlots : SMap VWord
  dbAccepted : SMap Nat
  dbRes : SMap Nat
  /-- functions whose reset has not completed, with the step reached (R386) -/
  resetting : SMap Nat
  scRes : Word
  scBusy : Bool
  /-- a PARK command that has asked its slot to stop and waits for it (R423) -/
  scAsked : Bool
  remapBusy : Bool
  replayBusy : Bool
  replayErr : Bool
  svirq : Nat
  /-- tick bit 16 and beat bit 17 of mip, by scan core 0 to 7 and supervisor core 8 to 11 (R422) -/
  mip : SMap Nat
  temp : SMap Int
  pwr : Nat
  overpwr : Bool
  overMs : Nat
  life : LifeCycle
  lifePending : Option LifeCycle
  /-- safe report state: STAGE, DETAIL, and whether a supervisor image has passed its check (R428) -/
  safe : Option (Nat × Nat × Bool)
  out : List Output
  deriving DecidableEq, Repr

/-! ## The whole machine -/

/-- A record of a fault queue that waits at its source (R393): partition of the queue, bytes. -/
structure WaitingRecord where
  queue : Nat
  code : Nat
  /-- global slot that waits with it, if one does -/
  slot : Option Nat
  bytes : List Byte
  deriving DecidableEq, Repr

/-- An AMO of tracing mode that waits for its tracing barrier (R242): slot, WID, the barrier's home key and the phase
arrived in, the word's home key, operation, width, operand, and the old value once the phase has completed. -/
structure TracedAmo where
  slot : Nat
  wid : Word
  barKey : Nat
  phase : Nat
  key : Nat
  op : RedOp
  w32 : Bool
  arg : Word
  result : Option Word
  /-- the translation of its access (R84), and its launch (R242) -/
  via : Via := {}
  launch : Option Nat := none
  /-- whether its phase has completed, so that the fold of its word is due -/
  due : Bool := false
  deriving DecidableEq, Repr

/-- What the issue of an instruction has settled before its effect (the model's own latch): length of the chain,
the address that follows, the words, the signature checker's state if the instruction completes (R205), whether it
is a block ender, whether a transfer was taken, and whether its issue is charged (R367). -/
structure Issue where
  len : Nat
  npc : Nat
  words : List Half
  sig : SigState
  ender : Bool
  xfer : Bool
  charge : Bool
  /-- whether the attempt is one of the engine stream (R263) -/
  engine : Bool := false
  /-- whether it is one of a replay, which writes no g register (R289) -/
  replay : Bool := false
  /-- decode table banks that a queued engine instruction keeps as they stood at its issue (R177) -/
  kept : List Nat := []
  /-- the words of an engine store whose bytes wait behind a reservation (R98) -/
  held : List Nat := []
  deriving DecidableEq, Repr

/-- What the hub does to memory for the host, at its place in the merge step, after every core (R116, R419): a data-window write, a
doorbell with the packet copied when it was written (R420), or a read that follows earlier writes of its function. -/
inductive Post
  | write (vf pa : Nat) (bytes : List Byte)
  | bell (vf : Nat) (w : Word) (packet : List Byte)
  | read (vf off len : Nat)
  deriving DecidableEq, Repr

/-- The function of one. -/
def Post.function : Post → Nat
  | .write vf _ _ | .bell vf _ _ | .read vf _ _ => vf

/-- How far the ACLK cycle has come (R116, R120, R145): arrivals and issue turns, engine turns, shared ports. -/
inductive Phase
  | issue
  | engine
  | shared
  deriving DecidableEq, Repr

/-- The state of the whole part. -/
structure State where
  /-- ordering code ZRH-2560-256 rather than ZRH-2560-128 (R1, R63) -/
  large : Bool
  /-- ACLK cycle -/
  now : Nat
  /-- the core whose issue turn of this cycle comes next (R116: ascending core number) -/
  turn : Nat
  /-- what the cycle serves after the steps that are due -/
  phase : Phase
  /-- barrier objects, by home key, that an arrival or a debit of this cycle has touched (R244) -/
  barTouched : List Nat
  /-- steps of other agents that are due before the next issue turn, oldest first -/
  agenda : List Event
  /-- arrivals of the next cycle, oldest first (R145) -/
  later : List Event
  /-- what the hub does for the host at the end of the merge step, oldest first (R116, R419) -/
  posts : List Post := []
  /-- the model's own fields: the global slot whose instruction executes, what its issue settled, and the counter
  of free values -/
  cur : Nat
  iss : Issue
  fresh : Nat
  cores : SMap Core
  /-- bytes at their homes, by home key; an unlisted byte is zero (R68) -/
  mem : List Host.Cell
  /-- poisoned sectors (home key / 32) with the mask of bytes written since the mark was set (R233) -/
  poison : SMap Nat
  channels : SMap Channel
  slices : SMap Slice
  /-- second-level TLB of each cluster, last used first, its walker cache, and its walk queue (R77, R78) -/
  tlb : SMap (List TlbEntry)
  wcache : SMap (List TableEntry)
  walks : SMap (List WalkReq)
  shoot : List Shootdown
  traced : List TracedAmo
  launches : SMap Launch
  residents : List Resident
  lanes : List LaneWid
  takings : List Taking
  marks : List PacketMark
  /-- queues that a push has reached: partition, ASN, handle -/
  pushed : List (Nat × Nat × Nat)
  /-- per die, the cycle of its next dispatch turn and the partition last served; per die and partition, the queue
  last served and the cycle of the last `QUEUE_MISS` event (R353 to R355) -/
  dieTurn : SMap Nat
  lastPart : SMap Nat
  lastQueue : SMap Nat
  missPosted : SMap Nat
  replay : SMap ReplayEntry
  parts : SMap PartWords
  sched : TsSched
  saved : SMap SavedMember
  gates : SMap Gate
  wseq : Nat
  fqHead : SMap Nat
  fqTail : SMap Nat
  fqWait : List WaitingRecord
  /-- deferred launches ended whose U bytes have not been written back: counter key and die (R359) -/
  deferredEnds : List (Nat × Nat × List Nat)
  /-- slots of a partition that parked for budget in the running scan, per core × 16 + partition (R470) -/
  budgetParked : SMap Nat
  hub : Hub
  deriving DecidableEq, Repr

/-! ## Why a step stops -/

/-- The reasons for which the whole part stops: the specification gives none. A fault of an instruction is no stop: it is
taken (R391, R392); in the safe report state time goes on (R428). -/
inductive Fault
  deriving DecidableEq, Repr

/-- The reasons for which the model refuses. -/
inductive Refusal
  /-- The instruction has no meaning in this model yet; raised by `exec`. Safe: nothing is claimed of it. -/
  | notModelled (mnemonic : String)
  deriving DecidableEq, Repr

/-! ## Values after reset

Where the specification gives a register no value after wipe, the value here is the model's (assumption 1). -/

/-- The signature checker after wipe. -/
def SigState.reset : SigState := { armed := false, expect := 0, run := 0, lastXfer := false }

/-- The Treadle after wipe. -/
def Treadle.reset : Treadle :=
  { buf := [], capture := 0, areg0 := 0, areg1 := 0, active := false, p := 0, j := 0, c0 := 0, c1 := 0,
    inc0 := 0, inc1 := 0, count := 0, stride := 0, passes := 0 }

/-- The Carter queue of a slot after wipe. -/
def Carter.reset : Carter := { queue := [], accepted := 0, code := 0, cperr := false, idx := 0 }

/-- A slot after wipe: parked with no thread (R465). -/
def Slot.reset : Slot :=
  { g := Vector.replicate 24 0, p := 0, v := Vector.replicate 16 0
    inq := Vector.replicate 4 [], outq := Vector.replicate 4 [], inbox := [], outbox := [], q5 := [], q6 := [], q7 := []
    pc := 0, sw := 0, sbase := 0, slim := 0, trapv := 0, trappc := 0, trapcode := 0, trapaddr := 0
    subcnt := 0, clampcnt := 0, mringPred := 0, mringSucc := 0, vbank := 0, ptroot := 0
    fa := 0, fb := 0, fc := 0, sa := 0, sb := 0, sc := 0, wid := 0, tin := 0, cstamp := 0, left := 0, limit := 0
    ptag := Vector.replicate 8 0, sig := SigState.reset, sigAside := SigState.reset, handler := false
    engq := [], tr := Treadle.reset, cp := Carter.reset, flights := [], run := .parked .noThread, task := none
    waitLeft := none, awPhase := none, wseq := none, clPos := none, event := 0, startAt := 0, again := false, deferred := [], walked := [] }

/-- A decode table bank after wipe: sealed, with the ROM table of its own number (R178). -/
def TBank.reset (b : Nat) : TBank := { rom := b, written := [], st := .sealed, tid := b }

/-- A stream window after wipe (R49). -/
def Window.reset : Window :=
  { cfg := 0, dropRows := 0, filled := 0, free := 0, head := 0, alarm := false, ovrel := false
    foreign := false, cfgerr := false, dropped := 0 }

/-- A tree entry after wipe. -/
def TreeNode.reset : TreeNode :=
  { entry := 0, epoch := 0, left := none, right := none, loc := none, firstLanes := none, timer := none
    early := [], result := none, latered := 0, treebad := 0 }

/-- The B operand latch after wipe. -/
def Latch.reset : Latch :=
  { holder := none, bank0 := none, bank1 := none, rstep := 0, sending := none, outstanding := 0, reserved := none }

/-- The health entry of a core after wipe. -/
def Health.reset : Health :=
  { en := false, beats := 0, misses := 0, suspect := false, offline := false, leaving := false, spare := false, lmfence := 0
    cecnt := 0, uecnt := 0, lastue := 0, sigcnt := 0, enSince := 0, posted := false }

/-- A core after wipe. -/
def Core.reset : Core :=
  { slots := [], lm := [], tags := [], lmBad := [], tagBad := [], wiping := [], acc := [], matrix := [], tb := [], owners := []
    windows := [], route := [], routePending := [], piste := [], landing := [], ahead := [], halfIn := [], pistStray := 0, pistHole := 0
    pistQdrop := 0, pistFmterr := 0, pistIllegal := 0, trees := [], latch := Latch.reset, spill := []
    combiners := [], l1d := [], l1i := [], uses := 0, l1dBad := [], l1iBad := [], regBad := [], itlb := [], dtlb := []
    cpLast := 15, health := Health.reset, scan := 0, beat := 0 }

/-- A home slice after wipe. -/
def Slice.reset : Slice :=
  { dir := [], lines := [], uses := 0, badData := [], badSets := [], pinned := [], frames := [], pages := [], holding := [], amo := [], watch := []
    retired := false, cecnt := 0, uecnt := 0, lastue := 0 }

/-- A DRAM channel's counts after wipe. -/
def Channel.reset : Channel := { ce := 0, ue := 0, lastUe := 0 }

/-- A closed launch entry. -/
def Launch.reset : Launch :=
  { isOpen := false, header := [], lastWid := none, endCount := 0, sent := 0, recv := 0
    cores := [], lastSweep := none, die := 0 }

/-- The partition words of a partition other than P0 after wipe (R377). -/
def PartWords.blank : PartWords :=
  { w0 := 0, clist := [], acc := [], w3 := 0, ways := [], l1ways := [], w6 := 0, w7 := 0, w8 := 0, w9 := 0
    w10 := 0, w11 := 0, w12 := 0, w13 := 0, w14 := 0, staleSub := 0, lfbad := 0, qmiss := 0 }

/-- W0 of P0 after wipe (R377): EN, CLEN 256, and every slot, bank, channel group, table bank and tree. -/
def w0Reset : Word := 0xA000FFFFFFFFFFFF#64

/-- The partition words of partition `p` after wipe (R377). P0's words W1, W4 and W5 read the ordinal, 0xFFFF and
0xFFF where nothing is listed. -/
def PartWords.reset (p : Nat) : PartWords :=
  if p = 0 then { PartWords.blank with w0 := w0Reset, w3 := BitVec.allOnes 64, w6 := 0x10000040#64 }
  else PartWords.blank

/-- The time-slice schedule after wipe. -/
def TsSched.reset : TsSched := { member := none, allot := 0, ran := 0, credit := [], switching := none, ready := [] }

/-- An empty gate entry. -/
def Gate.reset : Gate :=
  { w0 := 0, rights := 0, postcnt := 0, w3 := 0, buckets := [], ring := [], waiters := [], elapsed := [] }

/-- A region of the process image after wipe. -/
def PiRegion.reset : PiRegion :=
  { sel := false, commit := none, commits := 0, oversize := false, status := 0, pending := none, bound := 0 }

/-- A sensor port after wipe: SPMEAN.MEAN reads 64 (R60). -/
def SensorPort.reset : SensorPort :=
  { fifo := [], records := [], slowq := [], times := [], mean := 64, counters := [], paused := false }

/-- A Loom element after wipe. -/
def Element.reset : Element := { e := [], mem := [], links := [], stage := 0 }

/-- A stream exit after wipe. -/
def Exit.reset : Exit :=
  { seq := 0, row := [], whole := false, skip := false, batch := [], batchSince := 0, held := [], closed := [], free := 0 }

/-- A gate control list after wipe: no list runs. -/
def ListPos.reset : ListPos := { entry := 0, until_ := 0, gates := 0, cycle0 := 0, running := false, len := 0 }

/-- The hub die after wipe. -/
def Hub.reset : Hub :=
  { regs := [], huberr := 0, image := [], imageBad := [], split := 32, splitPending := none, regions := []
    resBack := 0, wbits := [], egStat := [], egSeq := [], egFrames := [], portBusy := [], sensors := [], elements := []
    rowMeta := [], feed := [], exits := [], scan := 0, nextTick := none, lastTick := 0, cfgPending := none, holdover := false
    slew := false, scanCfgErr := false, lastErr := 0, coreTick := none, nextBeat := 0, coreScan := 0, coreBeat := 0, ptp := [], ptpLatched := []
    synced := [], qbvPending := [], qbvPos := [], sgPending := [], sgPos := []
    meterTok := [], meterRed := [], recov := [], pair := [], partner := [], linkUp := false, mismatch := false
    switched := false, hbmiss := 0, misscan := 0, mirrorNext := none, mirrorFrom := 0, mirrorAgain := false, mirInprog := false, mirScan := 0
    bridged := [], bridgeTag := 0, remote := [], stageSlots := [], dbAccepted := [], dbRes := [], resetting := [], scRes := 0, scBusy := false, scAsked := false
    remapBusy := false, replayBusy := false, replayErr := false, svirq := 0, mip := [], temp := [], pwr := 0, overpwr := false
    overMs := 0, life := .manufacture, lifePending := none, safe := none, out := [] }

/-- No instruction has issued yet. -/
def Issue.reset : Issue :=
  { len := 0, npc := 0, words := [], sig := SigState.reset, ender := false, xfer := false, charge := false }

/-- The machine right after reset: every slot parked with no thread (R465), every memory wiped (R68, R118). -/
def State.reset : State :=
  { large := false, now := 0, turn := 0, phase := .issue, barTouched := [], agenda := [], later := [], cur := 0, iss := Issue.reset, fresh := 0, cores := [], mem := []
    poison := [], channels := [], slices := [], tlb := [], wcache := [], walks := [], shoot := [], traced := [], launches := [], residents := [], lanes := []
    takings := [], marks := [], pushed := [], dieTurn := [], lastPart := [], lastQueue := [], missPosted := []
    replay := [], parts := [], sched := TsSched.reset, saved := [], gates := [], wseq := 0
    fqHead := [], fqTail := [], fqWait := [], deferredEnds := [], budgetParked := [], hub := Hub.reset }

end Sys2Proof.Machine
end

