-- ==== Sys2Proof/Machine/Base.lean ====
section
/-! DEFINITION. Access to the parts of the state, the meaning monad, and the scalar, predicate and queue registers
(R154 to R157). -/

namespace Sys2Proof.Machine

/-! ## Parts of the state -/

/-- A core that nothing has touched: it holds the scan and beat that every core has current (R366). -/
def State.freshCore (s : State) : Core := { Core.reset with scan := s.hub.coreScan, beat := s.hub.coreBeat }

/-- Core `c`. -/
def State.core (s : State) (c : Nat) : Core := s.cores.val c s.freshCore

/-- Whether a core is offline or on its way there (R324, R410). -/
def Health.gone (h : Health) : Bool := h.offline || h.leaving

/-- Replaces core `c`. -/
def State.setCore (s : State) (c : Nat) (k : Core) : State := { s with cores := s.cores.put c k }

/-- A slot that nothing has touched: its PTAGs hold the core's scan (R139). -/
def Core.freshSlot (k : Core) : Slot := { Slot.reset with ptag := Vector.replicate 8 (ofN (k.scan * 65536)) }

/-- Slot `i` of a core. -/
def Core.slot (k : Core) (i : Nat) : Slot := k.slots.val i k.freshSlot

/-- The slot with global number `gs` (R15). -/
def State.slot (s : State) (gs : Nat) : Slot := (s.core (gs / 16)).slot (gs % 16)

/-- Replaces the slot with global number `gs`. -/
def State.setSlot (s : State) (gs : Nat) (x : Slot) : State :=
  s.setCore (gs / 16) { s.core (gs / 16) with slots := (s.core (gs / 16)).slots.put (gs % 16) x }

/-- The slot whose instruction executes. -/
def State.me (s : State) : Slot := s.slot s.cur

/-- Replaces the slot whose instruction executes. -/
def State.setMe (s : State) (x : Slot) : State := s.setSlot s.cur x

/-- The core whose instruction executes. -/
def State.myCore (s : State) : Nat := s.cur / 16

/-- The partition words of partition `p` (R377). -/
def State.part (s : State) (p : Nat) : PartWords := s.parts.val p (PartWords.reset p)

/-- Replaces the partition words of `p`. -/
def State.setPart (s : State) (p : Nat) (w : PartWords) : State := { s with parts := s.parts.put p w }

/-- Home slice `n`. -/
def State.slice (s : State) (n : Nat) : Slice := s.slices.val n Slice.reset

/-- Replaces home slice `n`. -/
def State.setSlice (s : State) (n : Nat) (x : Slice) : State := { s with slices := s.slices.put n x }

/-- The partition of a slot's current task (R168). -/
def Slot.part (x : Slot) : Nat := fld x.ptroot 47 44

/-- SW.PRIV (R163). -/
def Slot.priv (x : Slot) : Bool := bitOf x.sw 8

/-- SW.MODE: 0 free, 1 figure, 2 tracing (R163). -/
def Slot.mode (x : Slot) : Nat := fld x.sw 7 6

/-- SW.NXM (R163). -/
def Slot.nxm (x : Slot) : Bool := bitOf x.sw 0

/-- Whether a slot holds a task (R465). -/
def Slot.holds (x : Slot) : Bool := x.task.isSome

/-- Length of the core list of a partition (R377). -/
def PartWords.clen (w : PartWords) : Nat := fld w.w0 61 53

/-- Entry `i` of the core list of partition `p` (R377). -/
def State.clist (s : State) (p i : Nat) : Nat := (s.part p).clist.val i (if p = 0 then i else 0)

/-- Whether core `c` is in the core set of partition `p`. -/
def State.inCoreSet (s : State) (p c : Nat) : Bool :=
  (List.range (s.part p).clen).any (fun i => decide (s.clist p i = c))

/-- The slot set of a partition as a mask (R377). -/
def PartWords.slotMask (w : PartWords) : Nat := fld w.w0 47 32

/-- The LM banks of a partition as a mask (R118, R377). -/
def PartWords.banks (w : PartWords) : Nat := fld w.w0 31 16

/-- AWAYS [15:0] and RWAYS [31:16] of a partition in a slice (R89, R377). -/
def State.waysOf (s : State) (p n : Nat) : Nat := (s.part p).ways.val n (if p = 0 then 0xFFFF else 0)

/-- The reserved ways of a partition in a slice: none after a reset of the partition has wiped them there (R111). -/
def State.rways (s : State) (p n : Nat) : Nat :=
  if (s.slice n).noWays.any (fun q => decide (q = p)) then 0 else nbits (s.waysOf p n) 31 16

/-- The accumulator tiles given to slot number `i` of partition `p` (R377). -/
def State.accMask (s : State) (p i : Nat) : Nat := (s.part p).acc.val i 0

/-! ## The meaning monad -/

/-- Why an instruction does not complete: it waits, or it faults. What it has changed so far is dropped (R10, R156);
`keep` is the change to the state at its issue that stays. -/
inductive Stop
  | wait (w : WaitFor) (keep : State → State)
  | fault (f : FaultInfo) (keep : State → State)

/-- A meaning: a state transformer that may stop. -/
abbrev M := StateT State (Except Stop)

/-- Reads a part of the state. -/
def gets (f : State → α) : M α := fun s => .ok (f s, s)

/-- Changes the state. -/
def upd (f : State → State) : M Unit := fun s => .ok ((), f s)

/-- Stops with a wait; nothing changes. -/
def waitOn (w : WaitFor) : M α := fun _ => .error (.wait w id)

/-- Stops with a wait that leaves a change behind. -/
def waitKeep (w : WaitFor) (keep : State → State) : M α := fun _ => .error (.wait w keep)

/-- An instruction fault of class P (R390). -/
def faultP (code : Nat) (addr : Word := 0) : M α :=
  fun _ => .error (.fault { code := code, addr := addr, loc := false, kind := 0, cause := 0, extra := [] } id)

/-- An instruction fault of class L (R390, R391). -/
def faultL (code : Nat) (addr : Word := 0) : M α :=
  fun _ => .error (.fault { code := code, addr := addr, loc := true, kind := 0, cause := 0, extra := [] } id)

/-- A fault of class P or L that leaves a change behind. -/
def faultKeep (code : Nat) (loc : Bool) (keep : State → State) : M α :=
  fun _ => .error (.fault { code := code, addr := 0, loc := loc, kind := 0, cause := 0, extra := [] } keep)

/-- Raises a fault of class P unless a condition holds. -/
def needP (c : Bool) (code : Nat) (addr : Word := 0) : M Unit := if c then pure () else faultP code addr

/-- Raises a fault of class L unless a condition holds. -/
def needL (c : Bool) (code : Nat) (addr : Word := 0) : M Unit := if c then pure () else faultL code addr

/-- Waits unless a condition holds. -/
def needW (c : Bool) : M Unit := if c then pure () else waitOn .retry

/-- Waits, as an instruction that has issued (R367), unless a condition holds. -/
def needSync (c : Bool) : M Unit := if c then pure () else waitOn .sync

/-- The slot whose instruction executes. -/
def me : M Slot := gets State.me

/-- Changes the slot whose instruction executes. -/
def updMe (f : Slot → Slot) : M Unit := upd (fun s => s.setMe (f s.me))

/-- The core whose instruction executes. -/
def myCore : M Core := gets (fun s => s.core s.myCore)

/-- Changes the core whose instruction executes. -/
def updCore (f : Core → Core) : M Unit := upd (fun s => s.setCore s.myCore (f (s.core s.myCore)))

/-! ## Fault codes (R390) -/

def fcIllegalOpcode : Nat := 1
def fcIllegalPrefix : Nat := 2
def fcPrivilege : Nat := 3
def fcAlign : Nat := 4
def fcStackLimit : Nat := 5
def fcPageAbsent : Nat := 6
def fcPageRights : Nat := 7
def fcPoison : Nat := 8
def fcLmUncorrectable : Nat := 9
def fcScheduleTag : Nat := 10
def fcStaleData : Nat := 11
def fcFormatMismatch : Nat := 12
def fcTableUnsealed : Nat := 13
def fcBarrierOverrun : Nat := 14
def fcBarrierUnderflow : Nat := 15
def fcAtomicOrder : Nat := 16
def fcGateRights : Nat := 17
def fcGateRate : Nat := 18
def fcGateClosed : Nat := 19
def fcGatePeerReset : Nat := 20
def fcSignature : Nat := 21
def fcWatchdog : Nat := 22
def fcBudget : Nat := 23
def fcTrap : Nat := 24
def fcBrk : Nat := 25
def fcStaleTin : Nat := 26
def fcLaunch : Nat := 27
def fcQueueMiss : Nat := 64
def fcUnbackedEvict : Nat := 65
def fcLateAttach : Nat := 66
def fcMemUe : Nat := 67
def fcCoreSuspect : Nat := 68

/-! ## Conditions (R157) -/

/-- Messages of a slot in flight (R142), those of its own partition. -/
def Slot.inFlight (x : Slot) : Nat := (x.flights.filter (fun f => f.counted && decide (f.part = x.part))).length

/-- Whether condition `n` holds in a slot. -/
def Slot.cond (x : Slot) (n : Nat) : Bool :=
  if n = 0 then true
  else if n < 16 then x.p.getLsbD n
  else if n < 20 then !(x.inq[n - 16]!).isEmpty
  else match n with
    | 20 => !x.inbox.isEmpty
    | 21 => !x.q5.isEmpty
    | 22 => !x.q6.isEmpty
    | 23 => !x.q7.isEmpty
    | 28 => decide (x.inFlight < 4)
    | 29 => false
    | 30 => decide (x.q6.length < 8)
    | 31 => decide (x.q7.length < 8)
    | _ => decide ((x.outq[n - 24]!).length < 4)

/-- Writes a predicate; a write to p0 is ignored (R157). -/
def Slot.setPred (x : Slot) (n : Nat) (b : Bool) : Slot :=
  if n = 0 then x else
    { x with p := if b then x.p ||| (1#16 <<< n) else x.p &&& ~~~(1#16 <<< n) }

/-! ## Scalar operands (R154, R156) -/

/-- Words that can be popped from scalar operand `n`; the inbox counts the unpopped words of all its messages. -/
def Slot.avail (x : Slot) (n : Nat) : Nat :=
  if n < 28 then (x.inq[n - 24]!).length
  else if n = 28 then (x.inbox.map (fun m => m.words.length - m.popped)).sum
  else if n = 29 then x.q5.length
  else x.q7.length

/-- Whether queue `n` has room for `k` more words. The outbox is no queue that the wait applies to (R295). -/
def Slot.room (x : Slot) (n k : Nat) : Bool :=
  if n < 28 then decide ((x.outq[n - 24]!).length + k ≤ 4)
  else if n = 28 then true
  else decide (x.q6.length + k ≤ 8)

/-- Whether the scalar stream may read operand `n` (R156): q6 is write only. -/
def scalarReadable (n : Nat) : Bool := !decide (n = 30)

/-- Whether the scalar stream may write operand `n` (R156): q5 and q7 are never written. -/
def scalarWritable (n : Nat) : Bool := !decide (n = 29) && !decide (n = 31)

/-- Whether the Treadle stream may read operand `n` (R156): of the queues, q0 to q3 and q6. -/
def treadleReadable (n : Nat) : Bool := decide (n < 28) || decide (n = 30)

/-- Whether the Treadle stream may write operand `n` (R156): of the queues, q0 to q3 and q7. -/
def treadleWritable (n : Nat) : Bool := decide (n < 28) || decide (n = 31)

/-- How often a number stands in a list. -/
def timesIn (n : Nat) (l : List Nat) : Nat := (l.filter (fun m => decide (m = n))).length

/-- The issue condition of R156 over the operands that an instruction reads and writes: a queue in the wrong
direction raises `ILLEGAL_OPCODE`; then every queue read holds a word for each read and every queue written has
room, or the instruction waits whole. A ninth word for the outbox raises `ILLEGAL_OPCODE` (R295). -/
def operandsReady (reads writes : List Nat) : M Unit := do
  needP (reads.all scalarReadable && writes.all scalarWritable) fcIllegalOpcode
  let x ← me
  needW (reads.all (fun n => decide (n < 24) || decide (timesIn n reads ≤ x.avail n)) &&
    writes.all (fun n => decide (n < 24) || x.room n (timesIn n writes)))
  needP (writes.all (fun n => !decide (n = 28) || decide (x.outbox.length + timesIn n writes ≤ 8))) fcIllegalOpcode

/-- Whether a typed word passes the receiver's check (R173). -/
def typedOk (x : Slot) (nxm : Bool) (fmt : Nat) : Bool :=
  decide (fmt = 0) ||
    (decide (nxm = x.nxm) && (decide (fld x.sw 22 19 = 0) || decide (fld x.sw 22 19 = fmt)))

/-- Pops the next word of the head message, and the message when it was its last word (R141). -/
def Slot.popInbox (x : Slot) : Slot :=
  match x.inbox with
  | [] => x
  | m :: ms =>
    if m.popped + 1 < m.words.length then { x with inbox := { m with popped := m.popped + 1 } :: ms }
    else { x with inbox := ms }

/-- Reads scalar operand `n`: a general register, or one word popped from a queue (R155, R156, R173). -/
def readS (n : Nat) : M Word := do
  let x ← me
  if n < 24 then pure x.g[n]!
  else if n < 28 then
    match x.inq[n - 24]! with
    | [] => waitOn .retry
    | w :: ws => do
      needL (typedOk x w.nxm w.fmt) fcFormatMismatch
      updMe (fun x => { x with inq := x.inq.setIfInBounds (n - 24) ws })
      pure w.val
  else if n = 28 then
    match x.inbox with
    | [] => waitOn .retry
    | m :: _ => do
      needL (typedOk x m.nxm m.fmt) fcFormatMismatch
      updMe Slot.popInbox
      pure (m.words.getD m.popped 0)
  else if n = 29 then
    match x.q5 with
    | [] => waitOn .retry
    | w :: ws => do
      updMe (fun x => { x with q5 := ws })
      pure w
  else
    match x.q7 with
    | [] => waitOn .retry
    | w :: ws => do
      updMe (fun x => { x with q7 := ws })
      pure w

/-- Writes a slot's general register or pushes a word (R155, R156); a word for q0 to q3 takes SW.NXM and SW.WFMT as
its sideband (R133, R163). -/
def Slot.writeS (x : Slot) (n : Nat) (w : Word) : Slot :=
  if n < 24 then { x with g := x.g.setIfInBounds n w }
  else if n < 28 then
    let word : QWord := { val := w, nxm := x.nxm, fmt := fld x.sw 26 23 }
    { x with outq := x.outq.setIfInBounds (n - 24) (x.outq[n - 24]! ++ [word]) }
  else if n = 28 then { x with outbox := x.outbox ++ [w] }
  else if n = 30 then { x with q6 := x.q6 ++ [w] }
  else x

/-- Writes scalar operand `n`. -/
def writeS (n : Nat) (w : Word) : M Unit := updMe (fun x => x.writeS n w)

/-- Writes predicate `n`. -/
def writeP (n : Nat) (b : Bool) : M Unit := updMe (fun x => x.setPred n b)

/-- ORs sticky flags into SW (R164): NV, DZ, OF, UF, NX. -/
def Slot.orFlags (x : Slot) (fl : Nat) : Slot := { x with sw := x.sw ||| ofN (fl * 2 ^ 27) }

/-- Redirects the flow of control: the transfer target becomes the next PC (R217). -/
def jump (t : Nat) : M Unit := upd (fun s => { s with iss := { s.iss with npc := t, xfer := true } })

/-! ## Register words with an uncorrectable error (R401) -/

/-- Numbers of the register words of a slot and its core, as `Core.regBad` names them (assumption 90): g0 to g23, the
predicates, v0 to v15, accumulator tiles, the latch banks and the spill ring. -/
def unitP : Nat := 24
def unitV (v : VReg) : Nat := 32 + v.val
def unitTile (t : Nat) : Nat := 48 + t
def unitLatch : Nat := 56
def unitSpill : Nat := 57

/-- The place of a register word: of a slot, or of the core. -/
def unitPlace (slot u : Nat) : Nat := if u < 48 then u * 16 + slot else u * 16

/-- Whether one of these register words holds an uncorrectable error (R401). -/
def Core.unitsBad (k : Core) (slot : Nat) (l : List Nat) : Bool :=
  k.regBad.any (fun b => l.any (fun u => decide (b = unitPlace slot u)))

/-- The core with these register words written anew. -/
def Core.unitsWritten (k : Core) (slot : Nat) (l : List Nat) : Core :=
  { k with regBad := k.regBad.filter (fun b => !l.any (fun u => decide (b = unitPlace slot u))) }

end Sys2Proof.Machine
end

