-- ==== Sys2Proof/Machine/Flags.lean ====
section
/-! DEFINITION. The sticky flags of SW (R163, R174, R265) as a set of bits that an operation raises. -/

namespace Sys2Proof.Machine

/-- Flags that an operation raises: NV 16, DZ 8, OF 4, UF 2, NX 1, the order of SW[31:27]. -/
abbrev FlagSet := Nat

def flNV : FlagSet := 16
def flDZ : FlagSet := 8
def flOF : FlagSet := 4
def flUF : FlagSet := 2
def flNX : FlagSet := 1

/-- The flags of two operations. -/
def flOr (a b : FlagSet) : FlagSet := a ||| b

/-- ORs flags into SW of the executing slot (R164). -/
def raiseFlags (fl : FlagSet) : M Unit := if fl = 0 then pure () else updMe (fun x => x.orFlags fl)

/-- A value kept in a range, with OF when it lay outside (R264, R274). -/
def saturate (lo hi x : Int) : Int × FlagSet := if x < lo then (lo, flOF) else if hi < x then (hi, flOF) else (x, 0)

end Sys2Proof.Machine
end

