-- ==== Sys2Proof/Machine/Fp.lean ====
section
/-! DEFINITION. Floating-point formats and rounding (R169, R170, R174, R265 to R268): values as exact dyadic numbers,
one rounding at the end. -/

namespace Sys2Proof.Machine

/-- A floating-point format: exponent and fraction widths (R169). -/
structure FpFmt where
  eb : Nat
  fb : Nat
  deriving DecidableEq, Repr

def fp32 : FpFmt := ⟨8, 23⟩
def bf16 : FpFmt := ⟨8, 7⟩
def fp16 : FpFmt := ⟨5, 10⟩
def e8m10 : FpFmt := ⟨8, 10⟩

/-- Bias of a format. -/
def FpFmt.bias (f : FpFmt) : Nat := 2 ^ (f.eb - 1) - 1
/-- Infinity without sign. -/
def FpFmt.inf (f : FpFmt) : Nat := (2 ^ f.eb - 1) * 2 ^ f.fb
/-- The sign bit. -/
def FpFmt.sign (f : FpFmt) (neg : Bool) : Nat := if neg then 2 ^ (f.eb + f.fb) else 0
/-- The canonical NaN (R169). -/
def FpFmt.nan (f : FpFmt) : Nat := f.inf + 2 ^ (f.fb - 1)

/-- Rounding modes (R174). -/
inductive Rm
  | rne | rtz | rup | rdn
  deriving DecidableEq, Repr

/-- The rounding mode that SW.RM codes (R163). -/
def rmOf (n : Nat) : Rm :=
  match n with
  | 0 => .rne
  | 1 => .rtz
  | 2 => .rup
  | _ => .rdn

/-- A floating-point value: a NaN, an infinity, or (−1)^neg × m × 2^e. -/
inductive FpVal
  | nan (signalling : Bool)
  | inf (neg : Bool)
  | fin (neg : Bool) (m : Nat) (e : Int)
  deriving DecidableEq, Repr

/-- The value of a pattern (R169). -/
def FpFmt.decode (f : FpFmt) (x : Nat) : FpVal :=
  let neg := x.testBit (f.eb + f.fb)
  let ex := x / 2 ^ f.fb % 2 ^ f.eb
  let fr := x % 2 ^ f.fb
  if ex = 2 ^ f.eb - 1 then
    if fr = 0 then .inf neg else .nan (!fr.testBit (f.fb - 1))
  else if ex = 0 then .fin neg fr (1 - (f.bias : Int) - f.fb)
  else .fin neg (2 ^ f.fb + fr) ((ex : Int) - f.bias - f.fb)

/-- Whether a value is a NaN. -/
def FpVal.isNan : FpVal → Bool
  | .nan _ => true
  | _ => false

/-- Whether a value is a signalling NaN. -/
def FpVal.isSnan : FpVal → Bool
  | .nan s => s
  | _ => false

/-- Whether a discarded part rounds the magnitude up: `half` compares it with half a unit (0 below, 1 equal, 2
above), `inexact` tells that it is not zero. -/
def roundsUp (rm : Rm) (neg odd inexact : Bool) (half : Nat) : Bool :=
  match rm with
  | .rne => decide (half = 2) || (decide (half = 1) && odd)
  | .rtz => false
  | .rup => inexact && !neg
  | .rdn => inexact && neg

/-- Rounds m × 2^e, plus a part below every unit when `sticky`, to a multiple of 2^q; answers the quotient and
whether it is inexact. -/
def roundAt (rm : Rm) (neg : Bool) (m : Nat) (e q : Int) (sticky : Bool) : Nat × Bool :=
  let up := (e - q + 2).toNat
  let m := m * 2 ^ up
  let k := (q - (e - up)).toNat
  let quo := m / 2 ^ k
  let rem := m % 2 ^ k
  let inexact := !decide (rem = 0) || sticky
  let half := if 2 * rem < 2 ^ k then 0 else if 2 * rem = 2 ^ k ∧ sticky = false then 1 else 2
  (quo + b2n (roundsUp rm neg (quo.testBit 0) inexact half), inexact)

/-- `Round` of R9 to a format: pattern and flags. The magnitude is m × 2^e, plus a part below every unit when `sticky`;
tininess is detected after rounding (R174). -/
def FpFmt.round (f : FpFmt) (rm : Rm) (neg : Bool) (m : Nat) (e : Int) (sticky : Bool) : Nat × FlagSet :=
  if m = 0 ∧ sticky = false then (f.sign neg, 0)
  else
    let top : Int := e + (if m = 0 then 0 else Nat.log2 m)
    let emin : Int := 1 - (f.bias : Int)
    let q := max top emin - f.fb
    let (quo, inexact) := roundAt rm neg m e q sticky
    let mag := (q + f.fb - emin).toNat * 2 ^ f.fb + quo
    let tiny := decide (top < emin) &&
      !(decide (top = emin - 1) && decide ((roundAt rm neg m e (top - f.fb) sticky).1 = 2 ^ (f.fb + 1)))
    if mag ≥ f.inf then
      let toInf := match rm with
        | .rne => true
        | .rtz => false
        | .rup => !neg
        | .rdn => neg
      (f.sign neg + (if toInf then f.inf else f.inf - 1), flOF + flNX)
    else (f.sign neg + mag, (if inexact then flNX + (if tiny then flUF else 0) else 0))

/-- The sum of two dyadic numbers with signs: exact. -/
def dyAdd (a : Int) (ea : Int) (b : Int) (eb : Int) : Int × Int :=
  let e := min ea eb
  (a * 2 ^ (ea - e).toNat + b * 2 ^ (eb - e).toNat, e)

/-- The signed mantissa. -/
def signed (neg : Bool) (m : Nat) : Int := if neg then -(m : Int) else m

/-- Rounds an exact signed dyadic number; an exact zero has the sign that the caller names. -/
def FpFmt.roundInt (f : FpFmt) (rm : Rm) (zeroNeg : Bool) (m e : Int) : Nat × FlagSet :=
  if m = 0 then (f.sign zeroNeg, 0) else f.round rm (decide (m < 0)) m.natAbs e false

/-- Addition of two values with one rounding. -/
def FpFmt.addV (f : FpFmt) (rm : Rm) (x y : FpVal) : Nat × FlagSet :=
  match x, y with
  | .nan s, y => (f.nan, if s || y.isSnan then flNV else 0)
  | _, .nan s => (f.nan, if s then flNV else 0)
  | .inf a, .inf b => if a = b then (f.sign a + f.inf, 0) else (f.nan, flNV)
  | .inf a, _ => (f.sign a + f.inf, 0)
  | _, .inf b => (f.sign b + f.inf, 0)
  | .fin n m e, .fin n' m' e' =>
    let (v, ve) := dyAdd (signed n m) e (signed n' m') e'
    f.roundInt rm (if m = 0 ∧ m' = 0 ∧ n = n' then n else decide (rm = .rdn)) v ve

/-- Negation of a value. -/
def FpVal.neg : FpVal → FpVal
  | .nan s => .nan s
  | .inf a => .inf (!a)
  | .fin n m e => .fin (!n) m e

/-- a × b as a value, with the invalid-operation flag of 0 × ∞. -/
def mulV (x y : FpVal) : FpVal × FlagSet :=
  match x, y with
  | .nan s, y => (.nan false, if s || y.isSnan then flNV else 0)
  | _, .nan s => (.nan false, if s then flNV else 0)
  | .inf a, .inf b => (.inf (a != b), 0)
  | .inf a, .fin n m _ => if m = 0 then (.nan false, flNV) else (.inf (a != n), 0)
  | .fin n m _, .inf b => if m = 0 then (.nan false, flNV) else (.inf (n != b), 0)
  | .fin n m e, .fin n' m' e' => (.fin (n != n') (m * m') (e + e'), 0)

/-- Rounds a value to a format. -/
def FpFmt.roundV (f : FpFmt) (rm : Rm) (x : FpVal) : Nat × FlagSet :=
  match x with
  | .nan s => (f.nan, if s then flNV else 0)
  | .inf a => (f.sign a + f.inf, 0)
  | .fin n m e => f.round rm n m e false

/-- FP32 sum, difference, product and fused forms (R266). -/
def f32Add (rm : Rm) (a b : Nat) : Nat × FlagSet := fp32.addV rm (fp32.decode a) (fp32.decode b)
def f32Sub (rm : Rm) (a b : Nat) : Nat × FlagSet := fp32.addV rm (fp32.decode a) (fp32.decode b).neg
def f32Mul (rm : Rm) (a b : Nat) : Nat × FlagSet :=
  let (v, fl) := mulV (fp32.decode a) (fp32.decode b)
  let (r, fl') := fp32.roundV rm v
  (r, flOr fl fl')
def f32Fma (rm : Rm) (a b d : Nat) : Nat × FlagSet :=
  let (v, fl) := mulV (fp32.decode a) (fp32.decode b)
  let (r, fl') := fp32.addV rm v (fp32.decode d)
  (r, flOr fl fl')
def f32Fms (rm : Rm) (a b d : Nat) : Nat × FlagSet :=
  let (v, fl) := mulV (fp32.decode a) (fp32.decode b)
  let (r, fl') := fp32.addV rm v (fp32.decode d).neg
  (r, flOr fl fl')

/-- Integer square root by bits: the greatest r with r² ≤ n, for r below 2^k. -/
def isqrtBits (n : Nat) : Nat → Nat → Nat
  | 0, r => r
  | k + 1, r => if (r + 2 ^ k) * (r + 2 ^ k) ≤ n then isqrtBits n k (r + 2 ^ k) else isqrtBits n k r

/-- The greatest r with r² ≤ n. -/
def isqrt (n : Nat) : Nat := isqrtBits n (Nat.log2 n / 2 + 1) 0

/-- 1/x (R268). -/
def f32Rcp (rm : Rm) (x : Nat) : Nat × FlagSet :=
  match fp32.decode x with
  | .nan s => (fp32.nan, if s then flNV else 0)
  | .inf a => (fp32.sign a, 0)
  | .fin n m e =>
    if m = 0 then (fp32.sign n + fp32.inf, flDZ)
    else fp32.round rm n (2 ^ 80 / m) (-80 - e) (!decide (2 ^ 80 % m = 0))

/-- √x (R268). -/
def f32Sqrt (rm : Rm) (x : Nat) : Nat × FlagSet :=
  match fp32.decode x with
  | .nan s => (fp32.nan, if s then flNV else 0)
  | .inf a => if a then (fp32.nan, flNV) else (fp32.inf, 0)
  | .fin n m e =>
    if m = 0 then (fp32.sign n, 0)
    else if n then (fp32.nan, flNV)
    else
      let sh : Nat := if e % 2 = 0 then 80 else 81
      let v := m * 2 ^ sh
      let r := isqrt v
      fp32.round rm false r ((e - sh) / 2) (!decide (r * r = v))

/-- 1/√x (R268): with x = m × 2^e, e even, the square root of 2^160 / m, times 2^(−80 − e/2). -/
def f32Rsq (rm : Rm) (x : Nat) : Nat × FlagSet :=
  match fp32.decode x with
  | .nan s => (fp32.nan, if s then flNV else 0)
  | .inf a => if a then (fp32.nan, flNV) else (0, 0)
  | .fin n m e =>
    if m = 0 then (fp32.sign n + fp32.inf, flDZ)
    else if n then (fp32.nan, flNV)
    else
      let m2 := if e % 2 = 0 then m else 2 * m
      let e2 := if e % 2 = 0 then e else e - 1
      let r := isqrt (2 ^ 160 / m2)
      fp32.round rm false r (-80 - e2 / 2) (!decide (r * r * m2 = 2 ^ 160))

/-- Fraction bits of the fixed-point numbers from which 2^x and log2 x are rounded. -/
def fixBits : Nat := 320

/-- ln 2 × 2^320, rounded down. -/
def ln2Fix : Nat := 0xb17217f7d1cf79abc9e3b39803f2f6af40f343267298b62d8a0d175b8baafa2be7b876206debac98

/-- The series of e^y from the term `t` of index `i` on. -/
def expSeries (y : Nat) : Nat → Nat → Nat → Nat
  | 0, _, t => t
  | k + 1, i, t => t + expSeries y k (i + 1) (t * y / 2 ^ fixBits / (i + 1))

/-- 2^f × 2^320 for a fraction f given as f × 2^320, to within the last 20 bits. -/
def exp2Fix (f : Nat) : Nat := expSeries (f * ln2Fix / 2 ^ fixBits) 90 0 (2 ^ fixBits)

/-- The series of 2 × artanh z: the odd powers of z over their indices. -/
def artanhSeries (z2 : Nat) : Nat → Nat → Nat → Nat
  | 0, i, t => t / i
  | k + 1, i, t => t / i + artanhSeries z2 k (i + 2) (t * z2 / 2 ^ fixBits)

/-- log2 of m / 2^n × 2^320, for 2^n < m < 2^(n + 1), to within the last 20 bits. -/
def log2Fix (m n : Nat) : Nat :=
  let z := (m - 2 ^ n) * 2 ^ fixBits / (m + 2 ^ n)
  2 * artanhSeries (z * z / 2 ^ fixBits) 120 1 z * 2 ^ fixBits / ln2Fix

/-- 2^x (R268): exact for an integer x; otherwise irrational, so the last bits of the fixed-point value stand for a
part below every unit. -/
def f32Exp2 (rm : Rm) (x : Nat) : Nat × FlagSet :=
  match fp32.decode x with
  | .nan s => (fp32.nan, if s then flNV else 0)
  | .inf a => if a then (0, 0) else (fp32.inf, 0)
  | .fin n m e =>
    if m = 0 then (0x3F800000, 0)
    else if 9 ≤ e + Nat.log2 m then
      if n then fp32.round rm false 1 (-300) true else fp32.round rm false 1 300 true
    else
      let v : Int := signed n m
      -- x × 2^200 is an integer here, since e is at least −149
      let fx : Int := v * 2 ^ (e + 200).toNat
      let i : Int := fx / 2 ^ 200
      let f : Nat := (fx % 2 ^ 200).toNat
      if f = 0 then fp32.round rm false 1 i false
      else fp32.round rm false (exp2Fix (f * 2 ^ (fixBits - 200)) / 2 ^ 24) (i - (fixBits - 24)) true

/-- log2 x (R268): exact for a power of two, otherwise irrational. -/
def f32Log2 (rm : Rm) (x : Nat) : Nat × FlagSet :=
  match fp32.decode x with
  | .nan s => (fp32.nan, if s then flNV else 0)
  | .inf a => if a then (fp32.nan, flNV) else (fp32.inf, 0)
  | .fin n m e =>
    if m = 0 then (fp32.sign true + fp32.inf, flDZ)
    else if n then (fp32.nan, flNV)
    else
      let l := Nat.log2 m
      let i : Int := e + l
      if m = 2 ^ l then fp32.roundInt rm false i 0
      else
        let fx : Int := i * 2 ^ fixBits + log2Fix m l
        -- the true value lies between fx and fx + 2^24 units; a negative value is rounded by its magnitude
        if 0 ≤ fx then fp32.round rm false (fx / 2 ^ 24).toNat (24 - (fixBits : Int)) true
        else fp32.round rm true ((-fx) / 2 ^ 24).toNat (24 - (fixBits : Int)) true

/-- Order of two FP32 values that are no NaN: −1, 0 or 1; −0 equals +0. -/
def fpCompare (x y : FpVal) : Int :=
  match x, y with
  | .inf a, .inf b => if a = b then 0 else if a then -1 else 1
  | .inf a, _ => if a then -1 else 1
  | _, .inf b => if b then 1 else -1
  | .fin n m e, .fin n' m' e' =>
    let d := (dyAdd (signed n m) e (-(signed n' m')) e').1
    if d < 0 then -1 else if 0 < d then 1 else 0
  | _, _ => 0

/-- The lesser or greater lane (R267): −0 counts as less than +0. -/
def f32MinMax (max : Bool) (a b : Nat) : Nat × FlagSet :=
  let x := fp32.decode a
  let y := fp32.decode b
  if x.isNan || y.isNan then (fp32.nan, if x.isSnan || y.isSnan then flNV else 0)
  else
    let c := fpCompare x y
    let less := decide (c < 0) || (decide (c = 0) && a.testBit 31 && !b.testBit 31)
    ((if less = max then b else a), 0)

/-- The E8M10 pattern of a BF16 or FP16 pattern (R170): exact. -/
def toE8m10 (f : FpFmt) (x : Nat) : Nat :=
  match f.decode x with
  | .nan _ => f.sign false + e8m10.sign (x.testBit (f.eb + f.fb)) + e8m10.inf + x % 2 ^ f.fb * 2 ^ (10 - f.fb)
  | v => (e8m10.roundV .rne v).1

/-- A value rounded to an integer under a mode: the integer, and whether it is inexact. -/
def roundToInt (rm : Rm) (neg : Bool) (m : Nat) (e : Int) : Int × Bool :=
  let (q, inexact) := roundAt rm neg m e 0 false
  (signed neg q, inexact)

end Sys2Proof.Machine
end

