-- ==== Sys2Proof/Machine/Mem.lean ====
section
/-! DEFINITION. Memory: homes and their slices (R64, R86 to R98), poison marks (R233) and the L1 data caches (R113, R114,
R116). A byte stands at its home under
its home key: the physical address of a backed byte, and for a byte of an unbacked page a number above them all
that holds its HOME, PART, ASN, page and offset (R100). -/

namespace Sys2Proof.Machine

/-! ## Homes -/

/-- DRAM bytes of one channel group (R64). -/
def State.groupBytes (s : State) : Nat := 4 * Config.channelBytes s.large

/-- End of the DRAM region (R19). -/
def State.dramEnd (s : State) : Nat := 16 * Config.channelBytes s.large

/-- Base of the hub window (R19). -/
def hubBase : Nat := 0xF0000000000

/-- End of the physical space (R19). -/
def physEnd : Nat := 2 ^ 44

/-- The home slice of a backed line (R87). -/
def State.backedHome (s : State) (pa : Nat) : Nat :=
  let ln := pa % s.groupBytes / 256
  pa / s.groupBytes * 16 + ((nbits ln 3 0 ^^^ nbits ln 13 10) ^^^ nbits ln 23 20)

/-- The channel and the address in it of a backed byte (R64). -/
def State.channelOf (s : State) (pa : Nat) : Nat × Nat :=
  let o := pa % s.groupBytes
  let q := o / 1024
  let i := ((o / 256 % 4) ^^^ (q % 4)) ^^^ (q / 64 % 4)
  (4 * (pa / s.groupBytes) + i, q * 256 + o % 256)

/-- The home key of byte `off` of an unbacked page (R100). -/
def unbackedKey (slice part asn vpn off : Nat) : Nat :=
  physEnd + (((slice * 16 + part) * 65536 + asn) * 2 ^ 33 + vpn) * 16384 + off

/-- Whether a home key names a byte of an unbacked page. -/
def isUnbacked (key : Nat) : Bool := decide (physEnd ≤ key)

/-- HOME, PART, ASN and page of an unbacked home key. -/
def unbackedPage (key : Nat) : Nat × Nat × Nat × Nat :=
  let k := (key - physEnd) / 16384
  (k / 2 ^ 33 / 65536 / 16, k / 2 ^ 33 / 65536 % 16, k / 2 ^ 33 % 65536, k % 2 ^ 33)

/-- The home slice of a key (R87, R88). -/
def State.homeSlice (s : State) (key : Nat) : Nat :=
  if isUnbacked key then (unbackedPage key).1 % 64 else s.backedHome key

/-- The die of a core. -/
def dieOfCore (c : Nat) : Nat := c / 64

/-- The die of a key's home (R87). -/
def State.homeDie (s : State) (key : Nat) : Nat := s.homeSlice key / 16

/-- The cluster of a core, counted over the device (R15). -/
def clusterOf (c : Nat) : Nat := c / 64 * 16 + (c % 64 / 8 / 2 * 4 + c % 8 / 2)

/-! ## Bytes at their homes -/

/-- A byte at its home; a byte that no write has reached is zero (R68, R103). -/
def memByte (m : List Host.Cell) (a : Nat) : Byte := SMap.val m a 0

/-- Writes one byte; a zero byte is not listed. -/
def memPut (m : List Host.Cell) (a : Nat) (b : Byte) : List Host.Cell :=
  if b = 0 then SMap.del m a else SMap.put m a b

/-- The canonical form of a byte memory: addresses strictly rise and no byte listed is zero. -/
def Memory.wf : List Host.Cell → Bool
  | [] => true
  | [(_, b)] => !decide (b = 0)
  | (a, b) :: (a', b') :: m => !decide (b = 0) && decide (a < a') && Memory.wf ((a', b') :: m)

/-- `n` bytes from address `a`, lowest first. -/
def memBytes (m : List Host.Cell) (a : Nat) : Nat → List Byte
  | 0 => []
  | n + 1 => memByte m a :: memBytes m (a + 1) n

/-- Writes bytes at consecutive addresses. -/
def memWrite (m : List Host.Cell) (a : Nat) : List Byte → List Host.Cell
  | [] => m
  | b :: bs => memWrite (memPut m a b) (a + 1) bs

/-- Writes single bytes in list order. -/
def memPokes (m : List Host.Cell) : List (Nat × Byte) → List Host.Cell
  | [] => m
  | (a, b) :: ps => memPokes (memPut m a b) ps

/-- Pairs of consecutive addresses and bytes. -/
def pokesOf (a : Nat) : List Byte → List (Nat × Byte)
  | [] => []
  | b :: bs => (a, b) :: pokesOf (a + 1) bs

/-- A list with one more member, if it does not hold it. -/
def insertNew (x : Nat) (l : List Nat) : List Nat := if l.any (fun y => decide (y = x)) then l else x :: l

/-- One byte of a sector has been written: its mark clears when all 32 have been since it was set (R233). -/
def poisonWritten (p : SMap Nat) (a : Nat) : SMap Nat :=
  match p.seek (a / 32) with
  | none => p
  | some m => if (m ||| 2 ^ (a % 32)) = 2 ^ 32 - 1 then p.del (a / 32) else p.put (a / 32) (m ||| 2 ^ (a % 32))

/-! ## Places in a home slice (R86, R87, R90, R100) -/

/-- The set of a backed line in its slice (R87). -/
def State.lineSet (s : State) (key : Nat) : Nat := key % s.groupBytes / 256 / 16 % 1024

/-- The ways of a mask, ascending. -/
def waysIn (mask : Nat) : List Nat := (List.range 16).filter (fun w => nbit mask w)

/-- Whether a page is the one that a frame record names. -/
def FrameRec.names (f : FrameRec) (part asn vpn : Nat) : Bool := decide (f.part = part ∧ f.asn = asn ∧ f.vpn = vpn)

/-- Whether a page is the one that stands in the holding buffer or waits to enter it. -/
def HeldPage.names (h : HeldPage) (part asn vpn : Nat) : Bool := decide (h.part = part ∧ h.asn = asn ∧ h.vpn = vpn)

/-- Whether a page has a frame or lines in the holding buffer. -/
def Slice.hasPage (x : Slice) (part asn vpn : Nat) : Bool :=
  x.pages.any (·.names part asn vpn) || x.holding.any (·.names part asn vpn)

/-- The lowest frame of a partition that holds no page. -/
def Slice.freeFrame (x : Slice) (part : Nat) : Option Nat :=
  ((x.frames.filter (fun f => decide (f.2 = part) && !x.pages.any (fun p => decide (p.place = f.1)))).map (·.1)).head?

/-- The set in which a line stands (R87, R100); an unbacked line that is in no frame has none. -/
def State.setOf (s : State) (key : Nat) : Option Nat :=
  if isUnbacked key then
    let (sl, part, asn, vpn) := unbackedPage key
    ((s.slice sl).pages.find? (·.names part asn vpn)).map (fun f => f.place % 16 * 64 + key % 16384 / 256)
  else some (s.lineSet key)

/-- Whether a way of a slice is reserved by some partition (R89). -/
def State.wayReserved (s : State) (n w : Nat) : Bool := (List.range 16).any (fun p => nbit (s.rways p n) w)

/-- The line that stands in a way and set of a slice, with its number. -/
def State.lineAt (s : State) (n w set_ : Nat) : Option (Nat × SliceLine) :=
  (s.slice n).lines.find? (fun e => decide (e.2.way = w ∧ s.lineSet (e.1 * 256) = set_))

/-- Whether the slice of a backed line holds it. -/
def State.holdsLine (s : State) (key : Nat) : Bool := (s.slice (s.backedHome key)).lines.has (key / 256)

/-! ## Poison marks (R233, R401, R403) -/

/-- Whether the tags of the set of a key are lost, so that its sectors are answered as poisoned (R401). -/
def State.setLost (s : State) (key : Nat) : Bool :=
  let x := s.slice (s.homeSlice key)
  !x.retired && !x.badSets.isEmpty && (match s.setOf key with
    | some n => x.badSets.any (fun b => decide (b = n))
    | none => false)

/-- Whether the sector of a key is marked poisoned. -/
def State.isPoisoned (s : State) (key : Nat) : Bool := s.poison.has (key / 32) || s.setLost key

/-- Marks the sector of a key. -/
def State.setPoison (s : State) (key : Nat) : State := { s with poison := s.poison.put (key / 32) 0 }

/-- An access meets an uncorrectable word of slice data: its sector is marked (R401). -/
def State.meetBad (s : State) (key : Nat) : State :=
  let n := s.homeSlice key
  let x := s.slice n
  if x.badData.any (fun b => decide (b = key / 32)) then
    (s.setSlice n { x with badData := x.badData.filter (fun b => !decide (b = key / 32)) }).setPoison key
  else s

/-! ## Writes at the home -/

/-- Sets the DIRTY bit of an unbacked line in its frame record, or has a line of a held page enter the holding buffer
(R103, R106). -/
def State.markUnbacked (s : State) (key : Nat) : State :=
  let (sl, part, asn, vpn) := unbackedPage key
  let x := s.slice sl
  let bit : BitVec 64 := 1#64 <<< (key % 16384 / 256)
  s.setSlice sl { x with
    pages := x.pages.map (fun f => if f.names part asn vpn then { f with dirty := f.dirty ||| bit } else f)
    holding := x.holding.map (fun h =>
      if h.names part asn vpn && decide (h.held &&& bit = 0) then { h with waiting := h.waiting ||| bit } else h) }

/-- The bytes of a line at its home that are not zero, and its poison marks. -/
def State.lineCells (s : State) (line : Nat) : List Host.Cell × SMap Nat :=
  (s.mem.filter (fun e => decide (e.1 / 256 = line)), s.poison.filter (fun e => decide (e.1 / 8 = line)))

/-- Marks sectors of a backed line as dirty in its slice, before they are written; a line that the slice does not hold is
written in DRAM (R90, R111). -/
def State.markDirty (s : State) (key : Nat) (mask : BitVec 8) : State :=
  if isUnbacked key then s.markUnbacked key
  else
    let n := s.backedHome key
    let x := s.slice n
    match x.lines.seek (key / 256) with
    | none => s
    | some l =>
      let (cells, bad) := if l.dirty = 0 then
          ((s.lineCells (key / 256)).1, l.underBad.foldl (fun m e => m.put e.1 e.2) (s.lineCells (key / 256)).2)
        else (l.under, l.underBad)
      s.setSlice n { x with lines := x.lines.put (key / 256) { l with dirty := l.dirty ||| mask, under := cells, underBad := bad } }

/-- The sectors of a line in which the listed bytes lie. -/
def sectorMask (ps : List (Nat × Byte)) : BitVec 8 := ps.foldl (fun m e => m ||| (1#8 <<< (e.1 / 32 % 8))) 0

/-- Bytes of one line written at the home (R93, R116): only the bytes listed change. -/
def State.homePokes (s : State) (key : Nat) (ps : List (Nat × Byte)) : State :=
  if ps.isEmpty then s else
    let s := s.markDirty key (sectorMask ps)
    { s with mem := memPokes s.mem ps, poison := ps.foldl (fun p (e : Nat × Byte) => poisonWritten p e.1) s.poison }

/-- `n` bytes of one line as they stand at the home. -/
def State.homeBytes (s : State) (key n : Nat) : List Byte := memBytes s.mem key n

/-- A sector as it stands at its home, as 256 bits. -/
def State.homeSector (s : State) (sec : Nat) : BitVec 256 := BitVec.ofNat 256 (ofBytes (s.homeBytes (sec * 32) 32))

/-- The bytes of a marked sector that have been written at its home since the mark was set (R233). -/
def State.written (s : State) (key : Nat) : BitVec 32 := BitVec.ofNat 32 (s.poison.val (key / 32) 0)

/-! ## The directory (R92) -/

/-- Directory state of the line of a key (R92). -/
def State.dirOf (s : State) (key : Nat) : Dir := (s.slice (s.homeSlice key)).dir.val (key / 256) .unc

/-- Replaces the directory state of a line. -/
def State.setDir (s : State) (key : Nat) (d : Dir) : State :=
  let n := s.homeSlice key
  let x := s.slice n
  s.setSlice n { x with dir := if d = .unc then x.dir.del (key / 256) else x.dir.put (key / 256) d }

/-- The cluster of a core within its die. -/
def dieCluster (c : Nat) : Nat := c % 64 / 8 / 2 * 4 + c % 8 / 2

/-- The cores that a directory state may name, on the home's die (R92). -/
def Dir.cores (die : Nat) : Dir → List Nat
  | .unc => []
  | .shd l => l.map (fun c => die * 64 + c)
  | .coarse cl => ((List.range 64).filter (fun c => cl.any (fun k => decide (k = dieCluster c)))).map (fun c => die * 64 + c)
  | .exc o => [die * 64 + o]

/-- The directory state with one more sharer (R92). -/
def Dir.add (d : Dir) (c : Nat) : Dir :=
  match d with
  | .unc => .shd [c]
  | .shd l =>
    if l.any (fun x => decide (x = c)) then d
    else if l.length < 4 then .shd (l ++ [c])
    else .coarse ((l ++ [c]).map dieCluster).eraseDups
  | .coarse l => .coarse (insertNew (dieCluster c) l)
  | .exc o => if o = c then d else .shd [o, c]

/-! ## Lines of an L1D (R113, R114) -/

/-- A core's L1D line, by sector number (key / 32). -/
def State.l1 (s : State) (c sec : Nat) : Option L1Line := (s.core c).l1d.seek sec

/-- Replaces a core's L1D line. -/
def State.setL1 (s : State) (c sec : Nat) (l : L1Line) : State :=
  s.setCore c { s.core c with l1d := (s.core c).l1d.put sec l }

/-- Drops a core's L1D line, with the error that it may hold. -/
def State.dropL1 (s : State) (c sec : Nat) : State :=
  let k := s.core c
  s.setCore c { k with l1d := k.l1d.del sec, l1dBad := k.l1dBad.filter (fun b => !decide (b = sec)) }

/-- Byte `i` of a sector. -/
def sectorByte (d : BitVec 256) (i : Nat) : Byte := d.extractLsb' (8 * i) 8

/-- The dirty bytes of a line as single writes at their home keys (R114). -/
def dirtyPokes (sec : Nat) (l : L1Line) : List (Nat × Byte) :=
  ((List.range 32).filter (fun i => l.dirty.getLsbD i)).map (fun i => (sec * 32 + i, sectorByte l.data i))

/-- The line after its dirty bytes have been written back (R233). -/
def L1Line.cleaned (l : L1Line) (poisoned : Bool) : L1Line := { l with dirty := 0, poison := l.poison && poisoned }

/-- The eight sector numbers of the line of a key. -/
def sectorsOf (key : Nat) : List Nat := (List.range 8).map (fun i => key / 256 * 8 + i)

/-- The dirty bytes that a tracked copy sends to its home, where they count against a poison mark (R93, R233); the copy
stays, clean. Dirty bytes whose SRAM word is uncorrectable arrive with the poison mark (R114). -/
def State.sendTracked (s : State) (c sec : Nat) : State :=
  match s.l1 c sec with
  | none => s
  | some l =>
    if l.dirty = 0 then s
    else
      let bad := (s.core c).l1dBad.any (fun b => decide (b = sec))
      let s := s.homePokes (sec * 32) (dirtyPokes sec l)
      let s := if bad then s.setPoison (sec * 32) else s
      s.setL1 c sec { l.cleaned (s.isPoisoned (sec * 32)) with poison := (l.poison || bad) && s.isPoisoned (sec * 32) }

/-- Recalls the dirty sectors of an EXC owner other than `c` and merges them; the owner becomes a sharer (R93). -/
def State.recallFor (s : State) (c key : Nat) : State :=
  match s.dirOf key with
  | .exc o =>
    let own := s.homeDie key * 64 + o
    if own = c then s
    else
      let s := (sectorsOf key).foldl (fun s sec =>
        let s := s.sendTracked own sec
        match s.l1 own sec with
        | some l => if l.st = .e then s.setL1 own sec { l with st := .s } else s
        | none => s) s
      s.setDir key (.shd [o])
  | _ => s

/-- Recalls the dirty sectors of any EXC owner (R93, cross-die read). -/
def State.recallAny (s : State) (key : Nat) : State := s.recallFor 256 key

/-- Recalls one sector from an EXC owner of its line (R96, R98): its dirty bytes merge, and the other sectors stay with the
owner as they are. -/
def State.recallSector (s : State) (key : Nat) : State :=
  match s.dirOf key with
  | .exc o => s.sendTracked (s.homeDie key * 64 + o) (key / 32)
  | _ => s

/-- Invalidates every tracked copy of a line but core `c`'s; dirty bytes are merged first (R93). -/
def State.invalidateOthers (s : State) (c key : Nat) : State :=
  let s := s.recallFor c key
  ((s.dirOf key).cores (s.homeDie key)).foldl (fun s o =>
    if o = c then s else (sectorsOf key).foldl (fun s sec => s.dropL1 o sec) s) s

/-- Invalidates every tracked copy of one sector (R93, R96); a copy of another sector of the line stays. -/
def State.invalidateSector (s : State) (key : Nat) : State :=
  let s := s.recallSector key
  ((s.dirOf key).cores (s.homeDie key)).foldl (fun s o => s.dropL1 o (key / 32)) s

/-! ## Allocation in a home slice (R90) -/

/-- A slice gives up a line: tracked copies are merged and dropped, and dirty sectors go to DRAM (R90), with the poison mark
where a word of theirs is uncorrectable; the errors of its clean sectors go with it, since DRAM holds their bytes (R401), with
the marks that DRAM keeps for them (R69). -/
def State.evictLine (s : State) (n line : Nat) : State :=
  let key := line * 256
  let s := s.recallAny key
  let s := ((s.dirOf key).cores (s.homeDie key)).foldl (fun s o => (sectorsOf key).foldl (fun s sec => s.dropL1 o sec) s) s
  let s := s.setDir key .unc
  let x := s.slice n
  let (dirty, marks) := match x.lines.seek line with
    | some l => (l.dirty, l.underBad)
    | none => (0, [])
  let s := (sectorsOf key).foldl (fun s sec =>
    if (if dirty.getLsbD (sec % 8) then x.badData.any (fun b => decide (b = sec)) else marks.any (fun m => decide (m.1 = sec)))
    then s.setPoison (sec * 32) else s) s
  s.setSlice n { x with lines := x.lines.del line, badData := x.badData.filter (fun b => !decide (b / 8 = line)) }

/-- The way with the least use count among those that hold a line, or the first that holds none. -/
def lruWay (occ : Nat → Option Nat) : List Nat → Option Nat
  | [] => none
  | w :: ws =>
    match occ w, lruWay occ ws with
    | none, _ => some w
    | some _, none => some w
    | some u, some v =>
      match occ v with
      | none => some v
      | some t => if u ≤ t then some w else some v

/-- The way in which a miss of partition `p` allocates (R90): the least recently used of its AWAYS, without reserved ways
and pinned lines. -/
def State.missWay (s : State) (p n set_ : Nat) : Option Nat :=
  lruWay (fun w => (s.lineAt n w set_).map (·.2.used))
    ((waysIn (nbits (s.waysOf p n) 15 0)).filter (fun w =>
      !s.wayReserved n w && (match s.lineAt n w set_ with
        | some e => !(s.slice n).pinned.has e.1
        | none => true)))

/-- Puts a line into a place of its slice; what stood there leaves first. -/
def State.placeLine (s : State) (n line w : Nat) : State :=
  let s := match s.lineAt n w (s.lineSet (line * 256)) with
    | some e => if e.1 = line then s else s.evictLine n e.1
    | none => s
  let x := s.slice n
  let l := match x.lines.seek line with
    | some l => { l with way := w, used := x.uses }
    | none => { way := w, used := x.uses, valid := BitVec.allOnes 8, dirty := 0, under := [], underBad := [] }
  s.setSlice n { x with lines := x.lines.put line l, uses := x.uses + 1 }

/-- A request of partition `p` reaches the home of a line: a hit makes it the last used, a miss allocates it whole where the
partition has a way for it (R90, R115). -/
def State.atHome (s : State) (p key : Nat) : State :=
  let s := s.meetBad key
  let n := s.homeSlice key
  let x := s.slice n
  if isUnbacked key || x.retired || s.setLost key then s
  else
    match x.lines.seek (key / 256) with
    | some l => s.setSlice n { x with lines := x.lines.put (key / 256) { l with used := x.uses }, uses := x.uses + 1 }
    | none =>
      match s.missWay p n (s.lineSet key) with
      | some w => s.placeLine n (key / 256) w
      | none => s

/-- Whether the home of a line tracks copies of it: the slice is not retired and holds the line, as it must for every line
with a tracked copy (R92, R111). -/
def State.tracks (s : State) (key : Nat) : Bool :=
  !(s.slice (s.homeSlice key)).retired && (isUnbacked key || s.holdsLine key)

/-! ## First touch of an unbacked page (R103) -/

/-- Binds the frame of an unbacked page on its first touch; none when the partition has no unbound frame. -/
def State.bindPage (s : State) (key leafPa : Nat) (leaf : Word) : Option State :=
  if isUnbacked key then
    let (sl, part, asn, vpn) := unbackedPage key
    let x := s.slice sl
    if x.hasPage part asn vpn then some s
    else if x.retired then none
    else match x.freeFrame part with
      | none => none
      | some f => some (s.setSlice sl { x with pages := x.pages ++
          [{ place := f, part := part, asn := asn, vpn := vpn, leafPa := leafPa, leaf := leaf, dirty := 0 }] })
  else some s

/-! ## Writes that arrive at a home (R93, R98) -/

/-- Whether a reservation, or what waits behind one, stands on the word of a key (R98). -/
def State.reserved (s : State) (key : Nat) : Bool :=
  (s.slice (s.homeSlice key)).amo.any (fun r => decide (r.key / 8 = key / 8))

/-- Bytes of one sector that merge at their home; every tracked copy of the sector is invalidated after its dirty bytes
have merged (R93). -/
def State.mergeHome (s : State) (p key : Nat) (ps : List (Nat × Byte)) : State :=
  (((s.atHome p key).recallSector key).homePokes key ps).invalidateSector key

/-- Bytes of one sector written back from a core whose copy is not tracked: a cross-die write (R93). Bytes of a reserved
word wait behind the reservation in arrival order (R98), as those of core `c`, or of 256 where no core's. An unbacked page that has no frame is touched first; with no
frame left its bytes go nowhere (R103). -/
def State.crossPokes (s : State) (p key leafPa : Nat) (leaf : Word) (ps : List (Nat × Byte)) (c : Nat := 256) : State :=
  match s.bindPage key leafPa leaf with
  | none => s
  | some s =>
    let s := s.mergeHome p key (ps.filter (fun e => !s.reserved e.1))
    let n := s.homeSlice key
    let late := ps.filter (fun e => s.reserved e.1)
    if late.isEmpty then s
    else
      let x := s.slice n
      s.setSlice n { x with amo := x.amo ++ (List.range 4).filterMap (fun i =>
        match late.filter (fun e => decide (e.1 / 8 % 4 = i)) with
        | [] => none
        | l => some { key := key / 32 * 32 + 8 * i, core := c, slot := 4096, granted := false, op := .write l }) }

/-- Whether bytes that core `c` wrote back to the line of a key still wait behind a reservation of their word (R98). -/
def State.lateWrites (s : State) (c key : Nat) : Bool :=
  (s.slice (s.homeSlice key)).amo.any (fun r => decide (r.core = c ∧ r.key / 256 = key / 256) && r.op.isWrite)

/-- Writes the dirty bytes of one L1D line back to their home; the line stays, clean (R93, R114). -/
def State.writeBack (s : State) (c sec : Nat) : State :=
  match s.l1 c sec with
  | none => s
  | some l =>
    if l.dirty = 0 then s
    else if l.st = .u then
      let bad := (s.core c).l1dBad.any (fun b => decide (b = sec))
      let s := s.crossPokes l.part (sec * 32) l.leafPa l.leaf (dirtyPokes sec l) c
      let s := if bad then s.setPoison (sec * 32) else s
      s.setL1 c sec { l.cleaned (s.isPoisoned (sec * 32)) with poison := (l.poison || bad) && s.isPoisoned (sec * 32) }
    else s.sendTracked c sec

/-- Writes one L1D sector back and drops it. -/
def State.evictSector (s : State) (c sec : Nat) : State := (s.writeBack c sec).dropL1 c sec

/-- A line leaves an L1D (R93, R114): from the owner the dirty sectors of the whole line leave with it, and the line becomes
UNC. -/
def State.evict (s : State) (c sec : Nat) : State :=
  match s.l1 c sec with
  | none => s
  | some l =>
    if l.st = .e ∧ l.dirty ≠ 0 then
      ((sectorsOf (sec * 32)).foldl (fun s i => s.evictSector c i) s).setDir (sec * 32) .unc
    else s.evictSector c sec

/-! ## Allocation in an L1D (R113) -/

/-- The L1D ways of partition `p` in core `c` (R113, R377). -/
def State.l1ways (s : State) (p c : Nat) : Nat := (s.part p).l1ways.val c (if p = 0 then 0xFFF else 0)

/-- The L1D line in a way of a set. -/
def Core.l1At (k : Core) (w set_ : Nat) : Option (Nat × L1Line) :=
  k.l1d.find? (fun e => decide (e.2.way = w ∧ e.1 % 4096 = set_))

/-- The L1I line in a way of a set. -/
def Core.l1iAt (k : Core) (w set_ : Nat) : Option (Nat × ILine) :=
  k.l1i.find? (fun e => decide (e.2.way = w ∧ e.1 % 256 = set_))

/-- Puts a line into the L1D of core `c` for partition `p`, in the least recently used way of its L1WAYS; with no way it is
not kept (R113). -/
def State.allocL1 (s : State) (p c sec : Nat) (l : L1Line) : State :=
  match lruWay (fun w => ((s.core c).l1At w (sec % 4096)).map (·.2.used)) (waysIn (s.l1ways p c % 4096)) with
  | none => s
  | some w =>
    let s := match (s.core c).l1At w (sec % 4096) with
      | some e => s.evict c e.1
      | none => s
    let k := s.core c
    s.setCore c { k with l1d := k.l1d.put sec { l with way := w, used := k.uses, part := p }, uses := k.uses + 1 }

/-- Core `c` uses a line that it holds. -/
def State.touchL1 (s : State) (c sec : Nat) (l : L1Line) : State :=
  let k := s.core c
  s.setCore c { k with l1d := k.l1d.put sec { l with used := k.uses }, uses := k.uses + 1 }

/-- Whether core `c` may take an L1D copy of the line of a key for partition `p` (R113, R111, R92). -/
def State.mayCache (s : State) (p c key : Nat) : Bool :=
  decide (s.l1ways p c % 4096 ≠ 0) && !(s.slice (s.homeSlice key)).retired
  && (!decide (s.homeDie key = dieOfCore c) || s.tracks key)

/-- The sector with the bytes of `new` where the mask is clear. -/
def mergeSector (old new : BitVec 256) (keepMask : BitVec 32) : BitVec 256 :=
  BitVec.ofNat 256 (ofBytes ((List.range 32).map (fun i =>
    if keepMask.getLsbD i then sectorByte old i else sectorByte new i)))

/-- An access meets an uncorrectable word in its L1D line (R114): a clean sector is dropped, to be fetched again; dirty
bytes are written back with the poison mark. The event counts in UECNT. -/
def State.meetL1 (s : State) (c sec : Nat) : State :=
  let k := s.core c
  if k.l1dBad.any (fun b => decide (b = sec)) then
    let way := match k.l1d.seek sec with
      | some l => l.way
      | none => 0
    let s := s.setCore c { k with health := { k.health with
      uecnt := k.health.uecnt + 1, lastue := ofN (3 * 2 ^ 56 + (sec % 4096 * 16 + way)) } }
    s.evict c sec |>.dropL1 c sec
  else s

/-- Fetches the unfetched bytes of a core's own line (R114). -/
def State.fillUnfetched (s : State) (c sec : Nat) (l : L1Line) : State :=
  if l.unfetched = 0 then s
  else
    let s := (s.atHome l.part (sec * 32)).recallAny (sec * 32)
    s.setL1 c sec { l with
      data := mergeSector l.data (s.homeSector sec) (~~~l.unfetched), unfetched := 0
      poison := l.poison || s.isPoisoned (sec * 32) }

/-- The line that a fetch of a sector brings: clean, in S from a home on the core's die and in U from another. -/
def State.fetchedLine (s : State) (c sec : Nat) (via : Nat × Word) : L1Line :=
  { st := if s.homeDie (sec * 32) = dieOfCore c then .s else .u, data := s.homeSector sec, dirty := 0, unfetched := 0
    poison := s.isPoisoned (sec * 32), leafPa := via.1, leaf := via.2 }

/-- Makes core `c` hold a sector for partition `p` where it may (R93, R94, R114): a die-local home adds a sharer, a home on
another die gives an untracked copy. -/
def State.fetchSector (s : State) (p c sec : Nat) (via : Nat × Word := (0, 0)) : State :=
  match s.l1 c sec with
  | some l => s.fillUnfetched c sec l
  | none =>
    let key := sec * 32
    let s := s.atHome p key
    if s.mayCache p c key then
      if s.homeDie key = dieOfCore c then
        let s := s.recallFor c key
        let s := s.setDir key ((s.dirOf key).add (c % 64))
        s.allocL1 p c sec (s.fetchedLine c sec via)
      else
        let s := s.recallAny key
        s.allocL1 p c sec (s.fetchedLine c sec via)
    else s

/-- Reads one sector through the caches for partition `p` of core `c`, of which the access touches the bytes of `mask`;
also tells whether it is poisoned. A lookup finds a line that the core holds, whoever had it allocated (R113); a line
with none of the bytes unfetched is not filled (R114). -/
def State.readSector (s : State) (p c sec : Nat) (cached : Bool) (mask : BitVec 32 := BitVec.allOnes 32)
    (via : Nat × Word := (0, 0)) : State × BitVec 256 × Bool :=
  let s := if cached then s.meetL1 c sec else s
  let s := match if cached then s.l1 c sec else none with
    | some l => if l.unfetched &&& mask = 0 then s else s.fillUnfetched c sec l
    | none => if cached then s.fetchSector p c sec via else s.atHome p (sec * 32)
  match if cached then s.l1 c sec else none with
  | some l => (s.touchL1 c sec l, l.data, l.poison)
  | none =>
    let s := s.recallAny (sec * 32)
    (s, s.homeSector sec, s.isPoisoned (sec * 32))

/-- The line with bytes stored from offset `off` (R114): a line all of whose bytes have been written since its sector was
marked, here or at the home (`written`), loses its poison mark (R233). -/
def L1Line.store (l : L1Line) (written : BitVec 32) (off : Nat) (bs : List Byte) : L1Line :=
  let mask : BitVec 32 := BitVec.ofNat 32 ((2 ^ bs.length - 1) * 2 ^ off)
  let data := mergeSector (BitVec.ofNat 256 (ofBytes bs * 2 ^ (8 * off))) l.data mask
  let dirty := l.dirty ||| mask
  { l with data := data, dirty := dirty, unfetched := l.unfetched &&& ~~~mask
           poison := l.poison && !decide (dirty ||| written = BitVec.allOnes 32) }

/-- Stores bytes within one sector at the home for partition `p`, with no copy in an L1D: other copies are merged and
dropped (R93). -/
def State.storeHome (s : State) (key : Nat) (bs : List Byte) (p : Nat := s.me.part) : State :=
  s.mergeHome p key (pokesOf key bs)

/-- Grants EXC on the line of a key to core `c` of the home's die: every other tracked copy goes (R93). An unbacked line
becomes dirty (R103). -/
def State.grantLine (s : State) (p c key : Nat) : State :=
  let s := (s.atHome p key).invalidateOthers c key
  let s := s.setDir key (.exc (c % 64))
  if isUnbacked key then s.markUnbacked key else s

/-- Core `c` holds the line of a key in E with the bytes of a sector, after its request was granted. -/
def State.ownSector (s : State) (p c sec : Nat) (via : Nat × Word) : State :=
  let s := s.grantLine p c (sec * 32)
  match s.l1 c sec with
  | some l => s.setL1 c sec { l with st := .e }
  | none => s.allocL1 p c sec { s.fetchedLine c sec via with st := .e }

/-- Stores bytes within one sector through the L1D of core `c` (R93, R114): a line that it holds takes them; a miss
allocates where the partition may (R113), in U with nothing fetched when the home is on another die. -/
def State.storeSector (s : State) (p c key : Nat) (bs : List Byte) (cached : Bool) (via : Nat × Word := (0, 0)) : State :=
  let sec := key / 32
  let s := if cached then s.meetL1 c sec else s
  if cached && ((s.l1 c sec).isSome || (s.atHome p key).mayCache p c key) then
    let s := if s.homeDie key = dieOfCore c then s.ownSector p c sec via
      else match s.l1 c sec with
        | some _ => s
        | none => s.allocL1 p c sec { st := .u, data := 0, dirty := 0, unfetched := BitVec.allOnes 32, poison := false
                                      leafPa := via.1, leaf := via.2 }
    match s.l1 c sec with
    | some l => s.touchL1 c sec (l.store (s.written key) (key % 32) bs)
    | none => s
  else s.storeHome key bs p

/-- A cross-die write, release flush or Carter write at the home: the bytes merge and every tracked copy of the
written sectors is invalidated (R93). -/
def State.crossWrite (s : State) (key : Nat) (bs : List Byte) (p : Nat := s.me.part) : State := s.storeHome key bs p

/-- Bytes written at a physical address by the hub or the dispatcher, sector by sector, as cross-die writes. -/
def State.physWrite (s : State) (key : Nat) : List Byte → State
  | [] => s
  | b :: bs => (s.mergeHome 0 key [(key, b)]).physWrite (key + 1) bs

/-- Bytes read at their home by the hub, the dispatcher or a walker: EXC owners are recalled (R80, R93), and every sector read
meets the errors of its words (R401). -/
def State.physRead (s : State) (key n : Nat) : State × List Byte :=
  let s := (List.range ((key % 256 + n + 255) / 256)).foldl (fun s i => (s.atHome 0 (key + 256 * i)).recallAny (key + 256 * i)) s
  let s := (List.range ((key % 32 + n + 31) / 32)).foldl (fun s i => s.meetBad (key + 32 * i)) s
  (s, s.homeBytes key n)

/-- Whether one of `n` bytes lies in a poisoned sector. -/
def State.anyPoison (s : State) (key n : Nat) : Bool :=
  (List.range ((key % 32 + n + 31) / 32)).any (fun i => s.isPoisoned (key + 32 * i))

/-! ## Releases and acquires (R232) -/

/-- Every dirty byte of every U line of a core is written back (R232). -/
def State.flushU (s : State) (c : Nat) : State :=
  (s.core c).l1d.foldl (fun s e => if e.2.st = .u then s.writeBack c e.1 else s) s

/-- Every U line of a core is dropped after its dirty bytes are written back (R232). -/
def State.dropU (s : State) (c : Nat) : State :=
  (s.core c).l1d.foldl (fun s e => if e.2.st = .u then s.evict c e.1 else s) s

/-- Every line of a core's L1D is written back. -/
def State.flushAll (s : State) (c : Nat) : State := (s.core c).l1d.foldl (fun s e => s.writeBack c e.1) s

/-- The clean tracked copies in S leave a core's L1D (R114); the next access fetches the same bytes (R92). -/
def State.dropShared (s : State) (c : Nat) : State :=
  let k := s.core c
  let gone := k.l1d.filter (fun e => decide (e.2.st = .s))
  s.setCore c { k with l1d := k.l1d.filter (fun e => !decide (e.2.st = .s))
                       l1dBad := k.l1dBad.filter (fun b => !gone.any (fun e => decide (e.1 = b))) }

/-- Whether a release at a scope is held up: a byte that core `c` has written back, or has still to write back from a U line,
lies in a word that an AMO has reserved, so its home has not merged it (R98, R232). -/
def State.releaseHeld (s : State) (c : Nat) (sc : Scope) : Bool :=
  match sc with
  | .part | .dev =>
    (s.core c).l1d.any (fun e => decide (e.2.st = .u) && (dirtyPokes e.1 e.2).any (fun b => s.reserved b.1))
    || s.slices.any (fun e => e.2.amo.any (fun r => decide (r.core = c) && r.op.isWrite))
  | _ => false

/-- The dirty bytes of the E lines of a core reach their homes; the lines stay with it, clean. -/
def State.flushE (s : State) (c : Nat) : State :=
  (s.core c).l1d.foldl (fun s e => if e.2.st = .e then s.writeBack c e.1 else s) s

/-- The release step of a scope for core `c` (R232): stores are performed at once in this model. At `.die` or wider the
core's own stores reach `HGATH`, which reads at the home and recalls no copy (R241, assumption 100). -/
def State.release (s : State) (c : Nat) (sc : Scope) : State :=
  match sc with
  | .part | .dev => (s.flushU c).flushE c
  | .die => s.flushE c
  | _ => s

/-- The acquire step of a scope for core `c` (R114, R232). -/
def State.acquire (s : State) (c : Nat) (sc : Scope) : State :=
  match sc with
  | .part | .dev => (s.dropU c).dropShared c
  | _ => s.dropShared c

end Sys2Proof.Machine
end

