-- ==== Sys2Proof/Machine/Lm.lean ====
section
/-! DEFINITION. The local memory of a core and its tile-tag RAM (R118 to R121, R405). -/

namespace Sys2Proof.Machine

/-! ## Local memory (R118 to R121, R405) -/

/-- Whether all LM bytes from `o` lie in banks of a mask. -/
def lmOwned (banks o n : Nat) : Bool :=
  (List.range ((o % 32768 + n + 32767) / 32768)).all (fun i => nbit banks (o / 32768 + i))

/-- First LM byte from `o` outside the LM or the banks of a mask. -/
def lmFirstBad (banks : Nat) (o : Int) : Int :=
  if o < 0 then o
  else if o ≥ 2 ^ 19 then o
  else if nbit banks (o.toNat / 32768) = false then o
  else min (2 ^ 19) (((o.toNat / 32768 + 1) * 32768 : Nat) : Int)

/-- Whether an LM bank is fenced (R404, R405). -/
def Core.fenced (k : Core) (bank : Nat) : Bool := nbit k.health.lmfence bank

/-- The banks that `n` bytes from `o` touch. -/
def lmBanksOf (o n : Nat) : List Nat := (List.range ((o % 32768 + n + 32767) / 32768)).map (fun i => o / 32768 + i)

/-- Whether one of the banks that `n` bytes from `o` touch is fenced. -/
def Core.lmFenced (k : Core) (o n : Nat) : Bool := (lmBanksOf o n).any (fun b => k.fenced b)

/-- The 8-byte LM words that `n` bytes from `o` touch. -/
def lmWordsOf (o n : Nat) : List Nat := (List.range ((o % 8 + n + 7) / 8)).map (fun i => o / 8 + i)

/-- LM bytes of a core. -/
def Core.lmBytes (k : Core) (o n : Nat) : List Byte := memBytes k.lm o n

/-- LM bytes written; a word that is written whole loses its error (R119). -/
def Core.lmStore (k : Core) (o : Nat) (bs : List Byte) : Core :=
  { k with lm := memWrite k.lm o bs
           lmBad := k.lmBad.filter (fun w => !decide (o ≤ 8 * w ∧ 8 * w + 8 ≤ o + bs.length)) }

/-- The tile tag of a 256-byte block (R121). -/
def Core.tag (k : Core) (block : Nat) : BitVec 48 := k.tags.val block 0

/-- Writes a tile tag; a written entry holds no error. -/
def Core.setTag (k : Core) (block : Nat) (t : BitVec 48) : Core :=
  { k with tags := if t = 0 then k.tags.del block else k.tags.put block t
           tagBad := k.tagBad.filter (fun b => !decide (b = block)) }

/-- Wipes an LM bank: zero data with valid check bits and zero tags (R118). -/
def Core.wipeBank (k : Core) (b : Nat) : Core :=
  { k with lm := k.lm.filter (fun e => !decide (e.1 / 32768 = b))
           tags := k.tags.filter (fun e => !decide (e.1 / 128 = b))
           lmBad := k.lmBad.filter (fun w => !decide (w / 4096 = b))
           tagBad := k.tagBad.filter (fun w => !decide (w / 128 = b)) }

/-- First uncorrectable word among those that `n` bytes from `o` touch, as its first byte in the range. -/
def Core.lmError (k : Core) (o n : Nat) : Option Nat :=
  if k.lmFenced o n then some o
  else ((lmWordsOf o n).find? (fun w => k.lmBad.any (fun b => decide (b = w)))).map (fun w => max o (8 * w))

/-- Whether a store of `n` bytes at `o` reads a word that it covers in part only and that holds an error (R119). -/
def Core.lmStoreError (k : Core) (o n : Nat) : Option Nat :=
  if k.lmFenced o n then some o
  else ((lmWordsOf o n).find? (fun w =>
    !decide (o ≤ 8 * w ∧ 8 * w + 8 ≤ o + n) && k.lmBad.any (fun b => decide (b = w)))).map (fun w => max o (8 * w))

/-- An uncorrectable error found in an array of a core (R404). -/
def State.countUe (s : State) (c array place : Nat) : State :=
  let k := s.core c
  s.setCore c { k with health := { k.health with uecnt := k.health.uecnt + 1, lastue := ofN (array * 2 ^ 56 + place % 2 ^ 19) } }

/-- What an access that met `LM_UNCORRECTABLE` at an offset leaves: the count, unless the bank is fenced and was not read
(R405). -/
def State.countLm (s : State) (c array o : Nat) : State :=
  if (s.core c).fenced (o / 32768) then s else s.countUe c array o

/-- Whether an LM access must wait for a wipe (R118). -/
def Core.lmWiping (k : Core) (o n : Nat) : Bool :=
  (lmBanksOf o n).any (fun b => k.wiping.any (fun w => decide (w = b)))

end Sys2Proof.Machine
end

