-- ==== Sys2Proof/Machine/Walk.lean ====
section
/-! DEFINITION. Translation: table entries, walks, the TLBs, the walker caches and the walk queues (R71 to R85). -/

namespace Sys2Proof.Machine

/-! ## Leaves and table entries (R71 to R75) -/

/-- The rights that an access needs (R75). -/
inductive Need
  | r | w | rw | x
  /-- no right: PG.PROBE and barrier objects check their own -/
  | none
  deriving DecidableEq, Repr

/-- Where an access goes: home key or hub address, ATTR, ETOL, leaf and the address of the leaf. -/
structure Loc where
  key : Nat
  attr : Nat
  etol : Bool
  exp : Bool
  leaf : Word
  leafPa : Nat
  va : Nat
  level : Nat := 0
  deriving DecidableEq, Repr

/-- Bytes that a leaf of a level maps (R71). -/
def leafBytes (level : Nat) : Nat := 2 ^ (14 + 11 * level)

/-- Physical base of a table entry's frame. -/
def frameOf (e : Word) : Nat := fld e 43 14 * 16384

/-- ATTR of a leaf (R73). -/
def leafAttr (e : Word) : Nat := fld e 6 5

/-- UNB of a leaf. -/
def leafUnb (e : Word) : Bool := bitOf e 63

/-- ETOL of a leaf. -/
def leafEtol (e : Word) : Bool := bitOf e 62

/-- EXP of a leaf. -/
def leafExp (e : Word) : Bool := bitOf e 60

/-- HOME of a leaf. -/
def leafHome (e : Word) : Nat := fld e 57 52

/-- Whether a table entry that points to the next table is present (R74). -/
def State.tablePresent (s : State) (e : Word) : Bool :=
  bitOf e 0 && !bitOf e 1 && decide (e.toNat = 1 + frameOf e) && decide (frameOf e < s.dramEnd)

/-- Whether a leaf entry at a level is present (R74). -/
def State.leafPresent (s : State) (level : Nat) (e : Word) : Bool :=
  let base := frameOf e
  let last := base + leafBytes level - 1
  let inDram := decide (last < s.dramEnd)
  let inHub := decide (hubBase ≤ base ∧ last < physEnd)
  let hub := decide (hubBase ≤ base)
  let attr := leafAttr e
  bitOf e 0 && bitOf e 1
  && decide (fld e 59 58 = 0 ∧ fld e 51 44 = 0 ∧ fld e 13 7 = 0)
  && (bitOf e 2 || !bitOf e 3)
  && !decide (attr = 3)
  && (leafUnb e || decide ((attr = 2) = (hub = true)))
  && !(decide (attr = 2) && bitOf e 4)
  && decide (base % leafBytes level = 0)
  && (if leafUnb e then decide (level = 0 ∧ base = 0 ∧ attr = 0) && !leafExp e
      else (inDram || inHub) && !bitOf e 61 && decide (leafHome e = 0))


/-- Export group mask of the device: W13 of P0 (R377). -/
def State.expGroups (s : State) : Nat := fld (s.part 0).w13 3 0

/-- Whether a frame of the hub window is granted to partition `p` (R58, R76 step 4, R377): the input view is the PISPLIT ×
64 KiB at the start of the window. -/
def State.hubGranted (s : State) (p base last : Nat) : Bool :=
  let w := (s.part p).w14
  let res := hubBase + 0x400000
  decide (p = 0)
    || (bitOf w 63 && decide (last < hubBase + s.hub.split * 65536))
    || (bitOf w 62 && decide (hubBase + 0x800000 ≤ base ∧ last < hubBase + 0x804000))
    || decide (res + 16384 * fld w 7 0 ≤ base ∧ last < res + 16384 * (fld w 7 0 + fld w 24 16))

/-- Steps 4 and 5 of R76 for the page that holds an address. -/
def State.frameAllowed (s : State) (p level : Nat) (e : Word) : Bool :=
  if leafUnb e then true
  else
    let base := frameOf e
    let last := base + leafBytes level - 1
    if hubBase ≤ base then s.hubGranted p base last
    else
      let mask := if leafExp e then s.expGroups else fld (s.part p).w0 15 12
      ((List.range 4).filter (fun g => decide (base / s.groupBytes ≤ g ∧ g ≤ last / s.groupBytes))).all
        (fun g => nbit mask g)

/-- Step 6 of R76. -/
def rightsOk (n : Need) (e : Word) : Bool :=
  match n with
  | .r => bitOf e 2
  | .w => bitOf e 3
  | .rw => bitOf e 2 && bitOf e 3
  | .x => bitOf e 4
  | .none => true

/-- Whether a leaf passes steps 4 to 6 of R76; `dev` tells whether the access may touch an ATTR 2 page. -/
def State.leafOk (s : State) (part : Nat) (need : Need) (dev : Bool) (level : Nat) (e : Word) : Bool :=
  s.frameAllowed part level e && rightsOk need e && (dev || !decide (leafAttr e = 2))

/-- The place that a leaf gives an address. -/
def locOf (ptroot : Word) (va level : Nat) (e : Word) (pa : Nat) : Loc :=
  { key := if leafUnb e
      then unbackedKey (leafHome e) (fld ptroot 47 44) (fld ptroot 63 48) (va / 16384) (va % 16384)
      else frameOf e + va % leafBytes level
    attr := leafAttr e, etol := leafEtol e, exp := leafExp e, leaf := e, leafPa := pa, va := va
    level := level }

/-- The translation that gives a place, for a PTROOT. -/
def Loc.via (l : Loc) (ptroot : Word) : Via :=
  { part := fld ptroot 47 44, asn := fld ptroot 63 48, page := l.va / 16384, level := l.level }

/-- Whether accesses of a partition at a slice stall because a line of it waits for room in the holding buffer (R106). -/
def State.stalls (s : State) (part n : Nat) : Bool :=
  (s.slice n).holding.any (fun h => decide (h.part = part) && !decide (h.waiting = 0))

/-! ## The walk (R74, R80) -/

/-- Reads a table entry at its home slice for a partition (R80), and whether its sector is poisoned. -/
def State.tableEntry (s : State) (pa : Nat) (p : Nat := 0) : State × Word × Bool :=
  let s := (s.atHome p pa).recallSector pa
  (s, ofN (ofBytes (s.homeBytes pa 8)), s.isPoisoned pa)

/-- Whether a walker-cache entry gives the table entry of a level for an address of a process. -/
def TableEntry.covers (t : TableEntry) (part asn level va : Nat) : Bool :=
  decide (t.part = part ∧ t.asn = asn ∧ t.level = level ∧ t.vpn = va / leafBytes level)

/-- Keeps a table entry that points to a next table in a cluster's walker cache of 256 entries, last used first (R77). -/
def State.keepTable (s : State) (cl part asn level va : Nat) (e : Word) : State :=
  let t : TableEntry := { part := part, asn := asn, level := level, vpn := va / leafBytes level, entry := e }
  { s with wcache := s.wcache.put cl ((t :: (s.wcache.val cl []).filter (fun u => !u.covers part asn level va)).take 256) }

/-- Walks from the table at `table` on `level` downward (R71, R74), through the walker cache where it has the entry of a
level (R77, R79); the argument is the number of levels left. The entries `read` of the levels above enter the walker cache
with the leaf: a walk that finds none installs nothing (R74). At a slice that stalls the partition it waits (R106). -/
def State.walkFrom (s : State) (cl part asn table va : Nat) (read : List (Nat × Word)) : Nat → State × Walk
  | 0 => (s, .absent)
  | level + 1 =>
    match (s.wcache.val cl []).find? (fun t => t.covers part asn level va) with
    | some t => (s.keepTable cl part asn level va t.entry).walkFrom cl part asn (frameOf t.entry) va read level
    | none =>
      let pa := table + 8 * (va / leafBytes level % 2048)
      if s.stalls part (s.homeSlice pa) then (s, .stall)
      else match s.tableEntry pa part with
      | (s, _, true) => (s, .poisoned)
      | (s, e, false) =>
        if s.leafPresent level e then
          (read.foldl (fun s r => s.keepTable cl part asn r.1 va r.2) s, .leaf level e pa)
        else if decide (level ≠ 0) && s.tablePresent e then
          s.walkFrom cl part asn (frameOf e) va (read ++ [(level, e)]) level
        else (s, .absent)

/-- A walk by a cluster from the table whose bytes start at `root` (R74). -/
def State.walk (s : State) (cl part asn root va : Nat) : State × Walk :=
  if root < s.dramEnd then s.walkFrom cl part asn root va [] 3 else (s, .absent)

/-! ## TLBs (R77) -/

/-- Whether a TLB entry covers an address of a process. -/
def TlbEntry.covers (t : TlbEntry) (part asn va : Nat) : Bool :=
  decide (t.part = part ∧ t.asn = asn ∧ t.vpn = va / leafBytes t.level)

/-- A list of entries, last used first, with `t` put in front in place of those for the same page, cut to `n`. -/
def tlbFront (t : TlbEntry) (va n : Nat) (l : List TlbEntry) : List TlbEntry :=
  (t :: l.filter (fun u => !u.covers t.part t.asn va)).take n

/-- The set of an entry in a second-level TLB of 512 sets (R77). -/
def TlbEntry.set_ (t : TlbEntry) : Nat := t.vpn % 512

/-- The first eight entries of each set. -/
def eightWays (l : List TlbEntry) : List TlbEntry :=
  l.foldl (fun acc t => if (acc.filter (fun u => decide (u.set_ = t.set_))).length < 8 then acc ++ [t] else acc) []

/-- Installs an entry in a cluster's second-level TLB; the least recently used entry of a full set goes. -/
def State.install2 (s : State) (cl va : Nat) (t : TlbEntry) : State :=
  { s with tlb := s.tlb.put cl (eightWays (t :: (s.tlb.val cl []).filter (fun u => !u.covers t.part t.asn va))) }

/-- Installs an entry in the ITLB or the DTLB of a core. -/
def State.install1 (s : State) (c : Nat) (kind : AskKind) (va : Nat) (t : TlbEntry) : State :=
  let k := s.core c
  match kind with
  | .fetch => s.setCore c { k with itlb := tlbFront t va 64 k.itlb }
  | _ => s.setCore c { k with dtlb := tlbFront t va 128 k.dtlb }

/-- The entry of a core's ITLB or DTLB for an address. -/
def Core.tlbHit (k : Core) (kind : AskKind) (part asn va : Nat) : Option TlbEntry :=
  (match kind with
   | .fetch => k.itlb
   | _ => k.dtlb).find? (fun t => t.covers part asn va)

/-- The entry that a walk gives. -/
def walkEntry (part asn va level : Nat) (e : Word) (pa : Nat) : TlbEntry :=
  { part := part, asn := asn, level := level, vpn := va / leafBytes level, leaf := e, leafPa := pa }

/-! ## Walk queues (R78) -/

/-- ROOT of a PTROOT in bytes, PART and ASN (R72). -/
def rootOf (ptroot : Word) : Nat := frameOf ptroot
def partOf (ptroot : Word) : Nat := fld ptroot 47 44
def asnOf (ptroot : Word) : Nat := fld ptroot 63 48

/-- Whether a request is for the page of an address of a process. -/
def WalkReq.covers (r : WalkReq) (part asn va : Nat) : Bool := decide (r.part = part ∧ r.asn = asn ∧ r.page = va / 16384)

/-- A request joins the walk queue of a cluster, or merges onto the one for its page; a full queue does not take it, and it
is asked again (R78). A prefetch has no asker. -/
def State.queueWalk (s : State) (cl : Nat) (as : List Asker) (ptroot : Word) (va : Nat) : State :=
  let q := s.walks.val cl []
  let mine := fun (r : WalkReq) => r.covers (partOf ptroot) (asnOf ptroot) va
  if q.any mine then
    { s with walks := s.walks.put cl (q.map (fun r =>
        if mine r then { r with askers := r.askers ++ as.filter (fun a => !r.askers.any (fun b => decide (b = a))) } else r)) }
  else if q.length < 64 then
    { s with walks := s.walks.put cl (q ++
        [{ part := partOf ptroot, asn := asnOf ptroot, root := rootOf ptroot, page := va / 16384, askers := as }]) }
  else s

/-- The request of an asker. -/
def State.askWalk (s : State) (a : Asker) (ptroot : Word) (va : Nat) : State :=
  s.queueWalk (clusterOf (a.slot / 16)) [a] ptroot va

/-- The answer of a walk reaches who asked for it, and its leaf the TLB of that core. -/
def State.answerWalk (s : State) (a : Asker) (part asn va : Nat) (r : Walk) : State :=
  let x := s.slot a.slot
  let s := s.setSlot a.slot { x with walked :=
    { kind := a.kind, part := part, asn := asn, page := va / 16384, res := r } :: x.walked.filter (fun w => !decide (w.kind = a.kind)) }
  match r with
  | .leaf level e pa => s.install1 (a.slot / 16) a.kind va (walkEntry part asn va level e pa)
  | _ => s

/-- One walker of a cluster serves a request: the walk, its leaf in the second-level TLB, and the answers (R77, R78). One that
stalls stays in the queue (R106). -/
def State.serveWalk (s : State) (cl : Nat) (r : WalkReq) : State :=
  let va := r.page * 16384
  match s.walk cl r.part r.asn r.root va with
  | (s, .stall) => { s with walks := s.walks.put cl (s.walks.val cl [] ++ [r]) }
  | (s, res) =>
    let s := match res with
      | .leaf level e pa => s.install2 cl va (walkEntry r.part r.asn va level e pa)
      | _ => s
    r.askers.foldl (fun s a => s.answerWalk a r.part r.asn va res) s

/-- What a slot no longer waits for: its places in the walk queue of its cluster, and the answers that it holds, of the
kinds that a test picks. -/
def State.forgetWalks (s : State) (gs : Nat) (kinds : AskKind → Bool) : State :=
  let cl := clusterOf (gs / 16)
  let x := s.slot gs
  let s := s.setSlot gs { x with walked := x.walked.filter (fun w => !kinds w.kind) }
  { s with walks := s.walks.put cl ((s.walks.val cl []).map (fun r =>
      { r with askers := r.askers.filter (fun a => !(decide (a.slot = gs) && kinds a.kind)) })) }

/-! ## Translation (R76) -/

/-- Why a translation gives no place: a fault with its code and record cause, or a walk that has to come first. -/
inductive XStop
  | fault (code cause : Nat)
  | walk
  deriving DecidableEq, Repr

/-- The answer that an asker holds for a page. -/
def Slot.answer (x : Slot) (kind : AskKind) (part asn va : Nat) : Option Walk :=
  (x.walked.find? (fun w => decide (w.kind = kind ∧ w.part = part ∧ w.asn = asn ∧ w.page = va / 16384))).map (·.res)

/-- Looks a leaf up for a request (R76 steps 2 and 3, R77): in the core's TLB, in the cluster's, or as the walk that it asked
for gave it. With `fresh` only such a walk counts (R82). -/
def State.leafFor (s : State) (a : Asker) (ptroot : Word) (va : Nat) (fresh : Bool) :
    State × Except XStop (Nat × Word × Nat) :=
  let part := partOf ptroot
  let asn := asnOf ptroot
  let cl := clusterOf (a.slot / 16)
  if 2 ^ 47 ≤ va ∨ bitOf ptroot 0 = false then (s, .error (.fault fcPageAbsent 0))
  else
    match if fresh then none else (s.core (a.slot / 16)).tlbHit a.kind part asn va with
    | some t => (s.install1 (a.slot / 16) a.kind va t, .ok (t.level, t.leaf, t.leafPa))
    | none =>
      match if fresh then none else (s.tlb.val cl []).find? (fun t => t.covers part asn va) with
      | some t => ((s.install2 cl va t).install1 (a.slot / 16) a.kind va t, .ok (t.level, t.leaf, t.leafPa))
      | none =>
        match (s.slot a.slot).answer a.kind part asn va with
        | some (.leaf level e pa) => (s, .ok (level, e, pa))
        | some .absent => (s, .error (.fault fcPageAbsent 0))
        | some .poisoned => (s, .error (.fault fcPoison 0))
        | some .stall | none => (s, .error .walk)

/-- Translation by R76 steps 2 to 6; a rights fault found through a cached leaf is confirmed by a fresh walk (R82). -/
def State.xlate (s : State) (a : Asker) (ptroot : Word) (need : Need) (dev : Bool) (va : Nat) :
    State × Except XStop Loc :=
  match s.leafFor a ptroot va false with
  | (s, .error f) => (s, .error f)
  | (s, .ok (level, e, pa)) =>
    if s.leafOk (partOf ptroot) need dev level e then (s, .ok (locOf ptroot va level e pa))
    else
      match s.leafFor a ptroot va true with
      | (s, .error f) => (s, .error f)
      | (s, .ok (level, e, pa)) =>
        if s.leafOk (partOf ptroot) need dev level e then (s, .ok (locOf ptroot va level e pa))
        else (s, .error (.fault fcPageRights 0))

/-- A translation that a dispatcher makes through the TLB and the walkers of a cluster (R345, R348); `.walk` where it waits at a
slice that stalls the partition (R106). -/
def State.xlateHub (s : State) (cl : Nat) (ptroot : Word) (need : Need) (va : Nat) : State × Except XStop Loc :=
  let part := partOf ptroot
  let asn := asnOf ptroot
  let judge := fun (s : State) (level : Nat) (e : Word) (pa : Nat) =>
    if s.leafOk part need false level e then (s, Except.ok (locOf ptroot va level e pa))
    else (s, Except.error (XStop.fault fcPageRights 0))
  let walked := fun (s : State) =>
    match s.walk cl part asn (rootOf ptroot) va with
    | (s, .absent) => (s, Except.error (XStop.fault fcPageAbsent 0))
    | (s, .poisoned) => (s, .error (.fault fcPoison 0))
    | (s, .stall) => (s, .error .walk)
    | (s, .leaf level e pa) => judge (s.install2 cl va (walkEntry part asn va level e pa)) level e pa
  if 2 ^ 47 ≤ va ∨ bitOf ptroot 0 = false then (s, .error (.fault fcPageAbsent 0))
  else
    match (s.tlb.val cl []).find? (fun t => t.covers part asn va) with
    | some t =>
      if s.leafOk part need false t.level t.leaf then (s.install2 cl va t, .ok (locOf ptroot va t.level t.leaf t.leafPa))
      else walked s
    | none => walked s

/-! ## First touch and stalls at a slice (R103, R106) -/

/-- The first touch of the page of a place: none when the partition has no unbound frame at its home. -/
def State.firstTouch (s : State) (l : Loc) : Option State := s.bindPage l.key l.leafPa l.leaf

/-- Whether an access of a partition to a place stalls at its home (R106). -/
def State.holdingStall (s : State) (part : Nat) (l : Loc) : Bool :=
  !decide (l.attr = 2) && s.stalls part (s.homeSlice l.key)

/-- Whether an access of a core for partition `part` waits at its home: it stalls (R106), or bytes that the core wrote back to
the line still wait behind a reservation, so that the home would serve it older bytes (R98, R329). -/
def State.accessStall (s : State) (part core : Nat) (l : Loc) : Bool :=
  s.holdingStall part l || (!decide (l.attr = 2) && s.lateWrites core l.key)

/-- A translation followed by the first touch (R76, R103): a page with no frame raises `PAGE_ABSENT` with cause NOFRAME. -/
def touchAfter (r : State × Except XStop Loc) : State × Except XStop Loc :=
  match r with
  | (s, .error f) => (s, .error f)
  | (s, .ok l) =>
    match s.firstTouch l with
    | some s => (s, .ok l)
    | none => (s, .error (.fault fcPageAbsent 1))

/-- Translation with the first touch, for an asker (R76, R103). -/
def State.access (s : State) (a : Asker) (ptroot : Word) (need : Need) (dev : Bool) (va : Nat) :
    State × Except XStop Loc := touchAfter (s.xlate a ptroot need dev va)

end Sys2Proof.Machine
end

