-- ==== Sys2Proof/Machine/Sync.lean ====
section
/-! DEFINITION. Barrier objects and their unit at the home slice (R244 to R247), and the debits of Carter commands. -/

namespace Sys2Proof.Machine

/-- A barrier object as its four words (R244). -/
structure Bar where
  w0 : Word
  w1 : Word
  w2 : Word
  w3 : Word
  deriving DecidableEq, Repr

/-- EXPECT, ARRIVED, PHASE, SCOPE and PENDING of a barrier object (R244). -/
def Bar.expect (b : Bar) : Nat := fld b.w0 63 44
def Bar.arrived (b : Bar) : Nat := fld b.w0 43 24
def Bar.phase (b : Bar) : Nat := fld b.w0 23 8
def Bar.scope (b : Bar) : Nat := fld b.w0 7 5
def Bar.pending (b : Bar) : Nat := fld b.w1 39 0

/-- The scope of a code of R195. -/
def scopeOf (n : Nat) : Scope :=
  match n with
  | 1 => .slot
  | 2 => .core
  | 3 => .die
  | 4 => .part
  | 5 => .dev
  | _ => .dflt

/-- Whether a barrier object may be used by a partition (R244). -/
def Bar.ok (b : Bar) (part : Nat) : Bool :=
  bitOf b.w0 0 && !bitOf b.w0 1 && decide (1 ≤ b.scope ∧ b.scope ≤ 5) && !decide (fld b.w0 4 2 = 7)
  && decide (fld b.w1 63 40 = 0 ∧ fld b.w2 63 4 = 0 ∧ fld b.w2 3 0 = part)

/-- A word at a home key. -/
def State.homeWord (s : State) (key : Nat) : Word := ofN (ofBytes (s.homeBytes key 8))

/-- Reads the barrier object at a home key, as the bytes that result from all stores merged there. -/
def State.barAt (s : State) (key : Nat) : State × Bar :=
  let s := s.recallSector key
  (s, { w0 := s.homeWord key, w1 := s.homeWord (key + 8), w2 := s.homeWord (key + 16), w3 := s.homeWord (key + 24) })

/-- Writes a barrier object; copies of its sector are invalidated. -/
def State.setBar (s : State) (key : Nat) (b : Bar) : State :=
  let bs := bytesOf 8 b.w0.toNat ++ bytesOf 8 b.w1.toNat ++ bytesOf 8 b.w2.toNat ++ bytesOf 8 b.w3.toNat
  s.storeHome key bs (fld b.w2 3 0)

/-- An arrival or a debit has touched an object: its phase is tested at the end of the cycle (R244). -/
def State.touchBar (s : State) (key : Nat) : State := { s with barTouched := insertNew key s.barTouched }

/-- The test after the arrivals, credits and debits of a cycle (R244): a complete phase raises PHASE and clears ARRIVED. -/
def Bar.test (b : Bar) : Bar :=
  if b.arrived = b.expect ∧ b.pending = 0 then { b with w0 := setFld (setFld b.w0 43 24 0) 23 8 (b.phase + 1) } else b

/-- One more count in a saturating 32-bit field. -/
def satInc (w : Word) (hi lo : Nat) : Word :=
  if fld w hi lo + 1 < 2 ^ (hi + 1 - lo) then setFld w hi lo (fld w hi lo + 1) else w

/-! ## Operations on a word at its home (R96, R239, R240) -/

/-- The new value of an integer operation on a word of `w` bits (R239, R240). -/
def redVal (op : RedOp) (w : Nat) (old v : Nat) : Nat :=
  match op with
  | .swap | .cas => v
  | .add => (old + v) % 2 ^ w
  | .and => old &&& v
  | .or => old ||| v
  | .xor => old ^^^ v
  | .min => if sext w old ≤ sext w v then old else v
  | .max => if sext w old ≤ sext w v then v else old
  | .minz => min old v
  | .maxz => max old v
  | .fadd => (f32Add .rne old v).1

/-- Width in bits of a RED or AMO. -/
def redBits (w32 : Bool) : Nat := if w32 then 32 else 64

/-- Writes a word at its home and invalidates the copies of its sector (R96, R98). -/
def State.putWord (s : State) (key : Nat) (w32 : Bool) (v : Nat) : State :=
  (s.homePokes key (pokesOf key (bytesOf (redBits w32 / 8) v))).invalidateSector key

/-- Reads a word at its home for a partition, after the recall of its sector (R96, R98). -/
def State.takeWord (s : State) (key : Nat) (w32 : Bool) (p : Nat := s.me.part) : State × Nat :=
  let s := (s.atHome p key).recallSector key
  (s, ofBytes (s.homeBytes key (redBits w32 / 8)))

/-- The zeroing of a poisoned sector for a request that tolerates it (R403). -/
def State.zeroed (s : State) (key : Nat) : State :=
  (s.homePokes key (pokesOf (key / 32 * 32) (List.replicate 32 0))).invalidateSector key

/-- The zeroing for a request of a slot, which counts it. -/
def State.zeroSector (s : State) (gs key : Nat) : State :=
  let s := s.zeroed key
  s.setSlot gs { s.slot gs with subcnt := (s.slot gs).subcnt + 1 }

/-- A RED applied at the home slice of its word (R96, R403). -/
def State.redApply (s : State) (op : RedOp) (w32 : Bool) (key : Nat) (v : Word) (p : Nat := s.me.part) : State :=
  let (s, old) := s.takeWord key w32 p
  s.putWord key w32 (redVal op (redBits w32) old (v.toNat % 2 ^ redBits w32))

/-- A RED of a slot at the home slice of its word, with the zeroing of a poisoned sector that it tolerates (R403). -/
def State.redServe (s : State) (gs : Nat) (op : RedOp) (w32 etol : Bool) (key : Nat) (v : Word) (p : Nat) : State :=
  let s := (s.atHome p key).recallSector key
  (if s.isPoisoned key && etol then s.zeroSector gs key else s).redApply op w32 key v p

/-! ## The queue of a word (R98) -/

/-- Whether two keys name one 8-byte word. -/
def sameWord (a b : Nat) : Bool := decide (a / 8 = b / 8)

/-- Replaces the reservation queue of a slice. -/
def State.setAmo (s : State) (n : Nat) (l : List AmoRes) : State := s.setSlice n { s.slice n with amo := l }

/-- The entries that stand in the queue when `n` reservations fit; a later one waits in its core's network interface
(R98 step 1). -/
def inQueue : Nat → List AmoRes → List AmoRes
  | _, [] => []
  | n, r :: rs =>
    match r.op, n with
    | .reserve, 0 => inQueue 0 rs
    | .reserve, n + 1 => r :: inQueue n rs
    | _, n => r :: inQueue n rs

/-- The first entry that stands at the head for its word, is a reservation and has not been granted. -/
def grantable (seen : List Nat) : List AmoRes → Option AmoRes
  | [] => none
  | r :: rs =>
    if seen.any (sameWord r.key) then grantable seen rs
    else if r.granted || !decide (r.op = .reserve) then grantable (r.key :: seen) rs else some r

/-- Grants a reservation: the word is recalled from an EXC owner and sent (R98 step 2). -/
def State.grant (s : State) (n : Nat) (r : AmoRes) : State :=
  let s := s.recallSector r.key
  s.setAmo n ((s.slice n).amo.map (fun q => if q.op = .reserve ∧ q.slot = r.slot then { q with granted := true } else q))

/-- What waits for a word takes its turn: writes and REDs are applied, and a reservation is granted (R98 step 4). -/
def State.advanceWord (s : State) (n key : Nat) : Nat → State
  | 0 => s
  | fuel + 1 =>
    match (s.slice n).amo.find? (fun q => sameWord q.key key) with
    | none => s
    | some q =>
      let rest := s.setAmo n ((s.slice n).amo.erase q)
      match q.op with
      | .reserve => if q.granted then s else s.grant n q
      | .write ps => (rest.mergeHome 0 key ps).advanceWord n key fuel
      | .red op w32 etol v => (rest.redServe q.slot op w32 etol q.key v q.via.part).advanceWord n key fuel

/-- Takes a reservation out of its queue; when it was granted, what waits for the word takes its turn in the same step. -/
def State.amoLeave (s : State) (n : Nat) (r : AmoRes) : State :=
  let l := (s.slice n).amo
  let s := s.setAmo n (l.erase r)
  if r.granted || decide (l.find? (fun q => sameWord q.key r.key) = some r) then s.advanceWord n r.key l.length else s

/-- The reservation of a slot, with its slice. -/
def State.amoOf (s : State) (gs : Nat) : Option (Nat × AmoRes) :=
  s.slices.findSome? (fun e => (e.2.amo.find? (fun r => decide (r.op = .reserve ∧ r.slot = gs))).map (fun r => (e.1, r)))

/-- Withdraws a slot's reservation (R369); one already granted is released at once without a write. -/
def State.amoWithdraw (s : State) (gs : Nat) : State :=
  match s.amoOf gs with
  | some (n, r) => s.amoLeave n r
  | none => s

/-- Whether the window of a slot's AMO is open: its reservation has been granted and is not yet released (R98, R369). -/
def State.amoOpen (s : State) (gs : Nat) : Bool :=
  match s.amoOf gs with
  | some (_, r) => r.granted
  | none => false

/-- What a slot has asked for and no longer waits for: walks, and the reservation of an AMO (R78, R369). -/
def State.dropAsked (s : State) (gs : Nat) : State := (s.forgetWalks gs (fun _ => true)).amoWithdraw gs

/-- Inserts an AMO behind those of lower WID. -/
def insertByWid (t : TracedAmo) : List TracedAmo → List TracedAmo
  | [] => [t]
  | u :: us => if t.wid.toNat < u.wid.toNat then t :: u :: us else u :: insertByWid t us

/-- Folds the AMOs of completed phases, word by word in ascending WID order (R242); the fold of a word that an AMO of another
launch reserves waits behind it (R98). -/
def State.foldDue (s : State) : State :=
  let ready := fun (t : TracedAmo) => t.due && t.result.isNone && !s.reserved t.key
  let todo := (s.traced.filter ready).foldl (fun l t => insertByWid t l) []
  todo.foldl (fun s t =>
    let (s, old) := s.takeWord t.key t.w32 t.via.part
    let s := s.putWord t.key t.w32 (redVal t.op (redBits t.w32) old (t.arg.toNat % 2 ^ redBits t.w32))
    { s with traced := s.traced.map (fun u => if u = t then { u with result := some (ofN old) } else u) }) s

/-- A phase of a tracing barrier has completed: its AMOs are folded (R242). -/
def State.foldTraced (s : State) (barKey phase : Nat) : State :=
  ({ s with traced := s.traced.map (fun (t : TracedAmo) =>
      if t.barKey = barKey ∧ t.phase = phase ∧ t.result = none then { t with due := true } else t) } : State).foldDue

/-- What follows a change of a barrier object: the AMOs of a phase that has completed are folded. -/
def State.afterTest (s : State) (key : Nat) (before after : Bar) : State :=
  if before.phase = after.phase then s else s.foldTraced key before.phase

/-- The test of an object at the end of a cycle (R244). -/
def State.testBar (s : State) (key : Nat) : State :=
  let (s, b) := s.barAt key
  if b.test = b then s else (s.setBar key b.test).afterTest key b b.test

/-- Every object that an arrival or a debit of the cycle touched is tested. -/
def State.testBars (s : State) : State := s.barTouched.foldl State.testBar { s with barTouched := [] }

/-- One arrival at the unit: the phase arrived in, or none when it overruns (R244). -/
def State.barArrive (s : State) (key : Nat) : State × Option Nat :=
  let (s, b) := s.barAt key
  if b.arrived + 1 ≤ b.expect then
    ((s.setBar key { b with w0 := setFld b.w0 43 24 (b.arrived + 1) }).touchBar key, some b.phase)
  else (s.setBar key { b with w3 := satInc b.w3 63 32 }, none)

/-- A debit of `n` at the unit (R126, R244): refused, and counted in UNDERFLOWS, when it would take PENDING below
zero. Answers whether it was applied. -/
def State.barDebit (s : State) (key n : Nat) : State × Bool :=
  let (s, b) := s.barAt key
  if n ≤ b.pending then ((s.setBar key { b with w1 := setFld b.w1 39 0 (b.pending - n) }).touchBar key, true)
  else (s.setBar key { b with w3 := satInc b.w3 31 0 }, false)

/-- A credit of `n` (R244); none while it does not fit. -/
def State.barCredit (s : State) (key n : Nat) : Option State :=
  let (s, b) := s.barAt key
  if b.pending + n < 2 ^ 40 then some (s.setBar key { b with w1 := setFld b.w1 39 0 (b.pending + n) }) else none

/-! ## Combiners (R247) -/

/-- A combiner whose members have all arrived sends one arrival home; none when nothing is forwarded. -/
def Combiner.full (c : Combiner) : Bool :=
  !c.members.isEmpty && c.members.all (fun m => c.arrived.any (fun a => decide (a = m)))

/-- Replaces the combiners of a core. -/
def State.setCombiners (s : State) (core : Nat) (l : List Combiner) : State :=
  s.setCore core { s.core core with combiners := l }

/-- Takes a slot out of one combiner of its core; a combiner that this completes forwards, and an empty one is freed
(R247). -/
def State.leaveCombiner (s : State) (core slot : Nat) (c : Combiner) : State :=
  if c.members.any (fun m => decide (m = slot)) then
    let d : Combiner := { c with members := c.members.filter (fun m => !decide (m = slot))
                                 arrived := c.arrived.filter (fun m => !decide (m = slot)) }
    let same := fun (e : Combiner) => decide (e.key = c.key)
    if d.members.isEmpty then s.setCombiners core ((s.core core).combiners.filter (fun e => !same e))
    else if d.full then
      let s := (s.barArrive c.key).1
      s.setCombiners core ((s.core core).combiners.map (fun e => if same e then { d with arrived := [] } else e))
    else s.setCombiners core ((s.core core).combiners.map (fun e => if same e then d else e))
  else s

/-- Takes a slot out of every combiner of its core. -/
def State.leaveCombiners (s : State) (core slot : Nat) : State :=
  (s.core core).combiners.foldl (fun s c => s.leaveCombiner core slot c) s

/-! ## Carter commands that end (R126, R127) -/

/-- ROWLEN, ROWS and total bytes of a command (R124, R258). -/
def CpCmd.rowlen (c : CpCmd) : Nat := fld c.c0 23 0
def CpCmd.total (c : CpCmd) : Nat := c.rowlen * c.rows
def CpCmd.credited (c : CpCmd) : Bool := !bitOf c.c0 24

/-- Debits the credited bytes of a command that did not land. -/
def State.closeDebit (s : State) (c : CpCmd) : State :=
  if c.credited && decide (c.landed < c.total) then (s.barDebit c.barKey (c.total - c.landed)).1 else s

/-- A Carter whose commands have been aborted (R127). -/
def Carter.aborted (c : Carter) : Carter :=
  match c.queue with
  | [] => c
  | h :: _ => { c with queue := [], code := 7, cperr := true, idx := h.idx }

/-- `CP.ABORT` for a slot (R127): every command is dropped and its credit debited; CODE 7 and CPERR are recorded. -/
def State.carterAbort (s : State) (gs : Nat) : State :=
  let cmds := (s.slot gs).cp.queue
  if cmds.isEmpty then s
  else
    let s := cmds.foldl State.closeDebit s
    let x := s.slot gs
    s.setSlot gs { x with cp := x.cp.aborted }

end Sys2Proof.Machine
end

