-- ==== Sys2Proof/Machine/Ops.lean ====
section
/-! DEFINITION. Taking a fault (R390 to R395), killing a thread (R406, R407), returning from a local trap (R226), and
what ends every instruction: completion, wait or fault. -/

namespace Sys2Proof.Machine

/-- An event of R228 for a slot. -/
def State.signal (s : State) (gs : Nat) : State :=
  s.setSlot gs { s.slot gs with event := max (s.slot gs).event (s.now + 1) }

/-- An event that is an arrival of the next cycle (R131, R145, R228). -/
def State.signalNext (s : State) (gs : Nat) : State := s.setSlot gs { s.slot gs with event := s.now + 2 }

/-! ## Fault records (R393 to R395) -/

/-- FQLOG2 of a partition (R377). -/
def State.fqLog2 (s : State) (p : Nat) : Nat := fld (s.part p).w12 51 48

/-- Whether queue `p` can take a record. -/
def State.fqRoom (s : State) (p : Nat) : Bool :=
  !decide (s.fqLog2 p = 0)
  && decide ((s.fqTail.val p 0 + 2 ^ 32 - s.fqHead.val p 0) % 2 ^ 32 < 2 ^ s.fqLog2 p)

/-- The partition whose queue takes a record (R393). -/
def State.recordQueue (s : State) (part code : Nat) : Nat :=
  if 64 ≤ code ∨ s.fqLog2 part = 0 then 0 else part

/-- Replaces the bytes from offset `o` of a record body. -/
def putBytes (l : List Byte) (o : Nat) (bs : List Byte) : List Byte := l.take o ++ bs ++ l.drop (o + bs.length)

/-- Bytes 32 to 127 of a record: what its kind names, zero elsewhere (R395). -/
def recordBody (extra : List (Nat × List Byte)) : List Byte :=
  (extra.foldl (fun l e => putBytes l e.1 e.2) (List.replicate 128 0)).drop 32

/-- The 128 bytes of a record, SEQ zero until it is written (R394). -/
def recordBytes (code part kind pc core slot tin mode : Nat) (replay handler : Bool) (scan : Nat) (addr : Word)
    (cause : Nat) (extra : List (Nat × List Byte)) : List Byte :=
  bytesOf 8 (code * 2 ^ 56 + part * 2 ^ 52 + kind * 2 ^ 48 + pc % 2 ^ 48)
  ++ bytesOf 8 (core * 2 ^ 56 + slot * 2 ^ 52 + tin * 2 ^ 36 + mode * 2 ^ 34 + b2n replay * 2 ^ 33
      + b2n handler * 2 ^ 32 + scan)
  ++ bytesOf 8 addr.toNat ++ bytesOf 8 (cause * 2 ^ 24) ++ recordBody extra

/-- Puts a record at its source; the hub writes it in the step `FAULT_RECORD_WRITE` (R392 step 4, R393). -/
def State.postRecord (s : State) (queue code : Nat) (slot : Option Nat) (bs : List Byte) : State :=
  { s with fqWait := s.fqWait ++ [{ queue := queue, code := code, slot := slot, bytes := bs }]
           agenda := s.agenda ++ [.faultRecordWrite queue] }

/-- The record of a fault of slot `gs` (R394, R395). -/
def State.slotRecord (s : State) (gs : Nat) (f : FaultInfo) (pc : Nat) (replay : Bool)
    (extra : List (Nat × List Byte)) : State :=
  let x := s.slot gs
  s.postRecord (s.recordQueue x.part f.code) f.code (some gs)
    (recordBytes f.code x.part f.kind pc (gs / 16) (gs % 16) x.tin x.mode replay x.handler
      (s.core (gs / 16)).scan f.addr f.cause (extra ++ f.extra))

/-! ## Messages that go back (R143, R144) -/

/-- The info word of a message (R141). -/
def Message.info (m : Message) : Nat :=
  m.core * 2 ^ 56 + m.slot * 2 ^ 52 + m.tin * 2 ^ 36 + (m.words.length - 1) * 2 ^ 33 + m.reason * 2 ^ 30
    + b2n m.nxm * 2 ^ 29 + m.fmt * 2 ^ 25 + m.utag

/-- A number that no flight of the slot has. -/
def Slot.nextNum (x : Slot) : Nat := x.flights.foldl (fun n f => max n (f.num + 1)) 0

/-- Writes a bounce that its slot can no longer take into the partition's fault queue as STALE_TIN (R144). -/
def State.staleTin (s : State) (gs part tin mode : Nat) (handler : Bool) (m : Message) : State :=
  s.postRecord (s.recordQueue part fcStaleTin) fcStaleTin none
    (recordBytes fcStaleTin part 2 0 (gs / 16) (gs % 16) tin mode false handler (s.core (gs / 16)).scan 0 0
      [(32, bytesOf 8 m.info), (40, m.words.flatMap (fun w => bytesOf 8 w.toNat))])

/-- Returns every message of the inbox of a slot `x` with number `gs` (R155, R223, R323): a delivered message goes back
whole to its sender with reason STALE_TIN, a bounce of the slot's own goes to the fault queue. A bounce's record gives MODE and
HANDLER as the slot holds them then (R394). -/
def State.bounceInbox (s : State) (gs : Nat) (x : Slot) : State :=
  x.inbox.foldl (fun s m =>
    if m.reason = 0 then
      let dest := m.core * 16 + m.slot
      let y := s.slot dest
      let b : Message := { m with core := gs / 16, slot := gs % 16, tin := x.tin, reason := 1, popped := 0 }
      s.setSlot dest { y with flights := y.flights ++ [{ fromTin := m.tin, part := x.part, dstCore := gs / 16
                                                         dstSlot := gs % 16, msg := b, pos := .destBounce
                                                         firstRefusal := none, halves := 0, launch := none
                                                         counted := false, plan := !decide (x.mode = 0)
                                                         num := y.nextNum }] }
    else s.staleTin gs x.part x.tin x.mode x.handler m) s

/-- Empties the inbox of a slot and returns its messages. -/
def State.returnInbox (s : State) (gs : Nat) : State :=
  (s.setSlot gs { s.slot gs with inbox := [] }).bounceInbox gs (s.slot gs)

/-! ## Freeing what a slot holds -/

/-- Whether the spill entries that name a slot number are those of a partition's slot: while a reservation stands, no thread
but the reserved member's joins (R287), and the tiles that arrive are that member's (R151). -/
def Core.ownsSpill (k : Core) (part slot : Nat) : Bool :=
  match k.latch.reserved with
  | some r => decide (r = (part, slot))
  | none => true

/-- The spill entries of a partition's slot (R151, R286). -/
def Core.spillOf (k : Core) (part slot : Nat) : List (Nat × RingTile) :=
  if k.ownsSpill part slot then k.spill.filter (fun e => decide (e.1 = slot)) else []

/-- Frees the latch that a slot holds or has reserved, with its banks and its spill entries (R279, R287, R323). -/
def Core.freeLatch (k : Core) (part slot : Nat) : Core :=
  let spill := if k.ownsSpill part slot then k.spill.filter (fun e => !decide (e.1 = slot)) else k.spill
  if k.latch.holder = some slot then
    { k with latch := { Latch.reset with reserved := k.latch.reserved }, spill := spill }
  else if k.latch.reserved = some (part, slot) then
    { k with latch := { k.latch with reserved := none }, spill := spill }
  else { k with spill := spill }

/-- Zeroes the accumulator tiles of a mask (R159, R323): a step in flight completes first, and its tile is then zero
(R181, R287). -/
def Core.clearTiles (k : Core) (mask : Nat) : Core :=
  { k with acc := k.acc.filter (fun e => !nbit mask (e.1 / 1024))
           matrix := k.matrix.map (fun w => if nbit mask w.acc then { w with elems := List.replicate 1024 0 } else w) }

/-- The packed form of a matrix descriptor (R347). -/
def packDesc (w : Word) : Nat :=
  fld w 50 32 * 2 ^ 13 + fld w 15 15 * 2 ^ 12 + fld w 11 10 * 2 ^ 10 + fld w 9 4 * 2 ^ 4 + fld w 3 0

/-- The work packet of a slot's task as the replay list keeps it (R346, R407). -/
def Slot.replayPacket (x : Slot) (launch compl entry : Nat) : List Byte :=
  bytesOf 8 x.wid.toNat ++ bytesOf 4 1 ++ bytesOf 6 entry ++ bytesOf 1 launch ++ bytesOf 1 0
  ++ bytesOf 4 (packDesc x.fa) ++ bytesOf 4 (packDesc x.fb) ++ bytesOf 4 (packDesc x.fc)
  ++ bytesOf 8 (fld x.sc 18 0 * 2 ^ 38 + fld x.sb 18 0 * 2 ^ 19 + fld x.sa 18 0)
  ++ bytesOf 6 (fld x.cstamp 47 0) ++ bytesOf 2 compl ++ bytesOf 4 x.limit ++ bytesOf 12 0

/-- A scrubbed slot (R323): everything of the task is gone; TIN, SBASE and SLIM stay. -/
def Slot.scrubbed (x : Slot) : Slot :=
  { Slot.reset with
    tin := x.tin, sbase := x.sbase, slim := x.slim, trapv := 0, subcnt := x.subcnt, clampcnt := x.clampcnt
    mringPred := x.mringPred, mringSucc := x.mringSucc, vbank := x.vbank, ptroot := x.ptroot, ptag := x.ptag
    cp := x.cp, flights := x.flights }

/-- Drops a slot's places in the watch tables (R250). -/
def State.dropWaits (s : State) (gs : Nat) : State :=
  { s with slices := s.slices.map (fun e => (e.1, { e.2 with watch := e.2.watch.filter (fun w => !decide (w.2.2 = gs)) })) }

/-- The record of a waiter whose slot parks keeps its place and its target; what a post has given it goes, since its re-issue
samples afresh, while the end of an arrival's round and a fault stay (R311, R312, R387). -/
def GateWaiter.park (w : GateWaiter) : GateWaiter :=
  { w with
    parked := true
    answer := match w.target, w.answer with
      | some _, some (.done ..) => none
      | _, a => a }

/-- The waits of a slot that parks, at every gate. -/
def State.parkGates (s : State) (gs : Nat) : State :=
  { s with gates := s.gates.map (fun e => (e.1, { e.2 with
      waiters := e.2.waiters.map (fun w => if w.slot = gs then w.park else w) })) }

/-- Drops a slot's waits at gates (R311); an arrival that has been counted stays in its round (R312). -/
def State.dropGateWaits (s : State) (gs : Nat) : State :=
  let s := s.parkGates gs
  let gates := s.gates.map (fun e => (e.1, { e.2 with
    waiters := e.2.waiters.filter (fun w => !decide (w.slot = gs) || w.target.isNone) }))
  { s with gates := gates, hub := { s.hub with bridged := s.hub.bridged.filter (fun b => !decide (b.slot = gs)) } }

/-- The task of a slot `x` with number `gs` enters the replay list (R406, R407). -/
def State.enterReplay (s : State) (gs cause : Nat) (x : Slot) : State :=
  match x.task with
  | some t =>
    match t.packet with
    | some (launch, compl, entry) =>
      let e : ReplayEntry :=
        { packet := x.replayPacket launch compl entry, pend := true, cause := cause, lane := t.lane, launch := launch
          part := t.part, scan := (s.core (gs / 16)).scan }
      { s with replay := s.replay.put gs e }
    | none => s
  | none => s

/-- Scrubs a slot (R323), and enters its task in the replay list when it held one (R406, R407). -/
def State.scrub (s : State) (gs cause : Nat) : State :=
  let x := s.slot gs
  let c := gs / 16
  let s := (s.carterAbort gs).dropAsked gs
  let s := { s with traced := s.traced.filter (fun t => !decide (t.slot = gs)) }
  let tiles := s.accMask x.part (gs % 16)
  let k := ((s.core c).freeLatch x.part (gs % 16)).clearTiles tiles
  let s := s.setCore c (k.unitsWritten (gs % 16)
    (List.range 25 ++ (List.range 16).map (32 + ·) ++ ((List.range 8).filter (nbit tiles)).map unitTile))
  let s := s.returnInbox gs
  let s := (s.dropWaits gs).dropGateWaits gs
  (s.setSlot gs (s.slot gs).scrubbed).enterReplay gs cause x

/-- The slot is done with the walks that its scalar stream and its fetch asked for. -/
def Slot.walksDone (x : Slot) : Slot :=
  { x with walked := x.walked.filter (fun w => decide (w.kind = .engine ∨ w.kind = .carter)) }

/-! ## Taking a fault -/

/-- A local trap (R391): the PC, the code and the address are saved, the signature state is set aside, and the slot
runs its handler with the checker as R205 starts it. -/
def Slot.localTrap (x : Slot) (code : Nat) (addr : Word) : Slot :=
  { x.walksDone with
           trappc := ofN x.pc, trapcode := ofN code, trapaddr := addr, sigAside := x.sig
           sig := { armed := false, expect := x.sig.expect, run := x.sig.run, lastXfer := true }
           handler := true, pc := fld x.trapv 47 1 * 2, run := .ready }

/-- Whether a fault of class L is taken as a local trap (R391). -/
def Slot.trapsLocally (x : Slot) (f : FaultInfo) : Bool := f.loc && bitOf x.trapv 0 && !x.handler

/-- A number wrapped to a signed 32-bit field, as BUDGET.LEFT is (R162, R367). -/
def signed32 (n : Int) : Int := sext 32 (n % 2 ^ 32).toNat

/-- One charged unit (R367): LEFT falls by one, and the budget end or the watchdog is due when it has fallen far
enough (R368, R369). -/
def State.charge (s : State) (gs : Nat) : State :=
  let x := s.slot gs
  if x.limit = 0 then s
  else
    let left := signed32 (x.left - 1)
    let s := s.setSlot gs { x with left := left }
    if left < -(x.limit : Int) then { s with agenda := s.agenda ++ [.watchdog gs] }
    else if left = 0 then { s with agenda := s.agenda ++ [.budgetEnd gs] } else s

/-- Charges the issue that the latch names (R367). -/
def State.chargeIssue (s : State) : State := if s.iss.charge then s.charge s.cur else s

/-- The fault of class K that an uncorrectable register word and a wrong signature raise (R205, R401). -/
def signatureFault : FaultInfo := { code := fcSignature, addr := 0, loc := false, kind := 0, cause := 0, extra := [] }

/-- Kills a slot's thread (R406); SIGCNT counts the kills of `SIGNATURE` (R404). -/
def State.kill (s : State) (gs cause : Nat) : State :=
  let s := s.scrub gs cause
  if cause = fcSignature then
    let k := s.core (gs / 16)
    s.setCore (gs / 16) { k with health := { k.health with sigcnt := k.health.sigcnt + 1 } }
  else s

/-- Parks a slot with a reported fault; it resumes at `resume` (R392). -/
def State.reportFault (s : State) (gs : Nat) (f : FaultInfo) (next resume : Nat) : State :=
  let x := s.slot gs
  let s := s.slotRecord gs f x.pc false [(32, bytesOf 8 next)]
  let y := { s.slot gs with run := .parked .fault, pc := resume, again := decide (resume = x.pc)
                            waitLeft := x.waitLeft.map (fun d => d - s.now), parkedAt := s.now + 1, stop := none }
  ((s.setSlot gs y).parkGates gs).dropAsked gs

/-- Takes a fault of the instruction that the slot `s.cur` has issued: a local trap, a kill for class K, or a park
with a record (R390 to R392, R406). -/
def State.takeFault (s : State) (f : FaultInfo) : State :=
  let gs := s.cur
  let x := s.me
  if x.trapsLocally f then ((s.setMe (x.localTrap f.code f.addr)).amoWithdraw gs).chargeIssue
  else if f.code = fcSignature then
    (s.slotRecord gs f x.pc false [(32, bytesOf 8 (x.pc + s.iss.len))]).kill gs f.code
  else
    let s := s.chargeIssue
    s.reportFault gs f (x.pc + s.iss.len) x.pc

/-! ## The end of an instruction -/

/-- The checker's state after the instruction that has issued, where it is a block ender that transfers control or falls
through (R205); with SIGEN 0 no instruction ends a block, and the state holds. -/
def Issue.ended (i : Issue) (xfer : Bool) : SigState := if i.ender then { i.sig with lastXfer := xfer } else i.sig

/-- Completion: the PC moves to the next instruction or the target, the checker's state is that of the completed
instruction (R205), and the issue is charged. -/
def State.commit (s : State) : State :=
  (s.setMe { s.me.walksDone with pc := s.iss.npc, sig := s.iss.ended s.iss.xfer, run := .ready }).chargeIssue

/-- Whether an instruction that waits so has issued: its issue is charged then, and not again while it waits (R367). One that
waits whole for an operand, a place or a translation has not. -/
def WaitFor.issued : WaitFor → Bool
  | .walk | .retry | .stores _ => false
  | _ => true

/-- Whether the issue of the instruction at which a slot waits has been charged. -/
def Slot.paid (x : Slot) : Bool :=
  match x.run with
  | .waiting w => w.issued
  | _ => false

/-- The slot waits; its PC stays, and the instruction issues again. -/
def State.waiting (s : State) (w : WaitFor) : State :=
  let t := s.setMe { s.me with run := .waiting w }
  if w.issued then t.chargeIssue else t

/-- The outcome of a machine instruction from its meaning. -/
def runI (m : M Unit) (s : State) : Host.Outcome State Fault Refusal :=
  match m s with
  | .ok (_, t) => .next t.commit
  | .error (.wait w keep) => .next ((keep s).waiting w)
  | .error (.fault f keep) => .next ((keep s).takeFault f)

/-- The state in which a meaning leaves the machine when it completes, for steps that are no instruction: a stop
leaves the state as it was but for what the stop keeps. -/
def runE (m : M Unit) (s : State) : State :=
  match m s with
  | .ok (_, t) => t
  | .error (.wait _ keep) => keep s
  | .error (.fault _ keep) => keep s

/-- Whether a step is a fault of the instruction, for engine turns and replays. -/
def faultOf (m : M Unit) (s : State) : Option FaultInfo :=
  match m s with
  | .error (.fault f _) => some f
  | _ => none

/-! ## ERET, TRAP and BRK (R225 to R227) -/

/-- The return from a local trap (R226): the handler flag falls, the signature state set aside returns, and the PC is
TRAPPC. The block-ender check of R205 is made at issue. -/
def eretOp : M Unit := do
  let x ← me
  needP x.handler fcIllegalOpcode
  updMe (fun x => { x with handler := false, sig := x.sigAside })
  upd (fun s => { s with iss := { s.iss with npc := fld x.trappc 47 1 * 2, sig := x.sigAside, ender := false } })

/-- A `TRAP` (R225), which writes TRAPADDR on either path, or a `BRK` (R227): entered with the instruction issued, so the checker's state is the one after
it (R205) and a resume runs the next instruction (R390). -/
def trapOp (code : Nat) (loc : Bool) (addr : Word) (s : State) : State :=
  let f : FaultInfo := { code := code, addr := addr, loc := loc, kind := 0, cause := 0, extra := [] }
  let x := { s.me with trapaddr := if loc then addr else s.me.trapaddr }
  if x.trapsLocally f then
    (s.setMe ({ x with sig := s.iss.ended true }.localTrap code addr)).chargeIssue
  else
    let s := (s.setMe { x with sig := s.iss.ended false }).chargeIssue
    s.reportFault s.cur f (x.pc + s.iss.len) (x.pc + s.iss.len)

/-! ## Parks (R396) -/

/-- Parks a slot at its instruction boundary and keeps its task (R396): a `WFE` that waits completes on resume
(R205, R228); other waits issue again, with the time that a `WAIT` has left (R397), and what they hold at a watch table is
given up. Accesses that wait for a walk are abandoned (R78). A request that meets a slot already parked has no further
effect. -/
def State.parkSlot (s : State) (gs : Nat) (why : ParkWhy) : State :=
  let s := (s.parkGates gs).dropAsked gs
  let x := { s.slot gs with stop := none }
  let y := { x with run := .parked why, waitLeft := x.waitLeft.map (fun d => d - s.now), parkedAt := s.now + 1 }
  match x.run with
  | .parked _ => s.setSlot gs x
  | .waiting (.wfe npc sig) => (s.setSlot gs { y with pc := npc, sig := sig, again := false }).dropWaits gs
  | .waiting _ => (s.setSlot gs { y with again := true }).dropWaits gs
  | .ready => (s.setSlot gs { y with again := false }).dropWaits gs

end Sys2Proof.Machine
end

