-- ==== Sys2Proof/Machine/HubBase.lean ====
section
/-! DEFINITION. The hub's register storage: addresses, values after wipe, and the fields of registers that other units
look at (R45, R54, R58 to R62, R376). -/

namespace Sys2Proof.Machine

/-! ## Addresses (R58) -/

/-- Bases of the hub window. -/
def regBase : Nat := 0xF0100000000
def resultBase : Nat := 0xF0000400000
def statusBase : Nat := 0xF0000800000
def egStatBase : Nat := 0xF0000802000
def lectlBase : Nat := 0xF0100010000
def stageBase : Nat := 0xF0100100000
def gateBase : Nat := 0xF0100200000
def partBase : Nat := 0xF0100300000
def ringBase : Nat := 0xF0100400000
def fqBase : Nat := 0xF0100500000
def remapReg : Nat := 0xF0100600000
def relBase : Nat := 0xF0100700000
def replayCtlReg : Nat := 0xF0100704000
def sliceBase : Nat := 0xF0100708000
def replayBase : Nat := 0xF0100710000
def tsnBase : Nat := 0xF0100800000
def pairBase : Nat := 0xF0100900000
def hostBase : Nat := 0xF0100A00000
def lifeBase : Nat := 0xF0100B00000
def scBase : Nat := 0xF0100C00000

/-- Offset in the register block of SPCFG of port p, of PIBIND.f, LXCFG.i, LXDST.i, ESCFG.e and the scan registers. -/
def spBase (p : Nat) : Nat := regBase + 0x100 + 0x100 * p
def pibindReg (f : Nat) : Nat := regBase + 0x1000 + 16 * f
def lxcfgReg (i : Nat) : Nat := regBase + 0x3000 + 16 * i
def lxdstReg (i : Nat) : Nat := lxcfgReg i + 8
def escfgReg (e : Nat) : Nat := regBase + 0x4000 + 32 * e
def scancfgReg : Nat := regBase + 0xE000

/-- TSN objects (R62): port t, its gate control lists, stream filter f, stream gate g and its lists, meter m, recovered
stream r, domain d, and the counters of filter f. -/
def tpReg (t o : Nat) : Nat := tsnBase + 0x1000 * t + o
def qbvList (t : Nat) : Nat := tsnBase + 0x10000 + 0x4000 * t
def filterReg (f : Nat) : Nat := tsnBase + 0x20000 + 16 * f
def sgReg (g : Nat) : Nat := tsnBase + 0x22000 + 64 * g
def sgList (g : Nat) : Nat := tsnBase + 0x26000 + 0x400 * g
def meterReg (m : Nat) : Nat := tsnBase + 0x66000 + 32 * m
def recovReg (r : Nat) : Nat := tsnBase + 0x68000 + 32 * r
def domainReg (d : Nat) : Nat := tsnBase + 0x6A000 + 64 * d
def filterCtr (f : Nat) : Nat := tsnBase + 0x70000 + 64 * f

/-- The W1C bits of a register (R7): a store narrower than the register writes them as 0 outside its bytes. -/
def w1cBits (pa : Nat) : List Nat :=
  if regBase + 0x100 ≤ pa ∧ pa < regBase + 0x900 ∧ pa % 0x100 = 0 then [0]
  else if lectlBase ≤ pa ∧ pa < lectlBase + 2048 then [7, 6]
  else if lxcfgReg 0 ≤ pa ∧ pa < lxcfgReg 16 ∧ pa % 16 = 8 then [1, 0]
  else if pa = scancfgReg + 16 then [29]
  else if pa = pairBase + 8 then [62, 61]
  else if pa = pairBase + 0x10 then [62]
  else if pa = hostBase + 0x80 then [4, 3, 2, 1, 0]
  else if pa = lifeBase + 0x30 then [12]
  else []

/-- The field [hi:lo] as a mask. -/
def bitMask (hi lo : Nat) : Nat := 2 ^ (hi + 1) - 2 ^ lo

/-- The RWS fields of the register block and of LECTL (R24, R42, R45, R54, R55, R60, R61, R363). -/
def blockRws (o : Nat) : Nat :=
  if o = 0 then bitMask 5 0
  else if 0x100 ≤ o ∧ o < 0x900 then
    if o % 0x100 = 0 then bitMask 47 31 + bitMask 15 8
    else if o % 0x100 = 8 then bitMask 15 0
    else if 0x40 ≤ o % 0x100 ∧ o % 0x100 < 0xC0 then 2 ^ 63 + bitMask 15 0
    else 0
  else if 0x1000 ≤ o ∧ o < 0x3000 then if o % 16 = 0 then 2 ^ 63 + bitMask 56 43 + bitMask 21 3 else 0
  else if 0x3000 ≤ o ∧ o < 0x3100 then if o % 16 = 0 then bitMask 63 0 else bitMask 19 9
  else if 0x4000 ≤ o ∧ o < 0x6000 then
    match o % 32 / 8 with
    | 0 => bitMask 63 1
    | 1 => bitMask 63 0
    | 2 => bitMask 16 0
    | _ => 0
  else if o = 0xE000 then 2 ^ 63 + bitMask 58 32 + bitMask 26 0
  else if o = 0xE008 then bitMask 31 0
  else 0

/-- The RWS fields of the TSN objects (R62). -/
def tsnRws (o : Nat) : Nat :=
  if o < 0x4000 then
    match o % 0x1000 with
    | 0 | 0x10 => bitMask 63 0
    | 8 => 2 ^ 63 + bitMask 60 53 + bitMask 42 32
    | 0x18 => bitMask 29 0
    | _ => 0
  else if 0x20000 ≤ o ∧ o < 0x22000 then if o % 16 = 0 then bitMask 63 0 else bitMask 63 46 + bitMask 35 16
  else if 0x22000 ≤ o ∧ o < 0x26000 then
    match o % 64 / 8 with
    | 0 => 2 ^ 63 + 2 ^ 60 + bitMask 38 32
    | 1 => bitMask 63 0
    | 2 => bitMask 29 0
    | _ => 0
  else if 0x66000 ≤ o ∧ o < 0x68000 then
    match o % 32 / 8 with
    | 0 => bitMask 63 59 + bitMask 31 0
    | 1 => bitMask 63 0
    | 2 => bitMask 31 0
    | _ => 0
  else if 0x68000 ≤ o ∧ o < 0x6A000 then if o % 32 = 0 then bitMask 63 56 + bitMask 40 32 + bitMask 15 0 else 0
  else if 0x6A000 ≤ o ∧ o < 0x6A080 then
    match o % 64 / 8 with
    | 0 => bitMask 63 55 + bitMask 15 0
    | 1 => bitMask 7 0
    | _ => 0
  else 0

/-- The RWS fields of a hub register (R7; also R381, R393, R404, R419, R425, R427). -/
def hubRws (pa : Nat) : Nat :=
  if regBase ≤ pa ∧ pa < lectlBase then blockRws (pa - regBase)
  else if lectlBase ≤ pa ∧ pa < lectlBase + 2048 then 2 ^ 63 + bitMask 5 0
  else if gateBase ≤ pa ∧ pa < gateBase + 0x20000 then
    match pa % 128 / 8 with
    | 0 => bitMask 59 49 + bitMask 47 32
    | 1 => bitMask 63 0
    | 2 => 0
    | 3 => bitMask 31 30 + bitMask 9 0
    | i => if i < 12 then bitMask 63 59 + bitMask 53 32 + bitMask 31 27 + bitMask 21 0 else 0
  else if fqBase ≤ pa ∧ pa < fqBase + 256 then if pa % 16 = 8 then bitMask 31 0 else 0
  else if relBase ≤ pa ∧ pa < relBase + 0x4000 then if pa % 64 = 8 then bitMask 16 0 else 0
  else if tsnBase ≤ pa ∧ pa < tsnBase + 0x100000 then tsnRws (pa - tsnBase)
  else if pa = pairBase then bitMask 63 61 + bitMask 57 56
  else if pa = pairBase + 0x10 then 2 ^ 63 + bitMask 43 14
  else if pa = pairBase + 0x18 then bitMask 15 0
  else if hostBase + 8 ≤ pa ∧ pa < hostBase + 128 then bitMask 63 24
  else 0

/-- A number with some bits cleared. -/
def clearBits (x : Nat) (l : List Nat) : Nat := l.foldl (fun x b => x - b2n (nbit x b) * 2 ^ b) x

/-! ## Values after wipe -/

/-- Value after wipe of a register that is plain storage (R60, R62). -/
def hubWipe (pa : Nat) : Word :=
  let o := pa - tsnBase
  if regBase + 0x100 ≤ pa ∧ pa < regBase + 0x900 then
    if pa % 0x100 = 0 then ofN (0x88B5 * 2 ^ 32 + 100 * 2 ^ 8) else 0
  else if tsnBase ≤ pa ∧ o < 0x80000 then
    if o < 0x4000 ∧ o % 0x1000 = 0 then ofN (2 ^ 48)
    else if o < 0x4000 ∧ o % 0x1000 = 8 then ofN (0xFF * 2 ^ 53)
    else if 0x22000 ≤ o ∧ o < 0x26000 ∧ o % 64 = 0 then ofN (2 ^ 60)
    else if o = 0x6A000 then ofN (2 ^ 63 + 248 * 2 ^ 8 + 248)
    else if o = 0x6A040 then ofN (248 * 2 ^ 8 + 248)
    else if 0x6A000 ≤ o ∧ o < 0x6A080 ∧ o % 64 = 8 then ofN 0xFD
    else 0
  else 0

/-- A register that is plain storage. -/
def State.reg (s : State) (pa : Nat) : Word := s.hub.regs.val pa (hubWipe pa)

/-- Changes the hub. -/
def State.updHub (s : State) (f : Hub → Hub) : State := { s with hub := f s.hub }

/-- Replaces a register that is plain storage. -/
def State.setReg (s : State) (pa : Nat) (w : Word) : State := s.updHub (fun h => { h with regs := h.regs.put pa w })

/-- One more in HUBERR (R58), which saturates. -/
def State.hubErr (s : State) : State := s.updHub (fun h => { h with huberr := min (2 ^ 32 - 1) (h.huberr + 1) })

/-! ## Time -/

/-- Local time in ns: ACLK runs at 1.2 GHz (R16). -/
def State.localNs (s : State) : Nat := s.now * 5 / 6

/-- gPTP time of a domain in ns. -/
def State.gptp (s : State) (d : Nat) : Nat := s.localNs + s.hub.ptp.val d 0

/-! ## Process image (R24, R25, R56) -/

/-- Bytes of one buffer. -/
def bufBytes : Nat := 4 * 2 ^ 20

/-- First byte of the result part of a buffer. -/
def Hub.resultStart (h : Hub) : Nat := h.split * 65536

/-- V, LEN8 × 8 and OFF of a region binding (R61). -/
def bindValid (w : Word) : Bool := bitOf w 63
def bindLen (w : Word) : Nat := fld w 56 43 * 8
def bindOff (w : Word) : Nat := fld w 21 3 * 8

/-- Region bookkeeping of a filter. -/
def Hub.region (h : Hub) (f : Nat) : PiRegion := h.regions.val f PiRegion.reset

/-- The buffer that the input view shows at an offset (R25). In no region it is the one that the last binding of the offset
showed, whose bytes stay as they stand (R61); where none has stood, buffer 0. -/
def Hub.viewBuffer (h : Hub) (off : Nat) : Nat :=
  match h.regions.find? (fun e => bindValid e.2.bound
      && decide (bindOff e.2.bound ≤ off ∧ off < bindOff e.2.bound + bindLen e.2.bound)) with
  | some e => b2n e.2.sel
  | none =>
    match h.ghosts.find? (fun g => decide (g.1 ≤ off ∧ off < g.1 + g.2.1)) with
    | some g => b2n g.2.2
    | none => 0

/-- The binding of a region ends; its bytes stay as they stand. -/
def Hub.leaveGhost (h : Hub) (r : PiRegion) : Hub :=
  if bindValid r.bound then
    let o := bindOff r.bound
    let n := bindLen r.bound
    { h with ghosts := (o, n, r.sel) :: h.ghosts.filter (fun g => !decide (o ≤ g.1 ∧ g.1 + g.2.1 ≤ o + n)) }
  else h

/-- A byte of a buffer. -/
def Hub.imageByte (h : Hub) (buf off : Nat) : Byte := memByte h.image (buf * bufBytes + off)

/-- A byte of the input view, or of the result view. -/
def Hub.inputByte (h : Hub) (off : Nat) : Byte := h.imageByte (h.viewBuffer off) off
def Hub.resultByte (h : Hub) (off : Nat) : Byte := h.imageByte h.resBack (h.resultStart + off)

/-! ## Element memories (R33, R38) -/

/-- Element (row, col) by its number 16 × row + col. -/
def State.element (s : State) (n : Nat) : Element := s.hub.elements.val n Element.reset

/-- Replaces an element. -/
def State.setElement (s : State) (n : Nat) (x : Element) : State :=
  s.updHub (fun h => { h with elements := h.elements.put n x })

/-- Bytes are written into an element memory; the words that they cover whole lose their error marks. -/
def Element.write (x : Element) (o : Nat) (bs : List Byte) : Element :=
  { x with mem := memWrite x.mem o bs
           bad := x.bad.filter (fun w => !decide (o ≤ 8 * w ∧ 8 * w + 8 ≤ o + bs.length)) }

/-- Whether one of the words that `n` bytes touch has an uncorrectable error. -/
def Element.error (x : Element) (o n : Nat) : Bool := x.bad.any (fun w => decide (8 * w < o + n ∧ o < 8 * w + 8))

/-! ## Grandmasters (R21, R62; assumption 92) -/

/-- The clock identity of the part, from the address of port 0. -/
def State.clockId (s : State) : Nat :=
  let m := fld (s.reg (tpReg 0 0)) 47 0
  m / 2 ^ 24 * 2 ^ 40 + 0xFFFE * 2 ^ 24 + m % 2 ^ 24

/-- The vector that the best master clock algorithm compares: priority1, clock quality, priority2, clock identity. -/
def gmVector (prio1 quality prio2 id : Nat) : Nat := prio1 * 2 ^ 104 + quality * 2 ^ 72 + prio2 * 2 ^ 64 + id

/-- The part's own vector in a domain: clock class 248, accuracy 0xFE, variance 0x436A. -/
def State.ownVector (s : State) (d : Nat) : Nat :=
  gmVector (fld (s.reg (domainReg d)) 15 8) 0xF8FE436A (fld (s.reg (domainReg d)) 7 0) s.clockId

/-- The vector of the grandmaster that a domain hears: the best one announced in the last three seconds. -/
def State.heard (s : State) (d : Nat) : Option Nat :=
  match s.hub.announced.seek d with
  | some (v, t) => if s.localNs < t + 3000000000 then some v else none
  | none => none

/-- Whether the part is the grandmaster of a domain: the domain runs, GMCAP is set, and no better clock is heard. -/
def State.isGm (s : State) (d : Nat) : Bool :=
  let w := s.reg (domainReg d)
  bitOf w 63 && bitOf w 62 && (match s.heard d with
    | some v => decide (s.ownVector d < v)
    | none => true)

/-- Whether a domain has a synchronised grandmaster: the part itself, or one that has synchronised it and that, in domain 1, is
still heard; HOLDOVER tells domain 0 that its own is lost (R365). -/
def State.domainSynced (s : State) (d : Nat) : Bool :=
  s.isGm d || (s.hub.synced.val d false && (decide (d = 0) || (s.heard d).isSome))

/-- The clock identity of a domain's grandmaster; zero while there is none. -/
def State.gmid (s : State) (d : Nat) : Nat :=
  if s.isGm d then s.clockId else (s.heard d).getD 0 % 2 ^ 64

/-! ## Stream exits (R45) -/

def lxEn (w : Word) : Bool := bitOf w 63
def lxPack (w : Word) : Nat := fld w 62 61
def lxRows (w : Word) : Nat := fld w 60 55 + 1
def lxCol0 (w : Word) : Nat := fld w 54 42
def lxCols (w : Word) : Nat := fld w 41 29
def lxStale (w : Word) : Nat := fld w 28 21
def lxArrival (w : Word) : Bool := bitOf w 20
def lxHold (w : Word) : Nat := fld w 19 12
def lxEntry (w : Word) : Nat := fld w 11 8
def lxWait (w : Word) : Nat := fld w 7 0
def lxCore (w : Word) : Nat := fld w 19 12
def lxWin (w : Word) : Nat := fld w 11 9

/-- Bytes taken from each link word (R45), and the row pitch in LM (R46). -/
def packBytes (p : Nat) : Nat := if p = 0 then 8 else if p = 1 then 4 else if p = 2 then 2 else 1
def lxPitch (w : Word) : Nat := (lxCols w * packBytes (lxPack w) + 7) / 8 * 8

/-- LXCFG.i and LXDST.i. -/
def State.lxcfg (s : State) (i : Nat) : Word := s.reg (lxcfgReg i)
def State.lxdst (s : State) (i : Nat) : Word := s.reg (lxdstReg i)

/-- Exit `i`. -/
def State.exit (s : State) (i : Nat) : Exit := s.hub.exits.val i Exit.reset

/-- Replaces exit `i`. -/
def State.setExit (s : State) (i : Nat) (x : Exit) : State := s.updHub (fun h => { h with exits := h.exits.put i x })

/-- The exits whose destination is a window. -/
def State.exitsTo (s : State) (core win : Nat) : List Nat :=
  (List.range 16).filter (fun i => decide (lxCore (s.lxdst i) = core ∧ lxWin (s.lxdst i) = win))

/-- The governing exit of a sensor port (R37). -/
def State.governing (s : State) (p : Nat) : Option Nat :=
  let at_ := fun (row : Nat) => (List.range 16).find? (fun i => lxEn (s.lxcfg i) && decide (lxEntry (s.lxcfg i) = row))
  match at_ (2 * p) with
  | some i => some i
  | none => at_ (2 * p + 1)

/-! ## Egress streams (R54) -/

def esEn (w : Word) : Bool := bitOf w 63
def esPort (w : Word) : Nat := fld w 62 61
def esTc (w : Word) : Nat := fld w 60 58
def esOff (w : Word) : Nat := fld w 57 40 * 16
def esLen (w : Word) : Nat := fld w 39 29
def esStale (w : Word) : Nat := fld w 28 21
def esStatOff (w : Word) : Nat := fld w 20 10
def esStatVal (w : Word) : Nat := fld w 9 2
def esSeq (w : Word) : Bool := bitOf w 1

/-- ESCFG.e. -/
def State.escfg (s : State) (e : Nat) : Word := s.reg (escfgReg e)

/-! ## The partition table's image (R376, R377) -/

/-- A word of the partition table; none where nothing stands. -/
def State.partWord (s : State) (p word i : Nat) : Option Word :=
  let w := s.part p
  let one := fun (x : Word) => if i = 0 then some x else none
  match word with
  | 0 => one w.w0
  | 1 => if i < 256 then some (ofN (s.clist p i)) else none
  | 2 => if i < 16 then some (ofN (s.accMask p i)) else none
  | 3 => one w.w3
  | 4 => if i < 64 then some (ofN (s.waysOf p i)) else none
  | 5 => if i < 256 then some (ofN (s.l1ways p i)) else none
  | 6 => one w.w6
  | 7 => one w.w7
  | 8 => one w.w8
  | 9 => one w.w9
  | 10 => one w.w10
  | 11 => one w.w11
  | 12 => one w.w12
  | 13 => one w.w13
  | 14 => one w.w14
  | 16 => one w.staleSub
  | 17 => one (ofN w.lfbad)
  | 18 => one (ofN w.qmiss)
  | 19 => one (ofN (b2n (decide (s.sched.member = some p)) * 2 ^ 63 + b2n (s.sched.ready.any (fun q => decide (q = p))) * 2 ^ 62
      + s.sched.credit.val p 0 * 2 ^ 20))
  | _ => none

end Sys2Proof.Machine
end

