-- ==== Sys2Proof/Machine/HubRead.lean ====
section
/-! DEFINITION. Reads of the hub window (R58): what stands at each address. -/

namespace Sys2Proof.Machine

/-- A word from eight bytes. -/
def wordOf (f : Nat → Byte) : Word := ofN (ofBytes ((List.range 8).map f))

/-- The health word of a core (R324). -/
def Health.word (h : Health) : Word :=
  ofN (h.beats * 2 ^ 32 + h.misses * 256 + b2n h.spare * 8 + b2n h.offline * 4 + b2n h.suspect * 2 + b2n h.en)

/-- Word 64 of a replay entry (R407). -/
def ReplayEntry.word (e : ReplayEntry) : Word :=
  ofN (b2n e.pend * 2 ^ 63 + e.cause * 2 ^ 56 + e.lane * 2 ^ 40 + e.launch * 2 ^ 36 + e.part * 2 ^ 32 + e.scan)

/-- SCANST (R363). -/
def Hub.scanst (h : Hub) : Word :=
  ofN (b2n h.holdover * 2 ^ 31 + b2n h.slew * 2 ^ 30 + b2n h.scanCfgErr * 2 ^ 29 + toBits 16 h.lastErr)

/-- The sensor port's registers (R60), by offset in its block; none where nothing stands. Offsets 0x80 to 0xBF read as the counters,
and SPSTRM.8 to 15, which R60 gives the same place, are written there and cannot be read: a DESIGN CHOICE (assumption 107). -/
def State.portWord (s : State) (p o : Nat) : Option Word :=
  let x := s.hub.sensors.val p SensorPort.reset
  if o = 0 ∨ o = 8 ∨ (0x40 ≤ o ∧ o < 0x80) then some (s.reg (spBase p + o))
  else if o = 0x10 then some (ofN x.mean)
  else if 0x80 ≤ o ∧ o < 0xD4 then
    let i := (o - 0x80) / 4
    some (ofN (x.counters.val i 0 + x.counters.val (i + 1) 0 * 2 ^ 32))
  else none

/-- The hub register block (R59), by offset. PISPLIT and SCANCFG read the value written last, which waits for its tick
(assumption 99). -/
def State.blockWord (s : State) (o : Nat) : Option Word :=
  if o = 0 then some (ofN (s.hub.splitPending.getD s.hub.split))
  else if o = 8 then some (ofN s.hub.huberr)
  else if 0x100 ≤ o ∧ o < 0x900 then s.portWord ((o - 0x100) / 0x100) (o % 0x100)
  else if 0x1000 ≤ o ∧ o < 0x3000 then
    if o % 16 = 0 then some (s.reg (regBase + o)) else some (ofN (b2n (s.hub.region ((o - 0x1000) / 16)).sel))
  else if 0x3000 ≤ o ∧ o < 0x3100 then some (s.reg (regBase + o))
  else if 0x4000 ≤ o ∧ o < 0x6000 then some (s.reg (regBase + o))
  else if o = 0xE000 then some (s.hub.cfgPending.getD (s.reg scancfgReg))
  else if o = 0xE008 then some (ofN s.hub.scan)
  else if o = 0xE010 then some s.hub.scanst
  else none

/-- A word of a gate entry (R381). -/
def Gate.wordAt (g : Gate) (i : Nat) : Word :=
  match i with
  | 0 => g.w0
  | 1 => g.rights
  | 2 => g.postcnt
  | 3 => g.w3
  | _ =>
    if i < 12 then ofN (g.buckets.val (2 * (i - 4)) 0 + g.buckets.val (2 * (i - 4) + 1) 0 * 2 ^ 32) else 0

/-- The reliability block (R404), by offset. -/
def State.relWord (s : State) (o : Nat) : Option Word :=
  if o < 0x4000 then
    let h := (s.core (o / 64)).health
    match o % 64 / 8 with
    | 0 => some h.word
    | 1 => some (ofN (b2n h.spare * 2 ^ 16 + h.lmfence))
    | 2 => some h.cecnt
    | 3 => some h.uecnt
    | 4 => some h.lastue
    | 5 => some h.sigcnt
    | _ => some 0
  else if o = 0x4000 then some (ofN (b2n (!s.hub.replayBusy) * 2 ^ 62 + b2n s.hub.replayErr * 2 ^ 61))
  else if 0x8000 ≤ o ∧ o < 0x9000 then
    let x := s.slice ((o - 0x8000) / 64)
    match o % 64 / 8 with
    | 2 => some x.cecnt
    | 3 => some x.uecnt
    | 4 => some x.lastue
    | _ => some 0
  else if 0x10000 ≤ o ∧ o < 0x90000 then
    match s.replay.seek ((o - 0x10000) / 128) with
    | none => some 0
    | some e =>
      let i := o % 128 / 8
      if i < 8 then some (wordOf (fun k => e.packet.getD (8 * i + k) 0)) else if i = 8 then some e.word else some 0
  else none

/-- The TSN objects (R62), by offset; TIME is read by `hubRead`. -/
def State.tsnWord (s : State) (o : Nat) : Option Word :=
  let raw := s.reg (tsnBase + o)
  if o < 0x4000 then
    let r := o % 0x1000
    if r = 8 then some (setFld raw 61 61 (b2n (s.hub.qbvPending.val (o / 0x1000) false)))
    else if r < 0x30 ∨ (0x100 ≤ r ∧ r < 0x138) then some raw else none
  else if 0x10000 ≤ o ∧ o < 0x22000 then some raw
  else if 0x22000 ≤ o ∧ o < 0x26000 then
    if o % 64 = 0 then some (setFld raw 61 61 (b2n (s.hub.sgPending.val ((o - 0x22000) / 64) false))) else some raw
  else if 0x26000 ≤ o ∧ o < 0x66000 then some raw
  else if 0x66000 ≤ o ∧ o < 0x68000 then
    if o % 32 = 24 then some (ofN (b2n (s.hub.meterRed.val ((o - 0x66000) / 32) false))) else some raw
  else if 0x68000 ≤ o ∧ o < 0x6A000 then some raw
  else if 0x6A000 ≤ o ∧ o < 0x6A080 then
    let d := (o - 0x6A000) / 64
    match o % 64 / 8 with
    | 0 | 1 => some raw
    | 2 => some (ofN (s.hub.ptpLatched.val d 0))
    | 3 => some (ofN (b2n (s.domainSynced d) * 2 ^ 63 + b2n (s.isGm d) * 2 ^ 62))
    | 4 => some (ofN (s.gmid d))
    | _ => some 0
  else if 0x70000 ≤ o ∧ o < 0x78000 then some raw
  else none

/-- Pair, host, life-cycle and slot command registers (R420 to R431), by physical address. -/
def State.hostWord (s : State) (pa : Nat) : Option Word :=
  let h := s.hub
  if pa = pairBase ∨ pa = pairBase + 0x10 ∨ pa = pairBase + 0x18 then some (s.reg pa)
  else if pa = pairBase + 8 then
    some (ofN (b2n h.linkUp * 2 ^ 63 + b2n h.mismatch * 2 ^ 62 + b2n h.switched * 2 ^ 61 + h.hbmiss * 2 ^ 58 + h.misscan))
  else if pa = pairBase + 0x20 then some (ofN (b2n h.mirInprog * 2 ^ 63 + h.mirScan))
  else if hostBase + 8 ≤ pa ∧ pa < hostBase + 128 then some (s.reg pa)
  else if pa = hostBase + 0x80 then some (ofN h.svirq)
  else if pa = hostBase + 0x88 then some 0
  else if hostBase + 0x90 ≤ pa ∧ pa < hostBase + 0xB0 then some (s.reg pa)
  else if pa = lifeBase then some 0
  else if lifeBase + 8 ≤ pa ∧ pa < lifeBase + 0x30 then
    some (ofN (toBits 16 (h.temp.val ((pa - lifeBase - 8) / 8) 0)))
  else if pa = lifeBase + 0x30 then some (ofN (b2n h.overpwr * 2 ^ 12 + h.pwr))
  else if pa = scBase then some (ofN (b2n (!h.scBusy) * 2 ^ 62))
  else if pa = scBase + 8 ∨ pa = scBase + 0x10 then some (s.reg pa)
  else if pa = scBase + 0x18 then some h.scRes
  else none

/-- The aligned word at a hub address; none where nothing stands. -/
def State.hubWord (s : State) (pa : Nat) : Option Word :=
  let h := s.hub
  if pa < hubBase + h.resultStart then some (wordOf (fun k => h.inputByte (pa - hubBase + k)))
  else if resultBase ≤ pa ∧ pa + h.resultStart < resultBase + bufBytes then
    some (wordOf (fun k => h.resultByte (pa - resultBase + k)))
  else if statusBase ≤ pa ∧ pa < egStatBase then
    let o := pa - statusBase
    some (ofN ((h.region (o / 16)).status.toNat / 2 ^ (64 * (o % 16 / 8)) % 2 ^ 64))
  else if egStatBase ≤ pa ∧ pa < egStatBase + 4096 then some (h.egStat.val ((pa - egStatBase) / 8) 0)
  else if regBase ≤ pa ∧ pa < lectlBase then s.blockWord (pa - regBase)
  else if lectlBase ≤ pa ∧ pa < lectlBase + 2048 then some (s.reg pa)
  else if stageBase ≤ pa ∧ pa < stageBase + 0x20000 then some (s.reg pa)
  else if gateBase ≤ pa ∧ pa < gateBase + 0x20000 then
    some ((s.gates.val ((pa - gateBase) / 128) Gate.reset).wordAt (pa % 128 / 8))
  else if partBase ≤ pa ∧ pa < ringBase then
    let o := pa - partBase
    s.partWord (o / 0x10000) (o % 0x10000 / 0x800) (o % 0x800 / 8)
  else if ringBase ≤ pa ∧ pa < ringBase + 0x80000 then
    let o := pa - ringBase
    some (ofN (((s.gates.val (o / 512) Gate.reset).ring.val (o % 512 / 64) 0).toNat / 2 ^ (64 * (o % 64 / 8)) % 2 ^ 64))
  else if fqBase ≤ pa ∧ pa < fqBase + 256 then
    let p := (pa - fqBase) / 16
    some (ofN (if pa % 16 = 0 then s.fqTail.val p 0 else s.fqHead.val p 0))
  else if pa = remapReg then some (ofN (b2n (!h.remapBusy) * 2 ^ 62))
  else if relBase ≤ pa ∧ pa < tsnBase then s.relWord (pa - relBase)
  else if tsnBase ≤ pa ∧ pa < tsnBase + 0x100000 then s.tsnWord (pa - tsnBase)
  else s.hostWord pa

/-- A read of a domain's TIME latches it (R62). -/
def State.latchTime (s : State) (d : Nat) : State :=
  s.updHub (fun h => { h with ptpLatched := h.ptpLatched.put d (s.gptp d) })

/-- Whether an address lies in the four bytes after a sensor port's last counter, where nothing stands (R60). -/
def absentHalf (pa : Nat) : Bool :=
  decide (regBase + 0x100 ≤ pa ∧ pa < regBase + 0x900 ∧ 0xD4 ≤ pa % 0x100 ∧ pa % 0x100 < 0xD8)

/-- A read of `n` bytes within one word at a hub address (R58): zero, with HUBERR counting it, where nothing stands. -/
def State.hubRead (s : State) (pa n : Nat) : State × Nat :=
  let a := if absentHalf pa then pa else pa / 8 * 8
  let s := if a = domainReg 0 + 16 then s.latchTime 0 else if a = domainReg 1 + 16 then s.latchTime 1 else s
  match s.hubWord a with
  | none => (s.hubErr, 0)
  | some w => (s, w.toNat / 2 ^ (8 * (pa % 8)) % 2 ^ (8 * n))

/-- Whether a read of the input view, or of the result view, meets an uncorrectable word (R401, R403, assumption 93). -/
def State.hubPoison (s : State) (pa : Nat) : Bool :=
  let h := s.hub
  if pa < hubBase + h.resultStart then
    let off := pa - hubBase
    h.imageBad.any (fun w => decide (w = (h.viewBuffer off * bufBytes + off) / 8))
  else if resultBase ≤ pa ∧ pa + h.resultStart < resultBase + bufBytes then
    h.imageBad.any (fun w => decide (w = (h.resBack * bufBytes + h.resultStart + (pa - resultBase)) / 8))
  else false

/-- The word that a store of bytes leaves in a register: a store narrower than the register writes W1C bits as 0 outside its
bytes (R7). -/
def State.hubMerged (s : State) (pa : Nat) (bs : List Byte) : Nat :=
  if bs.length = 8 then ofBytes bs
  else ofBytes (putBytes (bytesOf 8 (clearBits (s.hubRead (pa / 8 * 8) 8).2 (w1cBits (pa / 8 * 8)))) (pa % 8) bs)

/-- Whether a store would change an RWS field of a hub register (R7). -/
def State.hubForbids (s : State) (pa : Nat) (bs : List Byte) : Bool :=
  let a := pa / 8 * 8
  decide (regBase ≤ pa) && !decide ((ofN (s.hubMerged pa bs) ^^^ ofN (s.hubRead a 8).2) &&& ofN (hubRws a) = 0)

end Sys2Proof.Machine
end

