-- ==== Sys2Proof/WellFormed.lean ====
section
/-! DEFINITION. Well-formed instructions: the operand limits that the entries of chapters 8 to 12 set beyond what
the operand types say. A word whose operands break one raises `ILLEGAL_OPCODE` at step 4 or 5 of R191. -/

namespace Sys2Proof

/-- The code of an element type (R195). -/
def ElemTy.code : ElemTy → Nat
  | .f32 => 0 | .bf16 => 1 | .f16 => 2 | .c8 => 3 | .c4 => 4 | .s8 => 5 | .s16 => 6 | .s32 => 7 | .s64 => 8
  | .z8 => 9 | .z16 => 10 | .z32 => 11 | .z64 => 12

/-- The width of an element type in bits (R158). -/
def ElemTy.width : ElemTy → Nat
  | .f32 => 32 | .bf16 => 16 | .f16 => 16 | .c8 => 8 | .c4 => 4 | .s8 => 8 | .s16 => 16 | .s32 => 32 | .s64 => 64
  | .z8 => 8 | .z16 => 16 | .z32 => 32 | .z64 => 64

/-- Whether a type is a signed integer type. -/
def ElemTy.signed : ElemTy → Bool
  | .s8 | .s16 | .s32 | .s64 => true
  | _ => false

/-- Whether a type is an integer type. -/
def ElemTy.isInt : ElemTy → Bool
  | .s8 | .s16 | .s32 | .s64 | .z8 | .z16 | .z32 | .z64 => true
  | _ => false

/-- The code of a relation (R195). -/
def Rel.code : Rel → Nat
  | .eq => 0 | .ne => 1 | .lt => 2 | .le => 3 | .gt => 4 | .ge => 5 | .ltz => 6 | .lez => 7 | .gtz => 8 | .gez => 9

/-- Whether a relation compares unsigned values (R215). -/
def Rel.unsigned : Rel → Bool
  | .ltz | .lez | .gtz | .gez => true
  | _ => false

/-- The code of a scope (R195). -/
def Scope.code : Scope → Nat
  | .dflt => 0 | .slot => 1 | .core => 2 | .die => 3 | .part => 4 | .dev => 5

/-- The code of an ordering (R195). -/
def Ord.code : Ord → Nat
  | .none => 0 | .acq => 1 | .rel => 2 | .ar => 3

/-- Types of `SEXT` (R211). -/
def ElemTy.sextTypes : List ElemTy := [.s8, .s16, .s32]
/-- Types of `ZEXT` (R211). -/
def ElemTy.zextTypes : List ElemTy := [.z8, .z16, .z32]
/-- Types of `LD.L` (R235). -/
def ElemTy.ldlTypes : List ElemTy := [.s8, .s16, .s32, .z8, .z16, .z32, .z64]
/-- Types of `ST.L` (R235). -/
def ElemTy.stlTypes : List ElemTy := [.z8, .z16, .z32, .z64]
/-- Types of `VLDS`: any except `.c4` (R238). -/
def ElemTy.vldsTypes : List ElemTy :=
  [.f32, .bf16, .f16, .c8, .s8, .s16, .s32, .s64, .z8, .z16, .z32, .z64]
/-- Types of `VGATH` and `VSCAT` (R238). -/
def ElemTy.gathTypes : List ElemTy := [.f32, .s32, .z32, .s64, .z64]
/-- The integer types. -/
def ElemTy.intTypes : List ElemTy := [.s8, .s16, .s32, .s64, .z8, .z16, .z32, .z64]
/-- Types of `V.ADD` and its like (R266). -/
def ElemTy.arithTypes : List ElemTy := [.f32, .s8, .s16, .s32, .s64, .z8, .z16, .z32, .z64]
/-- Types of `V.ABS` and `V.NEG` (R266). -/
def ElemTy.absTypes : List ElemTy := [.f32, .s8, .s16, .s32, .s64]

/-- A signed value fits `w` bits. -/
def fitsS (w : Nat) (v : Int) : Bool := decide (-(2 : Int) ^ (w - 1) ≤ v) && decide (v < (2 : Int) ^ (w - 1))

/-- The immediate of `BFX` (R212): bits above 12 zero, POS + LENM1 + 1 at most 64. -/
def bfxOk (imm : Nat) : Bool := decide (imm < 2 ^ 13) && decide (imm % 64 + imm / 64 % 64 + 1 ≤ 64)

/-- The immediate of `BFI` (R212): as `BFX` with SX zero. -/
def bfiOk (imm : Nat) : Bool := bfxOk imm && decide (imm < 2 ^ 12)

/-- The immediate of `CMPI` (R215): signed, or unsigned for the `z` relations. -/
def cmpiOk (rel : Rel) (imm : Int) : Bool :=
  if rel.unsigned then decide (0 ≤ imm) && decide (imm < 2 ^ 32) else fitsS 32 imm

/-- An AREG value of `TR.DEF` (R288): g0 to g23, or 31 for none. -/
def aregOk (n : Nat) : Bool := decide (n < 24) || decide (n = 31)

/-- The immediate of `TR.DEF` (R288). -/
def trDefOk (imm : Nat) : Bool :=
  decide (imm < 2 ^ 14) && aregOk (imm / 16 % 32) && aregOk (imm / 512 % 32) &&
    (decide (imm / 16 % 32 ≠ imm / 512 % 32) || decide (imm / 16 % 32 = 31))

/-- The pairs that `V.CVT` converts (R274). -/
def cvtOk (dst src : ElemTy) : Bool :=
  match dst, src with
  | .bf16, .f32 | .f16, .f32 | .f32, .bf16 | .f32, .f16 | .f16, .bf16 | .bf16, .f16 => true
  | d, s => decide (d ≠ s) && ((d.isInt && (s.isInt || decide (s = .f32))) || (decide (d = .f32) && s.isInt))

/-- The pairs that `V.PACK` converts (R275). -/
def packOk (dst src : ElemTy) : Bool :=
  match dst, src with
  | .bf16, .f32 | .f16, .f32 => true
  | d, s => d.isInt && s.isInt && decide (s.width = 2 * d.width)

/-- The pairs that `V.UNPK` converts (R275). -/
def unpkOk (dst src : ElemTy) : Bool :=
  match dst, src with
  | .f32, .bf16 | .f32, .f16 => true
  | d, s => d.isInt && s.isInt && decide (d.width = 2 * s.width) && (d.signed || !s.signed)

/-- The block that a Carter instruction names: a multiple of 4 from 0 to 20 (R258). -/
def cpBlockOk (n : Nat) : Bool := decide (n % 4 = 0) && decide (n ≤ 20)

/-- The operand limits of each instruction. -/
def Instr.wf : Instr → Bool
  | .powerOnSelfTest _ _ => true
  | .lcreqWrite _ => true
  | .thermalWarn _ _ => true
  | .thermalTrip _ _ => true
  | .overpwr _ => true
  | .registerWrite _ _ => true
  | .scanTick => true
  | .coreTick => true
  | .beat => true
  | .scancfgWrite _ => true
  | .scannumWrite _ => true
  | .holdover => true
  | .slew _ => true
  | .tsnFrameReceive _ _ _ => true
  | .qbvChange _ _ => true
  | .qbvListActivate _ => true
  | .qbvGateIntervalEnd _ => true
  | .streamGateChange _ _ => true
  | .streamGateListActivate _ => true
  | .gptpTimeLatch _ => true
  | .egressFrameSend _ => true
  | .pisplitWrite _ => true
  | .pibindWrite _ _ => true
  | .escfgWrite _ _ => true
  | .eshdrWrite _ _ _ => true
  | .resultViewWrite _ _ => true
  | .sensorFrameReceive _ _ _ => true
  | .spcfgWrite _ _ => true
  | .spcfgClr _ => true
  | .skeinRecordCheck _ => true
  | .stagingAllocate _ => true
  | .decodeComplete _ _ => true
  | .slowLaneMove _ => true
  | .slowDecodeEnd _ => true
  | .loomStage _ _ => true
  | .lectlWrite _ _ _ => true
  | .stageWordWrite _ _ _ _ => true
  | .lxcfgWrite _ _ => true
  | .lxdstWrite _ _ => true
  | .exitRowComplete _ => true
  | .batchwaitExpiry _ => true
  | .metadataTimeout _ => true
  | .batchDeliver _ => true
  | .swcfgWrite _ _ _ => true
  | .swrelWrite _ _ _ _ => true
  | .freeCountUpdate _ => true
  | .dramReadReturn _ _ _ => true
  | .dramWrite _ _ _ _ _ => true
  | .dramPatrol _ _ _ => true
  | .sramPatrol _ _ _ _ _ => true
  | .pageWalk _ _ _ _ _ => true
  | .shootdownDebit _ => true
  | .sliceRead _ _ => true
  | .sliceStoreRequest _ _ => true
  | .sliceWriteBack _ _ => true
  | .crossDieRead _ _ => true
  | .crossDieWrite _ _ _ => true
  | .attr1Access _ _ _ _ => true
  | .recallResponse _ _ => true
  | .sectorFill _ _ => true
  | .redApply _ _ _ _ _ _ => true
  | .hgathServe _ _ _ _ _ => true
  | .amoReserve _ _ => true
  | .amoGrant _ => true
  | .amoRelease _ _ _ _ => true
  | .amoWithdraw _ => true
  | .lateAttach _ _ _ _ => true
  | .holdingBufferEntry _ => true
  | .unbackedEvict _ => true
  | .sliceRetire _ => true
  | .lmWipeDone _ _ => true
  | .carterChunk _ => true
  | .pisteInject _ => true
  | .pisteArrival _ _ => true
  | .messageArrival _ => true
  | .messageTimeout _ => true
  | .bounceArrival _ => true
  | .treePacketArrival _ _ => true
  | .treeTimeout _ _ => true
  | .ringTileArrival _ _ => true
  | .sealComplete _ _ => true
  | .engineTurn _ => true
  | .matrixStepComplete _ => true
  | .treadleReplayIssue _ => true
  | .launchOpen _ _ _ _ => true
  | .packetTake _ _ _ _ => true
  | .packetEligible _ _ _ _ => true
  | .taskBind _ _ => true
  | .queueMiss _ _ _ _ => true
  | .launchSweep => true
  | .deferredLaunchEnd _ _ => true
  | .budgetEnd _ => true
  | .watchdog _ => true
  | .preemptRequest _ => true
  | .faultRecordWrite _ => true
  | .deferredFault _ => true
  | .fqheadWrite _ _ => true
  | .tsCreditAccrue => true
  | .tsSliceEnd => true
  | .tsSwitchComplete => true
  | .partitionReset _ => true
  | .resetDrainEnd _ => true
  | .gateTableWrite _ _ _ => true
  | .gateTokenRefill _ _ => true
  | .bridgedGateOp _ => true
  | .remapWrite _ => true
  | .remapDone => true
  | .lmfenceWrite _ _ => true
  | .rebind _ _ => true
  | .replayComplete _ => true
  | .replayDrop _ => true
  | .heartbeatPost _ => true
  | .heartbeatPeriodClose _ => true
  | .offlineComplete _ => true
  | .spdmGetVersion _ _ => true
  | .spdmGetCapabilities _ _ => true
  | .spdmNegotiateAlgorithms _ _ => true
  | .spdmGetDigests _ _ => true
  | .spdmGetCertificate _ _ => true
  | .spdmChallenge _ _ => true
  | .spdmGetMeasurements _ _ _ => true
  | .spdmUnsupportedRequest _ _ => true
  | .dataWindowWrite _ _ _ => true
  | .dataWindowRead _ _ _ => true
  | .unsupportedRequest _ _ _ => true
  | .hwinWrite _ _ => true
  | .doorbell _ _ => true
  | .hostirqWrite _ => true
  | .vfFlr _ => true
  | .sccmdPark _ => true
  | .sccmdRun _ => true
  | .sccmdRunNew _ _ _ => true
  | .sccmdSave _ _ => true
  | .sccmdLoad _ _ => true
  | .sccmdScrub _ => true
  | .setstack _ _ => true
  | .syncLinkDown => true
  | .syncLinkUp => true
  | .pairFrameSend => true
  | .pairFrameReceive _ _ => true
  | .mirrorLineLand _ _ _ _ => true
  | .add _ _ _ => true
  | .sub _ _ _ => true
  | .and _ _ _ => true
  | .or _ _ _ => true
  | .xor _ _ _ => true
  | .andn _ _ _ => true
  | .shl _ _ _ => true
  | .shr _ _ _ => true
  | .sar _ _ _ => true
  | .mul _ _ _ => true
  | .min _ _ _ => true
  | .max _ _ _ => true
  | .mov _ _ => true
  | .jmpi _ => true
  | .calli _ => true
  | .ret => true
  | .nop => true
  | .tend => true
  | .addi _ _ imm => fitsS 32 imm
  | .movi _ imm => fitsS 32 imm
  | .ldZ8 _ _ imm => fitsS 32 imm
  | .ldZ16 _ _ imm => fitsS 32 imm
  | .ldZ32 _ _ imm => fitsS 32 imm
  | .ldZ64 _ _ imm => fitsS 32 imm
  | .ldS8 _ _ imm => fitsS 32 imm
  | .ldS16 _ _ imm => fitsS 32 imm
  | .ldS32 _ _ imm => fitsS 32 imm
  | .stZ8 _ _ imm => fitsS 32 imm
  | .stZ16 _ _ imm => fitsS 32 imm
  | .stZ32 _ _ imm => fitsS 32 imm
  | .stZ64 _ _ imm => fitsS 32 imm
  | .ldLZ64 _ _ imm => fitsS 32 imm
  | .stLZ64 _ _ imm => fitsS 32 imm
  | .br _ _ off => fitsS 25 off
  | .jmp off => fitsS 29 off
  | .call off => fitsS 29 off
  | .sig imm => decide (imm < 2 ^ 18) && decide (imm / 2 ^ 16 ≠ 3)
  | .loop g off => decide (g.val < 24) && fitsS 32 off
  | .mulh _ _ _ => true
  | .mulhz _ _ _ => true
  | .div _ _ _ => true
  | .divz _ _ _ => true
  | .rem _ _ _ => true
  | .remz _ _ _ => true
  | .minz _ _ _ => true
  | .maxz _ _ _ => true
  | .rol _ _ _ => true
  | .clz _ _ => true
  | .ctz _ _ => true
  | .popc _ _ => true
  | .brev _ _ => true
  | .bswap _ _ => true
  | .sext t _ _ => ElemTy.sextTypes.contains t
  | .zext t _ _ => ElemTy.zextTypes.contains t
  | .shli _ _ imm => decide (imm < 64)
  | .shri _ _ imm => decide (imm < 64)
  | .sari _ _ imm => decide (imm < 64)
  | .roli _ _ imm => decide (imm < 64)
  | .bfx _ _ imm => bfxOk imm
  | .bfi _ _ imm => bfiOk imm
  | .cmp _ _ _ _ => true
  | .cmpi rel _ _ imm => cmpiOk rel imm
  | .sel _ _ _ _ => true
  | .lea _ _ _ _ => true
  | .pand _ _ _ => true
  | .por _ _ _ => true
  | .pxor _ _ _ => true
  | .pnot _ _ => true
  | .pmov _ _ => true
  | .ldL t _ _ imm => ElemTy.ldlTypes.contains t && fitsS 32 imm
  | .stL t _ _ imm => ElemTy.stlTypes.contains t && fitsS 32 imm
  | .ldt _ _ _ _ => true
  | .stt _ _ => true
  | .vld _ _ _ => true
  | .vst _ _ _ => true
  | .vlds _ t _ _ _ => ElemTy.vldsTypes.contains t
  | .vgath _ t _ _ _ => ElemTy.gathTypes.contains t
  | .vscat _ t _ _ _ => ElemTy.gathTypes.contains t
  | .pref _ _ => true
  | .amoSwap _ _ _ _ _ _ => true
  | .amoCas _ _ _ _ _ _ => true
  | .amoFadd _ _ _ _ _ _ => true
  | .amoFand _ _ _ _ _ _ => true
  | .amoFor _ _ _ _ _ _ => true
  | .amoFxor _ _ _ _ _ _ => true
  | .amoFmin _ _ _ _ _ _ => true
  | .amoFmax _ _ _ _ _ _ => true
  | .amoFminz _ _ _ _ _ _ => true
  | .amoFmaxz _ _ _ _ _ _ => true
  | .hgath _ _ _ => true
  | .ldZ8Ordered o sc _ _ imm => [Ord.none, Ord.acq].contains o && (decide (o ≠ .none) || decide (sc = .dflt)) && fitsS 32 imm
  | .ldZ16Ordered o sc _ _ imm => [Ord.none, Ord.acq].contains o && (decide (o ≠ .none) || decide (sc = .dflt)) && fitsS 32 imm
  | .ldZ32Ordered o sc _ _ imm => [Ord.none, Ord.acq].contains o && (decide (o ≠ .none) || decide (sc = .dflt)) && fitsS 32 imm
  | .ldZ64Ordered o sc _ _ imm => [Ord.none, Ord.acq].contains o && (decide (o ≠ .none) || decide (sc = .dflt)) && fitsS 32 imm
  | .ldS8Ordered o sc _ _ imm => [Ord.none, Ord.acq].contains o && (decide (o ≠ .none) || decide (sc = .dflt)) && fitsS 32 imm
  | .ldS16Ordered o sc _ _ imm => [Ord.none, Ord.acq].contains o && (decide (o ≠ .none) || decide (sc = .dflt)) && fitsS 32 imm
  | .ldS32Ordered o sc _ _ imm => [Ord.none, Ord.acq].contains o && (decide (o ≠ .none) || decide (sc = .dflt)) && fitsS 32 imm
  | .stZ8Ordered o sc _ _ imm => [Ord.none, Ord.rel].contains o && (decide (o ≠ .none) || decide (sc = .dflt)) && fitsS 32 imm
  | .stZ16Ordered o sc _ _ imm => [Ord.none, Ord.rel].contains o && (decide (o ≠ .none) || decide (sc = .dflt)) && fitsS 32 imm
  | .stZ32Ordered o sc _ _ imm => [Ord.none, Ord.rel].contains o && (decide (o ≠ .none) || decide (sc = .dflt)) && fitsS 32 imm
  | .stZ64Ordered o sc _ _ imm => [Ord.none, Ord.rel].contains o && (decide (o ≠ .none) || decide (sc = .dflt)) && fitsS 32 imm
  | .redAdd o _ _ _ _ => [Ord.none, Ord.rel].contains o
  | .redAnd o _ _ _ _ => [Ord.none, Ord.rel].contains o
  | .redOr o _ _ _ _ => [Ord.none, Ord.rel].contains o
  | .redXor o _ _ _ _ => [Ord.none, Ord.rel].contains o
  | .redMin o _ _ _ _ => [Ord.none, Ord.rel].contains o
  | .redMax o _ _ _ _ => [Ord.none, Ord.rel].contains o
  | .redMinz o _ _ _ _ => [Ord.none, Ord.rel].contains o
  | .redMaxz o _ _ _ _ => [Ord.none, Ord.rel].contains o
  | .redFadd o _ _ _ => [Ord.none, Ord.rel].contains o
  | .barArr _ _ => true
  | .barWait _ _ => true
  | .barAw _ _ => true
  | .barExp _ _ _ => true
  | .barInit _ _ _ _ => true
  | .fence o _ => [Ord.acq, Ord.rel, Ord.ar].contains o
  | .evtAdd _ _ _ => true
  | .evtWait _ _ _ => true
  | .evtWatchWake _ => true
  | .evtWaitPoll _ => true
  | .wait _ _ _ _ => true
  | .waitWake _ => true
  | .realign _ _ => true
  | .qstat tree _ a => (tree || decide (a = 0))
  | .msgSend o _ _ _ => [Ord.none, Ord.rel].contains o
  | .msgInfo _ => true
  | .redPkt _ _ _ => true
  | .redRecv _ _ _ _ => true
  | .rteSet _ _ => true
  | .treeSet _ _ => true
  | .vAdd sat t _ _ _ => (!sat || decide (t ≠ .f32)) && ElemTy.arithTypes.contains t
  | .vSub sat t _ _ _ => (!sat || decide (t ≠ .f32)) && ElemTy.arithTypes.contains t
  | .vMul t _ _ _ => ElemTy.arithTypes.contains t
  | .vFma _ _ _ => true
  | .vFms _ _ _ => true
  | .vMin t _ _ _ => ElemTy.arithTypes.contains t
  | .vMax t _ _ _ => ElemTy.arithTypes.contains t
  | .vAbs sat t _ _ => (!sat || decide (t ≠ .f32)) && ElemTy.absTypes.contains t
  | .vNeg sat t _ _ => (!sat || decide (t ≠ .f32)) && ElemTy.absTypes.contains t
  | .vRcp _ _ => true
  | .vRsq _ _ => true
  | .vSqrt _ _ => true
  | .vExp2 _ _ => true
  | .vLog2 _ _ => true
  | .vAnd _ _ _ => true
  | .vOr _ _ _ => true
  | .vXor _ _ _ => true
  | .vAndn _ _ _ => true
  | .vShl t _ _ _ => ElemTy.intTypes.contains t
  | .vShr t _ _ _ => ElemTy.intTypes.contains t
  | .vSar t _ _ _ => ElemTy.intTypes.contains t
  | .vCmp rel t _ _ _ => decide (rel.code < 6) && ElemTy.arithTypes.contains t
  | .vSel _ _ _ => true
  | .vRedAdd t _ _ => ElemTy.arithTypes.contains t
  | .vRedMin t _ _ => ElemTy.arithTypes.contains t
  | .vRedMax t _ _ => ElemTy.arithTypes.contains t
  | .vBcast _ _ _ => true
  | .vExt _ _ _ _ => true
  | .vIns _ _ _ _ => true
  | .vPerm _ _ _ => true
  | .vCvt dst src _ _ => cvtOk dst src
  | .vScl _ _ _ _ => true
  | .vPack dst src _ _ _ => packOk dst src
  | .vUnpk dst src _ _ h => unpkOk dst src && decide (h.val < 2)
  | .vDec8 _ _ h => decide (h.val < 4)
  | .vEnc8 _ _ h => decide (h.val < 4)
  | .vDec4 _ _ _ => true
  | .vEnc4 _ _ _ => true
  | .mClr _ => true
  | .mLatch _ _ => true
  | .mStep _ _ _ _ => true
  | .mLocal _ _ _ => true
  | .mPass => true
  | .mRd _ _ _ => true
  | .mWr _ _ _ => true
  | .mRing _ _ _ _ => true
  | .mStat _ => true
  | .mSync => true
  | .trDef imm => trDefOk imm
  | .trGo _ imm => decide (imm < 2 ^ 20)
  | .trWait _ => true
  | .trStop _ => true
  | .cpG2L _ _ c => cpBlockOk c.val
  | .cpL2G _ _ c => cpBlockOk c.val
  | .cpL2L _ _ c => cpBlockOk c.val
  | .cpG2G _ _ c => cpBlockOk c.val
  | .cpFill _ _ c => cpBlockOk c.val
  | .cp2D _ _ c => cpBlockOk c.val
  | .cpStat _ => true
  | .cpAbort => true
  | .tqPush _ _ _ => true
  | .tqSpawn _ _ _ => true
  | .tqPin _ _ _ => true
  | .tqStat _ _ => true
  | .tstat _ => true
  | .gtPost _ _ _ => true
  | .gtWait _ _ _ => true
  | .gtTry _ _ _ => true
  | .gtArrive _ _ => true
  | .gtStat _ _ => true
  | .gtOpen _ => true
  | .gtClose _ => true
  | .gtHold _ _ => true
  | .clWb _ _ _ => true
  | .clInv _ _ _ => true
  | .clDisc _ _ => true
  | .hrPin _ _ => true
  | .hrUnpin _ _ => true
  | .pgProbe _ _ => true
  | .tlbInv _ _ _ _ _ => true
  | .ubRsv _ _ _ => true
  | .ubRel _ _ _ => true
  | .ubMig _ _ _ => true
  | .sysRd _ n => decide (n < 4096)
  | .sysWr _ n => decide (n < 4096)
  | .tblWr _ _ _ => true
  | .tblSeal _ _ => true
  | .capRd _ _ => true
  | .partSet _ _ _ => true
  | .slotPark _ _ => true
  | .slotRun _ _ _ _ => true
  | .ctxSave _ _ _ => true
  | .ctxLoad _ _ _ => true
  | .eret => true
  | .brk => true
  | .wfe => true
  | .trap imm => decide (imm < 2 ^ 32)
  | .slotScrub _ _ => true
  | .hbCtlEnable _ _ => true
  | .hbCtlDisable _ _ => true
  | .hbCtlClear _ _ => true
  | .hbCtlOffline _ _ => true
  | .hbCtlOnline _ _ => true
  | .hbStat _ _ => true
  | .conventionalReset => true
  | .pf0Flr => true
  | .doeDiscovery _ _ => true
  | .illegalOpcode _ => true
  | .instructionFetchFault _ _ _ => true
  | .recoveryResetTimeout _ => true
  | .streamGateIntervalEnd _ => true
  | .gptpSyncTransmit _ => true
  | .safeFrames => true

end Sys2Proof
end

