-- ==== Sys2Proof/Decode.lean ====
section
/-! DEFINITION. The decoder and the encoder of instruction words (chapter 8). Words fold into the fields of R202;
the fields make an instruction by the opcode map of R196. `decodeWords` is total and rejects by name. -/

namespace Sys2Proof

/-- A GUARD prefix (R188, R192). -/
structure Guard where
  inv : Bool
  cond : Cond
  deriving DecidableEq, Repr

/-- The formats of R186. -/
inductive Fmt
  | r | i | b | j
  deriving DecidableEq, Repr

/-- The folded fields of a chain (R189, R202). In B format `a` is the condition and `b` is SENSE; `imm` is the
immediate as `w` raw bits. -/
structure Fold where
  page : Nat
  op : Nat
  fn : Nat
  a : Nat
  b : Nat
  c : Nat
  mod3 : Nat
  mod5 : Nat
  imm : Nat
  w : Nat
  guard : Option Guard
  deriving DecidableEq, Repr

/-- A decoded chain: the instruction, its folded fields and its length in bytes (R185). -/
structure Chain where
  instr : Instr
  fold : Fold
  len : Nat
  deriving DecidableEq, Repr

/-- Why a chain is refused (R191). -/
inductive DecodeError
  /-- `ILLEGAL_PREFIX`, steps 1 and 3 of R191 -/
  | illegalPrefix
  /-- `ILLEGAL_OPCODE`, steps 2, 4 and 5 of R191 -/
  | illegalOpcode
  /-- the words end before a base word -/
  | truncated
  deriving DecidableEq, Repr

/-- Bits [hi:lo] of a natural number. -/
def fieldOf (x hi lo : Nat) : Nat := x / 2 ^ lo % 2 ^ (hi + 1 - lo)

/-- The prefix words read so far (R188): EXT-I payloads in order, EXT-R, PAGE and GUARD payloads. -/
structure Prefixes where
  ext : List Nat
  extR : Option Nat
  page : Option Nat
  guard : Option Nat
  deriving DecidableEq, Repr

/-- No prefix. -/
def Prefixes.none : Prefixes := ⟨[], Option.none, Option.none, Option.none⟩

/-- The number of prefix words read. -/
def Prefixes.count (p : Prefixes) : Nat := p.ext.length + p.extR.isSome.toNat + p.page.isSome.toNat + p.guard.isSome.toNat

/-- Adds one prefix word, or refuses it at step 1 of R191 (R188, R189). -/
def Prefixes.add (p : Prefixes) (x : Nat) : Option Prefixes :=
  if fieldOf x 10 9 = 0 then if p.ext.length < 3 then some { p with ext := p.ext ++ [fieldOf x 8 0] } else Option.none
  else if fieldOf x 10 9 = 1 then if p.extR.isNone then some { p with extR := some (fieldOf x 8 0) } else Option.none
  else if fieldOf x 10 9 = 2 then
    if p.page.isNone && decide (fieldOf x 8 5 ≠ 0) then some { p with page := some (fieldOf x 8 0) } else Option.none
  else
    if p.guard.isNone && decide (fieldOf x 8 8 = 0) && decide (fieldOf x 1 0 = 0)
      then some { p with guard := some (fieldOf x 8 0) } else Option.none

/-- Splits a chain into its prefixes and its base word. `n` is how many more prefix words may follow. -/
def splitChain (n : Nat) (p : Prefixes) : List Nat → Except DecodeError (Prefixes × Nat)
  | [] => .error .truncated
  | x :: xs =>
    if fieldOf x 15 11 = 31 then
      match n with
      | 0 => .error .illegalPrefix
      | n + 1 =>
        match p.add x with
        | some p' => splitChain n p' xs
        | Option.none => .error .illegalPrefix
    else .ok (p, x)

/-- The format of an occupied (page, OP) cell and how many of its FNs, from 0 up, are occupied (R196). -/
def cellShape (page op : Nat) : Option (Fmt × Nat) :=
  match page with
  | 0 =>
    match op with
    | 0 => some (.r, 4)
    | 1 => some (.r, 4)
    | 2 => some (.r, 4)
    | 3 => some (.r, 4)
    | 4 => some (.r, 2)
    | 5 => some (.i, 1)
    | 6 => some (.i, 1)
    | 7 => some (.i, 1)
    | 8 => some (.i, 1)
    | 9 => some (.i, 1)
    | 10 => some (.i, 1)
    | 11 => some (.i, 1)
    | 12 => some (.i, 1)
    | 13 => some (.i, 1)
    | 14 => some (.i, 1)
    | 15 => some (.i, 1)
    | 16 => some (.i, 1)
    | 17 => some (.i, 1)
    | 18 => some (.i, 1)
    | 19 => some (.i, 1)
    | 20 => some (.b, 1)
    | 21 => some (.j, 1)
    | 22 => some (.j, 1)
    | 23 => some (.j, 1)
    | 24 => some (.i, 1)
    | _ => Option.none
  | 1 =>
    match op with
    | 0 => some (.r, 4)
    | 1 => some (.r, 4)
    | 2 => some (.r, 4)
    | 3 => some (.r, 4)
    | 4 => some (.i, 1)
    | 5 => some (.i, 1)
    | 6 => some (.i, 1)
    | 7 => some (.i, 1)
    | 8 => some (.i, 1)
    | 9 => some (.i, 1)
    | 10 => some (.r, 1)
    | 11 => some (.i, 1)
    | 12 => some (.r, 2)
    | 13 => some (.r, 4)
    | 14 => some (.r, 1)
    | _ => Option.none
  | 2 =>
    match op with
    | 0 => some (.i, 1)
    | 1 => some (.i, 1)
    | 2 => some (.r, 2)
    | 3 => some (.r, 4)
    | 4 => some (.r, 2)
    | 5 => some (.r, 4)
    | 6 => some (.r, 4)
    | 7 => some (.i, 1)
    | 8 => some (.i, 1)
    | 9 => some (.i, 1)
    | 10 => some (.i, 1)
    | 11 => some (.i, 1)
    | 12 => some (.i, 1)
    | 13 => some (.i, 1)
    | 14 => some (.i, 1)
    | 15 => some (.i, 1)
    | 16 => some (.i, 1)
    | 17 => some (.i, 1)
    | 18 => some (.r, 3)
    | 19 => some (.r, 4)
    | 20 => some (.r, 4)
    | 21 => some (.r, 1)
    | _ => Option.none
  | 3 =>
    match op with
    | 0 => some (.r, 4)
    | 1 => some (.r, 4)
    | 2 => some (.r, 3)
    | 3 => some (.r, 4)
    | 4 => some (.r, 2)
    | _ => Option.none
  | 4 =>
    match op with
    | 0 => some (.r, 4)
    | 1 => some (.r, 4)
    | 2 => some (.r, 4)
    | 3 => some (.r, 2)
    | 4 => some (.r, 4)
    | 5 => some (.r, 3)
    | 6 => some (.r, 2)
    | 7 => some (.r, 3)
    | _ => Option.none
  | 5 =>
    match op with
    | 0 => some (.r, 4)
    | 1 => some (.r, 4)
    | 2 => some (.r, 4)
    | _ => Option.none
  | 6 =>
    match op with
    | 0 => some (.r, 4)
    | 1 => some (.r, 4)
    | 2 => some (.r, 2)
    | 3 => some (.i, 1)
    | 4 => some (.i, 1)
    | 5 => some (.r, 2)
    | _ => Option.none
  | 7 =>
    match op with
    | 0 => some (.r, 4)
    | 1 => some (.r, 4)
    | _ => Option.none
  | 8 =>
    match op with
    | 0 => some (.r, 4)
    | 1 => some (.r, 1)
    | 2 => some (.r, 4)
    | 3 => some (.r, 4)
    | _ => Option.none
  | 9 =>
    match op with
    | 0 => some (.r, 3)
    | 1 => some (.r, 4)
    | 2 => some (.r, 3)
    | _ => Option.none
  | 10 =>
    match op with
    | 0 => some (.i, 1)
    | 1 => some (.i, 1)
    | 2 => some (.r, 4)
    | 3 => some (.r, 4)
    | 4 => some (.r, 3)
    | 5 => some (.i, 1)
    | 6 => some (.r, 3)
    | _ => Option.none
  | _ => Option.none

/-- Whether an instruction of the cell takes a GUARD (R190, R262). -/
def takesGuard (page op fn : Nat) (fmt : Fmt) : Bool :=
  match fmt with
  | .b => false
  | .j => decide (op ≠ 23)
  | _ => if page = 4 ∧ op = 6 then true else decide (page < 4) || decide (6 < page) || decide (31 < fn)

/-- The width of the immediate without EXT-I (R189). -/
def Fmt.base : Fmt → Nat
  | .r => 0 | .i => 5 | .b => 7 | .j => 11

/-- The value of EXT-I payloads, the most significant first (R189). -/
def extValue (ext : List Nat) : Nat := ext.foldl (fun acc x => acc * 512 + x) 0

/-- Step 3 of R191: whether every prefix is used (R190). -/
def prefixesUsed (p : Prefixes) (page op fn : Nat) (fmt : Fmt) : Bool :=
  (p.guard.isNone || takesGuard page op fn fmt) &&
  (match fmt with
   | .r => p.ext.isEmpty
   | .i => decide (fieldOf (p.extR.getD 0) 4 3 = 0)
   | .b => decide (p.ext.length ≤ 2) && decide (fieldOf (p.extR.getD 0) 6 0 = 0)
   | .j => p.extR.isNone && decide (p.ext.length ≤ 2) && (decide (op ≠ 23) || decide (p.ext.length = 1)))

/-- Folds prefixes and base word into the fields of R202. -/
def foldOf (p : Prefixes) (x page op fn : Nat) (fmt : Fmt) : Fold :=
  let r := p.extR.getD 0
  let hi := fun (n : Nat) (f : Nat) => n * 8 + f
  { page := page, op := op
    fn := match fmt with | .r => fn | _ => 0
    a := match fmt with | .j => 0 | _ => hi (fieldOf r 8 7) (fieldOf x 10 8)
    b := match fmt with | .j => 0 | .b => fieldOf x 7 7 | _ => hi (fieldOf r 6 5) (fieldOf x 7 5)
    c := match fmt with | .r => hi (fieldOf r 4 3) (fieldOf x 2 0) | _ => 0
    mod3 := fieldOf r 2 0
    mod5 := fieldOf (p.page.getD 0) 4 0
    imm := extValue p.ext * 2 ^ fmt.base +
      (match fmt with | .r => 0 | .i => fieldOf x 4 0 | .b => fieldOf x 6 0 | .j => fieldOf x 10 0)
    w := fmt.base + 9 * p.ext.length
    guard := p.guard.map (fun g => { inv := decide (fieldOf g 7 7 = 1), cond := Fin.ofNat 32 (fieldOf g 6 2) }) }

/-! ### Field readers -/

/-- A scalar register or condition number. -/
def reg (n : Nat) : Fin 32 := Fin.ofNat 32 n
/-- A vector register or predicate number (R154). -/
def reg16? (n : Nat) : Option (Fin 16) := if n < 16 then some (Fin.ofNat 16 n) else Option.none
/-- An accumulator number, or an `h` operand of at most 7. -/
def reg8? (n : Nat) : Option (Fin 8) := if n < 8 then some (Fin.ofNat 8 n) else Option.none
/-- A one-bit modifier whose other bits are zero. -/
def flag? (n : Nat) : Option Bool := if n = 0 then some false else if n = 1 then some true else Option.none
/-- A field that must be zero (R187). -/
def zero? (n : Nat) : Option Unit := if n = 0 then some () else Option.none
/-- A shift amount of `LEA` (R213). -/
def sh? (n : Nat) : Option (Fin 4) := if n < 4 then some (Fin.ofNat 4 n) else Option.none

/-- An element type code (R195). -/
def elem? : Nat → Option ElemTy
  | 0 => some .f32 | 1 => some .bf16 | 2 => some .f16 | 3 => some .c8 | 4 => some .c4 | 5 => some .s8
  | 6 => some .s16 | 7 => some .s32 | 8 => some .s64 | 9 => some .z8 | 10 => some .z16 | 11 => some .z32
  | 12 => some .z64 | _ => Option.none

/-- A relation code (R195). -/
def rel? : Nat → Option Rel
  | 0 => some .eq | 1 => some .ne | 2 => some .lt | 3 => some .le | 4 => some .gt | 5 => some .ge
  | 6 => some .ltz | 7 => some .lez | 8 => some .gtz | 9 => some .gez | _ => Option.none

/-- A scope code (R195). -/
def scope? : Nat → Option Scope
  | 0 => some .dflt | 1 => some .slot | 2 => some .core | 3 => some .die | 4 => some .part | 5 => some .dev
  | _ => Option.none

/-- An ordering code (R195). -/
def ord? : Nat → Option Ord
  | 0 => some .none | 1 => some .acq | 2 => some .rel | 3 => some .ar | _ => Option.none

/-- A disposition of `M.STEP` (R282). -/
def disp? : Nat → Option Disp
  | 0 => some .send | 1 => some .keep | 2 => some .drop | _ => Option.none

/-- A match kind of `TLB.INV` (R255). -/
def kind? : Nat → Option TlbKind
  | 0 => some .page | 1 => some .asn | 2 => some .part | _ => Option.none

/-- The code of a disposition. -/
def Disp.code : Disp → Nat
  | .send => 0 | .keep => 1 | .drop => 2

/-- The code of a match kind. -/
def TlbKind.code : TlbKind → Nat
  | .page => 0 | .asn => 1 | .part => 2

/-- The immediate read as signed (R189). -/
def Fold.simm (f : Fold) : Int := if f.imm < 2 ^ (f.w - 1) then (f.imm : Int) else (f.imm : Int) - 2 ^ f.w

/-- The immediate of `CMPI`, signed or unsigned by the relation (R215). -/
def Fold.cmpImm (f : Fold) (r : Rel) : Int := if r.unsigned then (f.imm : Int) else f.simm

/-- The instructions of page 0 (R196). -/
def buildPage0 (f : Fold) : Option Instr :=
  match f.op with
  | 0 =>
    match f.fn with
    | 0 => do zero? f.mod3; some (.add (reg f.a) (reg f.b) (reg f.c))
    | 1 => do zero? f.mod3; some (.sub (reg f.a) (reg f.b) (reg f.c))
    | 2 => do zero? f.mod3; some (.and (reg f.a) (reg f.b) (reg f.c))
    | 3 => do zero? f.mod3; some (.or (reg f.a) (reg f.b) (reg f.c))
    | _ => Option.none
  | 1 =>
    match f.fn with
    | 0 => do zero? f.mod3; some (.xor (reg f.a) (reg f.b) (reg f.c))
    | 1 => do zero? f.mod3; some (.andn (reg f.a) (reg f.b) (reg f.c))
    | 2 => do zero? f.mod3; some (.shl (reg f.a) (reg f.b) (reg f.c))
    | 3 => do zero? f.mod3; some (.shr (reg f.a) (reg f.b) (reg f.c))
    | _ => Option.none
  | 2 =>
    match f.fn with
    | 0 => do zero? f.mod3; some (.sar (reg f.a) (reg f.b) (reg f.c))
    | 1 => do zero? f.mod3; some (.mul (reg f.a) (reg f.b) (reg f.c))
    | 2 => do zero? f.mod3; some (.min (reg f.a) (reg f.b) (reg f.c))
    | 3 => do zero? f.mod3; some (.max (reg f.a) (reg f.b) (reg f.c))
    | _ => Option.none
  | 3 =>
    match f.fn with
    | 0 => do zero? f.c; zero? f.mod3; some (.mov (reg f.a) (reg f.b))
    | 1 => do zero? f.b; zero? f.c; zero? f.mod3; some (.jmpi (reg f.a))
    | 2 => do zero? f.b; zero? f.c; zero? f.mod3; some (.calli (reg f.a))
    | 3 => do zero? f.a; zero? f.b; zero? f.c; zero? f.mod3; some .ret
    | _ => Option.none
  | 4 =>
    match f.fn with
    | 0 => do zero? f.a; zero? f.b; zero? f.c; zero? f.mod3; some .nop
    | 1 => do zero? f.a; zero? f.b; zero? f.c; zero? f.mod3; some .tend
    | _ => Option.none
  | 5 => do zero? f.mod3; some (.addi (reg f.a) (reg f.b) (f.simm))
  | 6 => do zero? f.b; zero? f.mod3; some (.movi (reg f.a) (f.simm))
  | 7 => do zero? f.mod3; some (.ldZ8 (reg f.a) (reg f.b) (f.simm))
  | 8 => do zero? f.mod3; some (.ldZ16 (reg f.a) (reg f.b) (f.simm))
  | 9 => do zero? f.mod3; some (.ldZ32 (reg f.a) (reg f.b) (f.simm))
  | 10 => do zero? f.mod3; some (.ldZ64 (reg f.a) (reg f.b) (f.simm))
  | 11 => do zero? f.mod3; some (.ldS8 (reg f.a) (reg f.b) (f.simm))
  | 12 => do zero? f.mod3; some (.ldS16 (reg f.a) (reg f.b) (f.simm))
  | 13 => do zero? f.mod3; some (.ldS32 (reg f.a) (reg f.b) (f.simm))
  | 14 => do zero? f.mod3; some (.stZ8 (reg f.a) (reg f.b) (f.simm))
  | 15 => do zero? f.mod3; some (.stZ16 (reg f.a) (reg f.b) (f.simm))
  | 16 => do zero? f.mod3; some (.stZ32 (reg f.a) (reg f.b) (f.simm))
  | 17 => do zero? f.mod3; some (.stZ64 (reg f.a) (reg f.b) (f.simm))
  | 18 => do zero? f.mod3; some (.ldLZ64 (reg f.a) (reg f.b) (f.simm))
  | 19 => do zero? f.mod3; some (.stLZ64 (reg f.a) (reg f.b) (f.simm))
  | 20 => some (.br (reg f.a) (decide (f.b = 1)) (f.simm))
  | 21 => some (.jmp (f.simm))
  | 22 => some (.call (f.simm))
  | 23 => some (.sig (f.imm))
  | 24 => do zero? f.b; zero? f.mod3; some (.loop (reg f.a) (f.simm))
  | _ => Option.none

/-- The instructions of page 1 (R196). -/
def buildPage1 (f : Fold) : Option Instr :=
  match f.op with
  | 0 =>
    match f.fn with
    | 0 => do zero? f.mod3; zero? f.mod5; some (.mulh (reg f.a) (reg f.b) (reg f.c))
    | 1 => do zero? f.mod3; zero? f.mod5; some (.mulhz (reg f.a) (reg f.b) (reg f.c))
    | 2 => do zero? f.mod3; zero? f.mod5; some (.div (reg f.a) (reg f.b) (reg f.c))
    | 3 => do zero? f.mod3; zero? f.mod5; some (.divz (reg f.a) (reg f.b) (reg f.c))
    | _ => Option.none
  | 1 =>
    match f.fn with
    | 0 => do zero? f.mod3; zero? f.mod5; some (.rem (reg f.a) (reg f.b) (reg f.c))
    | 1 => do zero? f.mod3; zero? f.mod5; some (.remz (reg f.a) (reg f.b) (reg f.c))
    | 2 => do zero? f.mod3; zero? f.mod5; some (.minz (reg f.a) (reg f.b) (reg f.c))
    | 3 => do zero? f.mod3; zero? f.mod5; some (.maxz (reg f.a) (reg f.b) (reg f.c))
    | _ => Option.none
  | 2 =>
    match f.fn with
    | 0 => do zero? f.mod3; zero? f.mod5; some (.rol (reg f.a) (reg f.b) (reg f.c))
    | 1 => do zero? f.c; zero? f.mod3; zero? f.mod5; some (.clz (reg f.a) (reg f.b))
    | 2 => do zero? f.c; zero? f.mod3; zero? f.mod5; some (.ctz (reg f.a) (reg f.b))
    | 3 => do zero? f.c; zero? f.mod3; zero? f.mod5; some (.popc (reg f.a) (reg f.b))
    | _ => Option.none
  | 3 =>
    match f.fn with
    | 0 => do zero? f.c; zero? f.mod3; zero? f.mod5; some (.brev (reg f.a) (reg f.b))
    | 1 => do zero? f.c; zero? f.mod3; zero? f.mod5; some (.bswap (reg f.a) (reg f.b))
    | 2 => do zero? f.c; zero? f.mod3; let t ← elem? f.mod5; some (.sext t (reg f.a) (reg f.b))
    | 3 => do zero? f.c; zero? f.mod3; let t ← elem? f.mod5; some (.zext t (reg f.a) (reg f.b))
    | _ => Option.none
  | 4 => do zero? f.mod3; zero? f.mod5; some (.shli (reg f.a) (reg f.b) (f.imm))
  | 5 => do zero? f.mod3; zero? f.mod5; some (.shri (reg f.a) (reg f.b) (f.imm))
  | 6 => do zero? f.mod3; zero? f.mod5; some (.sari (reg f.a) (reg f.b) (f.imm))
  | 7 => do zero? f.mod3; zero? f.mod5; some (.roli (reg f.a) (reg f.b) (f.imm))
  | 8 => do zero? f.mod3; zero? f.mod5; some (.bfx (reg f.a) (reg f.b) (f.imm))
  | 9 => do zero? f.mod3; zero? f.mod5; some (.bfi (reg f.a) (reg f.b) (f.imm))
  | 10 =>
    match f.fn with
    | 0 => do zero? f.mod3; let rel ← rel? f.mod5; let d ← reg16? f.a; some (.cmp rel d (reg f.b) (reg f.c))
    | _ => Option.none
  | 11 => do zero? f.mod3; let rel ← rel? f.mod5; let d ← reg16? f.a; some (.cmpi rel d (reg f.b) (f.cmpImm rel))
  | 12 =>
    match f.fn with
    | 0 => do zero? f.mod3; some (.sel (reg f.mod5) (reg f.a) (reg f.b) (reg f.c))
    | 1 => do zero? f.mod5; let sh ← sh? f.mod3; some (.lea sh (reg f.a) (reg f.b) (reg f.c))
    | _ => Option.none
  | 13 =>
    match f.fn with
    | 0 => do zero? f.mod3; zero? f.mod5; let d ← reg16? f.a; some (.pand d (reg f.b) (reg f.c))
    | 1 => do zero? f.mod3; zero? f.mod5; let d ← reg16? f.a; some (.por d (reg f.b) (reg f.c))
    | 2 => do zero? f.mod3; zero? f.mod5; let d ← reg16? f.a; some (.pxor d (reg f.b) (reg f.c))
    | 3 => do zero? f.c; zero? f.mod3; zero? f.mod5; let d ← reg16? f.a; some (.pnot d (reg f.b))
    | _ => Option.none
  | 14 =>
    match f.fn with
    | 0 => do zero? f.c; zero? f.mod3; zero? f.mod5; let d ← reg16? f.a; some (.pmov d (reg f.b))
    | _ => Option.none
  | _ => Option.none

/-- The instructions of page 2 (R196). -/
def buildPage2 (f : Fold) : Option Instr :=
  match f.op with
  | 0 => do zero? f.mod3; let t ← elem? f.mod5; some (.ldL t (reg f.a) (reg f.b) (f.simm))
  | 1 => do zero? f.mod3; let t ← elem? f.mod5; some (.stL t (reg f.a) (reg f.b) (f.simm))
  | 2 =>
    match f.fn with
    | 0 => do zero? f.mod5; let scanOnly ← flag? f.mod3; some (.ldt scanOnly (reg f.a) (reg f.b) (reg f.c))
    | 1 => do zero? f.c; zero? f.mod3; zero? f.mod5; some (.stt (reg f.a) (reg f.b))
    | _ => Option.none
  | 3 =>
    match f.fn with
    | 0 => do zero? f.c; zero? f.mod5; let lm ← flag? f.mod3; let v ← reg16? f.a; some (.vld lm v (reg f.b))
    | 1 => do zero? f.c; zero? f.mod5; let lm ← flag? f.mod3; let v ← reg16? f.a; some (.vst lm v (reg f.b))
    | 2 => do let lm ← flag? f.mod3; let t ← elem? f.mod5; let v ← reg16? f.a; some (.vlds lm t v (reg f.b) (reg f.c))
    | 3 => do let lm ← flag? f.mod3; let t ← elem? f.mod5; let v ← reg16? f.a; let x ← reg16? f.c; some (.vgath lm t v (reg f.b) x)
    | _ => Option.none
  | 4 =>
    match f.fn with
    | 0 => do let lm ← flag? f.mod3; let t ← elem? f.mod5; let v ← reg16? f.a; let x ← reg16? f.c; some (.vscat lm t v (reg f.b) x)
    | 1 => do zero? f.b; zero? f.c; zero? f.mod5; let home ← flag? f.mod3; some (.pref home (reg f.a))
    | _ => Option.none
  | 5 =>
    match f.fn with
    | 0 => do let o ← ord? (f.mod5 / 8); let sc ← scope? (f.mod5 % 8); let w32 ← flag? f.mod3; some (.amoSwap o sc w32 (reg f.a) (reg f.b) (reg f.c))
    | 1 => do let o ← ord? (f.mod5 / 8); let sc ← scope? (f.mod5 % 8); let w32 ← flag? f.mod3; some (.amoCas o sc w32 (reg f.a) (reg f.b) (reg f.c))
    | 2 => do let o ← ord? (f.mod5 / 8); let sc ← scope? (f.mod5 % 8); let w32 ← flag? f.mod3; some (.amoFadd o sc w32 (reg f.a) (reg f.b) (reg f.c))
    | 3 => do let o ← ord? (f.mod5 / 8); let sc ← scope? (f.mod5 % 8); let w32 ← flag? f.mod3; some (.amoFand o sc w32 (reg f.a) (reg f.b) (reg f.c))
    | _ => Option.none
  | 6 =>
    match f.fn with
    | 0 => do let o ← ord? (f.mod5 / 8); let sc ← scope? (f.mod5 % 8); let w32 ← flag? f.mod3; some (.amoFor o sc w32 (reg f.a) (reg f.b) (reg f.c))
    | 1 => do let o ← ord? (f.mod5 / 8); let sc ← scope? (f.mod5 % 8); let w32 ← flag? f.mod3; some (.amoFxor o sc w32 (reg f.a) (reg f.b) (reg f.c))
    | 2 => do let o ← ord? (f.mod5 / 8); let sc ← scope? (f.mod5 % 8); let w32 ← flag? f.mod3; some (.amoFmin o sc w32 (reg f.a) (reg f.b) (reg f.c))
    | 3 => do let o ← ord? (f.mod5 / 8); let sc ← scope? (f.mod5 % 8); let w32 ← flag? f.mod3; some (.amoFmax o sc w32 (reg f.a) (reg f.b) (reg f.c))
    | _ => Option.none
  | 7 => do zero? f.mod3; let o ← ord? (f.mod5 / 8); let sc ← scope? (f.mod5 % 8); some (.ldZ8Ordered o sc (reg f.a) (reg f.b) (f.simm))
  | 8 => do zero? f.mod3; let o ← ord? (f.mod5 / 8); let sc ← scope? (f.mod5 % 8); some (.ldZ16Ordered o sc (reg f.a) (reg f.b) (f.simm))
  | 9 => do zero? f.mod3; let o ← ord? (f.mod5 / 8); let sc ← scope? (f.mod5 % 8); some (.ldZ32Ordered o sc (reg f.a) (reg f.b) (f.simm))
  | 10 => do zero? f.mod3; let o ← ord? (f.mod5 / 8); let sc ← scope? (f.mod5 % 8); some (.ldZ64Ordered o sc (reg f.a) (reg f.b) (f.simm))
  | 11 => do zero? f.mod3; let o ← ord? (f.mod5 / 8); let sc ← scope? (f.mod5 % 8); some (.ldS8Ordered o sc (reg f.a) (reg f.b) (f.simm))
  | 12 => do zero? f.mod3; let o ← ord? (f.mod5 / 8); let sc ← scope? (f.mod5 % 8); some (.ldS16Ordered o sc (reg f.a) (reg f.b) (f.simm))
  | 13 => do zero? f.mod3; let o ← ord? (f.mod5 / 8); let sc ← scope? (f.mod5 % 8); some (.ldS32Ordered o sc (reg f.a) (reg f.b) (f.simm))
  | 14 => do zero? f.mod3; let o ← ord? (f.mod5 / 8); let sc ← scope? (f.mod5 % 8); some (.stZ8Ordered o sc (reg f.a) (reg f.b) (f.simm))
  | 15 => do zero? f.mod3; let o ← ord? (f.mod5 / 8); let sc ← scope? (f.mod5 % 8); some (.stZ16Ordered o sc (reg f.a) (reg f.b) (f.simm))
  | 16 => do zero? f.mod3; let o ← ord? (f.mod5 / 8); let sc ← scope? (f.mod5 % 8); some (.stZ32Ordered o sc (reg f.a) (reg f.b) (f.simm))
  | 17 => do zero? f.mod3; let o ← ord? (f.mod5 / 8); let sc ← scope? (f.mod5 % 8); some (.stZ64Ordered o sc (reg f.a) (reg f.b) (f.simm))
  | 18 =>
    match f.fn with
    | 0 => do let o ← ord? (f.mod5 / 8); let sc ← scope? (f.mod5 % 8); let w32 ← flag? f.mod3; some (.amoFminz o sc w32 (reg f.a) (reg f.b) (reg f.c))
    | 1 => do let o ← ord? (f.mod5 / 8); let sc ← scope? (f.mod5 % 8); let w32 ← flag? f.mod3; some (.amoFmaxz o sc w32 (reg f.a) (reg f.b) (reg f.c))
    | 2 => do zero? f.mod3; zero? f.mod5; let v ← reg16? f.a; some (.hgath v (reg f.b) (reg f.c))
    | _ => Option.none
  | 19 =>
    match f.fn with
    | 0 => do zero? f.c; let o ← ord? (f.mod5 / 8); let sc ← scope? (f.mod5 % 8); let w32 ← flag? f.mod3; some (.redAdd o sc w32 (reg f.a) (reg f.b))
    | 1 => do zero? f.c; let o ← ord? (f.mod5 / 8); let sc ← scope? (f.mod5 % 8); let w32 ← flag? f.mod3; some (.redAnd o sc w32 (reg f.a) (reg f.b))
    | 2 => do zero? f.c; let o ← ord? (f.mod5 / 8); let sc ← scope? (f.mod5 % 8); let w32 ← flag? f.mod3; some (.redOr o sc w32 (reg f.a) (reg f.b))
    | 3 => do zero? f.c; let o ← ord? (f.mod5 / 8); let sc ← scope? (f.mod5 % 8); let w32 ← flag? f.mod3; some (.redXor o sc w32 (reg f.a) (reg f.b))
    | _ => Option.none
  | 20 =>
    match f.fn with
    | 0 => do zero? f.c; let o ← ord? (f.mod5 / 8); let sc ← scope? (f.mod5 % 8); let w32 ← flag? f.mod3; some (.redMin o sc w32 (reg f.a) (reg f.b))
    | 1 => do zero? f.c; let o ← ord? (f.mod5 / 8); let sc ← scope? (f.mod5 % 8); let w32 ← flag? f.mod3; some (.redMax o sc w32 (reg f.a) (reg f.b))
    | 2 => do zero? f.c; let o ← ord? (f.mod5 / 8); let sc ← scope? (f.mod5 % 8); let w32 ← flag? f.mod3; some (.redMinz o sc w32 (reg f.a) (reg f.b))
    | 3 => do zero? f.c; let o ← ord? (f.mod5 / 8); let sc ← scope? (f.mod5 % 8); let w32 ← flag? f.mod3; some (.redMaxz o sc w32 (reg f.a) (reg f.b))
    | _ => Option.none
  | 21 =>
    match f.fn with
    | 0 => do zero? f.c; zero? (f.mod3 - 1); zero? (1 - f.mod3); let o ← ord? (f.mod5 / 8); let sc ← scope? (f.mod5 % 8); some (.redFadd o sc (reg f.a) (reg f.b))
    | _ => Option.none
  | _ => Option.none

/-- The instructions of page 3 (R196). -/
def buildPage3 (f : Fold) : Option Instr :=
  match f.op with
  | 0 =>
    match f.fn with
    | 0 => do zero? f.c; zero? f.mod3; zero? f.mod5; some (.barArr (reg f.a) (reg f.b))
    | 1 => do zero? f.c; zero? f.mod3; zero? f.mod5; some (.barWait (reg f.a) (reg f.b))
    | 2 => do zero? f.c; zero? f.mod3; zero? f.mod5; some (.barAw (reg f.a) (reg f.b))
    | 3 => do zero? f.c; zero? f.mod5; let dereg ← flag? f.mod3; some (.barExp dereg (reg f.a) (reg f.b))
    | _ => Option.none
  | 1 =>
    match f.fn with
    | 0 => do zero? f.mod3; let sc ← scope? f.mod5; some (.barInit sc (reg f.a) (reg f.b) (reg f.c))
    | 1 => do zero? f.a; zero? f.b; zero? f.c; zero? f.mod3; let o ← ord? (f.mod5 / 8); let sc ← scope? (f.mod5 % 8); some (.fence o sc)
    | 2 => do zero? f.c; zero? f.mod3; let sc ← scope? f.mod5; some (.evtAdd sc (reg f.a) (reg f.b))
    | 3 => do zero? f.c; zero? f.mod3; let sc ← scope? f.mod5; some (.evtWait sc (reg f.a) (reg f.b))
    | _ => Option.none
  | 2 =>
    match f.fn with
    | 0 => do zero? f.mod3; let all ← flag? f.mod5; some (.wait all (reg f.a) (reg f.b) (reg f.c))
    | 1 => do zero? f.b; zero? f.c; zero? f.mod5; let beat ← flag? f.mod3; some (.realign beat (reg f.a))
    | 2 => do zero? f.c; zero? f.mod5; let tree ← flag? f.mod3; some (.qstat tree (reg f.a) (reg f.b))
    | _ => Option.none
  | 3 =>
    match f.fn with
    | 0 => do zero? f.c; zero? f.mod3; let o ← ord? (f.mod5 / 8); let sc ← scope? (f.mod5 % 8); some (.msgSend o sc (reg f.a) (reg f.b))
    | 1 => do zero? f.b; zero? f.c; zero? f.mod3; zero? f.mod5; some (.msgInfo (reg f.a))
    | 2 => do zero? f.mod3; zero? f.mod5; let v ← reg16? f.a; some (.redPkt v (reg f.b) (reg f.c))
    | 3 => do zero? f.mod5; let miss ← flag? f.mod3; let v ← reg16? f.a; some (.redRecv miss v (reg f.b) (reg f.c))
    | _ => Option.none
  | 4 =>
    match f.fn with
    | 0 => do zero? f.c; zero? f.mod3; zero? f.mod5; some (.rteSet (reg f.a) (reg f.b))
    | 1 => do zero? f.c; zero? f.mod3; zero? f.mod5; some (.treeSet (reg f.a) (reg f.b))
    | _ => Option.none
  | _ => Option.none

/-- The instructions of page 4 (R196). -/
def buildPage4 (f : Fold) : Option Instr :=
  match f.op with
  | 0 =>
    match f.fn with
    | 0 => do let sat ← flag? f.mod3; let t ← elem? f.mod5; let d ← reg16? f.a; let a ← reg16? f.b; let b ← reg16? f.c; some (.vAdd sat t d a b)
    | 1 => do let sat ← flag? f.mod3; let t ← elem? f.mod5; let d ← reg16? f.a; let a ← reg16? f.b; let b ← reg16? f.c; some (.vSub sat t d a b)
    | 2 => do zero? f.mod3; let t ← elem? f.mod5; let d ← reg16? f.a; let a ← reg16? f.b; let b ← reg16? f.c; some (.vMul t d a b)
    | 3 => do zero? f.mod3; zero? f.mod5; let d ← reg16? f.a; let a ← reg16? f.b; let b ← reg16? f.c; some (.vFma d a b)
    | _ => Option.none
  | 1 =>
    match f.fn with
    | 0 => do zero? f.mod3; zero? f.mod5; let d ← reg16? f.a; let a ← reg16? f.b; let b ← reg16? f.c; some (.vFms d a b)
    | 1 => do zero? f.mod3; let t ← elem? f.mod5; let d ← reg16? f.a; let a ← reg16? f.b; let b ← reg16? f.c; some (.vMin t d a b)
    | 2 => do zero? f.mod3; let t ← elem? f.mod5; let d ← reg16? f.a; let a ← reg16? f.b; let b ← reg16? f.c; some (.vMax t d a b)
    | 3 => do zero? f.c; let sat ← flag? f.mod3; let t ← elem? f.mod5; let d ← reg16? f.a; let a ← reg16? f.b; some (.vAbs sat t d a)
    | _ => Option.none
  | 2 =>
    match f.fn with
    | 0 => do zero? f.c; let sat ← flag? f.mod3; let t ← elem? f.mod5; let d ← reg16? f.a; let a ← reg16? f.b; some (.vNeg sat t d a)
    | 1 => do zero? f.c; zero? f.mod3; zero? f.mod5; let d ← reg16? f.a; let a ← reg16? f.b; some (.vRcp d a)
    | 2 => do zero? f.c; zero? f.mod3; zero? f.mod5; let d ← reg16? f.a; let a ← reg16? f.b; some (.vRsq d a)
    | 3 => do zero? f.c; zero? f.mod3; zero? f.mod5; let d ← reg16? f.a; let a ← reg16? f.b; some (.vSqrt d a)
    | _ => Option.none
  | 3 =>
    match f.fn with
    | 0 => do zero? f.c; zero? f.mod3; zero? f.mod5; let d ← reg16? f.a; let a ← reg16? f.b; some (.vExp2 d a)
    | 1 => do zero? f.c; zero? f.mod3; zero? f.mod5; let d ← reg16? f.a; let a ← reg16? f.b; some (.vLog2 d a)
    | _ => Option.none
  | 4 =>
    match f.fn with
    | 0 => do zero? f.mod3; zero? f.mod5; let d ← reg16? f.a; let a ← reg16? f.b; let b ← reg16? f.c; some (.vAnd d a b)
    | 1 => do zero? f.mod3; zero? f.mod5; let d ← reg16? f.a; let a ← reg16? f.b; let b ← reg16? f.c; some (.vOr d a b)
    | 2 => do zero? f.mod3; zero? f.mod5; let d ← reg16? f.a; let a ← reg16? f.b; let b ← reg16? f.c; some (.vXor d a b)
    | 3 => do zero? f.mod3; zero? f.mod5; let d ← reg16? f.a; let a ← reg16? f.b; let b ← reg16? f.c; some (.vAndn d a b)
    | _ => Option.none
  | 5 =>
    match f.fn with
    | 0 => do zero? f.mod3; let t ← elem? f.mod5; let d ← reg16? f.a; let a ← reg16? f.b; let b ← reg16? f.c; some (.vShl t d a b)
    | 1 => do zero? f.mod3; let t ← elem? f.mod5; let d ← reg16? f.a; let a ← reg16? f.b; let b ← reg16? f.c; some (.vShr t d a b)
    | 2 => do zero? f.mod3; let t ← elem? f.mod5; let d ← reg16? f.a; let a ← reg16? f.b; let b ← reg16? f.c; some (.vSar t d a b)
    | _ => Option.none
  | 6 =>
    match f.fn with
    | 0 => do let rel ← rel? f.mod3; let t ← elem? f.mod5; let d ← reg16? f.a; let a ← reg16? f.b; let b ← reg16? f.c; some (.vCmp rel t d a b)
    | 1 => do zero? f.mod3; zero? f.mod5; let d ← reg16? f.a; let a ← reg16? f.b; let b ← reg16? f.c; some (.vSel d a b)
    | _ => Option.none
  | 7 =>
    match f.fn with
    | 0 => do zero? f.c; zero? f.mod3; let t ← elem? f.mod5; let d ← reg16? f.a; let a ← reg16? f.b; some (.vRedAdd t d a)
    | 1 => do zero? f.c; zero? f.mod3; let t ← elem? f.mod5; let d ← reg16? f.a; let a ← reg16? f.b; some (.vRedMin t d a)
    | 2 => do zero? f.c; zero? f.mod3; let t ← elem? f.mod5; let d ← reg16? f.a; let a ← reg16? f.b; some (.vRedMax t d a)
    | _ => Option.none
  | _ => Option.none

/-- The instructions of page 5 (R196). -/
def buildPage5 (f : Fold) : Option Instr :=
  match f.op with
  | 0 =>
    match f.fn with
    | 0 => do zero? f.c; zero? f.mod3; let t ← elem? f.mod5; let d ← reg16? f.a; some (.vBcast t d (reg f.b))
    | 1 => do zero? f.mod3; let t ← elem? f.mod5; let a ← reg16? f.b; some (.vExt t (reg f.a) a (reg f.c))
    | 2 => do zero? f.mod3; let t ← elem? f.mod5; let d ← reg16? f.a; some (.vIns t d (reg f.b) (reg f.c))
    | 3 => do zero? f.mod3; zero? f.mod5; let d ← reg16? f.a; let a ← reg16? f.b; let b ← reg16? f.c; some (.vPerm d a b)
    | _ => Option.none
  | 1 =>
    match f.fn with
    | 0 => do zero? f.c; let dst ← elem? (f.mod5 % 16); let src ← elem? (f.mod5 / 16 * 8 + f.mod3); let d ← reg16? f.a; let a ← reg16? f.b; some (.vCvt dst src d a)
    | 1 => do zero? f.mod5; let inv ← flag? f.mod3; let d ← reg16? f.a; let a ← reg16? f.b; some (.vScl inv d a (reg f.c))
    | 2 => do let dst ← elem? (f.mod5 % 16); let src ← elem? (f.mod5 / 16 * 8 + f.mod3); let d ← reg16? f.a; let a ← reg16? f.b; let b ← reg16? f.c; some (.vPack dst src d a b)
    | 3 => do let dst ← elem? (f.mod5 % 16); let src ← elem? (f.mod5 / 16 * 8 + f.mod3); let d ← reg16? f.a; let a ← reg16? f.b; let h ← reg8? f.c; some (.vUnpk dst src d a h)
    | _ => Option.none
  | 2 =>
    match f.fn with
    | 0 => do zero? f.mod3; zero? f.mod5; let d ← reg16? f.a; let a ← reg16? f.b; let h ← reg8? f.c; some (.vDec8 d a h)
    | 1 => do zero? f.mod3; zero? f.mod5; let d ← reg16? f.a; let a ← reg16? f.b; let h ← reg8? f.c; some (.vEnc8 d a h)
    | 2 => do zero? f.mod3; zero? f.mod5; let d ← reg16? f.a; let a ← reg16? f.b; let h ← reg8? f.c; some (.vDec4 d a h)
    | 3 => do zero? f.mod3; zero? f.mod5; let d ← reg16? f.a; let a ← reg16? f.b; let h ← reg8? f.c; some (.vEnc4 d a h)
    | _ => Option.none
  | _ => Option.none

/-- The instructions of page 6 (R196). -/
def buildPage6 (f : Fold) : Option Instr :=
  match f.op with
  | 0 =>
    match f.fn with
    | 0 => do zero? f.b; zero? f.c; zero? f.mod3; zero? f.mod5; let m ← reg8? f.a; some (.mClr m)
    | 1 => do zero? f.c; zero? f.mod3; zero? f.mod5; some (.mLatch (reg f.a) (reg f.b))
    | 2 => do zero? f.mod5; let disp ← disp? f.mod3; let m ← reg8? f.a; some (.mStep disp m (reg f.b) (reg f.c))
    | 3 => do zero? f.mod3; zero? f.mod5; let m ← reg8? f.a; some (.mLocal m (reg f.b) (reg f.c))
    | _ => Option.none
  | 1 =>
    match f.fn with
    | 0 => do zero? f.a; zero? f.b; zero? f.c; zero? f.mod3; zero? f.mod5; some .mPass
    | 1 => do zero? f.mod3; zero? f.mod5; let v ← reg16? f.a; let m ← reg8? f.b; some (.mRd v m (reg f.c))
    | 2 => do zero? f.mod3; zero? f.mod5; let m ← reg8? f.a; let v ← reg16? f.b; some (.mWr m v (reg f.c))
    | 3 => do zero? f.mod5; let leave ← flag? f.mod3; some (.mRing leave (reg f.a) (reg f.b) (reg f.c))
    | _ => Option.none
  | 2 =>
    match f.fn with
    | 0 => do zero? f.b; zero? f.c; zero? f.mod3; zero? f.mod5; some (.mStat (reg f.a))
    | 1 => do zero? f.a; zero? f.b; zero? f.c; zero? f.mod3; zero? f.mod5; some .mSync
    | _ => Option.none
  | 3 => do zero? f.a; zero? f.b; zero? f.mod3; zero? f.mod5; some (.trDef (f.imm))
  | 4 => do zero? f.b; zero? f.mod3; zero? f.mod5; some (.trGo (reg f.a) (f.imm))
  | 5 =>
    match f.fn with
    | 0 => do zero? f.b; zero? f.c; zero? f.mod3; zero? f.mod5; some (.trWait (reg f.a))
    | 1 => do zero? f.b; zero? f.c; zero? f.mod3; zero? f.mod5; some (.trStop (reg f.a))
    | _ => Option.none
  | _ => Option.none

/-- The instructions of page 7 (R196). -/
def buildPage7 (f : Fold) : Option Instr :=
  match f.op with
  | 0 =>
    match f.fn with
    | 0 => do zero? f.mod3; zero? f.mod5; some (.cpG2L (reg f.a) (reg f.b) (reg f.c))
    | 1 => do zero? f.mod3; zero? f.mod5; some (.cpL2G (reg f.a) (reg f.b) (reg f.c))
    | 2 => do zero? f.mod3; zero? f.mod5; some (.cpL2L (reg f.a) (reg f.b) (reg f.c))
    | 3 => do zero? f.mod3; zero? f.mod5; some (.cpG2G (reg f.a) (reg f.b) (reg f.c))
    | _ => Option.none
  | 1 =>
    match f.fn with
    | 0 => do zero? f.mod3; zero? f.mod5; some (.cpFill (reg f.a) (reg f.b) (reg f.c))
    | 1 => do zero? f.mod3; zero? f.mod5; some (.cp2D (reg f.a) (reg f.b) (reg f.c))
    | 2 => do zero? f.b; zero? f.c; zero? f.mod3; zero? f.mod5; some (.cpStat (reg f.a))
    | 3 => do zero? f.a; zero? f.b; zero? f.c; zero? f.mod3; zero? f.mod5; some .cpAbort
    | _ => Option.none
  | _ => Option.none

/-- The instructions of page 8 (R196). -/
def buildPage8 (f : Fold) : Option Instr :=
  match f.op with
  | 0 =>
    match f.fn with
    | 0 => do zero? f.mod3; zero? f.mod5; some (.tqPush (reg f.a) (reg f.b) (reg f.c))
    | 1 => do zero? f.mod3; zero? f.mod5; some (.tqSpawn (reg f.a) (reg f.b) (reg f.c))
    | 2 => do zero? f.c; zero? f.mod5; let unpin ← flag? f.mod3; some (.tqPin unpin (reg f.a) (reg f.b))
    | 3 => do zero? f.c; zero? f.mod3; zero? f.mod5; some (.tqStat (reg f.a) (reg f.b))
    | _ => Option.none
  | 1 =>
    match f.fn with
    | 0 => do zero? f.b; zero? f.c; zero? f.mod3; zero? f.mod5; some (.tstat (reg f.a))
    | _ => Option.none
  | 2 =>
    match f.fn with
    | 0 => do zero? f.mod3; zero? f.mod5; let v ← reg16? f.b; some (.gtPost (reg f.a) v (reg f.c))
    | 1 => do zero? f.mod3; zero? f.mod5; let v ← reg16? f.b; some (.gtWait (reg f.a) v (reg f.c))
    | 2 => do zero? f.mod3; zero? f.mod5; let v ← reg16? f.b; some (.gtTry (reg f.a) v (reg f.c))
    | 3 => do zero? f.c; zero? f.mod3; zero? f.mod5; some (.gtArrive (reg f.a) (reg f.b))
    | _ => Option.none
  | 3 =>
    match f.fn with
    | 0 => do zero? f.c; zero? f.mod3; zero? f.mod5; some (.gtStat (reg f.a) (reg f.b))
    | 1 => do zero? f.b; zero? f.c; zero? f.mod3; zero? f.mod5; some (.gtOpen (reg f.a))
    | 2 => do zero? f.b; zero? f.c; zero? f.mod3; zero? f.mod5; some (.gtClose (reg f.a))
    | 3 => do zero? f.b; zero? f.c; zero? f.mod5; let rel ← flag? f.mod3; some (.gtHold rel (reg f.a))
    | _ => Option.none
  | _ => Option.none

/-- The instructions of page 9 (R196). -/
def buildPage9 (f : Fold) : Option Instr :=
  match f.op with
  | 0 =>
    match f.fn with
    | 0 => do zero? f.c; zero? f.mod3; let sc ← scope? f.mod5; some (.clWb sc (reg f.a) (reg f.b))
    | 1 => do zero? f.c; zero? f.mod3; let sc ← scope? f.mod5; some (.clInv sc (reg f.a) (reg f.b))
    | 2 => do zero? f.c; zero? f.mod3; zero? f.mod5; some (.clDisc (reg f.a) (reg f.b))
    | _ => Option.none
  | 1 =>
    match f.fn with
    | 0 => do zero? f.c; zero? f.mod3; zero? f.mod5; some (.hrPin (reg f.a) (reg f.b))
    | 1 => do zero? f.c; zero? f.mod3; zero? f.mod5; some (.hrUnpin (reg f.a) (reg f.b))
    | 2 => do zero? f.c; zero? f.mod3; zero? f.mod5; some (.pgProbe (reg f.a) (reg f.b))
    | 3 => do let kind ← kind? f.mod3; let sc ← scope? f.mod5; some (.tlbInv kind sc (reg f.a) (reg f.b) (reg f.c))
    | _ => Option.none
  | 2 =>
    match f.fn with
    | 0 => do zero? f.mod3; zero? f.mod5; some (.ubRsv (reg f.a) (reg f.b) (reg f.c))
    | 1 => do zero? f.mod3; zero? f.mod5; some (.ubRel (reg f.a) (reg f.b) (reg f.c))
    | 2 => do zero? f.mod3; zero? f.mod5; some (.ubMig (reg f.a) (reg f.b) (reg f.c))
    | _ => Option.none
  | _ => Option.none

/-- The instructions of page 10 (R196). -/
def buildPage10 (f : Fold) : Option Instr :=
  match f.op with
  | 0 => do zero? f.b; zero? f.mod3; zero? f.mod5; some (.sysRd (reg f.a) (f.imm))
  | 1 => do zero? f.b; zero? f.mod3; zero? f.mod5; some (.sysWr (reg f.a) (f.imm))
  | 2 =>
    match f.fn with
    | 0 => do zero? f.c; zero? f.mod5; let rom ← flag? f.mod3; some (.tblWr rom (reg f.a) (reg f.b))
    | 1 => do zero? f.c; zero? f.mod3; zero? f.mod5; some (.tblSeal (reg f.a) (reg f.b))
    | 2 => do zero? f.c; zero? f.mod3; zero? f.mod5; some (.capRd (reg f.a) (reg f.b))
    | 3 => do zero? f.mod3; zero? f.mod5; some (.partSet (reg f.a) (reg f.b) (reg f.c))
    | _ => Option.none
  | 3 =>
    match f.fn with
    | 0 => do zero? f.c; zero? f.mod3; zero? f.mod5; some (.slotPark (reg f.a) (reg f.b))
    | 1 => do zero? f.mod5; let new ← flag? f.mod3; some (.slotRun new (reg f.a) (reg f.b) (reg f.c))
    | 2 => do zero? f.mod3; zero? f.mod5; some (.ctxSave (reg f.a) (reg f.b) (reg f.c))
    | 3 => do zero? f.mod3; zero? f.mod5; some (.ctxLoad (reg f.a) (reg f.b) (reg f.c))
    | _ => Option.none
  | 4 =>
    match f.fn with
    | 0 => do zero? f.a; zero? f.b; zero? f.c; zero? f.mod3; zero? f.mod5; some .eret
    | 1 => do zero? f.a; zero? f.b; zero? f.c; zero? f.mod3; zero? f.mod5; some .brk
    | 2 => do zero? f.a; zero? f.b; zero? f.c; zero? f.mod3; zero? f.mod5; some .wfe
    | _ => Option.none
  | 5 => do zero? f.a; zero? f.b; zero? f.mod3; zero? f.mod5; some (.trap (f.imm))
  | 6 =>
    match f.fn with
    | 0 => do zero? f.c; zero? f.mod3; zero? f.mod5; some (.slotScrub (reg f.a) (reg f.b))
    | 1 => do zero? f.c; zero? f.mod3; zero? f.mod5; some (.hbCtlEnable (reg f.a) (reg f.b))
    | 2 => do zero? f.c; zero? f.mod3; zero? f.mod5; some (.hbStat (reg f.a) (reg f.b))
    | _ => Option.none
  | _ => Option.none

/-- The instruction of an occupied cell (R196), before its operand limits are checked. -/
def buildCell (f : Fold) : Option Instr :=
  match f.page with
  | 0 => buildPage0 f
  | 1 => buildPage1 f
  | 2 => buildPage2 f
  | 3 => buildPage3 f
  | 4 => buildPage4 f
  | 5 => buildPage5 f
  | 6 => buildPage6 f
  | 7 => buildPage7 f
  | 8 => buildPage8 f
  | 9 => buildPage9 f
  | 10 => buildPage10 f
  | _ => Option.none

/-- Steps 4 and 5 of R191, the queue directions apart: the instruction that the fields name, if its operands
and modifiers are ones that its entry allows. -/
def build (f : Fold) : Option Instr :=
  match buildCell f with
  | some i => if i.wf then some i else Option.none
  | Option.none => Option.none

/-- Steps 2 to 5 of R191 on the split chain. -/
def decodeSplit (p : Prefixes) (x : Nat) : Except DecodeError (Instr × Fold) :=
  let page := fieldOf (p.page.getD 0) 8 5
  let op := fieldOf x 15 11
  match cellShape page op with
  | Option.none => .error .illegalOpcode
  | some (fmt, n) =>
    let fn := fieldOf x 4 3
    if fmt = .r ∧ n ≤ fn then .error .illegalOpcode
    else if prefixesUsed p page op fn fmt then
      let f := foldOf p x page op fn fmt
      match build f with
      | some i => .ok (i, f)
      | Option.none => .error .illegalOpcode
    else .error .illegalPrefix

/-- Decodes a chain whose first word heads the list; words after the base word are not read. -/
def decodeNats (ws : List Nat) : Except DecodeError Chain :=
  match splitChain 4 Prefixes.none ws with
  | .error e => .error e
  | .ok (p, x) =>
    match decodeSplit p x with
    | .error e => .error e
    | .ok (i, f) => .ok { instr := i, fold := f, len := 2 * (p.count + 1) }

/-- Decodes a chain of instruction words. -/
def decodeWords (ws : List Half) : Except DecodeError Chain := decodeNats (ws.map BitVec.toNat)

/-- The half-words of bytes, each little-endian (R185). -/
def halves : List Byte → List Nat
  | a :: b :: bs => (a.toNat + 256 * b.toNat) :: halves bs
  | _ => []

/-- Decodes a chain from bytes at ascending addresses. Total: any bytes give a chain or a named refusal. -/
def decodeBytes (bs : List Byte) : Except DecodeError Chain := decodeNats (halves bs)

/-! ### The encoder -/

/-- The fields of an R-format instruction. -/
def foldR (page op fn a b c mod3 mod5 : Nat) : Fold :=
  { page := page, op := op, fn := fn, a := a, b := b, c := c, mod3 := mod3, mod5 := mod5, imm := 0, w := 0, guard := Option.none }

/-- The fewest EXT-I words with which a signed value fits a format (R198). -/
def extNeedS (base : Nat) (v : Int) : Nat :=
  if fitsS base v then 0 else if fitsS (base + 9) v then 1 else if fitsS (base + 18) v then 2 else 3

/-- The fewest EXT-I words with which an unsigned value fits a format (R198). -/
def extNeedU (base v : Nat) : Nat :=
  if v < 2 ^ base then 0 else if v < 2 ^ (base + 9) then 1 else if v < 2 ^ (base + 18) then 2 else 3

/-- The fields of an I-, B- or J-format instruction with a signed immediate. -/
def foldS (fmt : Fmt) (page op a b mod3 mod5 : Nat) (v : Int) : Fold :=
  let w := fmt.base + 9 * extNeedS fmt.base v
  { page := page, op := op, fn := 0, a := a, b := b, c := 0, mod3 := mod3, mod5 := mod5
    imm := (v % 2 ^ w).toNat, w := w, guard := Option.none }

/-- The fields of an I-format instruction with an unsigned immediate. -/
def foldU (page op a b mod3 mod5 v : Nat) : Fold :=
  { page := page, op := op, fn := 0, a := a, b := b, c := 0, mod3 := mod3, mod5 := mod5
    imm := v, w := 5 + 9 * extNeedU 5 v, guard := Option.none }

/-- The folded fields of an instruction without a guard, with the fewest EXT-I words; none for a step that has
no instruction word. -/
def toFold : Instr → Option Fold
  | .powerOnSelfTest _ _ => Option.none
  | .lcreqWrite _ => Option.none
  | .thermalWarn _ _ => Option.none
  | .thermalTrip _ _ => Option.none
  | .overpwr _ => Option.none
  | .registerWrite _ _ => Option.none
  | .scanTick => Option.none
  | .coreTick => Option.none
  | .beat => Option.none
  | .scancfgWrite _ => Option.none
  | .scannumWrite _ => Option.none
  | .holdover => Option.none
  | .slew _ => Option.none
  | .tsnFrameReceive _ _ _ => Option.none
  | .qbvChange _ _ => Option.none
  | .qbvListActivate _ => Option.none
  | .qbvGateIntervalEnd _ => Option.none
  | .streamGateChange _ _ => Option.none
  | .streamGateListActivate _ => Option.none
  | .gptpTimeLatch _ => Option.none
  | .egressFrameSend _ => Option.none
  | .pisplitWrite _ => Option.none
  | .pibindWrite _ _ => Option.none
  | .escfgWrite _ _ => Option.none
  | .eshdrWrite _ _ _ => Option.none
  | .resultViewWrite _ _ => Option.none
  | .sensorFrameReceive _ _ _ => Option.none
  | .spcfgWrite _ _ => Option.none
  | .spcfgClr _ => Option.none
  | .skeinRecordCheck _ => Option.none
  | .stagingAllocate _ => Option.none
  | .decodeComplete _ _ => Option.none
  | .slowLaneMove _ => Option.none
  | .slowDecodeEnd _ => Option.none
  | .loomStage _ _ => Option.none
  | .lectlWrite _ _ _ => Option.none
  | .stageWordWrite _ _ _ _ => Option.none
  | .lxcfgWrite _ _ => Option.none
  | .lxdstWrite _ _ => Option.none
  | .exitRowComplete _ => Option.none
  | .batchwaitExpiry _ => Option.none
  | .metadataTimeout _ => Option.none
  | .batchDeliver _ => Option.none
  | .swcfgWrite _ _ _ => Option.none
  | .swrelWrite _ _ _ _ => Option.none
  | .freeCountUpdate _ => Option.none
  | .dramReadReturn _ _ _ => Option.none
  | .dramWrite _ _ _ _ _ => Option.none
  | .dramPatrol _ _ _ => Option.none
  | .sramPatrol _ _ _ _ _ => Option.none
  | .pageWalk _ _ _ _ _ => Option.none
  | .shootdownDebit _ => Option.none
  | .sliceRead _ _ => Option.none
  | .sliceStoreRequest _ _ => Option.none
  | .sliceWriteBack _ _ => Option.none
  | .crossDieRead _ _ => Option.none
  | .crossDieWrite _ _ _ => Option.none
  | .attr1Access _ _ _ _ => Option.none
  | .recallResponse _ _ => Option.none
  | .sectorFill _ _ => Option.none
  | .redApply _ _ _ _ _ _ => Option.none
  | .hgathServe _ _ _ _ _ => Option.none
  | .amoReserve _ _ => Option.none
  | .amoGrant _ => Option.none
  | .amoRelease _ _ _ _ => Option.none
  | .amoWithdraw _ => Option.none
  | .lateAttach _ _ _ _ => Option.none
  | .holdingBufferEntry _ => Option.none
  | .unbackedEvict _ => Option.none
  | .sliceRetire _ => Option.none
  | .lmWipeDone _ _ => Option.none
  | .carterChunk _ => Option.none
  | .pisteInject _ => Option.none
  | .pisteArrival _ _ => Option.none
  | .messageArrival _ => Option.none
  | .messageTimeout _ => Option.none
  | .bounceArrival _ => Option.none
  | .treePacketArrival _ _ => Option.none
  | .treeTimeout _ _ => Option.none
  | .ringTileArrival _ _ => Option.none
  | .sealComplete _ _ => Option.none
  | .engineTurn _ => Option.none
  | .matrixStepComplete _ => Option.none
  | .treadleReplayIssue _ => Option.none
  | .launchOpen _ _ _ _ => Option.none
  | .packetTake _ _ _ _ => Option.none
  | .packetEligible _ _ _ _ => Option.none
  | .taskBind _ _ => Option.none
  | .queueMiss _ _ _ _ => Option.none
  | .launchSweep => Option.none
  | .deferredLaunchEnd _ _ => Option.none
  | .budgetEnd _ => Option.none
  | .watchdog _ => Option.none
  | .preemptRequest _ => Option.none
  | .faultRecordWrite _ => Option.none
  | .deferredFault _ => Option.none
  | .fqheadWrite _ _ => Option.none
  | .tsCreditAccrue => Option.none
  | .tsSliceEnd => Option.none
  | .tsSwitchComplete => Option.none
  | .partitionReset _ => Option.none
  | .resetDrainEnd _ => Option.none
  | .gateTableWrite _ _ _ => Option.none
  | .gateTokenRefill _ _ => Option.none
  | .bridgedGateOp _ => Option.none
  | .remapWrite _ => Option.none
  | .remapDone => Option.none
  | .lmfenceWrite _ _ => Option.none
  | .rebind _ _ => Option.none
  | .replayComplete _ => Option.none
  | .replayDrop _ => Option.none
  | .heartbeatPost _ => Option.none
  | .heartbeatPeriodClose _ => Option.none
  | .offlineComplete _ => Option.none
  | .spdmGetVersion _ _ => Option.none
  | .spdmGetCapabilities _ _ => Option.none
  | .spdmNegotiateAlgorithms _ _ => Option.none
  | .spdmGetDigests _ _ => Option.none
  | .spdmGetCertificate _ _ => Option.none
  | .spdmChallenge _ _ => Option.none
  | .spdmGetMeasurements _ _ _ => Option.none
  | .spdmUnsupportedRequest _ _ => Option.none
  | .dataWindowWrite _ _ _ => Option.none
  | .dataWindowRead _ _ _ => Option.none
  | .unsupportedRequest _ _ _ => Option.none
  | .hwinWrite _ _ => Option.none
  | .doorbell _ _ => Option.none
  | .hostirqWrite _ => Option.none
  | .vfFlr _ => Option.none
  | .sccmdPark _ => Option.none
  | .sccmdRun _ => Option.none
  | .sccmdRunNew _ _ _ => Option.none
  | .sccmdSave _ _ => Option.none
  | .sccmdLoad _ _ => Option.none
  | .sccmdScrub _ => Option.none
  | .setstack _ _ => Option.none
  | .syncLinkDown => Option.none
  | .syncLinkUp => Option.none
  | .pairFrameSend => Option.none
  | .pairFrameReceive _ _ => Option.none
  | .mirrorLineLand _ _ _ _ => Option.none
  | .add d a b => some (foldR 0 0 0 d.val a.val b.val 0 0)
  | .sub d a b => some (foldR 0 0 1 d.val a.val b.val 0 0)
  | .and d a b => some (foldR 0 0 2 d.val a.val b.val 0 0)
  | .or d a b => some (foldR 0 0 3 d.val a.val b.val 0 0)
  | .xor d a b => some (foldR 0 1 0 d.val a.val b.val 0 0)
  | .andn d a b => some (foldR 0 1 1 d.val a.val b.val 0 0)
  | .shl d a b => some (foldR 0 1 2 d.val a.val b.val 0 0)
  | .shr d a b => some (foldR 0 1 3 d.val a.val b.val 0 0)
  | .sar d a b => some (foldR 0 2 0 d.val a.val b.val 0 0)
  | .mul d a b => some (foldR 0 2 1 d.val a.val b.val 0 0)
  | .min d a b => some (foldR 0 2 2 d.val a.val b.val 0 0)
  | .max d a b => some (foldR 0 2 3 d.val a.val b.val 0 0)
  | .mov d a => some (foldR 0 3 0 d.val a.val 0 0 0)
  | .jmpi a => some (foldR 0 3 1 a.val 0 0 0 0)
  | .calli a => some (foldR 0 3 2 a.val 0 0 0 0)
  | .ret => some (foldR 0 3 3 0 0 0 0 0)
  | .nop => some (foldR 0 4 0 0 0 0 0 0)
  | .tend => some (foldR 0 4 1 0 0 0 0 0)
  | .addi d a imm => some (foldS .i 0 5 d.val a.val 0 0 imm)
  | .movi d imm => some (foldS .i 0 6 d.val 0 0 0 imm)
  | .ldZ8 d a imm => some (foldS .i 0 7 d.val a.val 0 0 imm)
  | .ldZ16 d a imm => some (foldS .i 0 8 d.val a.val 0 0 imm)
  | .ldZ32 d a imm => some (foldS .i 0 9 d.val a.val 0 0 imm)
  | .ldZ64 d a imm => some (foldS .i 0 10 d.val a.val 0 0 imm)
  | .ldS8 d a imm => some (foldS .i 0 11 d.val a.val 0 0 imm)
  | .ldS16 d a imm => some (foldS .i 0 12 d.val a.val 0 0 imm)
  | .ldS32 d a imm => some (foldS .i 0 13 d.val a.val 0 0 imm)
  | .stZ8 d a imm => some (foldS .i 0 14 d.val a.val 0 0 imm)
  | .stZ16 d a imm => some (foldS .i 0 15 d.val a.val 0 0 imm)
  | .stZ32 d a imm => some (foldS .i 0 16 d.val a.val 0 0 imm)
  | .stZ64 d a imm => some (foldS .i 0 17 d.val a.val 0 0 imm)
  | .ldLZ64 d a imm => some (foldS .i 0 18 d.val a.val 0 0 imm)
  | .stLZ64 d a imm => some (foldS .i 0 19 d.val a.val 0 0 imm)
  | .br c sense off => some (foldS .b 0 20 c.val sense.toNat 0 0 off)
  | .jmp off => some (foldS .j 0 21 0 0 0 0 off)
  | .call off => some (foldS .j 0 22 0 0 0 0 off)
  | .sig imm => some ({ foldU 0 23 0 0 0 0 imm with w := 20 })
  | .loop g off => some (foldS .i 0 24 g.val 0 0 0 off)
  | .mulh d a b => some (foldR 1 0 0 d.val a.val b.val 0 0)
  | .mulhz d a b => some (foldR 1 0 1 d.val a.val b.val 0 0)
  | .div d a b => some (foldR 1 0 2 d.val a.val b.val 0 0)
  | .divz d a b => some (foldR 1 0 3 d.val a.val b.val 0 0)
  | .rem d a b => some (foldR 1 1 0 d.val a.val b.val 0 0)
  | .remz d a b => some (foldR 1 1 1 d.val a.val b.val 0 0)
  | .minz d a b => some (foldR 1 1 2 d.val a.val b.val 0 0)
  | .maxz d a b => some (foldR 1 1 3 d.val a.val b.val 0 0)
  | .rol d a b => some (foldR 1 2 0 d.val a.val b.val 0 0)
  | .clz d a => some (foldR 1 2 1 d.val a.val 0 0 0)
  | .ctz d a => some (foldR 1 2 2 d.val a.val 0 0 0)
  | .popc d a => some (foldR 1 2 3 d.val a.val 0 0 0)
  | .brev d a => some (foldR 1 3 0 d.val a.val 0 0 0)
  | .bswap d a => some (foldR 1 3 1 d.val a.val 0 0 0)
  | .sext t d a => some (foldR 1 3 2 d.val a.val 0 0 t.code)
  | .zext t d a => some (foldR 1 3 3 d.val a.val 0 0 t.code)
  | .shli d a imm => some (foldU 1 4 d.val a.val 0 0 imm)
  | .shri d a imm => some (foldU 1 5 d.val a.val 0 0 imm)
  | .sari d a imm => some (foldU 1 6 d.val a.val 0 0 imm)
  | .roli d a imm => some (foldU 1 7 d.val a.val 0 0 imm)
  | .bfx d a imm => some (foldU 1 8 d.val a.val 0 0 imm)
  | .bfi d a imm => some (foldU 1 9 d.val a.val 0 0 imm)
  | .cmp rel d a b => some (foldR 1 10 0 d.val a.val b.val 0 rel.code)
  | .cmpi rel d a imm => some (if rel.unsigned then foldU 1 11 d.val a.val 0 rel.code imm.toNat else foldS .i 1 11 d.val a.val 0 rel.code imm)
  | .sel c d a b => some (foldR 1 12 0 d.val a.val b.val 0 c.val)
  | .lea sh d a b => some (foldR 1 12 1 d.val a.val b.val sh.val 0)
  | .pand d x y => some (foldR 1 13 0 d.val x.val y.val 0 0)
  | .por d x y => some (foldR 1 13 1 d.val x.val y.val 0 0)
  | .pxor d x y => some (foldR 1 13 2 d.val x.val y.val 0 0)
  | .pnot d x => some (foldR 1 13 3 d.val x.val 0 0 0)
  | .pmov d x => some (foldR 1 14 0 d.val x.val 0 0 0)
  | .ldL t d a imm => some (foldS .i 2 0 d.val a.val 0 t.code imm)
  | .stL t d a imm => some (foldS .i 2 1 d.val a.val 0 t.code imm)
  | .ldt scanOnly d a b => some (foldR 2 2 0 d.val a.val b.val scanOnly.toNat 0)
  | .stt a b => some (foldR 2 2 1 a.val b.val 0 0 0)
  | .vld lm v a => some (foldR 2 3 0 v.val a.val 0 lm.toNat 0)
  | .vst lm v a => some (foldR 2 3 1 v.val a.val 0 lm.toNat 0)
  | .vlds lm t v a b => some (foldR 2 3 2 v.val a.val b.val lm.toNat t.code)
  | .vgath lm t v a x => some (foldR 2 3 3 v.val a.val x.val lm.toNat t.code)
  | .vscat lm t v a x => some (foldR 2 4 0 v.val a.val x.val lm.toNat t.code)
  | .pref home a => some (foldR 2 4 1 a.val 0 0 home.toNat 0)
  | .amoSwap o sc w32 d a b => some (foldR 2 5 0 d.val a.val b.val w32.toNat (o.code * 8 + sc.code))
  | .amoCas o sc w32 d a b => some (foldR 2 5 1 d.val a.val b.val w32.toNat (o.code * 8 + sc.code))
  | .amoFadd o sc w32 d a b => some (foldR 2 5 2 d.val a.val b.val w32.toNat (o.code * 8 + sc.code))
  | .amoFand o sc w32 d a b => some (foldR 2 5 3 d.val a.val b.val w32.toNat (o.code * 8 + sc.code))
  | .amoFor o sc w32 d a b => some (foldR 2 6 0 d.val a.val b.val w32.toNat (o.code * 8 + sc.code))
  | .amoFxor o sc w32 d a b => some (foldR 2 6 1 d.val a.val b.val w32.toNat (o.code * 8 + sc.code))
  | .amoFmin o sc w32 d a b => some (foldR 2 6 2 d.val a.val b.val w32.toNat (o.code * 8 + sc.code))
  | .amoFmax o sc w32 d a b => some (foldR 2 6 3 d.val a.val b.val w32.toNat (o.code * 8 + sc.code))
  | .amoFminz o sc w32 d a b => some (foldR 2 18 0 d.val a.val b.val w32.toNat (o.code * 8 + sc.code))
  | .amoFmaxz o sc w32 d a b => some (foldR 2 18 1 d.val a.val b.val w32.toNat (o.code * 8 + sc.code))
  | .hgath v a b => some (foldR 2 18 2 v.val a.val b.val 0 0)
  | .ldZ8Ordered o sc d a imm => some (foldS .i 2 7 d.val a.val 0 (o.code * 8 + sc.code) imm)
  | .ldZ16Ordered o sc d a imm => some (foldS .i 2 8 d.val a.val 0 (o.code * 8 + sc.code) imm)
  | .ldZ32Ordered o sc d a imm => some (foldS .i 2 9 d.val a.val 0 (o.code * 8 + sc.code) imm)
  | .ldZ64Ordered o sc d a imm => some (foldS .i 2 10 d.val a.val 0 (o.code * 8 + sc.code) imm)
  | .ldS8Ordered o sc d a imm => some (foldS .i 2 11 d.val a.val 0 (o.code * 8 + sc.code) imm)
  | .ldS16Ordered o sc d a imm => some (foldS .i 2 12 d.val a.val 0 (o.code * 8 + sc.code) imm)
  | .ldS32Ordered o sc d a imm => some (foldS .i 2 13 d.val a.val 0 (o.code * 8 + sc.code) imm)
  | .stZ8Ordered o sc d a imm => some (foldS .i 2 14 d.val a.val 0 (o.code * 8 + sc.code) imm)
  | .stZ16Ordered o sc d a imm => some (foldS .i 2 15 d.val a.val 0 (o.code * 8 + sc.code) imm)
  | .stZ32Ordered o sc d a imm => some (foldS .i 2 16 d.val a.val 0 (o.code * 8 + sc.code) imm)
  | .stZ64Ordered o sc d a imm => some (foldS .i 2 17 d.val a.val 0 (o.code * 8 + sc.code) imm)
  | .redAdd o sc w32 a b => some (foldR 2 19 0 a.val b.val 0 w32.toNat (o.code * 8 + sc.code))
  | .redAnd o sc w32 a b => some (foldR 2 19 1 a.val b.val 0 w32.toNat (o.code * 8 + sc.code))
  | .redOr o sc w32 a b => some (foldR 2 19 2 a.val b.val 0 w32.toNat (o.code * 8 + sc.code))
  | .redXor o sc w32 a b => some (foldR 2 19 3 a.val b.val 0 w32.toNat (o.code * 8 + sc.code))
  | .redMin o sc w32 a b => some (foldR 2 20 0 a.val b.val 0 w32.toNat (o.code * 8 + sc.code))
  | .redMax o sc w32 a b => some (foldR 2 20 1 a.val b.val 0 w32.toNat (o.code * 8 + sc.code))
  | .redMinz o sc w32 a b => some (foldR 2 20 2 a.val b.val 0 w32.toNat (o.code * 8 + sc.code))
  | .redMaxz o sc w32 a b => some (foldR 2 20 3 a.val b.val 0 w32.toNat (o.code * 8 + sc.code))
  | .redFadd o sc a b => some (foldR 2 21 0 a.val b.val 0 1 (o.code * 8 + sc.code))
  | .barArr d a => some (foldR 3 0 0 d.val a.val 0 0 0)
  | .barWait a b => some (foldR 3 0 1 a.val b.val 0 0 0)
  | .barAw d a => some (foldR 3 0 2 d.val a.val 0 0 0)
  | .barExp dereg d a => some (foldR 3 0 3 d.val a.val 0 dereg.toNat 0)
  | .barInit sc a b c => some (foldR 3 1 0 a.val b.val c.val 0 sc.code)
  | .fence o sc => some (foldR 3 1 1 0 0 0 0 (o.code * 8 + sc.code))
  | .evtAdd sc a b => some (foldR 3 1 2 a.val b.val 0 0 sc.code)
  | .evtWait sc a b => some (foldR 3 1 3 a.val b.val 0 0 sc.code)
  | .evtWatchWake _ => Option.none
  | .evtWaitPoll _ => Option.none
  | .wait all d a b => some (foldR 3 2 0 d.val a.val b.val 0 all.toNat)
  | .waitWake _ => Option.none
  | .realign beat d => some (foldR 3 2 1 d.val 0 0 beat.toNat 0)
  | .qstat tree d a => some (foldR 3 2 2 d.val a.val 0 tree.toNat 0)
  | .msgSend o sc a b => some (foldR 3 3 0 a.val b.val 0 0 (o.code * 8 + sc.code))
  | .msgInfo d => some (foldR 3 3 1 d.val 0 0 0 0)
  | .redPkt v a b => some (foldR 3 3 2 v.val a.val b.val 0 0)
  | .redRecv miss v d a => some (foldR 3 3 3 v.val d.val a.val miss.toNat 0)
  | .rteSet a b => some (foldR 3 4 0 a.val b.val 0 0 0)
  | .treeSet a b => some (foldR 3 4 1 a.val b.val 0 0 0)
  | .vAdd sat t d a b => some (foldR 4 0 0 d.val a.val b.val sat.toNat t.code)
  | .vSub sat t d a b => some (foldR 4 0 1 d.val a.val b.val sat.toNat t.code)
  | .vMul t d a b => some (foldR 4 0 2 d.val a.val b.val 0 t.code)
  | .vFma d a b => some (foldR 4 0 3 d.val a.val b.val 0 0)
  | .vFms d a b => some (foldR 4 1 0 d.val a.val b.val 0 0)
  | .vMin t d a b => some (foldR 4 1 1 d.val a.val b.val 0 t.code)
  | .vMax t d a b => some (foldR 4 1 2 d.val a.val b.val 0 t.code)
  | .vAbs sat t d a => some (foldR 4 1 3 d.val a.val 0 sat.toNat t.code)
  | .vNeg sat t d a => some (foldR 4 2 0 d.val a.val 0 sat.toNat t.code)
  | .vRcp d a => some (foldR 4 2 1 d.val a.val 0 0 0)
  | .vRsq d a => some (foldR 4 2 2 d.val a.val 0 0 0)
  | .vSqrt d a => some (foldR 4 2 3 d.val a.val 0 0 0)
  | .vExp2 d a => some (foldR 4 3 0 d.val a.val 0 0 0)
  | .vLog2 d a => some (foldR 4 3 1 d.val a.val 0 0 0)
  | .vAnd d a b => some (foldR 4 4 0 d.val a.val b.val 0 0)
  | .vOr d a b => some (foldR 4 4 1 d.val a.val b.val 0 0)
  | .vXor d a b => some (foldR 4 4 2 d.val a.val b.val 0 0)
  | .vAndn d a b => some (foldR 4 4 3 d.val a.val b.val 0 0)
  | .vShl t d a b => some (foldR 4 5 0 d.val a.val b.val 0 t.code)
  | .vShr t d a b => some (foldR 4 5 1 d.val a.val b.val 0 t.code)
  | .vSar t d a b => some (foldR 4 5 2 d.val a.val b.val 0 t.code)
  | .vCmp rel t d a b => some (foldR 4 6 0 d.val a.val b.val rel.code t.code)
  | .vSel d a b => some (foldR 4 6 1 d.val a.val b.val 0 0)
  | .vRedAdd t d a => some (foldR 4 7 0 d.val a.val 0 0 t.code)
  | .vRedMin t d a => some (foldR 4 7 1 d.val a.val 0 0 t.code)
  | .vRedMax t d a => some (foldR 4 7 2 d.val a.val 0 0 t.code)
  | .vBcast t d a => some (foldR 5 0 0 d.val a.val 0 0 t.code)
  | .vExt t d a b => some (foldR 5 0 1 d.val a.val b.val 0 t.code)
  | .vIns t d a b => some (foldR 5 0 2 d.val a.val b.val 0 t.code)
  | .vPerm d a b => some (foldR 5 0 3 d.val a.val b.val 0 0)
  | .vCvt dst src d a => some (foldR 5 1 0 d.val a.val 0 (src.code % 8) (dst.code + src.code / 8 * 16))
  | .vScl inv d a b => some (foldR 5 1 1 d.val a.val b.val inv.toNat 0)
  | .vPack dst src d a b => some (foldR 5 1 2 d.val a.val b.val (src.code % 8) (dst.code + src.code / 8 * 16))
  | .vUnpk dst src d a h => some (foldR 5 1 3 d.val a.val h.val (src.code % 8) (dst.code + src.code / 8 * 16))
  | .vDec8 d a h => some (foldR 5 2 0 d.val a.val h.val 0 0)
  | .vEnc8 d a h => some (foldR 5 2 1 d.val a.val h.val 0 0)
  | .vDec4 d a h => some (foldR 5 2 2 d.val a.val h.val 0 0)
  | .vEnc4 d a h => some (foldR 5 2 3 d.val a.val h.val 0 0)
  | .mClr m => some (foldR 6 0 0 m.val 0 0 0 0)
  | .mLatch a b => some (foldR 6 0 1 a.val b.val 0 0 0)
  | .mStep disp m a b => some (foldR 6 0 2 m.val a.val b.val disp.code 0)
  | .mLocal m a b => some (foldR 6 0 3 m.val a.val b.val 0 0)
  | .mPass => some (foldR 6 1 0 0 0 0 0 0)
  | .mRd v m b => some (foldR 6 1 1 v.val m.val b.val 0 0)
  | .mWr m v b => some (foldR 6 1 2 m.val v.val b.val 0 0)
  | .mRing leave d a b => some (foldR 6 1 3 d.val a.val b.val leave.toNat 0)
  | .mStat d => some (foldR 6 2 0 d.val 0 0 0 0)
  | .mSync => some (foldR 6 2 1 0 0 0 0 0)
  | .trDef imm => some (foldU 6 3 0 0 0 0 imm)
  | .trGo a imm => some (foldU 6 4 a.val 0 0 0 imm)
  | .trWait d => some (foldR 6 5 0 d.val 0 0 0 0)
  | .trStop d => some (foldR 6 5 1 d.val 0 0 0 0)
  | .cpG2L a b c => some (foldR 7 0 0 a.val b.val c.val 0 0)
  | .cpL2G a b c => some (foldR 7 0 1 a.val b.val c.val 0 0)
  | .cpL2L a b c => some (foldR 7 0 2 a.val b.val c.val 0 0)
  | .cpG2G a b c => some (foldR 7 0 3 a.val b.val c.val 0 0)
  | .cpFill a b c => some (foldR 7 1 0 a.val b.val c.val 0 0)
  | .cp2D a b c => some (foldR 7 1 1 a.val b.val c.val 0 0)
  | .cpStat d => some (foldR 7 1 2 d.val 0 0 0 0)
  | .cpAbort => some (foldR 7 1 3 0 0 0 0 0)
  | .tqPush d a b => some (foldR 8 0 0 d.val a.val b.val 0 0)
  | .tqSpawn d a b => some (foldR 8 0 1 d.val a.val b.val 0 0)
  | .tqPin unpin d a => some (foldR 8 0 2 d.val a.val 0 unpin.toNat 0)
  | .tqStat d a => some (foldR 8 0 3 d.val a.val 0 0 0)
  | .tstat d => some (foldR 8 1 0 d.val 0 0 0 0)
  | .gtPost d v a => some (foldR 8 2 0 d.val v.val a.val 0 0)
  | .gtWait d v a => some (foldR 8 2 1 d.val v.val a.val 0 0)
  | .gtTry d v a => some (foldR 8 2 2 d.val v.val a.val 0 0)
  | .gtArrive d a => some (foldR 8 2 3 d.val a.val 0 0 0)
  | .gtStat d a => some (foldR 8 3 0 d.val a.val 0 0 0)
  | .gtOpen a => some (foldR 8 3 1 a.val 0 0 0 0)
  | .gtClose a => some (foldR 8 3 2 a.val 0 0 0 0)
  | .gtHold rel a => some (foldR 8 3 3 a.val 0 0 rel.toNat 0)
  | .clWb sc a b => some (foldR 9 0 0 a.val b.val 0 0 sc.code)
  | .clInv sc a b => some (foldR 9 0 1 a.val b.val 0 0 sc.code)
  | .clDisc a b => some (foldR 9 0 2 a.val b.val 0 0 0)
  | .hrPin d a => some (foldR 9 1 0 d.val a.val 0 0 0)
  | .hrUnpin d a => some (foldR 9 1 1 d.val a.val 0 0 0)
  | .pgProbe d a => some (foldR 9 1 2 d.val a.val 0 0 0)
  | .tlbInv kind sc a b c => some (foldR 9 1 3 a.val b.val c.val kind.code sc.code)
  | .ubRsv d a b => some (foldR 9 2 0 d.val a.val b.val 0 0)
  | .ubRel d a b => some (foldR 9 2 1 d.val a.val b.val 0 0)
  | .ubMig d a b => some (foldR 9 2 2 d.val a.val b.val 0 0)
  | .sysRd d n => some (foldU 10 0 d.val 0 0 0 n)
  | .sysWr a n => some (foldU 10 1 a.val 0 0 0 n)
  | .tblWr rom a b => some (foldR 10 2 0 a.val b.val 0 rom.toNat 0)
  | .tblSeal d a => some (foldR 10 2 1 d.val a.val 0 0 0)
  | .capRd d a => some (foldR 10 2 2 d.val a.val 0 0 0)
  | .partSet d a b => some (foldR 10 2 3 d.val a.val b.val 0 0)
  | .slotPark d a => some (foldR 10 3 0 d.val a.val 0 0 0)
  | .slotRun new d a b => some (foldR 10 3 1 d.val a.val b.val new.toNat 0)
  | .ctxSave d a b => some (foldR 10 3 2 d.val a.val b.val 0 0)
  | .ctxLoad d a b => some (foldR 10 3 3 d.val a.val b.val 0 0)
  | .eret => some (foldR 10 4 0 0 0 0 0 0)
  | .brk => some (foldR 10 4 1 0 0 0 0 0)
  | .wfe => some (foldR 10 4 2 0 0 0 0 0)
  | .trap imm => some (foldU 10 5 0 0 0 0 imm)
  | .slotScrub d a => some (foldR 10 6 0 d.val a.val 0 0 0)
  | .hbCtlEnable a b => some (foldR 10 6 1 a.val b.val 0 0 0)
  | .hbCtlDisable a b => some (foldR 10 6 1 a.val b.val 0 0 0)
  | .hbCtlClear a b => some (foldR 10 6 1 a.val b.val 0 0 0)
  | .hbCtlOffline a b => some (foldR 10 6 1 a.val b.val 0 0 0)
  | .hbCtlOnline a b => some (foldR 10 6 1 a.val b.val 0 0 0)
  | .hbStat d a => some (foldR 10 6 2 d.val a.val 0 0 0)
  | .conventionalReset => Option.none
  | .pf0Flr => Option.none
  | .doeDiscovery _ _ => Option.none
  | .illegalOpcode _ => Option.none
  | .instructionFetchFault _ _ _ => Option.none
  | .recoveryResetTimeout _ => Option.none
  | .streamGateIntervalEnd _ => Option.none
  | .gptpSyncTransmit _ => Option.none
  | .safeFrames => Option.none

/-- The EXT-I words of an immediate whose base field is `base` bits wide (R198). -/
def extWords (base imm : Nat) : Nat → List Nat
  | 0 => []
  | n + 1 => (0xF800 + imm / 2 ^ (base + 9 * n) % 512) :: extWords base imm n

/-- The words of folded fields, prefixes in the order PAGE, EXT-R, GUARD, EXT-I (R198). -/
def Fold.words (f : Fold) : List Nat :=
  match cellShape f.page f.op with
  | Option.none => []
  | some (fmt, _) =>
    let r := f.a / 8 * 128 + (match fmt with | .b => 0 | _ => f.b / 8 * 32) + f.c / 8 * 8 + f.mod3
    (if f.page = 0 then [] else [0xFC00 + 32 * f.page + f.mod5]) ++
    (if r = 0 then [] else [0xFA00 + r]) ++
    (match f.guard with
     | some g => [0xFE00 + (if g.inv then 128 else 0) + 4 * g.cond.val]
     | Option.none => []) ++
    extWords fmt.base f.imm ((f.w - fmt.base) / 9) ++
    [f.op * 2048 +
      (match fmt with
       | .r => f.a % 8 * 256 + f.b % 8 * 32 + f.fn * 8 + f.c % 8
       | .i => f.a % 8 * 256 + f.b % 8 * 32 + f.imm % 32
       | .b => f.a % 8 * 256 + f.b * 128 + f.imm % 128
       | .j => f.imm % 2048)]

/-- The words of an instruction, with a guard or without, as `pbd-as` writes them (R198). -/
def encodeGuarded (g : Option Guard) (i : Instr) : List Half :=
  match toFold i with
  | some f => ({ f with guard := g }).words.map (BitVec.ofNat 16)
  | Option.none => []

/-- The words of an instruction without a guard. -/
def encode (i : Instr) : List Half := encodeGuarded Option.none i

/-- The instruction that the decoder reads from `nbits` bits numbered as the opcode table numbers them: the table
gives a PAGE or EXT-I prefix, the word at the lower address, the higher bits. -/
def decodeTableWord (nbits w : Nat) : Option Instr :=
  match decodeNats (((List.range (nbits / 16)).map (fun k => w / 2 ^ (16 * (nbits / 16 - 1 - k)) % 65536)) ++ [0]) with
  | .ok c => some c.instr
  | .error _ => Option.none

end Sys2Proof
end

