-- ==== Sys2Proof/Machine/Operands.lean ====
section
/-! DEFINITION. The operands that each instruction names: their signature bytes (R203), the scalar registers it reads
and writes (R156), its port and privilege (R191, R263), and the conditions under which it may issue. -/

namespace Sys2Proof.Machine

/-- The signature bytes of an instruction's register operands in assembly order: class × 32 plus number, classes
0 scalar, 1 predicate, 2 condition, 3 vector, 4 accumulator (R203). -/
def operandBytes : Instr → List Nat
  | .add d a b => [d.val, a.val, b.val]
  | .sub d a b => [d.val, a.val, b.val]
  | .and d a b => [d.val, a.val, b.val]
  | .or d a b => [d.val, a.val, b.val]
  | .xor d a b => [d.val, a.val, b.val]
  | .andn d a b => [d.val, a.val, b.val]
  | .shl d a b => [d.val, a.val, b.val]
  | .shr d a b => [d.val, a.val, b.val]
  | .sar d a b => [d.val, a.val, b.val]
  | .mul d a b => [d.val, a.val, b.val]
  | .min d a b => [d.val, a.val, b.val]
  | .max d a b => [d.val, a.val, b.val]
  | .mov d a => [d.val, a.val]
  | .jmpi a => [a.val]
  | .calli a => [a.val]
  | .addi d a _ => [d.val, a.val]
  | .movi d _ => [d.val]
  | .ldZ8 d a _ => [d.val, a.val]
  | .ldZ16 d a _ => [d.val, a.val]
  | .ldZ32 d a _ => [d.val, a.val]
  | .ldZ64 d a _ => [d.val, a.val]
  | .ldS8 d a _ => [d.val, a.val]
  | .ldS16 d a _ => [d.val, a.val]
  | .ldS32 d a _ => [d.val, a.val]
  | .stZ8 d a _ => [d.val, a.val]
  | .stZ16 d a _ => [d.val, a.val]
  | .stZ32 d a _ => [d.val, a.val]
  | .stZ64 d a _ => [d.val, a.val]
  | .ldLZ64 d a _ => [d.val, a.val]
  | .stLZ64 d a _ => [d.val, a.val]
  | .br c _ _ => [64 + c.val]
  | .loop g _ => [g.val]
  | .mulh d a b => [d.val, a.val, b.val]
  | .mulhz d a b => [d.val, a.val, b.val]
  | .div d a b => [d.val, a.val, b.val]
  | .divz d a b => [d.val, a.val, b.val]
  | .rem d a b => [d.val, a.val, b.val]
  | .remz d a b => [d.val, a.val, b.val]
  | .minz d a b => [d.val, a.val, b.val]
  | .maxz d a b => [d.val, a.val, b.val]
  | .rol d a b => [d.val, a.val, b.val]
  | .clz d a => [d.val, a.val]
  | .ctz d a => [d.val, a.val]
  | .popc d a => [d.val, a.val]
  | .brev d a => [d.val, a.val]
  | .bswap d a => [d.val, a.val]
  | .sext _ d a => [d.val, a.val]
  | .zext _ d a => [d.val, a.val]
  | .shli d a _ => [d.val, a.val]
  | .shri d a _ => [d.val, a.val]
  | .sari d a _ => [d.val, a.val]
  | .roli d a _ => [d.val, a.val]
  | .bfx d a _ => [d.val, a.val]
  | .bfi d a _ => [d.val, a.val]
  | .cmp _ d a b => [32 + d.val, a.val, b.val]
  | .cmpi _ d a _ => [32 + d.val, a.val]
  | .sel c d a b => [d.val, a.val, b.val, 64 + c.val]
  | .lea _ d a b => [d.val, a.val, b.val]
  | .pand d x y => [32 + d.val, 64 + x.val, 64 + y.val]
  | .por d x y => [32 + d.val, 64 + x.val, 64 + y.val]
  | .pxor d x y => [32 + d.val, 64 + x.val, 64 + y.val]
  | .pnot d x => [32 + d.val, 64 + x.val]
  | .pmov d x => [32 + d.val, 64 + x.val]
  | .ldL _ d a _ => [d.val, a.val]
  | .stL _ d a _ => [d.val, a.val]
  | .ldt _ d a b => [d.val, a.val, b.val]
  | .stt a b => [a.val, b.val]
  | .vld _ v a => [96 + v.val, a.val]
  | .vst _ v a => [96 + v.val, a.val]
  | .vlds _ _ v a b => [96 + v.val, a.val, b.val]
  | .vgath _ _ v a x => [96 + v.val, a.val, 96 + x.val]
  | .vscat _ _ v a x => [96 + v.val, a.val, 96 + x.val]
  | .pref _ a => [a.val]
  | .amoSwap _ _ _ d a b => [d.val, a.val, b.val]
  | .amoCas _ _ _ d a b => [d.val, a.val, b.val]
  | .amoFadd _ _ _ d a b => [d.val, a.val, b.val]
  | .amoFand _ _ _ d a b => [d.val, a.val, b.val]
  | .amoFor _ _ _ d a b => [d.val, a.val, b.val]
  | .amoFxor _ _ _ d a b => [d.val, a.val, b.val]
  | .amoFmin _ _ _ d a b => [d.val, a.val, b.val]
  | .amoFmax _ _ _ d a b => [d.val, a.val, b.val]
  | .amoFminz _ _ _ d a b => [d.val, a.val, b.val]
  | .amoFmaxz _ _ _ d a b => [d.val, a.val, b.val]
  | .hgath v a b => [96 + v.val, a.val, b.val]
  | .ldZ8Ordered _ _ d a _ => [d.val, a.val]
  | .ldZ16Ordered _ _ d a _ => [d.val, a.val]
  | .ldZ32Ordered _ _ d a _ => [d.val, a.val]
  | .ldZ64Ordered _ _ d a _ => [d.val, a.val]
  | .ldS8Ordered _ _ d a _ => [d.val, a.val]
  | .ldS16Ordered _ _ d a _ => [d.val, a.val]
  | .ldS32Ordered _ _ d a _ => [d.val, a.val]
  | .stZ8Ordered _ _ d a _ => [d.val, a.val]
  | .stZ16Ordered _ _ d a _ => [d.val, a.val]
  | .stZ32Ordered _ _ d a _ => [d.val, a.val]
  | .stZ64Ordered _ _ d a _ => [d.val, a.val]
  | .redAdd _ _ _ a b => [a.val, b.val]
  | .redAnd _ _ _ a b => [a.val, b.val]
  | .redOr _ _ _ a b => [a.val, b.val]
  | .redXor _ _ _ a b => [a.val, b.val]
  | .redMin _ _ _ a b => [a.val, b.val]
  | .redMax _ _ _ a b => [a.val, b.val]
  | .redMinz _ _ _ a b => [a.val, b.val]
  | .redMaxz _ _ _ a b => [a.val, b.val]
  | .redFadd _ _ a b => [a.val, b.val]
  | .barArr d a => [d.val, a.val]
  | .barWait a b => [a.val, b.val]
  | .barAw d a => [d.val, a.val]
  | .barExp _ d a => [d.val, a.val]
  | .barInit _ a b c => [a.val, b.val, c.val]
  | .evtAdd _ a b => [a.val, b.val]
  | .evtWait _ a b => [a.val, b.val]
  | .wait _ d a b => [d.val, a.val, b.val]
  | .realign _ d => [d.val]
  | .qstat tree d a => if tree then [d.val, a.val] else [d.val]
  | .msgSend _ _ a b => [a.val, b.val]
  | .msgInfo d => [d.val]
  | .redPkt v a b => [96 + v.val, a.val, b.val]
  | .redRecv _ v d a => [96 + v.val, d.val, a.val]
  | .rteSet a b => [a.val, b.val]
  | .treeSet a b => [a.val, b.val]
  | .vAdd _ _ d a b => [96 + d.val, 96 + a.val, 96 + b.val]
  | .vSub _ _ d a b => [96 + d.val, 96 + a.val, 96 + b.val]
  | .vMul _ d a b => [96 + d.val, 96 + a.val, 96 + b.val]
  | .vFma d a b => [96 + d.val, 96 + a.val, 96 + b.val]
  | .vFms d a b => [96 + d.val, 96 + a.val, 96 + b.val]
  | .vMin _ d a b => [96 + d.val, 96 + a.val, 96 + b.val]
  | .vMax _ d a b => [96 + d.val, 96 + a.val, 96 + b.val]
  | .vAbs _ _ d a => [96 + d.val, 96 + a.val]
  | .vNeg _ _ d a => [96 + d.val, 96 + a.val]
  | .vRcp d a => [96 + d.val, 96 + a.val]
  | .vRsq d a => [96 + d.val, 96 + a.val]
  | .vSqrt d a => [96 + d.val, 96 + a.val]
  | .vExp2 d a => [96 + d.val, 96 + a.val]
  | .vLog2 d a => [96 + d.val, 96 + a.val]
  | .vAnd d a b => [96 + d.val, 96 + a.val, 96 + b.val]
  | .vOr d a b => [96 + d.val, 96 + a.val, 96 + b.val]
  | .vXor d a b => [96 + d.val, 96 + a.val, 96 + b.val]
  | .vAndn d a b => [96 + d.val, 96 + a.val, 96 + b.val]
  | .vShl _ d a b => [96 + d.val, 96 + a.val, 96 + b.val]
  | .vShr _ d a b => [96 + d.val, 96 + a.val, 96 + b.val]
  | .vSar _ d a b => [96 + d.val, 96 + a.val, 96 + b.val]
  | .vCmp _ _ d a b => [96 + d.val, 96 + a.val, 96 + b.val]
  | .vSel d a b => [96 + d.val, 96 + a.val, 96 + b.val]
  | .vRedAdd _ d a => [96 + d.val, 96 + a.val]
  | .vRedMin _ d a => [96 + d.val, 96 + a.val]
  | .vRedMax _ d a => [96 + d.val, 96 + a.val]
  | .vBcast _ d a => [96 + d.val, a.val]
  | .vExt _ d a b => [d.val, 96 + a.val, b.val]
  | .vIns _ d a b => [96 + d.val, a.val, b.val]
  | .vPerm d a b => [96 + d.val, 96 + a.val, 96 + b.val]
  | .vCvt _ _ d a => [96 + d.val, 96 + a.val]
  | .vScl _ d a b => [96 + d.val, 96 + a.val, b.val]
  | .vPack _ _ d a b => [96 + d.val, 96 + a.val, 96 + b.val]
  | .vUnpk _ _ d a _ => [96 + d.val, 96 + a.val]
  | .vDec8 d a _ => [96 + d.val, 96 + a.val]
  | .vEnc8 d a _ => [96 + d.val, 96 + a.val]
  | .vDec4 d a _ => [96 + d.val, 96 + a.val]
  | .vEnc4 d a _ => [96 + d.val, 96 + a.val]
  | .mClr m => [128 + m.val]
  | .mLatch a b => [a.val, b.val]
  | .mStep _ m a b => [128 + m.val, a.val, b.val]
  | .mLocal m a b => [128 + m.val, a.val, b.val]
  | .mRd v m b => [96 + v.val, 128 + m.val, b.val]
  | .mWr m v b => [128 + m.val, 96 + v.val, b.val]
  | .mRing _ d a b => [d.val, a.val, b.val]
  | .mStat d => [d.val]
  | .trGo a _ => [a.val]
  | .trWait d => [d.val]
  | .trStop d => [d.val]
  | .cpG2L a b c => [a.val, b.val, c.val]
  | .cpL2G a b c => [a.val, b.val, c.val]
  | .cpL2L a b c => [a.val, b.val, c.val]
  | .cpG2G a b c => [a.val, b.val, c.val]
  | .cpFill a b c => [a.val, b.val, c.val]
  | .cp2D a b c => [a.val, b.val, c.val]
  | .cpStat d => [d.val]
  | .tqPush d a b => [d.val, a.val, b.val]
  | .tqSpawn d a b => [d.val, a.val, b.val]
  | .tqPin _ d a => [d.val, a.val]
  | .tqStat d a => [d.val, a.val]
  | .tstat d => [d.val]
  | .gtPost d v a => [d.val, 96 + v.val, a.val]
  | .gtWait d v a => [d.val, 96 + v.val, a.val]
  | .gtTry d v a => [d.val, 96 + v.val, a.val]
  | .gtArrive d a => [d.val, a.val]
  | .gtStat d a => [d.val, a.val]
  | .gtOpen a => [a.val]
  | .gtClose a => [a.val]
  | .gtHold _ a => [a.val]
  | .clWb _ a b => [a.val, b.val]
  | .clInv _ a b => [a.val, b.val]
  | .clDisc a b => [a.val, b.val]
  | .hrPin d a => [d.val, a.val]
  | .hrUnpin d a => [d.val, a.val]
  | .pgProbe d a => [d.val, a.val]
  | .tlbInv _ _ a b c => [a.val, b.val, c.val]
  | .ubRsv d a b => [d.val, a.val, b.val]
  | .ubRel d a b => [d.val, a.val, b.val]
  | .ubMig d a b => [d.val, a.val, b.val]
  | .sysRd d _ => [d.val]
  | .sysWr a _ => [a.val]
  | .tblWr _ a b => [a.val, b.val]
  | .tblSeal d a => [d.val, a.val]
  | .capRd d a => [d.val, a.val]
  | .partSet d a b => [d.val, a.val, b.val]
  | .slotPark d a => [d.val, a.val]
  | .slotRun _ d a b => [d.val, a.val, b.val]
  | .ctxSave d a b => [d.val, a.val, b.val]
  | .ctxLoad d a b => [d.val, a.val, b.val]
  | .slotScrub d a => [d.val, a.val]
  | .hbCtlEnable a b => [a.val, b.val]
  | .hbCtlDisable a b => [a.val, b.val]
  | .hbCtlClear a b => [a.val, b.val]
  | .hbCtlOffline a b => [a.val, b.val]
  | .hbCtlOnline a b => [a.val, b.val]
  | .hbStat d a => [d.val, a.val]
  | _ => []

/-- The scalar operand numbers that an instruction reads, in assembly order, each as often as it is read (R156). -/
def scalarReads : Instr → List Nat
  | .add _ a b => [a.val, b.val]
  | .sub _ a b => [a.val, b.val]
  | .and _ a b => [a.val, b.val]
  | .or _ a b => [a.val, b.val]
  | .xor _ a b => [a.val, b.val]
  | .andn _ a b => [a.val, b.val]
  | .shl _ a b => [a.val, b.val]
  | .shr _ a b => [a.val, b.val]
  | .sar _ a b => [a.val, b.val]
  | .mul _ a b => [a.val, b.val]
  | .min _ a b => [a.val, b.val]
  | .max _ a b => [a.val, b.val]
  | .mov _ a => [a.val]
  | .jmpi a => [a.val]
  | .calli a => [a.val]
  | .addi _ a _ => [a.val]
  | .ldZ8 _ a _ => [a.val]
  | .ldZ16 _ a _ => [a.val]
  | .ldZ32 _ a _ => [a.val]
  | .ldZ64 _ a _ => [a.val]
  | .ldS8 _ a _ => [a.val]
  | .ldS16 _ a _ => [a.val]
  | .ldS32 _ a _ => [a.val]
  | .stZ8 d a _ => [d.val, a.val]
  | .stZ16 d a _ => [d.val, a.val]
  | .stZ32 d a _ => [d.val, a.val]
  | .stZ64 d a _ => [d.val, a.val]
  | .ldLZ64 _ a _ => [a.val]
  | .stLZ64 d a _ => [d.val, a.val]
  | .mulh _ a b => [a.val, b.val]
  | .mulhz _ a b => [a.val, b.val]
  | .div _ a b => [a.val, b.val]
  | .divz _ a b => [a.val, b.val]
  | .rem _ a b => [a.val, b.val]
  | .remz _ a b => [a.val, b.val]
  | .minz _ a b => [a.val, b.val]
  | .maxz _ a b => [a.val, b.val]
  | .rol _ a b => [a.val, b.val]
  | .clz _ a => [a.val]
  | .ctz _ a => [a.val]
  | .popc _ a => [a.val]
  | .brev _ a => [a.val]
  | .bswap _ a => [a.val]
  | .sext _ _ a => [a.val]
  | .zext _ _ a => [a.val]
  | .shli _ a _ => [a.val]
  | .shri _ a _ => [a.val]
  | .sari _ a _ => [a.val]
  | .roli _ a _ => [a.val]
  | .bfx _ a _ => [a.val]
  | .bfi d a _ => [d.val, a.val]
  | .cmp _ _ a b => [a.val, b.val]
  | .cmpi _ _ a _ => [a.val]
  | .sel _ _ a b => [a.val, b.val]
  | .lea _ _ a b => [a.val, b.val]
  | .ldL _ _ a _ => [a.val]
  | .stL _ d a _ => [d.val, a.val]
  | .ldt _ _ a b => [a.val, b.val]
  | .stt a b => [a.val, b.val]
  | .vld _ _ a => [a.val]
  | .vst _ _ a => [a.val]
  | .vlds _ _ _ a b => [a.val, b.val]
  | .vgath _ _ _ a _ => [a.val]
  | .vscat _ _ _ a _ => [a.val]
  | .pref _ a => [a.val]
  | .amoSwap _ _ _ _ a b => [a.val, b.val]
  | .amoCas _ _ _ d a b => [d.val, a.val, b.val]
  | .amoFadd _ _ _ _ a b => [a.val, b.val]
  | .amoFand _ _ _ _ a b => [a.val, b.val]
  | .amoFor _ _ _ _ a b => [a.val, b.val]
  | .amoFxor _ _ _ _ a b => [a.val, b.val]
  | .amoFmin _ _ _ _ a b => [a.val, b.val]
  | .amoFmax _ _ _ _ a b => [a.val, b.val]
  | .amoFminz _ _ _ _ a b => [a.val, b.val]
  | .amoFmaxz _ _ _ _ a b => [a.val, b.val]
  | .hgath _ a b => [a.val, b.val]
  | .ldZ8Ordered _ _ _ a _ => [a.val]
  | .ldZ16Ordered _ _ _ a _ => [a.val]
  | .ldZ32Ordered _ _ _ a _ => [a.val]
  | .ldZ64Ordered _ _ _ a _ => [a.val]
  | .ldS8Ordered _ _ _ a _ => [a.val]
  | .ldS16Ordered _ _ _ a _ => [a.val]
  | .ldS32Ordered _ _ _ a _ => [a.val]
  | .stZ8Ordered _ _ d a _ => [d.val, a.val]
  | .stZ16Ordered _ _ d a _ => [d.val, a.val]
  | .stZ32Ordered _ _ d a _ => [d.val, a.val]
  | .stZ64Ordered _ _ d a _ => [d.val, a.val]
  | .redAdd _ _ _ a b => [a.val, b.val]
  | .redAnd _ _ _ a b => [a.val, b.val]
  | .redOr _ _ _ a b => [a.val, b.val]
  | .redXor _ _ _ a b => [a.val, b.val]
  | .redMin _ _ _ a b => [a.val, b.val]
  | .redMax _ _ _ a b => [a.val, b.val]
  | .redMinz _ _ _ a b => [a.val, b.val]
  | .redMaxz _ _ _ a b => [a.val, b.val]
  | .redFadd _ _ a b => [a.val, b.val]
  | .barArr _ a => [a.val]
  | .barWait a b => [a.val, b.val]
  | .barAw _ a => [a.val]
  | .barExp _ _ a => [a.val]
  | .barInit _ a b c => [a.val, b.val, c.val]
  | .evtAdd _ a b => [a.val, b.val]
  | .evtWait _ a b => [a.val, b.val]
  | .wait _ _ a b => [a.val, b.val]
  | .qstat tree _ a => if tree then [a.val] else []
  | .msgSend _ _ a b => [a.val, b.val]
  | .redPkt _ a b => [a.val, b.val]
  | .redRecv _ _ _ a => [a.val]
  | .rteSet a b => [a.val, b.val]
  | .treeSet a b => [a.val, b.val]
  | .vBcast _ _ a => [a.val]
  | .vExt _ _ _ b => [b.val]
  | .vIns _ _ a b => [a.val, b.val]
  | .vScl _ _ _ b => [b.val]
  | .mLatch a b => [a.val, b.val]
  | .mStep _ _ a b => [a.val, b.val]
  | .mLocal _ a b => [a.val, b.val]
  | .mRd _ _ b => [b.val]
  | .mWr _ _ b => [b.val]
  | .mRing _ _ a b => [a.val, b.val]
  | .trGo a _ => [a.val]
  | .cpG2L a b _ => [a.val, b.val]
  | .cpL2G a b _ => [a.val, b.val]
  | .cpL2L a b _ => [a.val, b.val]
  | .cpG2G a b _ => [a.val, b.val]
  | .cpFill a b _ => [a.val, b.val]
  | .cp2D a b _ => [a.val, b.val]
  | .tqPush _ a b => [a.val, b.val]
  | .tqSpawn _ a b => [a.val, b.val]
  | .tqPin _ _ a => [a.val]
  | .tqStat _ a => [a.val]
  | .gtPost _ _ a => [a.val]
  | .gtWait d _ a => [d.val, a.val]
  | .gtTry d _ a => [d.val, a.val]
  | .gtArrive _ a => [a.val]
  | .gtStat _ a => [a.val]
  | .gtOpen a => [a.val]
  | .gtClose a => [a.val]
  | .gtHold _ a => [a.val]
  | .clWb _ a b => [a.val, b.val]
  | .clInv _ a b => [a.val, b.val]
  | .clDisc a b => [a.val, b.val]
  | .hrPin _ a => [a.val]
  | .hrUnpin _ a => [a.val]
  | .pgProbe _ a => [a.val]
  | .tlbInv _ _ a b c => [a.val, b.val, c.val]
  | .ubRsv _ a b => [a.val, b.val]
  | .ubRel _ a b => [a.val, b.val]
  | .ubMig _ a b => [a.val, b.val]
  | .sysWr a _ => [a.val]
  | .tblWr _ a b => [a.val, b.val]
  | .tblSeal _ a => [a.val]
  | .capRd _ a => [a.val]
  | .partSet _ a b => [a.val, b.val]
  | .slotPark _ a => [a.val]
  | .slotRun _ _ a b => [a.val, b.val]
  | .ctxSave _ a b => [a.val, b.val]
  | .ctxLoad _ a b => [a.val, b.val]
  | .slotScrub _ a => [a.val]
  | .hbCtlEnable a b => [a.val, b.val]
  | .hbCtlDisable a b => [a.val, b.val]
  | .hbCtlClear a b => [a.val, b.val]
  | .hbCtlOffline a b => [a.val, b.val]
  | .hbCtlOnline a b => [a.val, b.val]
  | .hbStat _ a => [a.val]
  | _ => []

/-- The scalar operand numbers that an instruction writes. -/
def scalarWrites : Instr → List Nat
  | .add d _ _ => [d.val]
  | .sub d _ _ => [d.val]
  | .and d _ _ => [d.val]
  | .or d _ _ => [d.val]
  | .xor d _ _ => [d.val]
  | .andn d _ _ => [d.val]
  | .shl d _ _ => [d.val]
  | .shr d _ _ => [d.val]
  | .sar d _ _ => [d.val]
  | .mul d _ _ => [d.val]
  | .min d _ _ => [d.val]
  | .max d _ _ => [d.val]
  | .mov d _ => [d.val]
  | .addi d _ _ => [d.val]
  | .movi d _ => [d.val]
  | .ldZ8 d _ _ => [d.val]
  | .ldZ16 d _ _ => [d.val]
  | .ldZ32 d _ _ => [d.val]
  | .ldZ64 d _ _ => [d.val]
  | .ldS8 d _ _ => [d.val]
  | .ldS16 d _ _ => [d.val]
  | .ldS32 d _ _ => [d.val]
  | .ldLZ64 d _ _ => [d.val]
  | .mulh d _ _ => [d.val]
  | .mulhz d _ _ => [d.val]
  | .div d _ _ => [d.val]
  | .divz d _ _ => [d.val]
  | .rem d _ _ => [d.val]
  | .remz d _ _ => [d.val]
  | .minz d _ _ => [d.val]
  | .maxz d _ _ => [d.val]
  | .rol d _ _ => [d.val]
  | .clz d _ => [d.val]
  | .ctz d _ => [d.val]
  | .popc d _ => [d.val]
  | .brev d _ => [d.val]
  | .bswap d _ => [d.val]
  | .sext _ d _ => [d.val]
  | .zext _ d _ => [d.val]
  | .shli d _ _ => [d.val]
  | .shri d _ _ => [d.val]
  | .sari d _ _ => [d.val]
  | .roli d _ _ => [d.val]
  | .bfx d _ _ => [d.val]
  | .bfi d _ _ => [d.val]
  | .sel _ d _ _ => [d.val]
  | .lea _ d _ _ => [d.val]
  | .ldL _ d _ _ => [d.val]
  | .ldt _ d _ _ => [d.val]
  | .amoSwap _ _ _ d _ _ => [d.val]
  | .amoCas _ _ _ d _ _ => [d.val]
  | .amoFadd _ _ _ d _ _ => [d.val]
  | .amoFand _ _ _ d _ _ => [d.val]
  | .amoFor _ _ _ d _ _ => [d.val]
  | .amoFxor _ _ _ d _ _ => [d.val]
  | .amoFmin _ _ _ d _ _ => [d.val]
  | .amoFmax _ _ _ d _ _ => [d.val]
  | .amoFminz _ _ _ d _ _ => [d.val]
  | .amoFmaxz _ _ _ d _ _ => [d.val]
  | .ldZ8Ordered _ _ d _ _ => [d.val]
  | .ldZ16Ordered _ _ d _ _ => [d.val]
  | .ldZ32Ordered _ _ d _ _ => [d.val]
  | .ldZ64Ordered _ _ d _ _ => [d.val]
  | .ldS8Ordered _ _ d _ _ => [d.val]
  | .ldS16Ordered _ _ d _ _ => [d.val]
  | .ldS32Ordered _ _ d _ _ => [d.val]
  | .barArr d _ => [d.val]
  | .barAw d _ => [d.val]
  | .barExp _ d _ => [d.val]
  | .wait _ d _ _ => [d.val]
  | .realign _ d => [d.val]
  | .qstat _ d _ => [d.val]
  | .msgInfo d => [d.val]
  | .redRecv _ _ d _ => [d.val]
  | .vExt _ d _ _ => [d.val]
  | .mRing _ d _ _ => [d.val]
  | .mStat d => [d.val]
  | .trWait d => [d.val]
  | .trStop d => [d.val]
  | .cpStat d => [d.val]
  | .tqPush d _ _ => [d.val]
  | .tqSpawn d _ _ => [d.val]
  | .tqPin _ d _ => [d.val]
  | .tqStat d _ => [d.val]
  | .tstat d => [d.val]
  | .gtPost d _ _ => [d.val]
  | .gtWait d _ _ => [d.val]
  | .gtTry d _ _ => [d.val]
  | .gtArrive d _ => [d.val]
  | .gtStat d _ => [d.val]
  | .hrPin d _ => [d.val]
  | .hrUnpin d _ => [d.val]
  | .pgProbe d _ => [d.val]
  | .ubRsv d _ _ => [d.val]
  | .ubRel d _ _ => [d.val]
  | .ubMig d _ _ => [d.val]
  | .sysRd d _ => [d.val]
  | .tblSeal d _ => [d.val]
  | .capRd d _ => [d.val]
  | .partSet d _ _ => [d.val]
  | .slotPark d _ => [d.val]
  | .slotRun _ d _ _ => [d.val]
  | .ctxSave d _ _ => [d.val]
  | .ctxLoad d _ _ => [d.val]
  | .slotScrub d _ => [d.val]
  | .hbStat d _ => [d.val]
  | _ => []

/-- Engine instructions (R238, R262, R263, R299, R300). -/
def isEngine : Instr → Bool
  | .vld .. => true
  | .vst .. => true
  | .vlds .. => true
  | .vgath .. => true
  | .vscat .. => true
  | .redPkt .. => true
  | .redRecv .. => true
  | .vAdd .. => true
  | .vSub .. => true
  | .vMul .. => true
  | .vFma .. => true
  | .vFms .. => true
  | .vMin .. => true
  | .vMax .. => true
  | .vAbs .. => true
  | .vNeg .. => true
  | .vRcp .. => true
  | .vRsq .. => true
  | .vSqrt .. => true
  | .vExp2 .. => true
  | .vLog2 .. => true
  | .vAnd .. => true
  | .vOr .. => true
  | .vXor .. => true
  | .vAndn .. => true
  | .vShl .. => true
  | .vShr .. => true
  | .vSar .. => true
  | .vCmp .. => true
  | .vSel .. => true
  | .vRedAdd .. => true
  | .vRedMin .. => true
  | .vRedMax .. => true
  | .vBcast .. => true
  | .vExt .. => true
  | .vIns .. => true
  | .vPerm .. => true
  | .vCvt .. => true
  | .vScl .. => true
  | .vPack .. => true
  | .vUnpk .. => true
  | .vDec8 .. => true
  | .vEnc8 .. => true
  | .vDec4 .. => true
  | .vEnc4 .. => true
  | .mClr .. => true
  | .mLatch .. => true
  | .mStep .. => true
  | .mLocal .. => true
  | .mPass => true
  | .mRd .. => true
  | .mWr .. => true
  | .mRing .. => true
  | .mStat .. => true
  | .mSync => true
  | _ => false

/-- Instructions marked (S): `PRIVILEGE` at task privilege (R191 step 6, R196). -/
def isSupervisor : Instr → Bool
  | .gtHold .. => true
  | .tlbInv .. => true
  | .ubMig .. => true
  | .partSet .. => true
  | .slotPark .. => true
  | .slotRun .. => true
  | .ctxSave .. => true
  | .ctxLoad .. => true
  | .slotScrub .. => true
  | .hbCtlEnable .. => true
  | .hbCtlDisable .. => true
  | .hbCtlClear .. => true
  | .hbCtlOffline .. => true
  | .hbCtlOnline .. => true
  | _ => false

/-- Instructions that `TR.DEF` may capture (R288). -/
def isCapturable : Instr → Bool
  | .redPkt .. => false
  | .redRecv .. => false
  | .mRing .. => false
  | .mStat .. => false
  | .mSync => false
  | i => isEngine i

/-- Vector memory instructions (R238). -/
def isVectorMemory : Instr → Bool
  | .vld .. => true
  | .vst .. => true
  | .vlds .. => true
  | .vgath .. => true
  | .vscat .. => true
  | _ => false

/-- Engine instructions that read or write memory or LM (R238, R281 to R283). -/
def isEngineMemory : Instr → Bool
  | .mLatch .. => true
  | .mStep .. => true
  | .mLocal .. => true
  | i => isVectorMemory i

/-- Block enders (R204). -/
def isBlockEnder : Instr → Bool
  | .br .. => true
  | .loop .. => true
  | .jmp .. => true
  | .jmpi .. => true
  | .call .. => true
  | .calli .. => true
  | .ret => true
  | .tend => true
  | .trap .. => true
  | .brk => true
  | .eret => true
  | _ => false

/-! ## Signatures (R202, R203) -/

/-- FOLDW of a chain (R202). -/
def foldWord (f : Fold) : Nat :=
  f.page * 2 ^ 60 + f.op * 2 ^ 55 + f.fn * 2 ^ 53 + f.a * 2 ^ 48 + f.b * 2 ^ 43 + f.c * 2 ^ 38
  + f.mod3 * 2 ^ 35 + f.mod5 * 2 ^ 30
  + (match f.guard with
     | none => 0
     | some g => 2 ^ 29 + b2n g.inv * 2 ^ 28 + g.cond.val * 2 ^ 23)

/-- IMM32 of a chain (R202): the immediate extended in its own signedness. -/
def imm32 (i : Instr) (f : Fold) : Nat :=
  let signed := match i with
    | .sig .. | .shli .. | .shri .. | .sari .. | .roli .. | .bfx .. | .bfi .. | .trDef .. | .trGo .. | .sysRd ..
    | .sysWr .. | .trap .. => false
    | .cmpi r .. => !r.unsigned
    | _ => true
  if f.w = 0 then 0 else if signed then toBits 32 f.simm else f.imm % 2 ^ 32

/-- The signature stream of an instruction (R203). -/
def signatureStream (i : Instr) (f : Fold) : List Nat :=
  (bytesOf 4 (imm32 i f) ++ bytesOf 8 (foldWord f)).map BitVec.toNat ++ operandBytes i

/-- One bit of the CRC-16 of R29: polynomial 0x1021. -/
def crcBit (c : Nat) : Nat := if 2 ^ 15 ≤ c then (c * 2 % 2 ^ 16) ^^^ 0x1021 else c * 2

/-- One byte of the CRC. -/
def crcByte (c b : Nat) : Nat :=
  crcBit (crcBit (crcBit (crcBit (crcBit (crcBit (crcBit (crcBit (c ^^^ (b * 256)))))))))

/-- The CRC-16 of R29 over bytes, from a running value. -/
def crc16 (c : Nat) (l : List Nat) : Nat := l.foldl crcByte c

/-- The checker at the issue of an instruction (R205): its state if the instruction completes, or none for
`SIGNATURE`. The LASTXFER of a block ender is set when it completes. -/
def sigCheck (x : Slot) (i : Instr) (f : Fold) : Option SigState :=
  if bitOf x.sw 9 = false then some x.sig
  else match i with
    | .sig imm =>
      let e := nbits imm 17 16
      if (x.sig.armed && !decide (x.sig.run = x.sig.expect)) || (decide (e = 1) && x.sig.lastXfer)
          || (decide (e = 2) && !x.sig.lastXfer) then none
      else some { armed := true, expect := nbits imm 15 0, run := 0xFFFF, lastXfer := x.sig.lastXfer }
    | _ =>
      if x.sig.armed = false then none
      else
        let run := crc16 x.sig.run (signatureStream i f)
        if isBlockEnder i then
          if run = x.sig.expect then some { x.sig with run := run, armed := false } else none
        else some { x.sig with run := run, lastXfer := false }

/-! ## Register words that an instruction reads (R401) -/

/-- The vector registers that an instruction reads, in its number of bytes or in part. -/
def vectorReads : Instr → List VReg
  | .vst _ v _ => [v]
  | .vgath _ _ _ _ x => [x]
  | .vscat _ _ v _ x => [v, x]
  | .redPkt v _ _ => [v]
  | .gtPost _ v _ => [v]
  | .vAdd _ _ _ a b | .vSub _ _ _ a b | .vMul _ _ a b | .vMin _ _ a b | .vMax _ _ a b | .vCmp _ _ _ a b
  | .vShl _ _ a b | .vShr _ _ a b | .vSar _ _ a b | .vPack _ _ _ a b => [a, b]
  | .vAnd _ a b | .vOr _ a b | .vXor _ a b | .vAndn _ a b | .vPerm _ a b => [a, b]
  | .vFma d a b | .vFms d a b | .vSel d a b => [d, a, b]
  | .vAbs _ _ _ a | .vNeg _ _ _ a | .vCvt _ _ _ a | .vUnpk _ _ _ a _ => [a]
  | .vRcp _ a | .vRsq _ a | .vSqrt _ a | .vExp2 _ a | .vLog2 _ a => [a]
  | .vRedAdd _ _ a | .vRedMin _ _ a | .vRedMax _ _ a => [a]
  | .vExt _ _ a _ | .vScl _ _ a _ => [a]
  | .vIns _ d _ _ => [d]
  | .vDec8 _ a _ | .vDec4 _ a _ => [a]
  | .vEnc8 d a _ | .vEnc4 d a _ => [d, a]
  | .mWr _ v _ => [v]
  | _ => []

/-- The conditions that an instruction samples. -/
def condReads : Instr → List Cond
  | .br c _ _ | .sel c _ _ _ => [c]
  | .pand _ x y | .por _ x y | .pxor _ x y => [x, y]
  | .pnot _ x | .pmov _ x => [x]
  | _ => []

/-- The predicates, where conditions sample them. -/
def condUnits (l : List Cond) : List Nat := if l.any (fun c => decide (1 ≤ c.val ∧ c.val < 16)) then [unitP] else []

/-- The register words that an instruction reads at its issue; an engine instruction reads its vector and accumulator sources
on its engine turn (R263). -/
def issueUnits (i : Instr) : List Nat :=
  (scalarReads i).filter (fun n => decide (n < 24)) ++ condUnits (condReads i) ++
    (match i with
     | .gtPost _ v _ => [unitV v]
     | _ => [])

/-- The register words that an engine instruction reads when it starts. -/
def startUnits (i : Instr) : List Nat :=
  (vectorReads i).map unitV ++
    (match i with
     | .mStep _ m _ _ => [unitTile m.val, unitLatch, unitSpill]
     | .mLocal m _ _ | .mRd _ m _ => [unitTile m.val]
     | .mPass => [unitLatch, unitSpill]
     | _ => [])

/-- The register words that an instruction writes whole when it completes, or starts. -/
def wroteUnits (i : Instr) : List Nat :=
  (scalarWrites i).filter (fun n => decide (n < 24)) ++
    (match i with
     | .gtWait _ v _ | .hgath v _ _ | .vld _ v _ | .vlds _ _ v _ _ | .vgath _ _ v _ _ | .redRecv _ v _ _ | .mRd v _ _ => [unitV v]
     | .mClr m => [unitTile m.val]
     | .vAdd _ _ d _ _ | .vSub _ _ d _ _ | .vMul _ d _ _ | .vMin _ d _ _ | .vMax _ d _ _ | .vCmp _ _ d _ _ | .vShl _ d _ _
     | .vShr _ d _ _ | .vSar _ d _ _ | .vPack _ _ d _ _ | .vAnd d _ _ | .vOr d _ _ | .vXor d _ _ | .vAndn d _ _
     | .vPerm d _ _ | .vAbs _ _ d _ | .vNeg _ _ d _ | .vCvt _ _ d _ | .vUnpk _ _ d _ _ | .vRcp d _ | .vRsq d _ | .vSqrt d _
     | .vExp2 d _ | .vLog2 d _ | .vRedAdd _ d _ | .vRedMin _ d _ | .vRedMax _ d _ | .vBcast _ d _ | .vScl _ d _ _
     | .vDec8 d _ _ | .vDec4 d _ _ => [unitV d]
     | _ => [])

/-! ## Scalar destinations that the engine still owes (R263) -/

/-- The scalar destinations of the instructions in a slot's engine queue. -/
def Slot.owed (x : Slot) : List Nat := x.engq.flatMap (fun e => scalarWrites e.instr)

/-- The issue condition of a scalar-stream instruction: R156 over its operands, and no operand that an engine
instruction has still to write (R263). -/
def ready (reads writes : List Nat) : M Unit := do
  let x ← me
  needW ((reads ++ writes).all (fun n => !x.owed.any (fun m => decide (m = n))))
  operandsReady reads writes

/-- The checks of R191 steps 5 and 6 of an instruction marked (S), before anything else: a queue in the wrong
direction, then the privilege. -/
def supervisor (reads writes : List Nat) : M Unit := do
  needP (reads.all scalarReadable && writes.all scalarWritable) fcIllegalOpcode
  let x ← me
  needP x.priv fcPrivilege

/-- Vector registers and SW on the issue port wait until the engine instructions before them have started (R263,
R164). -/
def engineIdle : M Unit := do
  let x ← me
  needW (x.engq.isEmpty && !x.tr.active)

/-- What follows the engine instructions before it that touch memory waits until they have started (R238). -/
def engineMemoryDone : M Unit := do
  let x ← me
  needW (!x.engq.any (fun e => isEngineMemory e.instr))

/-- A global or LM access of the scalar stream waits for the engine instructions before it that touch memory, queued or in an
active replay (R238, R290). -/
def memoryTurn : M Unit := do
  engineMemoryDone
  let x ← me
  needW (!(x.tr.active && x.tr.buf.any (fun e => isEngineMemory e.instr)))

end Sys2Proof.Machine
end

