-- ==== Sys2Proof/Machine/Access.lean ====
section
/-! DEFINITION. Accesses of an instruction to global memory and to LM, with their checks (R76, R118, R119, R231 to
R233), the scopes (R232, R327, R328), and homes as AMOs and REDs use them (R96, R98). -/

namespace Sys2Proof.Machine

/-! ## Scopes (R232, R327) -/

/-- The scope at which an instruction acts: `.dev` at task privilege of a guest acts at `.part` and counts in CLAMPCNT,
or traps when SW.CLTRAP is set; the count stays (R327). -/
def scopeFor (base sc : Scope) : M Scope := do
  let x ← me
  let sc := if sc = .dflt then base else sc
  if sc = .dev ∧ x.priv = false ∧ x.part ≠ 0 then
    if bitOf x.sw 10 then
      (fun _ => .error (.fault { code := fcPrivilege, addr := 0, loc := true, kind := 0, cause := 2, extra := [] }
        (fun s => s.setMe { s.me with clampcnt := s.me.clampcnt + 1 })) : M Scope)
    else
      updMe (fun x => { x with clampcnt := x.clampcnt + 1 })
      pure .part
  else pure sc

/-- The release step of R232, which waits while a word that it would write back is reserved (R98). -/
def releaseAt (sc : Scope) : M Unit := do
  let s ← get
  needW (!s.releaseHeld s.myCore sc)
  set (s.release s.myCore sc)

/-- The acquire step of R232. -/
def acquireAt (sc : Scope) : M Unit := upd (fun s => s.acquire s.myCore sc)

/-- Whether an ordering releases, or acquires. -/
def relOf (o : Ord) : Bool := decide (o = .rel) || decide (o = .ar)
def acqOf (o : Ord) : Bool := decide (o = .acq) || decide (o = .ar)

/-! ## Global memory -/

/-- The state `t` with the words that operands of the waiting instruction popped put back: they are popped when it
completes. -/
def State.keepWords (t s : State) : State :=
  t.setMe { t.me with inq := s.me.inq, inbox := s.me.inbox, q5 := s.me.q5, q7 := s.me.q7 }

/-- A fault of class P with a record cause. -/
def faultCause (code cause : Nat) (addr : Word) : M α :=
  fun _ => .error (.fault { code := code, addr := addr, loc := false, kind := 0, cause := cause, extra := [] } id)

/-- Alignment to the access width (R231). -/
def aligned (va : Word) (n : Nat) : M Unit := needL (decide (va.toNat % n = 0)) fcAlign va

/-- The executing slot as it asks for a translation. -/
def State.asker (s : State) : Asker := { slot := s.cur, kind := if s.iss.engine then .engine else .data }

/-- The executing slot asks for the walk of an address (R78). -/
def State.askMine (s : State) (va : Word) : State := s.askWalk s.asker s.me.ptroot va.toNat

/-- What follows a translation that gives no place: its fault, or the wait for its walk (R76, R78). -/
def untranslated (e : XStop) (va : Word) : M α :=
  match e with
  | .fault code cause => faultCause code cause va
  | .walk => waitKeep .walk (fun s => s.askMine va)

/-- Translates an address for the executing slot with R76 steps 2 to 6 and R103; the access stalls while the holding buffer
of its home has no room for a line of the partition (R106), or behind bytes of its core that wait there (R98, R329). -/
def locate (need : Need) (dev : Bool) (va : Word) : M Loc := do
  let s ← get
  match s.access s.asker s.me.ptroot need dev va.toNat with
  | (_, .error e) => untranslated e va
  | (t, .ok l) =>
    set t
    needW (!t.accessStall t.me.part t.myCore l)
    pure l

/-- Whether one of the words that `n` bytes from a key touch is reserved (R98). -/
def State.anyReserved (s : State) (key n : Nat) : Bool :=
  (List.range ((key % 8 + n + 7) / 8)).any (fun i => s.reserved (key + 8 * i))

/-- The part of a range within one sector: the keys of the sectors that `n` bytes from `key` touch. -/
def sectorKeys (key n : Nat) : List Nat := (List.range ((key % 32 + n + 31) / 32)).map (fun i => key / 32 + i)

/-- Counts a poisoned sector consumed as zeros, or raises `POISON` (R233). -/
def poisonAt (etol : Bool) (va : Word) : M Unit :=
  if etol then updMe (fun x => { x with subcnt := x.subcnt + 1 }) else faultP fcPoison va

/-- The bytes of a sector that `n` bytes from a key touch. -/
def touched (key n sec : Nat) : BitVec 32 :=
  let lo := max key (sec * 32)
  let hi := min (key + n) (sec * 32 + 32)
  BitVec.ofNat 32 ((2 ^ (hi - lo) - 1) * 2 ^ (lo % 32))

/-- Reads one sector for a load of `n` bytes (R233): zeros where a poisoned sector is tolerated. -/
def loadSector (l : Loc) (n sec : Nat) (cached : Bool) : M (BitVec 256) := do
  let s ← get
  let (t, d, bad) := s.readSector s.me.part s.myCore sec cached (touched l.key n sec) (l.leafPa, l.leaf)
  set t
  if bad then
    poisonAt l.etol (ofN (l.va + (max (sec * 32) l.key - l.key)))
    pure 0
  else pure d

/-- Reads `n` bytes at a place as a number (R9). The bytes lie in one sector, or are 64 aligned bytes. -/
def loadAt (l : Loc) (n : Nat) (cached : Bool := true) : M Nat := do
  if l.attr = 2 then
    let s ← get
    if s.hubPoison l.key then
      poisonAt l.etol (ofN l.va)
      pure 0
    else
      let (t, v) := s.hubRead l.key n
      set t
      pure v
  else
    let parts ← (sectorKeys l.key n).mapM (fun sec => loadSector l n sec (cached && decide (l.attr = 0)))
    let v := parts.foldr (fun d acc => d.toNat + acc * 2 ^ 256) 0
    pure (v / 2 ^ (8 * (l.key % 32)) % 2 ^ (8 * n))

/-- A store to the hub window: it reaches the hub in issue order (R234) as the step `REGISTER_WRITE`, or
`RESULT_VIEW_WRITE` in the result view (R56, R58). -/
def State.hubStore (s : State) (pa : Nat) (bs : List Byte) : State :=
  let res := hubBase + 0x400000
  if res ≤ pa ∧ pa < res + 0x400000 then { s with agenda := s.agenda ++ [.resultViewWrite (pa - res) bs] }
  else
    let a := if absentHalf pa then pa else pa / 8 * 8
    { s with agenda := s.agenda ++ [.registerWrite a (ofN (s.hubMerged pa bs))] }

/-- Writes bytes sector by sector. -/
def State.storeBytes (s : State) (p c key : Nat) (cached : Bool) (bs : List Byte) (via : Nat × Word := (0, 0)) : State :=
  (sectorKeys key bs.length).foldl (fun s sec =>
    let lo := max (sec * 32) key
    let hi := min (sec * 32 + 32) (key + bs.length)
    s.storeSector p c lo ((bs.drop (lo - key)).take (hi - lo)) cached via) s

/-- The 8-byte words that `n` bytes from a key touch, by number. -/
def wordsOf (key n : Nat) : List Nat := (List.range ((key % 8 + n + 7) / 8)).map (fun i => key / 8 + i)

/-- The bytes from a key that lie in a word, with their key. -/
def bytesIn (key : Nat) (bs : List Byte) (w : Nat) : Nat × List Byte :=
  let lo := max (w * 8) key
  (lo, (bs.drop (lo - key)).take (w * 8 + 8 - lo))

/-- Stores the bytes that lie in words with no reservation; those of a reserved word wait behind it (R98). Answers the
words that wait. -/
def State.storeFree (s : State) (l : Loc) (bs : List Byte) (words : List Nat) : State × List Nat :=
  let free := fun w => !s.reserved (w * 8)
  (words.foldl (fun t w =>
    if free w then
      let (key, b) := bytesIn l.key bs w
      t.storeBytes t.me.part t.myCore key (decide (l.attr = 0)) b (l.leafPa, l.leaf)
    else t) s, words.filter (fun w => !free w))

/-- Stores the low `n` bytes of a number at a place (R234). A scalar store that touches a word that an AMO reserves waits; of
an engine store only the bytes of such words do (R98), which `storesDone` sees to. At task privilege a store that would change
an RWS field of a hub register raises `PRIVILEGE` (R7). -/
def storeAt (l : Loc) (n v : Nat) : M Unit := do
  if l.attr = 2 then
    let s ← get
    needP (s.me.priv || !s.hubForbids l.key (bytesOf n v)) fcPrivilege
    set (s.hubStore l.key (bytesOf n v))
  else
    let s ← get
    if s.iss.engine && (s.anyReserved l.key n || s.me.late.isSome) then
      let mine := (wordsOf l.key n).filter (fun w => match s.me.late with
        | some ws => ws.any (fun x => decide (x = w))
        | none => true)
      let (t, held) := s.storeFree l (bytesOf n v) mine
      set { t with iss := { t.iss with held := t.iss.held ++ held } }
    else
      needW (!s.anyReserved l.key n)
      set (s.storeBytes s.me.part s.myCore l.key (decide (l.attr = 0)) (bytesOf n v) (l.leafPa, l.leaf))

/-- The end of an engine store: it waits while bytes of it wait for their words, and goes on with those (R98). -/
def storesDone : M Unit := do
  let s ← get
  match s.iss.held with
  | [] => updMe (fun x => { x with late := none })
  | ws => waitKeep (.stores ws) (fun s0 => (s.setMe { s.me with late := some ws }).keepWords s0)

/-- Writes the dirty bytes of a core's own copy of a sector back and drops it, when it is an untracked copy (R96, R98,
R116, R328). -/
def State.dropUntracked (s : State) (c sec : Nat) : State :=
  match s.l1 c sec with
  | some e => if e.st = .u then s.evict c sec else s
  | none => s

/-- The same for the executing slot's core. -/
def dropOwnU (l : Loc) : M Unit := upd (fun s => s.dropUntracked s.myCore (l.key / 32))

/-- Writes the dirty bytes of the core's own untracked copy of a sector through; the line stays clean (R328). -/
def throughU (l : Loc) : M Unit := upd (fun s =>
  match s.l1 s.myCore (l.key / 32) with
  | some e => if e.st = .u then s.writeBack s.myCore (l.key / 32) else s
  | none => s)

/-- Whether a scope is `.part` or wider. -/
def wide (sc : Scope) : Bool := decide (sc = .part) || decide (sc = .dev)

/-! ## LM (R118, R119, R231) -/

/-- The range check of an LM access: inside the LM and in owned banks, or `PAGE_RIGHTS` with the offset of the first
byte that fails; a bank in its wipe makes the access wait (R118). -/
def lmRange (o : Int) (n : Nat) : M Nat := do
  let s ← get
  let banks := (s.part s.me.part).banks
  if o < 0 ∨ 2 ^ 19 < o + n ∨ lmOwned banks o.toNat n = false then faultP fcPageRights (ofI (lmFirstBad banks o))
  else
    needW (!(s.core s.myCore).lmWiping o.toNat n)
    pure o.toNat

/-- `LM_UNCORRECTABLE` at an offset, from an array of the core (R119, R404). -/
def lmFault (array o : Nat) : M α := fun _ =>
  .error (.fault { code := fcLmUncorrectable, addr := ofN o, loc := false, kind := 0, cause := 0, extra := [] }
    (fun s => s.countLm s.myCore array o))

/-- Reads LM bytes that passed the range check. -/
def lmLoad (o n : Nat) : M Nat := do
  let k ← myCore
  match k.lmError o n with
  | some b => lmFault 1 b
  | none => pure (ofBytes (k.lmBytes o n))

/-- Writes LM bytes that passed the range check. -/
def lmStore (o n v : Nat) : M Unit := do
  let k ← myCore
  match k.lmStoreError o n with
  | some b => lmFault 1 b
  | none => updCore (fun k => k.lmStore o (bytesOf n v))

end Sys2Proof.Machine
end

