-- ==== Sys2Proof/Machine/Engine.lean ====
section
/-! DEFINITION. The engine port (R263, R469): issue of an engine instruction into the slot's engine queue, and its
start. -/

namespace Sys2Proof.Machine

/-- The issue of an engine instruction (R263 steps 1 and 2, R290): it waits while a replay is active or four instructions
stand in the engine queue, reads its scalar sources, and enters the queue. It starts on an engine turn of a later cycle
(R456, assumption 85). -/
def engineIssue (i : Instr) : M Unit := do
  let x ← me
  needW (!x.tr.active)
  ready (scalarReads i) (scalarWrites i)
  needW (decide (x.engq.length < 4))
  let srcs ← (scalarReads i).mapM readS
  let s ← get
  updMe (fun x => { x with engq := x.engq ++
    [{ instr := i, words := s.iss.words, pc := x.pc, srcs := srcs, banks := [], since := s.now }] })

/-- Scalar source `i` of a start. -/
def src (l : List Word) (i : Nat) : Word := l.getD i 0

/-- The scalar destination of an engine instruction is written at its start; a queue must have room (R156, R263). A
replayed instruction may push to q7 and writes no g register (R288, R289). -/
def engWriteS (d : Reg) (w : Word) : M Unit := do
  let x ← me
  if d.val = 31 then
    needW (decide (x.q7.length < 8))
    updMe (fun x => { x with q7 := x.q7 ++ [w] })
  else if (← get).iss.replay && decide (d.val < 24) then pure ()
  else
    needW (decide (d.val < 24) || x.room d.val 1)
    needP (!decide (d.val = 28) || decide (x.outbox.length < 8)) fcIllegalOpcode
    writeS d.val w

/-- Vector registers. -/
def readV (v : VReg) : M VWord := do
  let x ← me
  pure (x.v[v.val]!)

def writeV (v : VReg) (w : VWord) : M Unit := updMe (fun x => { x with v := x.v.setIfInBounds v.val w })

/-- Lane `i` of width `w` (R158). -/
def lane (w : Nat) (v : VWord) (i : Nat) : Nat := v.toNat / 2 ^ (w * i) % 2 ^ w

/-- A vector from its lanes of width `w`, lane 0 first. -/
def ofLanes (w : Nat) (l : List Nat) : VWord := BitVec.ofNat 512 (l.foldr (fun x acc => x % 2 ^ w + acc * 2 ^ w) 0)

/-- The lanes of width `w`. -/
def lanesOf (w : Nat) (v : VWord) : List Nat := (List.range (512 / w)).map (lane w v)

/-- Vector register number (r + k) mod 16 (R289). -/
def shiftReg (k : Nat) (v : VReg) : VReg := ⟨(v.val + k) % 16, Nat.mod_lt _ (by decide)⟩

end Sys2Proof.Machine
end

