-- ==== Sys2Proof/Machine/Scalar.lean ====
section
/-! DEFINITION. Scalar, predicate and control instructions (chapter 9, R206 to R227). -/

namespace Sys2Proof.Machine

/-! ## Shared forms -/

/-- d := f(a, b) over scalar operands (R206, R208). -/
def scalar2 (f : Word → Word → Word) (d a b : Reg) : M Unit := do
  ready [a.val, b.val] [d.val]
  let x ← readS a.val
  let y ← readS b.val
  writeS d.val (f x y)

/-- d := f(a) over scalar operands (R210, R211). -/
def scalar1 (f : Word → Word) (d a : Reg) : M Unit := do
  ready [a.val] [d.val]
  let x ← readS a.val
  writeS d.val (f x)

/-- d := f(d, a), with d read before a (R212). -/
def scalarInto (f : Word → Word → Word) (d a : Reg) : M Unit := do
  ready [d.val, a.val] [d.val]
  let x ← readS d.val
  let y ← readS a.val
  writeS d.val (f x y)

/-- A predicate from two scalar operands (R215). -/
def predicate2 (f : Word → Word → Bool) (d : PReg) (a b : Reg) : M Unit := do
  ready [a.val, b.val] []
  let x ← readS a.val
  let y ← readS b.val
  writeP d.val (f x y)

/-- A predicate from conditions, sampled at issue (R216). -/
def predicateOf (f : Bool → Bool → Bool) (d : PReg) (c1 c2 : Nat) : M Unit := do
  let x ← me
  writeP d.val (f (x.cond c1) (x.cond c2))

/-! ## Values (R208 to R213) -/

/-- Shifts by the value of b: 64 and more clears, or copies the sign (R208). -/
def shlVal (a b : Word) : Word := if 64 ≤ b.toNat then 0 else a <<< b.toNat
def shrVal (a b : Word) : Word := if 64 ≤ b.toNat then 0 else a >>> b.toNat
def sarVal (a b : Word) : Word := a.sshiftRight (min b.toNat 63)

/-- Rotation left by n mod 64. -/
def rolVal (a : Word) (n : Nat) : Word := a.rotateLeft (n % 64)

/-- High halves of the products (R208). -/
def mulhVal (a b : Word) : Word := ofI (a.toInt * b.toInt / 2 ^ 64)
def mulhzVal (a b : Word) : Word := ofN (a.toNat * b.toNat / 2 ^ 64)

/-- Quotient and remainder of R209: truncated toward zero; all ones and the dividend for a zero divisor. -/
def divVal (a b : Word) : Word := if b = 0 then BitVec.allOnes 64 else ofI (a.toInt.tdiv b.toInt)
def remVal (a b : Word) : Word := if b = 0 then a else ofI (a.toInt.tmod b.toInt)
def divzVal (a b : Word) : Word := if b = 0 then BitVec.allOnes 64 else ofN (a.toNat / b.toNat)
def remzVal (a b : Word) : Word := if b = 0 then a else ofN (a.toNat % b.toNat)

/-- Lesser and greater, signed and unsigned. -/
def minVal (a b : Word) : Word := if a.toInt ≤ b.toInt then a else b
def maxVal (a b : Word) : Word := if a.toInt ≤ b.toInt then b else a
def minzVal (a b : Word) : Word := if a.toNat ≤ b.toNat then a else b
def maxzVal (a b : Word) : Word := if a.toNat ≤ b.toNat then b else a

/-- Zero bits above the highest one (R211). -/
def clzVal (a : Word) : Word := if a = 0 then 64 else ofN (63 - Nat.log2 a.toNat)

/-- Zero bits below the lowest one, over the bits from `i` on. -/
def ctzFrom (a : Word) (i : Nat) : Nat → Nat
  | 0 => i
  | k + 1 => if a.getLsbD i then i else ctzFrom a (i + 1) k

/-- Zero bits below the lowest one (R211). -/
def ctzVal (a : Word) : Word := ofN (ctzFrom a 0 64)

/-- Number of one bits (R211). -/
def popcVal (a : Word) : Word := ofN ((List.range 64).filter (fun i => a.getLsbD i)).length

/-- Bits reversed (R211). -/
def brevVal (a : Word) : Word :=
  ofN ((List.range 64).foldl (fun acc i => acc * 2 + b2n (a.getLsbD i)) 0)

/-- Bytes reversed (R211). -/
def bswapVal (a : Word) : Word := ofN (ofBytes (bytesOf 8 a.toNat).reverse)

/-- Width of an element type in bits (R158, R195). -/
def elemBits : ElemTy → Nat
  | .c4 => 4
  | .c8 | .s8 | .z8 => 8
  | .bf16 | .f16 | .s16 | .z16 => 16
  | .f32 | .s32 | .z32 => 32
  | .s64 | .z64 => 64

/-- Whether a type reads its lanes signed (R172). -/
def elemSigned : ElemTy → Bool
  | .s8 | .s16 | .s32 | .s64 => true
  | _ => false

/-- The low bits of a word, sign-extended or zero-extended (R172). -/
def signExtend (n : Nat) (a : Word) : Word := ofI (sext n a.toNat)
def zeroExtend (n : Nat) (a : Word) : Word := ofN (a.toNat % 2 ^ n)

/-- The field of a bit-field immediate (R212): length and position. -/
def bfLen (imm : Nat) : Nat := nbits imm 11 6 + 1
def bfPos (imm : Nat) : Nat := nbits imm 5 0

/-- `BFX` (R212). -/
def bfxVal (imm : Nat) (a : Word) : Word :=
  let f := a.toNat / 2 ^ bfPos imm % 2 ^ bfLen imm
  if nbit imm 12 then ofI (sext (bfLen imm) f) else ofN f

/-- `BFI` (R212): the field of d is replaced by the low bits of a. -/
def bfiVal (imm : Nat) (d a : Word) : Word :=
  setFld d (bfPos imm + bfLen imm - 1) (bfPos imm) (a.toNat % 2 ^ bfLen imm)

/-- A relation between two words (R215). -/
def relHolds (r : Rel) (a b : Word) : Bool :=
  match r with
  | .eq => decide (a = b)
  | .ne => !decide (a = b)
  | .lt => decide (a.toInt < b.toInt)
  | .le => decide (a.toInt ≤ b.toInt)
  | .gt => decide (b.toInt < a.toInt)
  | .ge => decide (b.toInt ≤ a.toInt)
  | .ltz => decide (a.toNat < b.toNat)
  | .lez => decide (a.toNat ≤ b.toNat)
  | .gtz => decide (b.toNat < a.toNat)
  | .gez => decide (b.toNat ≤ a.toNat)

/-! ## Two-source instructions (R208, R209) -/

def execAdd (d a b : Reg) (s : State) := runI (scalar2 (fun x y => x + y) d a b) s
def execSub (d a b : Reg) (s : State) := runI (scalar2 (fun x y => x - y) d a b) s
def execAnd (d a b : Reg) (s : State) := runI (scalar2 (fun x y => x &&& y) d a b) s
def execOr (d a b : Reg) (s : State) := runI (scalar2 (fun x y => x ||| y) d a b) s
def execXor (d a b : Reg) (s : State) := runI (scalar2 (fun x y => x ^^^ y) d a b) s
def execAndn (d a b : Reg) (s : State) := runI (scalar2 (fun x y => x &&& ~~~y) d a b) s
def execShl (d a b : Reg) (s : State) := runI (scalar2 shlVal d a b) s
def execShr (d a b : Reg) (s : State) := runI (scalar2 shrVal d a b) s
def execSar (d a b : Reg) (s : State) := runI (scalar2 sarVal d a b) s
def execMul (d a b : Reg) (s : State) := runI (scalar2 (fun x y => x * y) d a b) s
def execMin (d a b : Reg) (s : State) := runI (scalar2 minVal d a b) s
def execMax (d a b : Reg) (s : State) := runI (scalar2 maxVal d a b) s
def execMulh (d a b : Reg) (s : State) := runI (scalar2 mulhVal d a b) s
def execMulhz (d a b : Reg) (s : State) := runI (scalar2 mulhzVal d a b) s
def execDiv (d a b : Reg) (s : State) := runI (scalar2 divVal d a b) s
def execDivz (d a b : Reg) (s : State) := runI (scalar2 divzVal d a b) s
def execRem (d a b : Reg) (s : State) := runI (scalar2 remVal d a b) s
def execRemz (d a b : Reg) (s : State) := runI (scalar2 remzVal d a b) s
def execMinz (d a b : Reg) (s : State) := runI (scalar2 minzVal d a b) s
def execMaxz (d a b : Reg) (s : State) := runI (scalar2 maxzVal d a b) s
def execRol (d a b : Reg) (s : State) := runI (scalar2 (fun x y => rolVal x y.toNat) d a b) s

/-! ## Immediate and one-source instructions (R210, R211) -/

def execAddi (d a : Reg) (imm : Int) (s : State) := runI (scalar1 (fun x => x + ofI imm) d a) s

/-- `MOVI` (R210). -/
def execMovi (d : Reg) (imm : Int) (s : State) := runI (do ready [] [d.val]; writeS d.val (ofI imm)) s

def execShli (d a : Reg) (imm : Nat) (s : State) := runI (scalar1 (fun x => shlVal x (ofN imm)) d a) s
def execShri (d a : Reg) (imm : Nat) (s : State) := runI (scalar1 (fun x => shrVal x (ofN imm)) d a) s
def execSari (d a : Reg) (imm : Nat) (s : State) := runI (scalar1 (fun x => sarVal x (ofN imm)) d a) s
def execRoli (d a : Reg) (imm : Nat) (s : State) := runI (scalar1 (fun x => rolVal x imm) d a) s
def execMov (d a : Reg) (s : State) := runI (scalar1 (fun x => x) d a) s
def execClz (d a : Reg) (s : State) := runI (scalar1 clzVal d a) s
def execCtz (d a : Reg) (s : State) := runI (scalar1 ctzVal d a) s
def execPopc (d a : Reg) (s : State) := runI (scalar1 popcVal d a) s
def execBrev (d a : Reg) (s : State) := runI (scalar1 brevVal d a) s
def execBswap (d a : Reg) (s : State) := runI (scalar1 bswapVal d a) s
def execSext (t : ElemTy) (d a : Reg) (s : State) := runI (scalar1 (signExtend (elemBits t)) d a) s
def execZext (t : ElemTy) (d a : Reg) (s : State) := runI (scalar1 (zeroExtend (elemBits t)) d a) s

/-! ## Bit fields, addresses, selection (R212 to R214) -/

def execBfx (d a : Reg) (imm : Nat) (s : State) := runI (scalar1 (bfxVal imm) d a) s
def execBfi (d a : Reg) (imm : Nat) (s : State) := runI (scalarInto (bfiVal imm) d a) s
def execLea (sh : Fin 4) (d a b : Reg) (s : State) := runI (scalar2 (fun x y => x + (y <<< sh.val)) d a b) s

/-- `SEL` (R214): the condition is sampled at issue, before any source pops. -/
def execSel (c : Cond) (d a b : Reg) (s : State) :=
  runI (do
    let x ← me
    scalar2 (fun y z => if x.cond c.val then y else z) d a b) s

/-! ## Compares and predicates (R215, R216) -/

def execCmp (rel : Rel) (d : PReg) (a b : Reg) (s : State) := runI (predicate2 (relHolds rel) d a b) s

/-- `CMPI` (R215): the immediate was read by the relation's signedness at decode. -/
def execCmpi (rel : Rel) (d : PReg) (a : Reg) (imm : Int) (s : State) :=
  runI (do
    ready [a.val] []
    let x ← readS a.val
    writeP d.val (relHolds rel x (ofI imm))) s

def execPand (d : PReg) (x y : Cond) (s : State) := runI (predicateOf (fun a b => a && b) d x.val y.val) s
def execPor (d : PReg) (x y : Cond) (s : State) := runI (predicateOf (fun a b => a || b) d x.val y.val) s
def execPxor (d : PReg) (x y : Cond) (s : State) := runI (predicateOf (fun a b => a != b) d x.val y.val) s
def execPnot (d : PReg) (x : Cond) (s : State) := runI (predicateOf (fun a _ => !a) d x.val 0) s
def execPmov (d : PReg) (x : Cond) (s : State) := runI (predicateOf (fun a _ => a) d x.val 0) s

/-! ## Transfers (R217 to R220) -/

/-- The checks of R217 on a target: `ALIGN` for bit 0, then `PAGE_ABSENT` outside 47 bits. -/
def checkTarget (t : Int) : M Unit := do
  needL (decide (t % 2 = 0)) fcAlign (ofI t)
  needP (decide (0 ≤ t ∧ t < 2 ^ 47)) fcPageAbsent (ofI t)

/-- The target of a relative transfer (R217). -/
def relTarget (off : Int) : M Int := do
  let x ← me
  pure ((x.pc : Int) + 2 * off)

/-- A transfer to a checked target. -/
def transfer (t : Int) : M Unit := do
  checkTarget t
  jump t.toNat

/-- `BR` (R218). -/
def execBr (c : Cond) (sense : Bool) (off : Int) (s : State) :=
  runI (do
    let x ← me
    if x.cond c.val = sense then
      let t ← relTarget off
      transfer t
    else pure ()) s

/-- `JMP` (R219). -/
def execJmp (off : Int) (s : State) := runI (do let t ← relTarget off; transfer t) s

/-- `JMPI` (R219). -/
def execJmpi (a : Reg) (s : State) :=
  runI (do
    ready [a.val] []
    let t ← readS a.val
    transfer t.toNat) s

/-- `LOOP` (R220). -/
def execLoop (g : Reg) (off : Int) (s : State) :=
  runI (do
    ready [g.val] [g.val]
    let x ← readS g.val
    writeS g.val (x - 1)
    if x - 1 = 0 then pure ()
    else
      let t ← relTarget off
      transfer t) s

/-! ## Calls and returns (R221) -/

/-- The effect of `CALL` and `CALLI` after the target is read (R221). -/
def callTo (t : Int) : M Unit := do
  checkTarget t
  memoryTurn
  ready [23] [23]
  let x ← me
  let sp := (x.g[23]!).toNat
  needL (decide (sp % 8 = 0)) fcAlign (ofN sp)
  needL (decide (x.sbase.toNat + 8 ≤ sp ∧ sp ≤ x.slim.toNat)) fcStackLimit (ofN sp)
  let s ← get
  needP (lmOwned (s.part x.part).banks (sp - 8) 8) fcPageRights (ofN sp)
  let o ← lmRange (sp - 8 : Nat) 8
  let s ← get
  lmStore o 8 s.iss.npc
  writeS 23 (ofN (sp - 8))
  jump t.toNat

/-- `CALL` (R221). -/
def execCall (off : Int) (s : State) := runI (do let t ← relTarget off; callTo t) s

/-- `CALLI` (R221). -/
def execCalli (a : Reg) (s : State) :=
  runI (do
    ready [a.val] []
    let t ← readS a.val
    callTo t.toNat) s

/-- `RET` (R221). -/
def retOp : M Unit := do
  memoryTurn
  ready [23] [23]
  let x ← me
  let sp := (x.g[23]!).toNat
  needL (decide (sp % 8 = 0)) fcAlign (ofN sp)
  needL (decide (x.sbase.toNat ≤ sp ∧ sp + 8 ≤ x.slim.toNat)) fcStackLimit (ofN sp)
  let s ← get
  needP (lmOwned (s.part x.part).banks sp 8) fcPageRights (ofN sp)
  let o ← lmRange (sp : Nat) 8
  let v ← lmLoad o 8
  checkTarget v
  writeS 23 (ofN (sp + 8))
  jump v

/-- `RET` (R221). -/
def execRet (s : State) := runI retOp s

/-! ## NOP, SIG, traps (R222, R225 to R227) -/

/-- `NOP` changes nothing but the PC (R222). -/
def execNop (s : State) := runI (pure ()) s

/-- `SIG` acts only through the checker at its issue (R204, R205). -/
def execSig (_imm : Nat) (s : State) := runI (pure ()) s

/-- `TRAP` (R225): TRAPADDR holds the length of the instruction and the immediate. -/
def execTrap (imm : Nat) (s : State) : Host.Outcome State Fault Refusal :=
  .next (trapOp fcTrap true (ofN (imm % 2 ^ 32 + s.iss.len * 2 ^ 32)) s)

/-- `ERET` (R226). -/
def execEret (s : State) := runI eretOp s

/-- `BRK` is always reported (R227). -/
def execBrk (s : State) : Host.Outcome State Fault Refusal := .next (trapOp fcBrk false 0 s)

/-- `WFE` (R228): parks until an event comes in its issue cycle or later. -/
def execWfe (s : State) :=
  runI (do
    let s ← get
    match s.me.run with
    | .waiting (.wfe ..) =>
      if s.me.event = 0 then waitOn (.wfe s.iss.npc (s.iss.ended s.iss.xfer))
      else updMe (fun x => { x with wokeAt := s.now + 1 })
    | _ =>
      if s.me.event = s.now + 1 then pure ()
      else waitKeep (.wfe s.iss.npc (s.iss.ended s.iss.xfer)) (fun s => s.setMe { s.me with event := 0 })) s

end Sys2Proof.Machine
end

