-- ==== Sys2Proof/Machine/Memory.lean ====
section
/-! DEFINITION. Loads, stores, LM and tile-tag forms, vector memory forms, atomics, HGATH and PREF (chapter 10, R234 to
R242, R252). -/

namespace Sys2Proof.Machine

/-! ## Scalar loads and stores (R234) -/

/-- A loaded value extended to 64 bits. -/
def extendLoaded (sgn : Bool) (n v : Nat) : Word := if sgn then ofI (sext (8 * n) v) else ofN v

/-- A scalar load of `n` bytes. An acquire at `.part` or `.dev` drops the core's untracked copy first, so that the home
serves the load (R328), and acts after it (R232). -/
def scalarLoad (o : Ord) (sc : Scope) (n : Nat) (sgn : Bool) (d a : Reg) (imm : Int) : M Unit := do
  memoryTurn
  ready [a.val] [d.val]
  let sc ← scopeFor .part sc
  let x ← readS a.val
  let ea := x + ofI imm
  aligned ea n
  let l ← locate .r true ea
  if acqOf o && wide sc then dropOwnU l else pure ()
  let v ← loadAt l n
  if acqOf o then acquireAt sc else pure ()
  writeS d.val (extendLoaded sgn n v)

/-- A scalar store of `n` bytes. A release acts before it, and at `.part` or `.dev` its bytes are written through
(R232, R328). -/
def scalarStore (o : Ord) (sc : Scope) (n : Nat) (d a : Reg) (imm : Int) : M Unit := do
  memoryTurn
  ready [d.val, a.val] []
  let sc ← scopeFor .part sc
  let v ← readS d.val
  let x ← readS a.val
  let ea := x + ofI imm
  aligned ea n
  let l ← locate .w true ea
  if relOf o then releaseAt sc else pure ()
  storeAt l n v.toNat
  if relOf o && wide sc then throughU l else pure ()

def execLdZ8 (d a : Reg) (imm : Int) (s : State) := runI (scalarLoad .none .dflt 1 false d a imm) s
def execLdZ16 (d a : Reg) (imm : Int) (s : State) := runI (scalarLoad .none .dflt 2 false d a imm) s
def execLdZ32 (d a : Reg) (imm : Int) (s : State) := runI (scalarLoad .none .dflt 4 false d a imm) s
def execLdZ64 (d a : Reg) (imm : Int) (s : State) := runI (scalarLoad .none .dflt 8 false d a imm) s
def execLdS8 (d a : Reg) (imm : Int) (s : State) := runI (scalarLoad .none .dflt 1 true d a imm) s
def execLdS16 (d a : Reg) (imm : Int) (s : State) := runI (scalarLoad .none .dflt 2 true d a imm) s
def execLdS32 (d a : Reg) (imm : Int) (s : State) := runI (scalarLoad .none .dflt 4 true d a imm) s
def execStZ8 (d a : Reg) (imm : Int) (s : State) := runI (scalarStore .none .dflt 1 d a imm) s
def execStZ16 (d a : Reg) (imm : Int) (s : State) := runI (scalarStore .none .dflt 2 d a imm) s
def execStZ32 (d a : Reg) (imm : Int) (s : State) := runI (scalarStore .none .dflt 4 d a imm) s
def execStZ64 (d a : Reg) (imm : Int) (s : State) := runI (scalarStore .none .dflt 8 d a imm) s

def execLdZ8Ordered (o : Ord) (sc : Scope) (d a : Reg) (imm : Int) (s : State) :=
  runI (scalarLoad o sc 1 false d a imm) s
def execLdZ16Ordered (o : Ord) (sc : Scope) (d a : Reg) (imm : Int) (s : State) :=
  runI (scalarLoad o sc 2 false d a imm) s
def execLdZ32Ordered (o : Ord) (sc : Scope) (d a : Reg) (imm : Int) (s : State) :=
  runI (scalarLoad o sc 4 false d a imm) s
def execLdZ64Ordered (o : Ord) (sc : Scope) (d a : Reg) (imm : Int) (s : State) :=
  runI (scalarLoad o sc 8 false d a imm) s
def execLdS8Ordered (o : Ord) (sc : Scope) (d a : Reg) (imm : Int) (s : State) :=
  runI (scalarLoad o sc 1 true d a imm) s
def execLdS16Ordered (o : Ord) (sc : Scope) (d a : Reg) (imm : Int) (s : State) :=
  runI (scalarLoad o sc 2 true d a imm) s
def execLdS32Ordered (o : Ord) (sc : Scope) (d a : Reg) (imm : Int) (s : State) :=
  runI (scalarLoad o sc 4 true d a imm) s
def execStZ8Ordered (o : Ord) (sc : Scope) (d a : Reg) (imm : Int) (s : State) := runI (scalarStore o sc 1 d a imm) s
def execStZ16Ordered (o : Ord) (sc : Scope) (d a : Reg) (imm : Int) (s : State) := runI (scalarStore o sc 2 d a imm) s
def execStZ32Ordered (o : Ord) (sc : Scope) (d a : Reg) (imm : Int) (s : State) := runI (scalarStore o sc 4 d a imm) s
def execStZ64Ordered (o : Ord) (sc : Scope) (d a : Reg) (imm : Int) (s : State) := runI (scalarStore o sc 8 d a imm) s

/-! ## LM forms and tile tags (R235 to R237) -/

/-- Alignment of an LM access, after its range check (R231). -/
def lmAligned (o n : Nat) : M Unit := needL (decide (o % n = 0)) fcAlign (ofN o)

/-- `LD.L` of `n` bytes (R235). -/
def localLoad (n : Nat) (sgn : Bool) (d a : Reg) (imm : Int) : M Unit := do
  memoryTurn
  ready [a.val] [d.val]
  let x ← readS a.val
  let o ← lmRange (x.toInt + imm) n
  lmAligned o n
  let v ← lmLoad o n
  writeS d.val (extendLoaded sgn n v)

/-- `ST.L` of `n` bytes (R235). -/
def localStore (n : Nat) (d a : Reg) (imm : Int) : M Unit := do
  memoryTurn
  ready [d.val, a.val] []
  let v ← readS d.val
  let x ← readS a.val
  let o ← lmRange (x.toInt + imm) n
  lmAligned o n
  lmStore o n v.toNat

def execLdLZ64 (d a : Reg) (imm : Int) (s : State) := runI (localLoad 8 false d a imm) s
def execStLZ64 (d a : Reg) (imm : Int) (s : State) := runI (localStore 8 d a imm) s
def execLdL (t : ElemTy) (d a : Reg) (imm : Int) (s : State) :=
  runI (localLoad (elemBits t / 8) (elemSigned t) d a imm) s
def execStL (t : ElemTy) (d a : Reg) (imm : Int) (s : State) := runI (localStore (elemBits t / 8) d a imm) s

/-- `LDT` (R236, R371): the tag is checked, then its age, then the word is loaded. -/
def ldtOp (scanOnly : Bool) (d a b : Reg) : M Unit := do
  memoryTurn
  ready [a.val, b.val] [d.val]
  let x ← readS a.val
  let e ← readS b.val
  let o ← lmRange x.toNat 8
  lmAligned o 8
  let k ← myCore
  if (lmBanksOf o 8).any (fun b => k.fenced b) || k.tagBad.any (fun b => decide (b = o / 256)) then lmFault 2 o else pure ()
  let tag := ofN (k.tag (o / 256)).toNat
  needL (decide (fld tag 47 16 = fld e 47 16) && (scanOnly || decide (fld tag 15 0 = fld e 15 0))) fcScheduleTag (ofN o)
  let age := (k.scan + 2 ^ 32 - fld tag 47 16) % 2 ^ 32
  let s ← get
  let p := s.me.part
  let w := s.part p
  if fld w.w9 7 0 < age then
    if bitOf w.w9 8 then
      upd (fun s => s.setPart p { s.part p with staleSub := (s.part p).staleSub + 1 })
      writeS d.val w.w10
    else faultL fcStaleData (ofN o)
  else
    let v ← lmLoad o 8
    writeS d.val (ofN v)

def execLdt (scanOnly : Bool) (d a b : Reg) (s : State) := runI (ldtOp scanOnly d a b) s

/-- `STT` (R237). -/
def execStt (a b : Reg) (s : State) :=
  runI (do
    memoryTurn
    ready [a.val, b.val] []
    let x ← readS a.val
    let t ← readS b.val
    let o ← lmRange x.toNat 1
    let k ← myCore
    if (lmBanksOf o 1).any (fun b => k.fenced b) then lmFault 2 o else pure ()
    updCore (fun k => k.setTag (o / 256) (BitVec.ofNat 48 t.toNat))) s

/-! ## Vector memory forms (R238) -/

/-- Checks one element: a place in LM or in global memory. -/
def elemPlace (lm : Bool) (need : Need) (n : Nat) (base : Word) (off : Int) : M Loc := do
  if lm then
    let o ← lmRange (base.toInt + off) n
    lmAligned o n
    pure { key := o, attr := 0, etol := false, exp := false, leaf := 0, leafPa := 0, va := o }
  else
    let ea := base + ofI off
    aligned ea n
    locate need false ea

/-- Reads one checked element. -/
def elemLoad (lm : Bool) (n : Nat) (l : Loc) : M Nat := if lm then lmLoad l.key n else loadAt l n

/-- Writes one checked element. -/
def elemStore (lm : Bool) (n : Nat) (l : Loc) (v : Nat) : M Unit :=
  if lm then lmStore l.key n v else storeAt l n v

/-- Reads checked elements in lane order. A poisoned sector that a load tolerates counts once in SUBCNT, whichever
number of its elements the load reads (R233, R238). -/
def elemLoads (lm : Bool) (n : Nat) : List Loc → List Nat → M (List Nat)
  | [], _ => pure []
  | l :: ls, seen => do
    let c := (← me).subcnt
    let v ← elemLoad lm n l
    let hit := decide ((← me).subcnt ≠ c)
    if hit && decide (l.key / 32 ∈ seen) then updMe (fun x => { x with subcnt := c }) else pure ()
    let vs ← elemLoads lm n ls (if hit then l.key / 32 :: seen else seen)
    pure (v :: vs)

/-- The elements at the given offsets from a base: every element is checked before any is read. -/
def gather (lm : Bool) (w : Nat) (base : Word) (offs : List Int) : M VWord := do
  let ls ← offs.mapM (elemPlace lm .r (w / 8) base)
  let vs ← elemLoads lm (w / 8) ls []
  pure (ofLanes w vs)

/-- The 32-bit index lanes of a gather or scatter, as many as the data lanes (R238). -/
def indexLanes (w : Nat) (x : VWord) : List Int := ((lanesOf 32 x).take (512 / w)).map (fun (i : Nat) => (i : Int))

def startVld (lm : Bool) (v : VReg) (l : List Word) : M Unit := do
  let p ← elemPlace lm .r 64 (src l 0) 0
  let w ← elemLoad lm 64 p
  writeV v (BitVec.ofNat 512 w)
def execVld (lm : Bool) (v : VReg) (a : Reg) (s : State) := runI (engineIssue (.vld lm v a)) s

def startVst (lm : Bool) (v : VReg) (l : List Word) : M Unit := do
  let p ← elemPlace lm .w 64 (src l 0) 0
  let w ← readV v
  elemStore lm 64 p w.toNat
  storesDone
def execVst (lm : Bool) (v : VReg) (a : Reg) (s : State) := runI (engineIssue (.vst lm v a)) s

def startVlds (lm : Bool) (t : ElemTy) (v : VReg) (l : List Word) : M Unit := do
  let w := elemBits t
  let r ← gather lm w (src l 0) ((List.range (512 / w)).map (fun (i : Nat) => (i : Int) * (src l 1).toInt))
  writeV v r
def execVlds (lm : Bool) (t : ElemTy) (v : VReg) (a b : Reg) (s : State) :=
  runI (engineIssue (.vlds lm t v a b)) s

def startVgath (lm : Bool) (t : ElemTy) (v : VReg) (x : VReg) (l : List Word) : M Unit := do
  let idx ← readV x
  let r ← gather lm (elemBits t) (src l 0) (indexLanes (elemBits t) idx)
  writeV v r
def execVgath (lm : Bool) (t : ElemTy) (v : VReg) (a : Reg) (x : VReg) (s : State) :=
  runI (engineIssue (.vgath lm t v a x)) s

def startVscat (lm : Bool) (t : ElemTy) (v : VReg) (x : VReg) (l : List Word) : M Unit := do
  let w := elemBits t
  let idx ← readV x
  let val ← readV v
  let ls ← (indexLanes w idx).mapM (elemPlace lm .w (w / 8) (src l 0))
  (ls.zip (lanesOf w val)).forM (fun e => elemStore lm (w / 8) e.1 e.2)
  storesDone
def execVscat (lm : Bool) (t : ElemTy) (v : VReg) (a : Reg) (x : VReg) (s : State) :=
  runI (engineIssue (.vscat lm t v a x)) s

/-! ## PREF (R252) -/

/-- `PREF` changes no architectural state (R252): where translation allows, the core takes a copy of the sector, or the home
slice the line; where a walk has to come first, the walk is all that it starts. -/
def execPref (home : Bool) (a : Reg) (s : State) :=
  runI (do
    ready [a.val] []
    let x ← readS a.val
    upd (fun s =>
      match s.xlate s.asker s.me.ptroot .r false x.toNat with
      | (t, .ok l) =>
        if decide (l.attr = 2) || isUnbacked l.key then t
        else if !home && decide (l.attr = 0) then t.fetchSector t.me.part t.myCore (l.key / 32)
        else t.atHome t.me.part l.key
      | (_, .error .walk) => s.queueWalk (clusterOf s.myCore) [] s.me.ptroot x.toNat
      | (t, .error _) => t)) s

/-! ## Atomics (R239, R240, R242) -/

/-- The launch entry of a slot's task, counted over the partitions (R344). -/
def State.launchOf (s : State) (gs : Nat) : Option Nat :=
  (s.slot gs).task.bind (fun t => t.packet.map (fun p => t.part * 16 + p.1))

/-- Whether a traced AMO is that of a slot's task (R242): the task is named by partition, launch and WID. -/
def State.tracedBy (s : State) (gs : Nat) (t : TracedAmo) : Bool :=
  decide (t.via.part = (s.slot gs).part ∧ t.wid = (s.slot gs).wid ∧ t.launch = s.launchOf gs)

/-- The tracing barrier of the slot's launch, TRACEBAR of its header (R242, R344). -/
def State.traceBar (s : State) (gs : Nat) : Nat :=
  match (s.slot gs).task with
  | some t =>
    match t.packet with
    | some (launch, _, _) => ofBytes (((s.launches.val (t.part * 16 + launch) Launch.reset).header.drop 64).take 8)
    | none => 0
  | none => 0

/-- A barrier object for the executing slot: aligned, with R and W, ATTR 0 or 1 (R244). -/
def barLoc (va : Word) : M Loc := do
  aligned va 32
  locate .rw false va

/-- Its home key. -/
def barPlace (va : Word) : M Nat := do
  let l ← barLoc va
  pure l.key

/-- Raises `PAGE_RIGHTS` unless the object may be used by the slot's partition (R244). -/
def barValid (key part : Nat) (va : Word) : M Bar := do
  let s ← get
  let (t, b) := s.barAt key
  set t
  needP (b.ok part) fcPageRights va
  pure b

/-- The poison check of an AMO, RED or counter at its word, after the recall of its sector (R96, R98, R403): with ETOL the
sector is zeroed and counted; otherwise an AMO raises `POISON`. -/
def amoPoison (l : Loc) (raises : Bool) : M Unit := do
  upd (fun s => (s.atHome s.me.part l.key).recallSector l.key)
  let s ← get
  if s.isPoisoned l.key then
    if l.etol then
      set (s.zeroed l.key)
      updMe (fun x => { x with subcnt := x.subcnt + 1 })
    else if raises then faultP fcPoison (ofN l.va)
    else pure ()
  else pure ()

/-- An arrival of the executing slot at a barrier for itself alone: `BARRIER_OVERRUN` when it is refused, with the
refusal counted (R244). -/
def arriveAlone (key : Nat) : M Nat := do
  let s ← get
  match s.barArrive key with
  | (t, some ph) => do
    set t
    pure ph
  | (_, none) => faultKeep fcBarrierOverrun false (fun s => (s.barArrive key).1)

/-- The combiner of the executing slot's core for an object. -/
def State.combinerFor (s : State) (key : Nat) : Option Combiner :=
  (s.core s.myCore).combiners.find? (fun c => decide (c.key = key))

/-- Replaces the combiner of the executing slot's core for an object. -/
def State.putCombiner (s : State) (c : Combiner) : State :=
  s.setCombiners s.myCore ((s.core s.myCore).combiners.map (fun e => if e.key = c.key then c else e))

/-- One arrival of the executing slot (R247): a member's is counted in its combiner, which forwards when every member
has arrived; any other goes home alone. Answers the phase arrived in. -/
def arrive (key : Nat) : M Nat := do
  let s ← get
  let slot := s.cur % 16
  match s.combinerFor key with
  | none => arriveAlone key
  | some c =>
    if c.members.any (fun m => decide (m = slot)) then
      needP (!c.arrived.any (fun m => decide (m = slot))) fcBarrierOverrun
      let d : Combiner := { c with arrived := c.arrived ++ [slot] }
      if d.full then
        match (s.putCombiner { d with arrived := [] }).barArrive key with
        | (t, some ph) => do
          set t
          pure ph
        | (_, none) =>
          faultKeep fcBarrierOverrun false (fun s => ((s.putCombiner { d with arrived := [] }).barArrive key).1)
      else
        set (s.putCombiner d)
        pure (s.barAt key).2.phase
    else arriveAlone key

/-- Sign or zero extension of an AMO's old word (R239). -/
def amoResult (op : RedOp) (w32 : Bool) (old : Nat) : Word :=
  if w32 && (decide (op = .min) || decide (op = .max)) then ofI (sext 32 old) else ofN old

/-- The operation of an AMO at its word (R98 steps 2 to 4, R239), with the acquire and the old word. -/
def amoApply (op : RedOp) (o : Ord) (sc : Scope) (w32 : Bool) (l : Loc) (cmp v : Word) : M Word := do
  amoPoison l true
  let s ← get
  let (t, old) := s.takeWord l.key w32
  set t
  let w := redBits w32
  if op = .cas ∧ old ≠ cmp.toNat % 2 ^ w then pure ()
  else upd (fun s => s.putWord l.key w32 (redVal op w old (v.toNat % 2 ^ w)))
  if acqOf o then acquireAt sc else pure ()
  pure (amoResult op w32 old)

/-- The reservations in the queue of a slice (R98). -/
def Slice.reservations (x : Slice) : Nat := (x.amo.filter (fun r => decide (r.op = .reserve))).length

/-- An AMO in free mode (R98, R239). With nothing on its word and room in the queue it reserves, computes and releases in
one step; otherwise its reservation joins the queue, and the AMO acts once that is granted. -/
def amoFree (op : RedOp) (o : Ord) (sc : Scope) (w32 : Bool) (l : Loc) (cmp v : Word) : M Word := do
  let s ← get
  match s.amoOf s.cur with
  | some (n, r) =>
    if sameWord r.key l.key then
      needW r.granted
      let w ← amoApply op o sc w32 l cmp v
      upd (fun s => s.amoLeave n r)
      pure w
    else waitKeep .retry (fun s => s.amoLeave n r)
  | none =>
    if relOf o then releaseAt sc else pure ()
    dropOwnU l
    let t ← get
    let x := t.slice (t.homeSlice l.key)
    if !t.reserved l.key && decide (x.reservations < 64) then amoApply op o sc w32 l cmp v
    else
      let e : AmoRes := { key := l.key, core := t.myCore, slot := t.cur, granted := false
                          via := l.via t.me.ptroot, etol := l.etol }
      waitKeep .retry (fun s => (t.keepWords s).setAmo (t.homeSlice l.key) (x.amo ++ [e]))

/-- An AMO in tracing mode (R242): an arrival on the tracing barrier of its launch. It takes its place in the fold of the
phase, and returns with an acquire at the barrier's SCOPE (R245) once the phase has completed. A thread that no launch has bound has
no barrier to arrive at and raises `ATOMIC_ORDER`, as one of a launch with TRACEBAR 0 does: a DESIGN CHOICE (assumption 101). -/
def amoTraced (op : RedOp) (o : Ord) (sc : Scope) (w32 : Bool) (l : Loc) (v : Word) : M Word := do
  let s ← get
  let x := s.me
  let bar := s.traceBar s.cur
  needP (!decide (bar = 0)) fcAtomicOrder
  let mine := s.tracedBy s.cur
  match s.traced.find? mine with
  | some t =>
    match t.result with
    | none => waitOn .sync
    | some old =>
      upd (fun s => { s with traced := s.traced.filter (fun u => !mine u) })
      acquireAt (scopeOf (s.barAt t.barKey).2.scope)
      if acqOf o then acquireAt sc else pure ()
      pure (amoResult op w32 old.toNat)
  | none =>
    if relOf o then releaseAt sc else pure ()
    dropOwnU l
    amoPoison l true
    let key ← barPlace (ofN bar)
    let b ← barValid key x.part (ofN bar)
    releaseAt (scopeOf b.scope)
    let ph ← arrive key
    let t ← get
    let e : TracedAmo := { slot := s.cur, wid := x.wid, barKey := key, phase := ph, key := l.key, op := op, w32 := w32
                           arg := v, result := none, via := l.via x.ptroot, launch := s.launchOf s.cur }
    waitKeep .sync (fun s => { t.keepWords s with traced := t.traced ++ [e] })

/-- Whether the slot's AMO has been counted in an earlier try (R242, R327): in tracing mode, while its arrival stands. -/
def State.amoTried (s : State) : Bool :=
  decide (s.me.mode = 2) && s.traced.any (s.tracedBy s.cur) || (s.amoOf s.cur).isSome

/-- The place of an AMO: one that has reserved its word, or arrived on the tracing barrier, keeps the translation that it has
used (R84 step 3). -/
def amoPlace (ea : Word) : M Loc := do
  let s ← get
  let kept := fun (key : Nat) (etol : Bool) =>
    ({ key := key, attr := 0, etol := etol, exp := false, leaf := 0, leafPa := 0, va := ea.toNat } : Loc)
  match s.amoOf s.cur with
  | some (_, r) =>
    if r.via.page = ea.toNat / 16384 ∧ r.key % 16384 = ea.toNat % 16384 then pure (kept r.key r.etol) else locate .rw false ea
  | none =>
    if decide (s.me.mode = 2) && s.traced.any (s.tracedBy s.cur) then pure (kept 0 false) else locate .rw false ea

/-- A value-returning AMO (R98, R239, R242). -/
def amoOp (op : RedOp) (o : Ord) (sc : Scope) (w32 : Bool) (d a b : Reg) : M Unit := do
  let cas := decide (op = .cas)
  memoryTurn
  ready ((if cas then [d.val] else []) ++ [a.val, b.val]) [d.val]
  let s ← get
  let clamps := s.me.clampcnt
  let sc ← scopeFor .part sc
  if s.amoTried then updMe (fun x => { x with clampcnt := clamps }) else pure ()
  let cmp ← if cas then readS d.val else pure 0
  let ea ← readS a.val
  let v ← readS b.val
  let x ← me
  needP (!decide (x.mode = 1) && !(decide (x.mode = 2) && cas)) fcAtomicOrder
  aligned ea (redBits w32 / 8)
  let l ← amoPlace ea
  let w ← if x.mode = 2 then amoTraced op o sc w32 l v else amoFree op o sc w32 l cmp v
  writeS d.val w

def execAmoSwap (o : Ord) (sc : Scope) (w32 : Bool) (d a b : Reg) (s : State) := runI (amoOp .swap o sc w32 d a b) s
def execAmoCas (o : Ord) (sc : Scope) (w32 : Bool) (d a b : Reg) (s : State) := runI (amoOp .cas o sc w32 d a b) s
def execAmoFadd (o : Ord) (sc : Scope) (w32 : Bool) (d a b : Reg) (s : State) := runI (amoOp .add o sc w32 d a b) s
def execAmoFand (o : Ord) (sc : Scope) (w32 : Bool) (d a b : Reg) (s : State) := runI (amoOp .and o sc w32 d a b) s
def execAmoFor (o : Ord) (sc : Scope) (w32 : Bool) (d a b : Reg) (s : State) := runI (amoOp .or o sc w32 d a b) s
def execAmoFxor (o : Ord) (sc : Scope) (w32 : Bool) (d a b : Reg) (s : State) := runI (amoOp .xor o sc w32 d a b) s
def execAmoFmin (o : Ord) (sc : Scope) (w32 : Bool) (d a b : Reg) (s : State) := runI (amoOp .min o sc w32 d a b) s
def execAmoFmax (o : Ord) (sc : Scope) (w32 : Bool) (d a b : Reg) (s : State) := runI (amoOp .max o sc w32 d a b) s
def execAmoFminz (o : Ord) (sc : Scope) (w32 : Bool) (d a b : Reg) (s : State) := runI (amoOp .minz o sc w32 d a b) s
def execAmoFmaxz (o : Ord) (sc : Scope) (w32 : Bool) (d a b : Reg) (s : State) := runI (amoOp .maxz o sc w32 d a b) s

/-- A RED (R96, R240, R242): an integer RED runs in every mode, `RED.FADD` only in free mode. -/
def redOp (op : RedOp) (o : Ord) (sc : Scope) (w32 : Bool) (a b : Reg) : M Unit := do
  memoryTurn
  ready [a.val, b.val] []
  let sc ← scopeFor .part sc
  let ea ← readS a.val
  let v ← readS b.val
  let x ← me
  needP (!decide (op = .fadd) || decide (x.mode = 0)) fcAtomicOrder
  aligned ea (redBits w32 / 8)
  let l ← locate .w false ea
  if relOf o then releaseAt sc else pure ()
  dropOwnU l
  let s ← get
  needW (!s.reserved l.key)
  amoPoison l false
  upd (fun s => s.redApply op w32 l.key v)

def execRedAdd (o : Ord) (sc : Scope) (w32 : Bool) (a b : Reg) (s : State) := runI (redOp .add o sc w32 a b) s
def execRedAnd (o : Ord) (sc : Scope) (w32 : Bool) (a b : Reg) (s : State) := runI (redOp .and o sc w32 a b) s
def execRedOr (o : Ord) (sc : Scope) (w32 : Bool) (a b : Reg) (s : State) := runI (redOp .or o sc w32 a b) s
def execRedXor (o : Ord) (sc : Scope) (w32 : Bool) (a b : Reg) (s : State) := runI (redOp .xor o sc w32 a b) s
def execRedMin (o : Ord) (sc : Scope) (w32 : Bool) (a b : Reg) (s : State) := runI (redOp .min o sc w32 a b) s
def execRedMax (o : Ord) (sc : Scope) (w32 : Bool) (a b : Reg) (s : State) := runI (redOp .max o sc w32 a b) s
def execRedMinz (o : Ord) (sc : Scope) (w32 : Bool) (a b : Reg) (s : State) := runI (redOp .minz o sc w32 a b) s
def execRedMaxz (o : Ord) (sc : Scope) (w32 : Bool) (a b : Reg) (s : State) := runI (redOp .maxz o sc w32 a b) s
def execRedFadd (o : Ord) (sc : Scope) (a b : Reg) (s : State) := runI (redOp .fadd o sc true a b) s

/-! ## HGATH (R97, R241) -/

/-- A gather of partition `p` reaches the home of its line, and meets the uncorrectable words of it (R90, R97, R401). -/
def State.lineAtHome (s : State) (p key : Nat) : State :=
  (sectorsOf key).foldl (fun s sec => s.meetBad (sec * 32)) (s.atHome p key)

/-- The words of a line that a selector names, packed, as they stand at the home; a word whose bit 7 is set is zero.
A poisoned word is zero with ETOL, and each poisoned sector read counts (R233). -/
def hgathWords (s : State) (key : Nat) (sel : Word) : VWord × List Nat :=
  let at_ := fun i => key + 8 * nbits sel.toNat (8 * i + 4) (8 * i)
  let used := (List.range 8).filter (fun i => !bitOf sel (8 * i + 7))
  let bad := ((used.map (fun i => at_ i / 32)).eraseDups).filter (fun sec => s.isPoisoned (sec * 32))
  (ofLanes 64 ((List.range 8).map (fun i =>
    if bitOf sel (8 * i + 7) || s.isPoisoned (at_ i) then 0 else (s.homeWord (at_ i)).toNat)), bad)

/-- The core's own untracked copies of a line after a gather at its home (R330): the bytes that the core has not written are
fetched again by the next access, so that no access of a slot returns an earlier write than the gather did. -/
def State.refreshU (s : State) (c key : Nat) : State :=
  (sectorsOf key).foldl (fun s sec =>
    match s.l1 c sec with
    | some l =>
      if l.st = .u then (if l.dirty = 0 then s.dropL1 c sec else s.setL1 c sec { l with unfetched := ~~~l.dirty }) else s
    | none => s) s

/-- `HGATH` (R241): it recalls no L1D copy. -/
def execHgath (v : VReg) (a b : Reg) (s : State) :=
  runI (do
    memoryTurn
    engineIdle
    ready [a.val, b.val] []
    let ea ← readS a.val
    let sel ← readS b.val
    aligned ea 256
    let l ← locate .r false ea
    upd (fun s => s.lineAtHome s.me.part l.key)
    let s ← get
    set (s.refreshU s.myCore l.key)
    let (w, bad) := hgathWords s l.key sel
    match bad with
    | [] => pure ()
    | sec :: _ =>
      if l.etol then updMe (fun x => { x with subcnt := x.subcnt + ofN bad.length })
      else faultP fcPoison (ea + ofN (sec * 32 - l.key))
    writeV v w) s

end Sys2Proof.Machine
end

