-- ==== Sys2Proof/Machine/SyncOps.lean ====
section
/-! DEFINITION. Fences, barrier objects, waiting, scan alignment and event counters (chapter 10, R243 to R250). -/

namespace Sys2Proof.Machine

/-- `FENCE` (R243): stores are performed at once in this model, so a fence waits only for the memory instructions
before it. -/
def execFence (o : Ord) (sc : Scope) (s : State) :=
  runI (do
    memoryTurn
    let sc ← scopeFor .part sc
    if relOf o then releaseAt sc else pure ()
    if acqOf o then acquireAt sc else pure ()) s

/-! ## Arrivals (R244, R247) -/

/-- The object that a barrier instruction names, checked (R244). -/
def barNamed (a : Reg) : M (Nat × Bar) := do
  let va ← readS a.val
  let key ← barPlace va
  let x ← me
  let b ← barValid key x.part va
  pure (key, b)

/-- `BAR.ARR` (R246). -/
def execBarArr (d a : Reg) (s : State) :=
  runI (do
    memoryTurn
    ready [a.val] [d.val]
    let (key, b) ← barNamed a
    releaseAt (scopeOf b.scope)
    let ph ← arrive key
    writeS d.val (ofN ph)) s

/-- `BAR.WAIT` (R246): completion acts as an acquire at the object's SCOPE (R245). -/
def execBarWait (a b : Reg) (s : State) :=
  runI (do
    memoryTurn
    ready [a.val, b.val] []
    let (_, o) ← barNamed a
    let ph ← readS b.val
    needSync (!decide (o.phase = fld ph 15 0))
    acquireAt (scopeOf o.scope)) s

/-- `BAR.AW` (R246): the arrival is made once, and the phase it fell in is kept while the slot waits. -/
def execBarAw (d a : Reg) (s : State) :=
  runI (do
    memoryTurn
    ready [a.val] [d.val]
    let (key, b) ← barNamed a
    let x ← me
    match x.awPhase with
    | some ph =>
      needSync (!decide (b.phase = ph))
      acquireAt (scopeOf b.scope)
      updMe (fun x => { x with awPhase := none })
      writeS d.val (ofN ph)
    | none =>
      releaseAt (scopeOf b.scope)
      let ph ← arrive key
      let t ← get
      if (t.barAt key).2.phase = ph then
        waitKeep .sync (fun s => (t.keepWords s).setMe { (t.keepWords s).me with awPhase := some ph })
      else
        acquireAt (scopeOf b.scope)
        writeS d.val (ofN ph)) s

/-- `BAR.EXP` (R246, R247). -/
def execBarExp (dereg : Bool) (d a : Reg) (s : State) :=
  runI (do
    memoryTurn
    ready [a.val] [d.val]
    let (key, _) ← barNamed a
    let s ← get
    let slot := s.cur % 16
    match s.combinerFor key with
    | some c =>
      if dereg then
        if c.members.any (fun m => decide (m = slot)) then
          upd (fun s => s.leaveCombiner s.myCore slot c)
          writeS d.val 1
        else writeS d.val 0
      else
        needW c.arrived.isEmpty
        upd (fun s => s.putCombiner { c with members := insertNew slot c.members })
        writeS d.val 1
    | none =>
      if dereg ∨ 8 ≤ (s.core s.myCore).combiners.length then writeS d.val 0
      else
        upd (fun s => s.setCombiners s.myCore ((s.core s.myCore).combiners ++
          [{ key := key, part := s.me.part, members := [slot], arrived := [] }]))
        writeS d.val 1) s

/-- Code of a scope as an object holds it. -/
def scopeCode : Scope → Nat
  | .dflt => 0
  | .slot => 1
  | .core => 2
  | .die => 3
  | .part => 4
  | .dev => 5

/-- The object that `BAR.INIT` leaves (R246). -/
def Bar.init (o : Bar) (sc expect level part : Nat) : Bar :=
  { w0 := ofN (expect * 2 ^ 44 + (o.phase + 1) % 65536 * 256 + sc * 32 + level * 4 + 1)
    w1 := ofN o.pending, w2 := ofN part, w3 := o.w3 }

/-- `BAR.INIT` (R246): the phase rises, which wakes the waiters of the old one. -/
def execBarInit (sc : Scope) (a b c : Reg) (s : State) :=
  runI (do
    memoryTurn
    ready [a.val, b.val, c.val] []
    let sc ← scopeFor .part sc
    let va ← readS a.val
    let e ← readS b.val
    let l ← readS c.val
    needP (decide (fld e 63 20 = 0 ∧ fld l 63 3 = 0 ∧ fld l 2 0 ≠ 7)) fcIllegalOpcode
    let key ← barPlace va
    let s ← get
    let (t, o) := s.barAt key
    needP (!bitOf o.w0 0 || decide (fld o.w2 3 0 = s.me.part)) fcPageRights va
    let n := o.init (scopeCode sc) (fld e 19 0) (fld l 2 0) s.me.part
    set ((t.setBar key n).afterTest key o n)) s

/-! ## Event counters (R250) -/

/-- `EVT.ADD` (R250, R403). -/
def execEvtAdd (sc : Scope) (a b : Reg) (s : State) :=
  runI (do
    memoryTurn
    ready [a.val, b.val] []
    let sc ← scopeFor .part sc
    let ea ← readS a.val
    let v ← readS b.val
    aligned ea 8
    let l ← locate .rw false ea
    releaseAt sc
    dropOwnU l
    let s ← get
    needW (!s.reserved l.key)
    amoPoison l false
    upd (fun s => s.redApply .add false l.key v)) s

/-- Whether the executing slot holds, or can take, a place in the watch table of a slice (R250). -/
def State.canWatch (s : State) (n : Nat) : Bool :=
  (s.slice n).watch.any (fun w => decide (w.2.2 = s.cur)) || decide ((s.slice n).watch.length < 64)

/-- The entry that an unmet `EVT.WAIT` takes in the watch table of its slice, when one is free (R250). -/
def State.watchCounter (s : State) (key thr : Nat) : State :=
  let n := s.homeSlice key
  let x := s.slice n
  if s.canWatch n then
    s.setSlice n { x with watch := x.watch.filter (fun w => !decide (w.2.2 = s.cur)) ++ [(key, thr, s.cur)] }
  else s

/-- `EVT.WAIT` (R250, R403). -/
def execEvtWait (sc : Scope) (a b : Reg) (s : State) :=
  runI (do
    memoryTurn
    ready [a.val, b.val] []
    let sc ← scopeFor .part sc
    let ea ← readS a.val
    let thr ← readS b.val
    aligned ea 8
    let l ← locate .rw false ea
    dropOwnU l
    let s ← get
    let (t, w) := s.takeWord l.key false
    set t
    let v ← if t.isPoisoned l.key then (do poisonAt l.etol ea; pure 0) else pure w
    if thr.toNat ≤ v then
      upd (fun s => s.dropWaits s.cur)
      acquireAt sc
    else
      waitKeep (.event l.key thr.toNat (s.canWatch (s.homeSlice l.key)) (l.via s.me.ptroot)) (fun s => s.watchCounter l.key thr.toNat)) s

/-! ## WAIT and REALIGN (R248, R249) -/

/-- Conditions 0 to 31 of a slot as bits. -/
def Slot.condMask (x : Slot) : Nat := ((List.range 32).map (fun n => b2n (x.cond n) * 2 ^ n)).sum

/-- Whether the masked conditions wake a `WAIT` (R248); a mask of zero completes at once. -/
def wakes (mask conds : Nat) (all : Bool) : Bool :=
  decide (mask = 0) || (if all then decide (mask &&& conds = mask) else !decide (mask &&& conds = 0))

/-- What an instruction that issues again goes on waiting for: the wake that it has had, or the tick or beat of its first
issue. -/
def Slot.keptWait (x : Slot) : WaitFor :=
  match x.run with
  | .waiting (.woken c t) => .woken c t
  | .waiting (.tick n) => .tick n
  | .waiting (.beat n b) => .beat n b
  | _ => .retry

/-- The issue condition of an instruction that parks: what it has waited for stays. -/
def readyKept (reads writes : List Nat) : M Unit := fun s =>
  match ready reads writes s with
  | .error (.wait _ keep) => .error (.wait s.me.keptWait keep)
  | r => r

/-- `WAIT` (R248): while the slot waits, its field `waitLeft` holds the cycle at which the time-out ends the wait; a slot
that has been woken writes what was sampled at its wake. -/
def execWait (all : Bool) (d a b : Reg) (s : State) :=
  runI (do
    readyKept [a.val, b.val] [d.val]
    let m ← readS a.val
    let t ← readS b.val
    let s ← get
    let x := s.me
    let mask := fld m 31 0
    let conds := x.condMask
    let limit := match x.waitLeft with
      | some c => some c
      | none => if fld t 31 0 = 0 then none else some (s.now + fld t 31 0)
    let expired := match limit with
      | some c => decide (c ≤ s.now)
      | none => false
    match x.run with
    | .waiting (.woken c e) =>
      updMe (fun x => { x with waitLeft := none })
      writeS d.val (ofN (c + b2n e * 2 ^ 32))
    | _ =>
    if wakes mask conds all then
      updMe (fun x => { x with waitLeft := none })
      writeS d.val (ofN conds)
    else if expired then
      updMe (fun x => { x with waitLeft := none })
      writeS d.val (ofN (conds + 2 ^ 32))
    else waitKeep (.conds mask all) (fun s => s.setMe { s.me with waitLeft := limit })) s

/-- `REALIGN` (R249): the tick or beat that it waits for is one that follows its issue. -/
def execRealign (beat : Bool) (d : Reg) (s : State) :=
  runI (do
    readyKept [] [d.val]
    let s ← get
    let k := s.core s.myCore
    let done := match s.me.run with
      | .waiting (.tick n) => !decide (k.scan = n)
      | .waiting (.beat n b) => !decide (k.scan = n ∧ k.beat = b)
      | _ => false
    if done then writeS d.val (ofN (k.scan * 16 + k.beat))
    else match s.me.keptWait with
      | .tick n => waitOn (.tick n)
      | .beat n b => waitOn (.beat n b)
      | _ => waitOn (if beat then .beat k.scan k.beat else .tick k.scan)) s

end Sys2Proof.Machine
end

