-- ==== Sys2Proof/Machine/Caches.lean ====
section
/-! DEFINITION. Cache ranges, pinning, translation and unbacked-page instructions (chapters 3, 4 and 10: R82 to R84,
R99 to R110, R251 to R257). -/

namespace Sys2Proof.Machine

/-! ## Cache ranges (R251) -/

/-- The cores that a scope names for the executing slot (R251). -/
def State.scopeCores (s : State) (sc : Scope) (c : Nat) : Bool :=
  match sc with
  | .die => decide (dieOfCore c = dieOfCore s.myCore)
  | .part => s.inCoreSet s.me.part c
  | .dev => true
  | _ => decide (c = s.myCore)

/-- The L1D sectors of a core that meet the bytes [key, key + n). -/
def Core.sectorsIn (k : Core) (key n : Nat) : List Nat :=
  (k.l1d.map (·.1)).filter (fun sec => decide (key < sec * 32 + 32 ∧ sec * 32 < key + n))

/-- Write-back of a range from every L1D of the scope. -/
def State.rangeWriteBack (s : State) (sc : Scope) (key n : Nat) : State :=
  (s.cores.map (·.1)).foldl (fun s c =>
    if s.scopeCores sc c then ((s.core c).sectorsIn key n).foldl (fun s sec => s.writeBack c sec) s else s) s

/-- A slice line whose dirty sectors have been written to DRAM; the marks that DRAM keeps for other sectors stay (R69). -/
def SliceLine.clean (l : SliceLine) : SliceLine :=
  { l with dirty := 0, under := [], underBad := l.underBad.filter (fun e => !l.dirty.getLsbD (e.1 % 8)) }

/-- The dirty backed lines of a range are written to DRAM by their slices. -/
def State.rangeClean (s : State) (key n : Nat) : State :=
  { s with slices := s.slices.map (fun e => (e.1, { e.2 with
      lines := e.2.lines.map (fun l => (l.1, if key < l.1 * 256 + 256 ∧ l.1 * 256 < key + n then l.2.clean else l.2)) })) }

/-- The lines of a range are dropped from the L1Ds and L1Is of the scope, with the errors that they hold; a line that leaves
its owner with dirty bytes becomes UNC (R93). -/
def State.rangeDrop (s : State) (sc : Scope) (key n : Nat) : State :=
  let inside := fun (size a : Nat) => decide (key < a * size + size ∧ a * size < key + n)
  (s.cores.map (·.1)).foldl (fun s c =>
    if s.scopeCores sc c then
      let s := ((s.core c).sectorsIn key n).foldl (fun s sec => s.evict c sec) s
      let k := s.core c
      s.setCore c { k with
        l1i := k.l1i.filter (fun e => !inside 64 e.1)
        l1iBad := k.l1iBad.filter (fun b => !inside 64 b) }
    else s) s

/-- The dirty bytes of a range in untracked copies of the scope's L1Ds go to their homes (R251); those of a reserved word wait
there (R98). -/
def State.rangeFlushU (s : State) (sc : Scope) (key n : Nat) : State :=
  (s.cores.map (·.1)).foldl (fun s c =>
    if s.scopeCores sc c then
      ((s.core c).sectorsIn key n).foldl (fun s sec =>
        match s.l1 c sec with
        | some l => if l.st = .u then s.writeBack c sec else s
        | none => s) s
    else s) s

/-- Whether a write-back of a range still waits for its home to acknowledge it (R98, R251). -/
def State.rangeLate (s : State) (key n : Nat) : Bool :=
  s.slices.any (fun e => e.2.amo.any (fun r => decide (key ≤ r.key + 7 ∧ r.key < key + n) && r.op.isWrite))

/-- Clears DIRTY bits of an unbacked page; a page with no bit left unbinds its frame (R109, assumption 70). -/
def State.discUnbacked (s : State) (key : Nat) : State :=
  let (sl, part, asn, vpn) := unbackedPage key
  let x := s.slice sl
  let bit : BitVec 64 := 1#64 <<< (key % 16384 / 256)
  let pages := x.pages.filterMap (fun f =>
    if f.names part asn vpn then
      let d := f.dirty &&& ~~~bit
      if d = 0 then none else some { f with dirty := d }
    else some f)
  let holding := x.holding.filterMap (fun h =>
    if h.names part asn vpn then
      let e := { h with held := h.held &&& ~~~bit, waiting := h.waiting &&& ~~~bit }
      if e.held = 0 ∧ e.waiting = 0 then none else some e
    else some h)
  s.setSlice sl { x with pages := pages, holding := holding }

/-- `CL.DISC` of one line (R109): nothing is written back, and every byte reads as zero at the home; a backed line becomes a
zero line that is dirty, and the errors of the old bytes go with them. -/
def State.discardLine (s : State) (key : Nat) : State :=
  let s := ((s.dirOf key).cores (s.homeDie key)).foldl (fun s o =>
    (sectorsOf key).foldl (fun s sec => s.dropL1 o sec) s) s
  let s := s.setDir key .unc
  let s := if isUnbacked key then s else (s.atHome s.me.part key).markDirty key (BitVec.allOnes 8)
  let s := { s with mem := s.mem.filter (fun e => !decide (e.1 / 256 = key / 256))
                    poison := s.poison.filter (fun e => !decide (e.1 / 8 = key / 256)) }
  let x := s.slice (s.homeSlice key)
  let s := s.setSlice (s.homeSlice key) { x with badData := x.badData.filter (fun b => !decide (b / 8 = key / 256)) }
  if isUnbacked key then s.discUnbacked key else s

/-- What a cache-range instruction does to `n` bytes of one page. -/
def State.rangePage (s : State) (op : Nat) (sc : Scope) (key n : Nat) : State :=
  match op with
  | 0 => (s.rangeWriteBack sc key n).rangeClean key n
  | 1 => s.rangeDrop sc key n
  | _ => (List.range (n / 256)).foldl (fun s i => s.discardLine (key + 256 * i)) s

/-- What stops a cache-range instruction at an address: a translation that gives no place, or a slice that stalls. -/
inductive RangeStop
  | xlate (e : XStop)
  | stall
  deriving DecidableEq, Repr

/-- Whether a slice of one of the lines of a range stalls for a partition (R106). -/
def State.rangeStalls (s : State) (part key n : Nat) : Bool :=
  (List.range ((key % 256 + n + 255) / 256)).any (fun i => s.stalls part (s.homeSlice (key + 256 * i)))

/-- Runs over the pages of the range [va, va + n), `fuel` bounding their number; answers what stops it first, with the
pages before it done. A page with ATTR 2 has no line in a cache (R75, R88). A page waits while a home has still to acknowledge
bytes that were written back to it. -/
def State.rangeRun (s : State) (op : Nat) (sc : Scope) (need : Need) (va n : Nat) : Nat → State × Option (RangeStop × Nat)
  | 0 => (s, none)
  | fuel + 1 =>
    if n = 0 then (s, none)
    else
      match s.xlate s.asker s.me.ptroot need true va with
      | (s, .error e) => (s, some (.xlate e, va))
      | (t, .ok l) =>
        let k := min n (16384 - va % 16384)
        if l.attr = 2 then t.rangeRun op sc need (va + k) (n - k) fuel
        else if t.rangeStalls t.me.part l.key k then (s, some (.stall, va))
        else
          let t := if op = 2 then t else t.rangeFlushU sc l.key k
          if decide (op ≠ 2) && t.rangeLate l.key k then (t, some (.stall, va))
          else (t.rangePage op sc l.key k).rangeRun op sc need (va + k) (n - k) fuel

/-- A cache-range instruction (R251): one that waits for a walk or stalls, and a resumed one, goes on at the position that the
slot keeps, and counts nothing more in CLAMPCNT (R327). -/
def rangeOp (op : Nat) (sc : Scope) (need : Need) (a b : Reg) : M Unit := do
  memoryTurn
  ready [a.val, b.val] []
  let counted ← me
  let sc ← if op = 2 then pure .die else scopeFor .core sc
  if counted.clPos.isSome then updMe (fun x => { x with clampcnt := counted.clampcnt }) else pure ()
  let va ← readS a.val
  let len ← readS b.val
  let n := fld len 31 0
  if op = 2 ∧ n ≠ 0 then do
    aligned va 256
    needL (decide (n % 256 = 0)) fcAlign va
  else pure ()
  let x ← me
  let from_ := min n (x.clPos.getD 0)
  let kept := fun (t : State) (at_ : Nat) (s : State) =>
    (t.keepWords s).setMe { (t.keepWords s).me with clPos := some (at_ - va.toNat) }
  let s ← get
  match s.rangeRun op sc need (va.toNat + from_) (n - from_) 262146 with
  | (t, none) => do
    set t
    updMe (fun x => { x with clPos := none })
  | (t, some (.xlate (.fault code cause), at_)) =>
    (fun _ => .error (.fault { code := code, addr := ofN at_, loc := false, kind := 0, cause := cause, extra := [] }
      (kept t at_)) : M Unit)
  | (t, some (.xlate .walk, at_)) => waitKeep .walk (fun s => (kept t at_ s).askMine (ofN at_))
  | (t, some (.stall, at_)) => waitKeep .retry (kept t at_)

def execClWb (sc : Scope) (a b : Reg) (s : State) := runI (rangeOp 0 sc .r a b) s
def execClInv (sc : Scope) (a b : Reg) (s : State) := runI (rangeOp 1 sc .r a b) s
def execClDisc (a b : Reg) (s : State) := runI (rangeOp 2 .dflt .w a b) s

/-! ## Blocks, frames and pins of a slice (R99 to R102) -/

/-- The ways that hold a pin of a set in a slice. -/
def State.pinnedWays (s : State) (n set_ : Nat) : List Nat :=
  ((s.slice n).pinned.filter (fun e => decide (s.lineSet (e.1 * 256) = set_))).map (fun e => e.2 / 16)

/-- The first free pin place of a partition in a set: a reserved way whose block is no frame and whose place is free. -/
def State.pinPlace (s : State) (p n set_ : Nat) : Option Nat :=
  (waysIn (s.rways p n)).find? (fun w =>
    !(s.slice n).frames.has (w * 16 + set_ / 64) && !(s.pinnedWays n set_).any (fun v => decide (v = w)))

/-- Whether a block holds a pinned line. -/
def State.blockPinned (s : State) (n place : Nat) : Bool :=
  (s.slice n).pinned.any (fun e => decide (e.2 / 16 = place / 16 ∧ s.lineSet (e.1 * 256) / 64 = place % 16))

/-- The free blocks of a partition in a slice, ascending by way and block (R102). -/
def State.freeBlocks (s : State) (p n : Nat) : List Nat :=
  ((waysIn (s.rways p n)).flatMap (fun w => (List.range 16).map (fun b => w * 16 + b))).filter (fun f =>
    !(s.slice n).frames.has f && !s.blockPinned n f)

/-- Frames of a partition in a slice. -/
def Slice.framesOf (x : Slice) (p : Nat) : List Nat := (x.frames.filter (fun f => decide (f.2 = p))).map (·.1)

/-- Lines that a mask names. -/
def popc64 (w : BitVec 64) : Nat := ((List.range 64).filter (fun i => w.getLsbD i)).length

/-- The reservation word of a partition in a slice (R101). -/
def State.resWord (s : State) (p n : Nat) : Word :=
  let x := s.slice n
  let held := ((x.holding.filter (fun h => decide (h.part = p))).map (fun h => popc64 h.held)).sum
  ofN ((if x.retired then 0 else s.rways p n) * 2 ^ 48 + (x.framesOf p).length * 2 ^ 40
    + ((x.framesOf p).filter (fun f => x.pages.any (fun q => decide (q.place = f)))).length * 2 ^ 32
    + (x.pinned.filter (fun e => decide (e.2 % 16 = p))).length * 2 ^ 18 + held * 2 ^ 10)

/-- A block of a slice is emptied of the lines that stand in it. -/
def State.clearBlock (s : State) (n place : Nat) : State :=
  ((s.slice n).lines.filter (fun e => decide (e.2.way = place / 16 ∧ s.lineSet (e.1 * 256) / 64 = place % 16))).foldl
    (fun s e => s.evictLine n e.1) s

/-- `UB.RSV` (R102): blocks become frames; lines that are not pinned leave them. -/
def State.reserveFrames (s : State) (p n k : Nat) : State :=
  if (s.slice n).retired then s
  else
    let blocks := (s.freeBlocks p n).take k
    let s := blocks.foldl (fun s f => s.clearBlock n f) s
    s.setSlice n { s.slice n with frames := blocks.foldl (fun m f => m.put f p) (s.slice n).frames }

/-- `UB.REL` (R102): frames that hold no page return, highest first. -/
def State.releaseFrames (s : State) (p n k : Nat) : State :=
  let x := s.slice n
  let empty := ((x.framesOf p).filter (fun f => !x.pages.any (fun q => decide (q.place = f)))).reverse
  s.setSlice n { x with frames := (empty.take k).foldl (fun m f => m.del f) x.frames }

/-- `UB.RSV` and `UB.REL` (R256). -/
def reservation (f : State → Nat → Nat → Nat → State) (d a b : Reg) : M Unit := do
  engineMemoryDone
  ready [a.val, b.val] [d.val]
  let x ← readS a.val
  let k ← readS b.val
  needP (decide (k.toNat ≤ 192)) fcIllegalOpcode
  let p := (← me).part
  let n := fld x 5 0
  upd (fun s => f s p n k.toNat)
  let s ← get
  writeS d.val (s.resWord p n)

def execUbRsv (d a b : Reg) (s : State) := runI (reservation State.reserveFrames d a b) s
def execUbRel (d a b : Reg) (s : State) := runI (reservation State.releaseFrames d a b) s

/-! ## Pinning (R99, R253) -/

/-- `HR.PIN` of a backed line: whether it is pinned for the partition, and the state. The line moves to the place that is
taken, with its sectors and directory state as they are. -/
def State.pinLine (s : State) (p key : Nat) : State × Bool :=
  let n := s.homeSlice key
  let x := s.slice n
  match x.pinned.seek (key / 256) with
  | some v => (s, decide (v % 16 = p))
  | none =>
    match if x.retired then none else s.pinPlace p n (s.lineSet key) with
    | none => (s, false)
    | some w =>
      let s := (s.meetBad key).placeLine n (key / 256) w
      (s.setSlice n { s.slice n with pinned := (s.slice n).pinned.put (key / 256) (p + 16 * w) }, true)

/-- `HR.UNPIN` of a backed line (R99): it moves to a way of the partition's AWAYS that is nobody's reserved way (R91) and holds
no line of its set, and stays where it is when there is none. -/
def State.unpinLine (s : State) (p key : Nat) : State × Bool :=
  let n := s.homeSlice key
  let x := s.slice n
  match x.pinned.seek (key / 256) with
  | some v =>
    if v % 16 = p then
      let s := s.setSlice n { x with pinned := x.pinned.del (key / 256) }
      match (waysIn (nbits (s.waysOf p n) 15 0)).find? (fun w =>
          !s.wayReserved n w && (s.lineAt n w (s.lineSet key)).isNone) with
      | some w => (s.placeLine n (key / 256) w, true)
      | none => (s, true)
    else (s, false)
  | none => (s, false)

/-- Translates without a first touch, for the instructions that name a line and move none of its bytes. -/
def translateOnly (need : Need) (va : Word) : M Loc := do
  let s ← get
  match s.xlate s.asker s.me.ptroot need false va.toNat with
  | (_, .error e) => untranslated e va
  | (t, .ok l) =>
    set t
    needW (!t.holdingStall t.me.part l)
    pure l

/-- `HR.PIN` and `HR.UNPIN` (R253); on an unbacked page both return 1. -/
def pinOp (f : State → Nat → Nat → State × Bool) (d a : Reg) : M Unit := do
  engineMemoryDone
  ready [a.val] [d.val]
  let va ← readS a.val
  let l ← translateOnly .r va
  if isUnbacked l.key then writeS d.val 1
  else
    let s ← get
    let (t, ok) := f s s.me.part l.key
    set t
    writeS d.val (ofN (b2n ok))

def execHrPin (d a : Reg) (s : State) := runI (pinOp State.pinLine d a) s
def execHrUnpin (d a : Reg) (s : State) := runI (pinOp State.unpinLine d a) s

/-! ## Translation (R254, R255) -/

/-- A leaf as `PG.PROBE` shows it: FRAME and HOME read as zero at task privilege. -/
def probeLeaf (priv : Bool) (e : Word) : Word := if priv then e else setFld (setFld e 43 14 0) 57 52 0

/-- `PG.PROBE` (R254). -/
def execPgProbe (d a : Reg) (s : State) :=
  runI (do
    engineMemoryDone
    ready [a.val] [d.val]
    let va ← readS a.val
    let s ← get
    match s.leafFor s.asker s.me.ptroot va.toNat false with
    | (_, .error .walk) => untranslated .walk va
    | (t, .error _) =>
      set t
      writeS d.val 0
    | (t, .ok (_, e, _)) =>
      set t
      writeS d.val (probeLeaf s.me.priv e)) s

/-- The clusters that a shoot-down scope names (R83). -/
def State.scopeClusters (s : State) (sc : Scope) (part : Nat) : List Nat :=
  (List.range 64).filter (fun cl =>
    match sc with
    | .slot | .core => decide (cl = clusterOf s.myCore)
    | .die => decide (cl / 16 = dieOfCore s.myCore)
    | .part => (List.range (s.part part).clen).any (fun i => decide (clusterOf (s.clist part i) = cl))
    | _ => true)

/-- Code of a match kind (R255). -/
def tlbKindCode : TlbKind → Nat
  | .page => 0
  | .asn => 1
  | .part => 2

/-- Whether a shoot-down removes a TLB entry (R83). For kind PAGE bits [63:47] of the address count for nothing: a DESIGN CHOICE
(assumption 101). -/
def Shootdown.hits (d : Shootdown) (t : TlbEntry) : Bool :=
  decide (t.part = d.part) && (decide (d.kind = 2) ||
    (decide (t.asn = d.asn) && (decide (d.kind = 1) || decide (t.vpn = d.va % 2 ^ 47 / leafBytes t.level))))

/-- Whether a shoot-down names a page of a process, as a walk of it is asked for (R83). -/
def Shootdown.hitsPage (d : Shootdown) (part asn page : Nat) : Bool :=
  decide (part = d.part) && (decide (d.kind = 2) ||
    (decide (asn = d.asn) && (decide (d.kind = 1) || decide (page = d.va % 2 ^ 47 / 16384))))

/-- Whether an access has used a translation that a shoot-down removes: one of the leaf that holds the address (R83, R84). -/
def Shootdown.hitsVia (d : Shootdown) (v : Via) : Bool :=
  decide (v.part = d.part) && (decide (d.kind = 2) || (decide (v.asn = d.asn) &&
    (decide (d.kind = 1) || decide (v.page * 16384 / leafBytes v.level = d.va % 2 ^ 47 / leafBytes v.level))))

/-- Whether a shoot-down removes a walker-cache entry (R83). -/
def Shootdown.hitsTable (d : Shootdown) (t : TableEntry) : Bool :=
  decide (t.part = d.part) && (decide (d.kind = 2) ||
    (decide (t.asn = d.asn) && (decide (d.kind = 1) || decide (t.vpn = d.va % 2 ^ 47 / leafBytes t.level))))

/-- A core without the TLB entries that a shoot-down names, and without the answers of walks that it overtakes: their
requests walk again (R84 steps 1 and 2). An `EVT.WAIT` that waits through one of the entries issues again. -/
def Core.shot (k : Core) (d : Shootdown) : Core :=
  { k with itlb := k.itlb.filter (fun t => !d.hits t), dtlb := k.dtlb.filter (fun t => !d.hits t)
           slots := k.slots.map (fun e => (e.1, { e.2 with
             walked := e.2.walked.filter (fun w => match w.res with
               | .leaf level _ _ => !d.hitsVia { part := w.part, asn := w.asn, page := w.page, level := level }
               | _ => !d.hitsPage w.part w.asn w.page)
             run := match e.2.run with
               | .waiting (.event key thr watched via) => if d.hitsVia via then .waiting .sync else .waiting (.event key thr watched via)
               | r => r })) }

/-- Removes the entries that a shoot-down names from its cluster (R84 steps 1 and 2). -/
def State.shoot1 (s : State) (d : Shootdown) : State :=
  { s with tlb := s.tlb.put d.cluster ((s.tlb.val d.cluster []).filter (fun t => !d.hits t))
           wcache := s.wcache.put d.cluster ((s.wcache.val d.cluster []).filter (fun t => !d.hitsTable t))
           cores := s.cores.map (fun e => (e.1, if clusterOf e.1 = d.cluster then e.2.shot d else e.2)) }

/-- The accesses of a shoot-down's cluster that translated through an entry that it names and are not performed (R84 step 3):
the slots whose AMO holds a reservation or waits for the fold of its phase, and, as 4096 × (index + 1) + slot, the Carter
commands that have still to debit a barrier object found through it. -/
def State.unperformed (s : State) (d : Shootdown) : List Nat :=
  let hit := fun (slot : Nat) (via : Via) => decide (clusterOf (slot / 16) = d.cluster) && d.hitsVia via
  (s.slices.flatMap (fun e => (e.2.amo.filter (fun r => decide (r.op = .reserve) && hit r.slot r.via)).map (·.slot)))
  ++ (s.traced.filter (fun t => t.result.isNone && hit t.slot t.via)).map (·.slot)
  ++ s.cores.flatMap (fun k => k.2.slots.flatMap (fun e =>
      (e.2.cp.queue.filter (fun c => hit (k.1 * 16 + e.1) c.barVia)).map (fun c => 4096 * (c.idx + 1) + (k.1 * 16 + e.1))))

/-- `TLB.INV` (R84, R255): the credit, then one debit from each cluster, in the step `SHOOTDOWN_DEBIT`. -/
def execTlbInv (kind : TlbKind) (sc : Scope) (a b c : Reg) (s : State) :=
  runI (do
    supervisor [a.val, b.val, c.val] []
    memoryTurn
    ready [a.val, b.val, c.val] []
    let sc ← scopeFor .dev sc
    let va ← readS a.val
    let bar ← readS b.val
    let w ← readS c.val
    let key ← barPlace bar
    let _ ← barValid key 0 bar
    releaseAt .dev
    let s ← get
    let cls := s.scopeClusters sc (fld w 19 16)
    match s.barCredit key cls.length with
    | none => waitOn .retry
    | some t =>
      let downs := cls.map (fun cl => ({ cluster := cl, kind := tlbKindCode kind, part := fld w 19 16
                                         asn := fld w 15 0, va := va.toNat, bar := some key } : Shootdown))
      set { t with shoot := t.shoot ++ downs, agenda := t.agenda ++ cls.map Event.shootdownDebit }) s

/-- One cluster runs the oldest shoot-down that it has: it removes the entries, and once every access through one of them has
been performed it debits the barrier (R84 steps 1 to 4). -/
def State.shootdownDebit (s : State) (cluster : Nat) : State :=
  match s.shoot.find? (fun d => decide (d.cluster = cluster)) with
  | none => s
  | some d =>
    let pend := d.removed.getD (s.unperformed d)
    let t := if d.removed.isNone then s.shoot1 d else s
    if pend.any (fun gs => (t.unperformed d).any (fun h => decide (h = gs))) then
      { t with shoot := t.shoot.map (fun e => if e = d then { d with removed := some pend } else e) }
    else
      let t := { t with shoot := t.shoot.erase d }
      match d.bar with
      | some key => (t.barDebit key 1).1
      | none => t

/-- A shoot-down that a slice counts itself, over every cluster with a core of the partition (R105, R110). -/
def State.shootPage (s : State) (part asn vpn : Nat) : State :=
  (s.scopeClusters .part part).foldl (fun s cl =>
    s.shoot1 { cluster := cl, kind := 0, part := part, asn := asn, va := vpn * 16384, bar := none }) s

/-! ## Moving an unbacked page (R110, R257) -/

/-- Every L1D copy of a page's lines is written back and dropped. -/
def State.evictPage (s : State) (key : Nat) : State :=
  (s.cores.map (·.1)).foldl (fun s c =>
    ((s.core c).sectorsIn key 16384).foldl (fun s sec => s.evict c sec) s) s

/-- The dirty sectors of a page are read at its home and meet the errors of their words (R401); those of lines that hold nothing
go. -/
def State.meetPage (s : State) (key : Nat) (dirty : BitVec 64) : State :=
  let n := s.homeSlice key
  let x := s.slice n
  let mine := x.badData.filter (fun b => decide (b * 32 / 16384 = key / 16384))
  mine.foldl (fun s b => if dirty.getLsbD (b / 8 % 64) then s.setPoison (b * 32) else s)
    (s.setSlice n { x with badData := x.badData.filter (fun b => !decide (b * 32 / 16384 = key / 16384)) })

/-- Moves the bytes and marks of `n` bytes from one home key to another. -/
def State.moveBytes (s : State) (from_ dest n : Nat) : State :=
  let inside := fun k => decide (from_ ≤ k ∧ k < from_ + n)
  let cells := s.mem.filter (fun e => inside e.1)
  let marks := s.poison.filter (fun e => inside (e.1 * 32))
  { s with
    mem := memPokes (s.mem.filter (fun e => !inside e.1)) (cells.map (fun e => (e.1 - from_ + dest, e.2)))
    poison := marks.foldl (fun m e => m.put (e.1 - from_ / 32 + dest / 32) e.2) (s.poison.filter (fun e => !inside (e.1 * 32))) }

/-- Compare and swap of a table entry: the state when it succeeds. -/
def State.swapLeaf (s : State) (pa : Nat) (old new : Word) : Option State :=
  let (s, e, _) := s.tableEntry pa
  if e = old then some (s.physWrite pa (bytesOf 8 new.toNat)) else none

/-- The home key of a byte of a page that has moved `n` bytes from one place to another. -/
def movedKey (from_ dest n key : Nat) : Nat := if from_ ≤ key ∧ key < from_ + n then key - from_ + dest else key

/-- What a waiting slot waits for, with its counter's new place. -/
def WaitFor.moved (w : WaitFor) (f : Nat → Nat) : WaitFor :=
  match w with
  | .event key thr watched via => .event (f key) thr watched via
  | w => w

/-- A slot whose stored keys follow a page that has moved. -/
def Slot.moved (x : Slot) (f : Nat → Nat) : Slot :=
  { x with cp := { x.cp with queue := x.cp.queue.map (fun c => { c with barKey := f c.barKey }) }
           run := match x.run with
             | .waiting w => .waiting (w.moved f)
             | r => r }

/-- Accesses that hold a resolved place of a page are translated anew when it has moved (R110, R112): combiners, Carter debits,
counter waits with their watch entries, shoot-downs, reservations, waiting AMOs and deferred launches. -/
def State.rekey (s : State) (f : Nat → Nat) : State :=
  let watch := s.slices.flatMap (fun e => e.2.watch.filter (fun w => !decide (f w.1 = w.1)))
  let amo := s.slices.flatMap (fun e => e.2.amo.filter (fun r => !decide (f r.key = r.key)))
  let s := { s with
    cores := s.cores.map (fun e => (e.1, { e.2 with
      slots := e.2.slots.map (fun x => (x.1, x.2.moved f))
      combiners := e.2.combiners.map (fun c => { c with key := f c.key }) }))
    shoot := s.shoot.map (fun d => { d with bar := d.bar.map f })
    traced := s.traced.map (fun t => { t with barKey := f t.barKey, key := f t.key })
    barTouched := s.barTouched.map f
    deferredEnds := s.deferredEnds.map (fun d => (f d.1, d.2))
    slices := s.slices.map (fun e => (e.1, { e.2 with
      watch := e.2.watch.filter (fun w => decide (f w.1 = w.1)), amo := e.2.amo.filter (fun r => decide (f r.key = r.key)) })) }
  let s := watch.foldl (fun s w =>
    let n := s.homeSlice (f w.1)
    s.setSlice n { s.slice n with watch := (s.slice n).watch ++ [(f w.1, w.2)] }) s
  amo.foldl (fun s r =>
    let n := s.homeSlice (f r.key)
    s.setAmo n ((s.slice n).amo ++ [{ r with key := f r.key }])) s

/-- The slice where a page stands, in a frame or held, with leaf address and leaf as bound and its dirty lines. -/
def State.findPage (s : State) (part asn vpn : Nat) : Option (Nat × Nat × Word × BitVec 64) :=
  s.slices.findSome? (fun e =>
    match e.2.pages.find? (·.names part asn vpn) with
    | some f => some (e.1, f.leafPa, f.leaf, f.dirty)
    | none =>
      (e.2.holding.find? (·.names part asn vpn)).map
        (fun h => (e.1, h.leafPa, h.leaf, h.held ||| h.waiting)))

/-- A slice forgets a page: frame record and held lines. -/
def Slice.dropPage (x : Slice) (part asn vpn : Nat) : Slice :=
  { x with pages := x.pages.filter (fun f => !f.names part asn vpn)
           holding := x.holding.filter (fun h => !h.names part asn vpn) }

/-- The move of R110; none when it fails and changes nothing. -/
def State.migrate (s : State) (part asn vpn target : Nat) : Option State :=
  match s.findPage part asn vpn with
  | none => none
  | some (old, leafPa, leaf, _) =>
    if old / 16 = target / 16 ∨ (s.slice target).retired then none
    else match (s.slice target).freeFrame part with
      | none => none
      | some f =>
        let from_ := unbackedKey old part asn vpn 0
        let s := s.evictPage from_
        let dirty := match s.findPage part asn vpn with
          | some p => p.2.2.2
          | none => 0
        let new := setFld leaf 57 52 target
        match s.swapLeaf leafPa leaf new with
        | none => none
        | some s =>
          let s := (s.meetPage from_ dirty).moveBytes from_ (unbackedKey target part asn vpn 0) 16384
          let s := s.setSlice old ((s.slice old).dropPage part asn vpn)
          let x := s.slice target
          let s := s.setSlice target { x with pages := x.pages ++
            [{ place := f, part := part, asn := asn, vpn := vpn, leafPa := leafPa, leaf := new, dirty := dirty }] }
          some ((s.shootPage part asn vpn).rekey (movedKey from_ (unbackedKey target part asn vpn 0) 16384))

/-- `UB.MIG` (R257). -/
def execUbMig (d a b : Reg) (s : State) :=
  runI (do
    supervisor [a.val, b.val] [d.val]
    engineMemoryDone
    ready [a.val, b.val] [d.val]
    let va ← readS a.val
    let w ← readS b.val
    needP (decide (fld w 23 20 = 0 ∧ fld w 63 30 = 0)) fcIllegalOpcode
    let part := fld w 19 16
    let s ← get
    match s.migrate part (fld w 15 0) (fld va 46 14) (fld w 29 24) with
    | none => writeS d.val (BitVec.allOnes 64)
    | some t =>
      set t
      writeS d.val (t.resWord part (fld w 29 24))) s

end Sys2Proof.Machine
end

