-- ==== Sys2Proof/Machine/CarterOps.lean ====
section
/-! DEFINITION. The Carter: commands at acceptance, chunk by chunk, and their ends (R123 to R129, R258 to R260). -/

namespace Sys2Proof.Machine

/-! ## Operands of a command (R124, R259) -/

/-- The space of an operand. -/
inductive CpSpace
  | global
  /-- local memory of a core -/
  | lm (core : Nat)
  /-- Loom element memory -/
  | element
  | pattern
  deriving DecidableEq, Repr

/-- Source and destination spaces of a kind. -/
def CpKind.srcGlobal : CpKind → Bool
  | .g2l | .g2g => true
  | _ => false

/-- Whether the source is the own LM. -/
def CpKind.srcLm : CpKind → Bool
  | .l2g | .l2l => true
  | _ => false

/-- Whether the destination is global. -/
def CpKind.dstGlobal : CpKind → Bool
  | .l2g | .g2g | .fillG => true
  | _ => false

/-- Whether a global operand names Loom element memory (R124). -/
def isElement (a : Word) : Bool := decide (fld a 63 48 = 0xE000)

/-- The space of the source; `own` is the issuing core. -/
def CpCmd.srcSpace (c : CpCmd) (own : Nat) : CpSpace :=
  if c.kind.srcLm then .lm own
  else if c.kind.srcGlobal then (if isElement c.b then .element else .global)
  else .pattern

/-- The space of the destination. -/
def CpCmd.dstSpace (c : CpCmd) (own : Nat) : CpSpace :=
  if c.kind.dstGlobal then (if isElement c.a then .element else .global)
  else if c.kind = .l2l then .lm (fld c.a 26 19)
  else .lm own

/-- Base address of the source and of the destination in its space. -/
def CpCmd.src (c : CpCmd) : Int := if c.kind.srcLm then fld c.b 18 0 else c.b.toNat
def CpCmd.dst (c : CpCmd) : Int := if c.kind.dstGlobal then c.a.toNat else fld c.a 18 0

/-- Signed strides (R258). -/
def CpCmd.sstride (c : CpCmd) : Int := sext 32 (fld c.c2 31 0)
def CpCmd.dstride (c : CpCmd) : Int := sext 32 (fld c.c2 63 32)

/-- Address of byte 0 of a row. -/
def CpCmd.srcRow (c : CpCmd) (r : Nat) : Int := c.src + r * c.sstride
def CpCmd.dstRow (c : CpCmd) (r : Nat) : Int := c.dst + r * c.dstride

/-- TAGEN and TAG (R258). -/
def CpCmd.tagen (c : CpCmd) : Bool := bitOf c.c0 25
def CpCmd.tag (c : CpCmd) : BitVec 48 := BitVec.ofNat 48 (fld c.c3 63 16)

/-- An element address: element number (row × 16 + column) and offset. -/
def elementPlace (a : Int) : Nat × Nat :=
  let x := toBits 64 a
  (nbits x 24 21 * 16 + nbits x 20 17, nbits x 16 0)

/-! ## Acceptance (R125, R258) -/

/-- The four registers of the block that C names (R258). -/
def cpBlock (c : Reg) : M (Nat → Word) := do
  let x ← me
  pure (fun i => x.g[c.val + i]!)

/-- Whether all LM bytes of a row lie in the LM and in the owned banks; the first offset that does not otherwise. -/
def lmRowBad (banks : Nat) (o : Int) (n : Nat) : Option Int :=
  if o < 0 ∨ (2 ^ 19 : Int) < o + n ∨ lmOwned banks o.toNat n = false then some (lmFirstBad banks o) else none

/-- The first LM byte of the command that fails step 4 of R125. -/
def CpCmd.lmBad (c : CpCmd) (banks own : Nat) : Option Int :=
  (List.range c.rows).findSome? (fun r =>
    match (match c.srcSpace own with
      | .lm _ => lmRowBad banks (c.srcRow r) c.rowlen
      | _ => none) with
    | some o => some o
    | none =>
      match c.dstSpace own with
      | .lm _ => lmRowBad banks (c.dstRow r) c.rowlen
      | _ => none)

/-- Whether an element range reaches offset 0x1_8000 (R125 step 5). -/
def elementBad (a : Int) (n : Nat) : Bool := decide (0x18000 < (elementPlace a).2 + n)

/-- Whether a row of the command does. -/
def CpCmd.elementBad (c : CpCmd) (own : Nat) : Bool :=
  (List.range c.rows).any (fun r =>
    (decide (c.srcSpace own = .element) && Machine.elementBad (c.srcRow r) c.rowlen)
    || (decide (c.dstSpace own = .element) && Machine.elementBad (c.dstRow r) c.rowlen))

/-- The LM operand with a bit set above its fields (R259): its value names the LM byte that fails (R231). -/
def CpCmd.lmFieldBad (c : CpCmd) : Option Word :=
  if c.kind.srcLm && !decide (fld c.b 63 19 = 0) then some c.b
  else if !c.kind.dstGlobal && !decide (fld c.a 63 (if c.kind = .l2l then 27 else 19) = 0) then some c.a
  else none

/-- Acceptance of a command (R123, R125, R258). -/
def accept (kindOf : Nat → Option CpKind) (twoD : Bool) (a b c : Reg) : M Unit := do
  memoryTurn
  needP (cpBlockOk c.val) fcIllegalOpcode
  ready [a.val, b.val, c.val, c.val + 1, c.val + 2, c.val + 3] []
  let x ← me
  let blk ← cpBlock c
  needW (decide (x.cp.queue.length < 16))
  let va ← readS a.val
  let vb ← readS b.val
  let c0 := blk 0
  match kindOf (fld c0 27 26) with
  | none => faultP fcIllegalOpcode
  | some kind => do
    let rows := if twoD then fld (blk 3) 15 0 + 1 else 1
    needP (decide (fld c0 63 28 = 0) && (twoD || decide (fld (blk 3) 15 0 = 0)) && !decide (fld c0 23 0 = 0)
      && !(bitOf c0 25 && kind.dstGlobal)) fcIllegalOpcode
    let bl ← barLoc (blk 1)
    let key := bl.key
    let _ ← barValid key x.part (blk 1)
    let s ← get
    let cmd : CpCmd := { kind := kind, a := va, b := vb, c0 := c0, c1 := blk 1, c2 := blk 2, c3 := blk 3, rows := rows
                         idx := x.cp.accepted % 16, priv := x.priv, ptroot := x.ptroot, barKey := key
                         row := 0, col := 0, landed := 0, held := false
                         barVia := bl.via x.ptroot }
    let own := s.myCore
    needP (x.priv || !(decide (cmd.srcSpace own = .element) || decide (cmd.dstSpace own = .element))) fcPrivilege
    match cmd.lmFieldBad with
    | some o => faultP fcPageRights o
    | none => pure ()
    if kind = .l2l ∧ s.inCoreSet x.part (fld va 26 19) = false then faultP fcPageRights va else pure ()
    match cmd.lmBad (s.part x.part).banks own with
    | some o => faultP fcPageRights (ofI o)
    | none => pure ()
    needP (!cmd.elementBad own) fcPageAbsent
    if cmd.credited then
      match s.barCredit key cmd.total with
      | none => waitOn .retry
      | some t => set t
    else pure ()
    updMe (fun x => { x with cp := { x.cp with queue := x.cp.queue ++ [cmd], accepted := x.cp.accepted + 1 } })

/-- The kind of an instruction other than `CP.2D` and `CP.FILL`, whose KIND field must be zero. -/
def fixedKind (k : CpKind) (field : Nat) : Option CpKind := if field = 0 then some k else none

/-- KIND of `CP.FILL` and of `CP.2D` (R258). -/
def fillKind : Nat → Option CpKind
  | 0 => some .fillG
  | 1 => some .fillL
  | _ => none
def twoDKind : Nat → Option CpKind
  | 0 => some .g2l
  | 1 => some .l2g
  | 2 => some .l2l
  | 3 => some .g2g
  | _ => none

def execCpG2L (a b c : Reg) (s : State) := runI (accept (fixedKind .g2l) false a b c) s
def execCpL2G (a b c : Reg) (s : State) := runI (accept (fixedKind .l2g) false a b c) s
def execCpL2L (a b c : Reg) (s : State) := runI (accept (fixedKind .l2l) false a b c) s
def execCpG2G (a b c : Reg) (s : State) := runI (accept (fixedKind .g2g) false a b c) s
def execCpFill (a b c : Reg) (s : State) := runI (accept fillKind false a b c) s
def execCp2D (a b c : Reg) (s : State) := runI (accept twoDKind true a b c) s

/-- The status word of R128. -/
def Carter.status (c : Carter) : Word :=
  let head := match c.queue with
    | [] => (0, false)
    | h :: _ => (h.landed, h.held)
  ofN (head.1 * 2 ^ 24 + c.code * 2 ^ 16 + b2n c.cperr * 2 ^ 15 + c.queue.length * 2 ^ 10 + c.idx * 2 ^ 6
    + b2n head.2 * 2 ^ 5)

/-- `CP.STAT` (R260). -/
def execCpStat (d : Reg) (s : State) :=
  runI (do
    ready [] [d.val]
    let x ← me
    updMe (fun x => { x with cp := { x.cp with cperr := false } })
    writeS d.val x.cp.status) s

/-- `CP.ABORT` (R127, R260). -/
def execCpAbort (s : State) := runI (upd (fun s => s.carterAbort s.cur)) s

/-! ## Chunks (R126) -/

/-- What a chunk comes to. -/
inductive ChunkEnd
  /-- bytes of these words wait behind a reservation; the others have landed (R98) -/
  | late (s : State) (words : List Nat)
  /-- it waits: for an AMO's release, or for the end of a wipe -/
  | waits
  /-- the chunk waits for the walk of an address (R78) -/
  | walks (va : Nat)
  /-- the command is held with a code of R128 and a fault code, at an address -/
  | held (code fault : Nat) (addr : Word)
  /-- the command is held with `LM_UNCORRECTABLE` at an offset of a core's LM; the fault names an address -/
  | badLm (core o : Nat) (addr : Int)
  /-- the command is closed with a code -/
  | closed (code : Nat)
  | landed (s : State)

/-- Code of R128 of a failed translation. -/
def cpCodeOf (fault : Nat) : Nat :=
  if fault = fcPageAbsent then 1 else if fault = fcPageRights then 2 else if fault = fcPoison then 3 else 4

/-- The pieces of a global range within single sectors: address and length. -/
def piecesOf (va n : Nat) : List (Nat × Nat) :=
  (List.range ((va % 32 + n + 31) / 32)).map (fun i =>
    let lo := max (va / 32 * 32 + 32 * i) va
    (lo, min (va / 32 * 32 + 32 * i + 32) (va + n) - lo))

/-- Bytes of one sector as the Carter reads them: the issuing core's dirty bytes, else the home's, which allocates nothing. -/
def State.carterRead (s : State) (core key n : Nat) : State × List Byte :=
  let s := ((s.meetL1 core (key / 32)).meetBad key).recallAny key
  let home := s.homeBytes key n
  match s.l1 core (key / 32) with
  | some l =>
    (s, (List.range n).map (fun i =>
      if l.dirty.getLsbD ((key + i) % 32) then sectorByte l.data ((key + i) % 32) else home.getD i 0))
  | none => (s, home)

/-- A range read so far: state, bytes, offsets of poisoned bytes, and sectors replaced by zeros. -/
structure CpRead where
  st : State
  bytes : List Byte
  bad : List Nat
  zeroed : Nat

/-- Reads a global source range. -/
def State.cpReadGlobal (s : State) (gs : Nat) (ptroot : Word) (va n : Nat) : Except ChunkEnd CpRead :=
  (piecesOf va n).foldlM (fun (r : CpRead) p =>
    match r.st.access { slot := gs, kind := .carter } ptroot .r false p.1 with
    | (_, .error (.fault code _)) => .error (.held (cpCodeOf code) code (ofN p.1))
    | (_, .error .walk) => .error (.walks p.1)
    | (t, .ok l) =>
      if t.accessStall (partOf ptroot) (gs / 16) l then .error .waits
      else
      let (t, bs) := t.carterRead (gs / 16) l.key p.2
      if t.isPoisoned l.key then
        if l.etol then .ok { r with st := t, bytes := r.bytes ++ List.replicate p.2 0, zeroed := r.zeroed + 1 }
        else .ok { r with st := t, bytes := r.bytes ++ bs
                          bad := r.bad ++ (List.range p.2).map (fun i => r.bytes.length + i) }
      else .ok { r with st := t, bytes := r.bytes ++ bs })
    { st := s, bytes := [], bad := [], zeroed := 0 }

/-- Reads the source of a chunk. -/
def State.cpRead (s : State) (gs : Nat) (c : CpCmd) (a d : Int) (n : Nat) : Except ChunkEnd CpRead :=
  let core := gs / 16
  match c.srcSpace core with
  | .pattern =>
    .ok { st := s, bytes := (List.range n).map (fun (i : Nat) =>
            BitVec.ofNat 8 (c.b.toNat / 2 ^ (8 * ((d + i) % 8).toNat))), bad := [], zeroed := 0 }
  | .element =>
    let (e, o) := elementPlace a
    let x := s.hub.elements.val e Element.reset
    .ok { st := s, bytes := memBytes x.mem o n, zeroed := 0
          bad := (List.range n).filter (fun i => x.bad.any (fun w => decide (w = (o + i) / 8))) }
  | .lm k =>
    let o := a.toNat
    if a < 0 ∨ lmOwned (s.part (s.slot gs).part).banks o n = false then .error (.held 2 fcPageRights (ofI a))
    else if (s.core k).lmWiping o n then .error .waits
    else match (s.core k).lmError o n with
      | some b => .error (.badLm k b a)
      | none => .ok { st := s, bytes := (s.core k).lmBytes o n, bad := [], zeroed := 0 }
  | .global =>
    if a < 0 then .error (.held 1 fcPageAbsent (ofI a)) else s.cpReadGlobal gs c.ptroot a.toNat n

/-- Writes a global destination range, with its poison marks. The issuing core's own copy of each sector is written back and
dropped first (R116). Bytes of a reserved word wait for it, and the other bytes do not (R98); `late` names the words that a
chunk has still to write when it has waited so. Answers the words that wait. -/
def State.cpWriteGlobal (s : State) (gs : Nat) (ptroot : Word) (va : Nat) (bs : List Byte) (bad : List Nat)
    (late : Option (List Nat)) : Except ChunkEnd (State × List Nat) :=
  (piecesOf va bs.length).foldlM (fun (acc : State × List Nat) p =>
    match acc.1.access { slot := gs, kind := .carter } ptroot .w false p.1 with
    | (_, .error (.fault code _)) => .error (.held (cpCodeOf code) code (ofN p.1))
    | (_, .error .walk) => .error (.walks p.1)
    | (t, .ok l) =>
      if t.holdingStall (partOf ptroot) l then .error .waits
      else
        let mine := (wordsOf l.key p.2).filter (fun w => match late with
          | some ws => ws.any (fun x => decide (x = w))
          | none => true)
        let t := t.dropUntracked (gs / 16) (l.key / 32)
        let (free, held) := mine.partition (fun w => !t.reserved (w * 8))
        let t := free.foldl (fun t w =>
          let (key, b) := bytesIn l.key ((bs.drop (p.1 - va)).take p.2) w
          t.crossWrite key b (partOf ptroot)) t
        .ok (if bad.any (fun i => decide (p.1 - va ≤ i ∧ i < p.1 - va + p.2)) then t.setPoison l.key else t, acc.2 ++ held))
    (s, [])

/-- Whether LM byte `o` of the destination has landed when `row` rows and `col` bytes of the next have (R121). -/
def CpCmd.landedAt (c : CpCmd) (row col : Nat) (o : Int) : Bool :=
  (List.range (row + 1)).any (fun r =>
    decide (c.dstRow r ≤ o ∧ o < c.dstRow r + (if r = row then col else c.rowlen : Nat)))

/-- The tag is written into the blocks whose last byte this chunk lands (R121). -/
def Core.cpTag (k : Core) (c : CpCmd) (row col : Nat) (o n : Nat) : Core :=
  ((List.range ((o % 256 + n + 255) / 256)).map (fun i => o / 256 + i)).foldl (fun k b =>
    if (List.range 256).all (fun i => c.landedAt row col ((b * 256 + i : Nat) : Int)) then k.setTag b c.tag else k) k

/-- Lands the bytes of a chunk; `row` and `col` tell what has landed with it. -/
def State.cpWrite (s : State) (gs : Nat) (c : CpCmd) (d : Int) (r : CpRead) (row col : Nat) : Except ChunkEnd State :=
  let core := gs / 16
  let n := r.bytes.length
  match c.dstSpace core with
  | .pattern => .ok s
  | .element =>
    if !r.bad.isEmpty then .error (.held 3 fcPoison (ofI d))
    else
      let (e, o) := elementPlace d
      let x := s.hub.elements.val e Element.reset
      .ok { s with hub := { s.hub with elements := s.hub.elements.put e (x.write o r.bytes) } }
  | .lm k =>
    let o := d.toNat
    if (s.core k).health.gone then .error (.closed 6)
    else if d < 0 ∨ lmOwned (s.part (s.slot gs).part).banks o n = false then .error (.held 2 fcPageRights (ofI d))
    else if (s.core k).lmWiping o n then .error .waits
    else if !r.bad.isEmpty then .error (.held 3 fcPoison (ofI d))
    else match (s.core k).lmStoreError o n with
      | some b => .error (.badLm k b d)
      | none =>
        let x := (s.core k).lmStore o r.bytes
        .ok (s.setCore k (if c.tagen then x.cpTag c row col o n else x))
  | .global =>
    if d < 0 then .error (.held 1 fcPageAbsent (ofI d))
    else match s.cpWriteGlobal gs c.ptroot d.toNat r.bytes r.bad c.late with
      | .error e => .error e
      | .ok (t, []) => .ok t
      | .ok (t, ws) => .error (.late t ws)

/-- Length of the chunk that a command is at (R126), in units of `unit` bytes: 64, or 32 where the Piste carries it
(R136). -/
def CpCmd.chunk (c : CpCmd) (unit : Nat) : Nat :=
  min (c.rowlen - c.col) (unit - ((c.dstRow c.row + c.col) % unit).toNat)

/-- The command after `n` more bytes have landed, of its row and of the rows that follow. -/
def CpCmd.advance (c : CpCmd) (n : Nat) : CpCmd :=
  { c with row := c.row + (c.col + n) / c.rowlen, col := (c.col + n) % c.rowlen, landed := c.landed + n, late := none }

/-- The next `n` bytes of a command, or what it has left of them, in pieces of one row each: row, column and length. A row has
at least one byte (R258). -/
def CpCmd.pieces (c : CpCmd) (n : Nat) : List (Nat × Nat × Nat) :=
  ((List.range (n + 1)).filterMap (fun i =>
    let r := c.row + i
    let lo := if i = 0 then 0 else i * c.rowlen - c.col
    let k := min (c.rowlen - (if i = 0 then c.col else 0)) (n - lo)
    if r < c.rows ∧ lo < n then some (r, if i = 0 then c.col else 0, k) else none))

/-- Bytes of them. -/
def piecesLen (l : List (Nat × Nat × Nat)) : Nat := (l.map (fun p => p.2.2)).sum

/-- The end of a chunk with the address at which its first byte not landed stands on the side that failed (R126). -/
def ChunkEnd.at (e : ChunkEnd) (a : Int) : ChunkEnd :=
  match e with
  | .held code fault _ => .held code fault (ofI a)
  | e => e

/-- Moves one chunk of a command. -/
def State.cpChunk (s : State) (gs : Nat) (c : CpCmd) (unit : Nat) : ChunkEnd :=
  let n := c.chunk unit
  let a := c.srcRow c.row + c.col
  let d := c.dstRow c.row + c.col
  match s.cpRead gs c a d n with
  | .error e => e.at a
  | .ok r =>
    match r.st.cpWrite gs c d r c.row (c.col + n) with
    | .error (.held 3 fault _) => .held 3 fault (ofI a)
    | .error e => e.at d
    | .ok t =>
      let x := t.slot gs
      .landed (t.setSlot gs { x with subcnt := x.subcnt + ofN r.zeroed })

/-- Raises a deferred fault against a slot (R390, R392). -/
def State.raiseDeferred (s : State) (gs : Nat) (f : FaultInfo) : State :=
  let x := s.slot gs
  { s.setSlot gs { x with deferred := x.deferred ++ [f] } with agenda := s.agenda ++ [.deferredFault gs] }

/-- The fault of a held command (R126, R395). -/
def CpCmd.fault (c : CpCmd) (code fault : Nat) (addr : Word) : FaultInfo :=
  { code := fault, addr := addr, loc := false, kind := 5, cause := code
    extra := [(32, bytesOf 8 c.landed), (40, bytesOf 1 c.idx),
      (48, [c.c0, c.c1, c.c2, c.c3, c.a, c.b].flatMap (fun w => bytesOf 8 w.toNat))] }

/-- Replaces the Carter of a slot. -/
def State.setCp (s : State) (gs : Nat) (f : Carter → Carter) : State :=
  let x := s.slot gs
  s.setSlot gs { x with cp := f x.cp }

/-- The head command is held (R126). -/
def State.cpHold (s : State) (gs : Nat) (c : CpCmd) (code fault : Nat) (addr : Word) : State :=
  (s.setCp gs (fun q => { q with queue := { c with held := true } :: q.queue.tail, code := code, idx := c.idx
                                 })).raiseDeferred gs (c.fault code fault addr)

/-- The head command leaves its queue, which is an event for its slot (R228). -/
def State.cpDone (s : State) (gs : Nat) : State := (s.setCp gs (fun q => { q with queue := q.queue.tail })).signal gs

/-- What the end of a chunk other than its landing does to the head command (R126). -/
def State.cpStops (s : State) (gs : Nat) (c : CpCmd) (e : ChunkEnd) : State :=
  match e with
  | .waits | .landed _ => s
  | .late t ws => t.setCp gs (fun q => { q with queue := { c with late := some ws } :: q.queue.tail })
  | .walks va => s.askWalk { slot := gs, kind := .carter } c.ptroot va
  | .held code fault addr => (s.cpHold gs c code fault addr).signal gs
  | .badLm core o addr => ((s.countLm core 1 o).cpHold gs c 4 fcLmUncorrectable (ofI addr)).signal gs
  | .closed code => ((s.closeDebit c).setCp gs (fun q => { q with code := code, cperr := true, idx := c.idx })).cpDone gs

/-- `n` bytes of the head command have landed: they are debited, and the command may be done (R126). -/
def State.cpLanded (s : State) (gs : Nat) (c : CpCmd) (n : Nat) : State :=
  let d := c.advance n
  let (s, ok) := s.barDebit c.barKey n
  let s := s.setCp gs (fun q => { q with queue := d :: q.queue.tail })
  if ok = false then
    (s.cpHold gs d 5 fcBarrierUnderflow (if d.row = d.rows then 0 else ofI (d.dstRow d.row + d.col))).signal gs
  else if d.row = d.rows then s.cpDone gs else s

/-- One turn of the Carter for a slot (R123, R126): the chunk of its head command lands and is debited, or the command
ends. -/
def State.carterTurn (s : State) (gs : Nat) : State :=
  let c := gs / 16
  let s := s.setCore c { s.core c with cpLast := gs % 16 }
  let x := s.slot gs
  match x.run, x.cp.queue with
  | .parked _, _ => s
  | _, [] => s
  | _, c :: _ =>
    if c.held then s
    else if c.rows ≤ c.row then s.cpDone gs
    else match s.cpChunk gs c 64 with
      | .landed t => (t.forgetWalks gs (fun k => decide (k = .carter))).cpLanded gs c (c.chunk 64)
      | .walks va => s.cpStops gs c (.walks va)
      | .waits => s
      | .late t ws => s.cpStops gs c (.late t ws)
      | e => (s.forgetWalks gs (fun k => decide (k = .carter))).cpStops gs c e

/-- Whether a slot has a Carter command that moves on its own: one of figure mode to another core's LM waits for the windows
of the route plan (R127). -/
def Slot.carterRuns (x : Slot) (core : Nat) : Bool :=
  match x.run, x.cp.queue with
  | .parked _, _ => false
  | _, [] => false
  | _, c :: _ => x.stop.isNone && !c.held && !(decide (x.mode = 1 ∧ c.kind = .l2l ∧ fld c.a 26 19 ≠ core) && decide (c.row < c.rows))

/-- Whether one of `n` bytes from an LM offset lies in bank `b`. -/
def inBank (b : Nat) (o : Int) (n : Nat) : Bool := decide ((b * 32768 : Nat) < o + n ∧ o < ((b + 1) * 32768 : Nat))

/-- Whether bytes of a command that have not landed lie in bank `b`, by the addresses of its rows. -/
def CpCmd.leftOn (x : CpCmd) (b : Nat) (rowAt : Nat → Int) : Bool :=
  (List.range (x.rows - x.row)).any (fun i =>
    let col := if i = 0 then x.col else 0
    inBank b (rowAt (x.row + i) + col) (x.rowlen - col))

/-- The address of the first byte not landed of a command of core `own`, on the side that still reads or writes bank `b` of
core `c`; none where it does not. -/
def CpCmd.onBank (x : CpCmd) (own c b : Nat) : Option Int :=
  if x.dstSpace own = .lm c ∧ x.leftOn b x.dstRow = true then some (x.dstRow x.row + x.col)
  else if x.srcSpace own = .lm c ∧ x.leftOn b x.srcRow = true then some (x.srcRow x.row + x.col) else none

/-- Running Carter commands of other partitions on a bank that goes to partition `p` end `PAGE_RIGHTS`, before its wipe, with
whatever they wait for (R129); one that its slot's park has stopped meets the bank's owner when it runs again. -/
def State.endOnBank (s : State) (p c b : Nat) : State :=
  (s.cores.flatMap (fun k => k.2.slots.map (fun e => k.1 * 16 + e.1))).foldl (fun s gs =>
    let x := s.slot gs
    match x.run, x.cp.queue with
    | .parked _, _ => s
    | _, [] => s
    | _, h :: _ =>
      if h.held || decide (x.part = p) then s
      else match h.onBank (gs / 16) c b with
        | some a => (s.forgetWalks gs (fun k => decide (k = .carter))).cpStops gs h (.held 2 fcPageRights (ofI a))
        | none => s) s

/-- One chunk of a slot's running Carter command. -/
def execCarterChunk (gs : Nat) (s : State) : Host.Outcome State Fault Refusal := .next (s.carterTurn gs)

end Sys2Proof.Machine
end

