-- ==== Sys2Proof/Machine/Tables.lean ====
section
/-! DEFINITION. Decode table banks: the ROM tables, decode, seal checks, views and encode (R175 to R180). -/

namespace Sys2Proof.Machine

/-- Class of a table entry (R175). -/
def entryClass (w : BitVec 32) : Nat := nbits w.toNat 20 19
/-- XNAN of an entry. -/
def entryXnan (w : BitVec 32) : Bool := w.getLsbD 21
/-- VALUE of an entry, an E8M10 pattern. -/
def entryValue (w : BitVec 32) : Nat := nbits w.toNat 18 0

/-- An entry from its fields. -/
def mkEntry (xnan : Bool) (cls val : Nat) : BitVec 32 := BitVec.ofNat 32 (b2n xnan * 2 ^ 21 + cls * 2 ^ 19 + val)

/-- The E8M10 pattern of ±m × 2^e. -/
def e8Of (neg : Bool) (m : Nat) (e : Int) : Nat := (e8m10.round .rne neg m e false).1

/-- The canonical E8M10 NaN with a sign (R178). -/
def e8Nan (neg : Bool) : Nat := e8m10.sign neg + e8m10.nan

/-- 2^(j / 8) rounded to E8M10, with whole part i (R178, LOG8). -/
def e8Exp8 (neg : Bool) (k : Int) : Nat :=
  let i := k / 8
  let j := (k % 8).toNat
  if j = 0 then e8Of neg 1 i
  else (e8m10.round .rne neg (exp2Fix (j * 2 ^ (fixBits - 3)) / 2 ^ 24) (i - (fixBits - 24)) true).1

/-- Entry `c` of the standard table with identity `tid` (R178). -/
def romEntry (tid c : Nat) : BitVec 32 :=
  let s8 := c.testBit 7
  let s4 := c.testBit 3
  match tid with
  | 0 =>
    let e := nbits c 6 3
    let m := nbits c 2 0
    if c % 128 = 127 then mkEntry false 2 (e8Nan s8)
    else if e = 0 then mkEntry false 0 (e8Of s8 m (-9)) else mkEntry false 0 (e8Of s8 (8 + m) (e - 10))
  | 1 =>
    let e := nbits c 6 2
    let m := nbits c 1 0
    if e = 0 then mkEntry false 0 (e8Of s8 m (-16))
    else if e < 31 then mkEntry false 0 (e8Of s8 (4 + m) (e - 17))
    else mkEntry (!decide (m = 0)) 1 (e8Of s8 (4 + m) 14)
  | 2 => let v := sext 8 c; mkEntry false 0 (e8Of (decide (v < 0)) v.natAbs 0)
  | 3 => mkEntry false 0 (e8Of false (c % 256) 0)
  | 4 =>
    let k := c % 128
    if k = 0 then (if s8 then mkEntry false 2 (e8Nan true) else mkEntry false 0 0)
    else if k = 127 then mkEntry false 1 (e8Exp8 s8 63)
    else mkEntry false 0 (e8Exp8 s8 (k - 64))
  | 5 =>
    if 16 ≤ c then mkEntry false 3 0
    else
      let e := nbits c 2 1
      let m := nbits c 0 0
      if e = 0 then mkEntry false 0 (e8Of s4 m (-1)) else mkEntry false 0 (e8Of s4 (2 + m) (e - 2))
  | 6 =>
    if 16 ≤ c then mkEntry false 3 0
    else let v := sext 4 c; mkEntry false 0 (e8Of (decide (v < 0)) v.natAbs 0)
  | _ => 0

/-- Entry `c` of a bank. -/
def TBank.entry (b : TBank) (c : Nat) : BitVec 32 := b.written.val c (romEntry b.rom c)

/-- The E8M10 value that a code decodes to (R176). -/
def decodeEntry (w : BitVec 32) (nxm : Bool) : Nat :=
  let neg := (entryValue w).testBit 18
  match entryClass w with
  | 0 => entryValue w
  | 1 =>
    if nxm then (if entryXnan w then e8Nan neg else e8m10.sign neg + e8m10.inf) else entryValue w
  | 2 => e8Nan neg
  | _ => e8Nan false

/-- The E8M10 value of code `c` in a bank. -/
def TBank.decode (b : TBank) (nxm : Bool) (c : Nat) : Nat := decodeEntry (b.entry c) nxm

/-- The reason for which `TBL.SEAL` refuses a bank, as the entry check of R179 that fails first; 0 when none does. -/
def entryBad (w : BitVec 32) : Nat :=
  if !decide (nbits w.toNat 31 22 = 0) then 1
  else if entryXnan w && !decide (entryClass w = 1) then 2
  else if entryClass w < 2 ∧ nbits w.toNat 17 10 = 0xFF then 3
  else 0

/-! ## Encode (R180) -/

/-- A FINITE entry as an encode sees it: code and value. -/
structure ViewEntry where
  code : Nat
  val : FpVal
  neg : Bool
  deriving DecidableEq, Repr

/-- The FINITE entries of a bank with codes below `n`, in code order. -/
def TBank.view (b : TBank) (n : Nat) : List ViewEntry :=
  (List.range n).filterMap (fun c =>
    let w := b.entry c
    if entryClass w = 0 then
      some { code := c, val := e8m10.decode (entryValue w), neg := (entryValue w).testBit 18 }
    else none)

/-- Order of two entries by value, with −0 before +0 (R179). -/
def viewOrder (x y : ViewEntry) : Int :=
  let c := fpCompare x.val y.val
  if c = 0 then (if x.neg && !y.neg then -1 else if y.neg && !x.neg then 1 else 0) else c

/-- The least entry of a list, the lowest code among equals. -/
def viewLeast (l : List ViewEntry) : Option ViewEntry :=
  l.foldl (fun acc x => match acc with
    | none => some x
    | some m => if viewOrder x m < 0 then some x else acc) none

/-- The greatest entry of a list, the lowest code among equals. -/
def viewGreatest (l : List ViewEntry) : Option ViewEntry :=
  l.foldl (fun acc x => match acc with
    | none => some x
    | some m => if 0 < viewOrder x m then some x else acc) none

/-- Encodes a finite E8M10 value through a view that is not empty (R180). -/
def encodeFinite (v : List ViewEntry) (y : FpVal) (neg : Bool) : Nat × FlagSet :=
  let below := v.filter (fun x => decide (fpCompare x.val y ≤ 0))
  let above := v.filter (fun x => decide (0 ≤ fpCompare x.val y))
  let same := v.filter (fun x => decide (fpCompare x.val y = 0))
  match same.find? (fun x => decide (x.neg = neg)), same with
  | some x, _ => (x.code, 0)
  | none, x :: _ => (x.code, 0)
  | none, [] =>
    match viewGreatest below, viewLeast above with
    | none, some hi => (hi.code, flOF)
    | some lo, none => (lo.code, flOF)
    | none, none => (0, 0)
    | some lo, some hi =>
      let dist := fun (a b : FpVal) => match a, b with
        | .fin n m e, .fin n' m' e' => dyAdd (signed n m) e (-(signed n' m')) e'
        | _, _ => (0, 0)
      let (d1, e1) := dist y lo.val
      let (d2, e2) := dist hi.val y
      let d := (dyAdd d1 e1 (-d2) e2).1
      let even := fun (c : Nat) => decide (c % 2 = 0)
      let code := if d < 0 then lo.code else if 0 < d then hi.code
        else if even lo.code && !even hi.code then lo.code
        else if even hi.code && !even lo.code then hi.code else min lo.code hi.code
      (code, flNX)

/-- The lowest code below `n` whose entry meets a condition. -/
def TBank.findCode (b : TBank) (n : Nat) (p : BitVec 32 → Bool) : Option Nat :=
  (List.range n).find? (fun c => p (b.entry c))

/-- The code of an infinity (R180). -/
def TBank.encodeInf (b : TBank) (n : Nat) (nxm neg : Bool) : Nat × FlagSet :=
  match if nxm then b.findCode n (fun w => decide (entryClass w = 1) && !entryXnan w
      && decide ((entryValue w).testBit 18 = neg)) else none with
  | some c => (c, 0)
  | none =>
    match if neg then viewLeast (b.view n) else viewGreatest (b.view n) with
    | some x => (x.code, flOF)
    | none => (0, flOF)

/-- The code of an FP32 pattern through a sealed bank, `n` being 256 or 16 (R180). -/
def TBank.encode (b : TBank) (n : Nat) (nxm : Bool) (x : Nat) : Nat × FlagSet :=
  let neg := x.testBit 31
  match fp32.decode x with
  | .nan _ =>
    let isNan := fun (w : BitVec 32) => (e8m10.decode (decodeEntry w nxm)).isNan
    match b.findCode n (fun w => isNan w && decide ((decodeEntry w nxm).testBit 18 = neg)), b.findCode n isNan with
    | some c, _ => (c, 0)
    | none, some c => (c, 0)
    | none, none =>
      let (c, fl) := encodeFinite (b.view n) (.fin false 0 0) false
      (c, flOr fl flNV)
  | .inf a => b.encodeInf n nxm a
  | v =>
    let y := (e8m10.roundV .rne v).1
    match e8m10.decode y with
    | .inf a => b.encodeInf n nxm a
    | yv => encodeFinite (b.view n) yv neg

end Sys2Proof.Machine
end

