-- ==== Sys2Proof/Machine/Vector.lean ====
section
/-! DEFINITION. Vector instructions (chapter 11, R264 to R277). -/

namespace Sys2Proof.Machine

/-! ## Lanes -/

/-- SW.RM of the executing slot. -/
def rounding : M Rm := do
  let x ← me
  pure (rmOf (fld x.sw 3 2))

/-- Writes lanes of width `w` and raises the flags of all of them. -/
def writeLanes (w : Nat) (d : VReg) (l : List (Nat × FlagSet)) : M Unit := do
  writeV d (ofLanes w (l.map (·.1)))
  raiseFlags (l.foldl (fun acc e => flOr acc e.2) 0)

/-- d := f(a) lane by lane. -/
def lanes1 (w : Nat) (f : Rm → Nat → Nat × FlagSet) (d a : VReg) : M Unit := do
  let rm ← rounding
  let x ← readV a
  writeLanes w d ((lanesOf w x).map (f rm))

/-- d := f(a, b) lane by lane. -/
def lanes2 (w : Nat) (f : Rm → Nat → Nat → Nat × FlagSet) (d a b : VReg) : M Unit := do
  let rm ← rounding
  let x ← readV a
  let y ← readV b
  writeLanes w d (List.zipWith (f rm) (lanesOf w x) (lanesOf w y))

/-- An integer lane read in the signedness of its type (R172). -/
def intLane (t : ElemTy) (x : Nat) : Int := if elemSigned t then sext (elemBits t) x else (x : Int)

/-- Bounds of an integer type. -/
def intLo (t : ElemTy) : Int := if elemSigned t then -(2 ^ (elemBits t - 1) : Nat) else 0
def intHi (t : ElemTy) : Int := if elemSigned t then (2 ^ (elemBits t - 1) : Nat) - 1 else (2 ^ elemBits t : Nat) - 1

/-- An integer result as a lane: wrapped, or replaced by the nearer bound with OF (R264). -/
def intResult (sat : Bool) (t : ElemTy) (r : Int) : Nat × FlagSet :=
  if sat then
    let (v, fl) := saturate (intLo t) (intHi t) r
    (toBits (elemBits t) v, fl)
  else (toBits (elemBits t) r, 0)

/-- A two-source operation over integers and FP32. -/
def arith (fi : Int → Int → Int) (ff : Rm → Nat → Nat → Nat × FlagSet) (sat : Bool) (t : ElemTy)
    (rm : Rm) (x y : Nat) : Nat × FlagSet :=
  if t = .f32 then ff rm x y else intResult sat t (fi (intLane t x) (intLane t y))

/-- The lesser or greater of two lanes (R267). -/
def minMaxLane (max : Bool) (t : ElemTy) (x y : Nat) : Nat × FlagSet :=
  if t = .f32 then f32MinMax max x y
  else (if decide (intLane t x ≤ intLane t y) = max then y else x, 0)

/-- `V.ABS` and `V.NEG` (R266): on FP32 only the sign changes, and a NaN becomes the canonical one with no flag. -/
def absLane (sat : Bool) (t : ElemTy) (x : Nat) : Nat × FlagSet :=
  if t = .f32 then (if (fp32.decode x).isNan then fp32.nan else x % 2 ^ 31, 0)
  else intResult sat t (intLane t x).natAbs
def negLane (sat : Bool) (t : ElemTy) (x : Nat) : Nat × FlagSet :=
  if t = .f32 then (if (fp32.decode x).isNan then fp32.nan else x ^^^ 2 ^ 31, 0)
  else intResult sat t (-(intLane t x))

/-! ## Arithmetic (R266 to R268) -/

def startVAdd (sat : Bool) (t : ElemTy) (d a b : VReg) (_ : List Word) : M Unit :=
  lanes2 (elemBits t) (arith (· + ·) f32Add sat t) d a b
def startVSub (sat : Bool) (t : ElemTy) (d a b : VReg) (_ : List Word) : M Unit :=
  lanes2 (elemBits t) (arith (· - ·) f32Sub sat t) d a b
def startVMul (t : ElemTy) (d a b : VReg) (_ : List Word) : M Unit :=
  lanes2 (elemBits t) (arith (· * ·) f32Mul false t) d a b
def startVMin (t : ElemTy) (d a b : VReg) (_ : List Word) : M Unit :=
  lanes2 (elemBits t) (fun _ => minMaxLane false t) d a b
def startVMax (t : ElemTy) (d a b : VReg) (_ : List Word) : M Unit :=
  lanes2 (elemBits t) (fun _ => minMaxLane true t) d a b
def startVAbs (sat : Bool) (t : ElemTy) (d a : VReg) (_ : List Word) : M Unit :=
  lanes1 (elemBits t) (fun _ => absLane sat t) d a
def startVNeg (sat : Bool) (t : ElemTy) (d a : VReg) (_ : List Word) : M Unit :=
  lanes1 (elemBits t) (fun _ => negLane sat t) d a
def startVRcp (d a : VReg) (_ : List Word) : M Unit := lanes1 32 f32Rcp d a
def startVRsq (d a : VReg) (_ : List Word) : M Unit := lanes1 32 f32Rsq d a
def startVSqrt (d a : VReg) (_ : List Word) : M Unit := lanes1 32 f32Sqrt d a
def startVExp2 (d a : VReg) (_ : List Word) : M Unit := lanes1 32 f32Exp2 d a
def startVLog2 (d a : VReg) (_ : List Word) : M Unit := lanes1 32 f32Log2 d a

/-- `V.FMA` and `V.FMS`: d is the addend, read before it is written. -/
def fused (f : Rm → Nat → Nat → Nat → Nat × FlagSet) (d a b : VReg) (_ : List Word) : M Unit := do
  let rm ← rounding
  let x ← readV a
  let y ← readV b
  let z ← readV d
  writeLanes 32 d (List.zipWith (fun p z => f rm p.1 p.2 z) ((lanesOf 32 x).zip (lanesOf 32 y)) (lanesOf 32 z))

def execVAdd (sat : Bool) (t : ElemTy) (d a b : VReg) (s : State) :=
  runI (engineIssue (.vAdd sat t d a b)) s
def execVSub (sat : Bool) (t : ElemTy) (d a b : VReg) (s : State) :=
  runI (engineIssue (.vSub sat t d a b)) s
def execVMul (t : ElemTy) (d a b : VReg) (s : State) := runI (engineIssue (.vMul t d a b)) s
def execVFma (d a b : VReg) (s : State) := runI (engineIssue (.vFma d a b)) s
def execVFms (d a b : VReg) (s : State) := runI (engineIssue (.vFms d a b)) s
def execVMin (t : ElemTy) (d a b : VReg) (s : State) := runI (engineIssue (.vMin t d a b)) s
def execVMax (t : ElemTy) (d a b : VReg) (s : State) := runI (engineIssue (.vMax t d a b)) s
def execVAbs (sat : Bool) (t : ElemTy) (d a : VReg) (s : State) :=
  runI (engineIssue (.vAbs sat t d a)) s
def execVNeg (sat : Bool) (t : ElemTy) (d a : VReg) (s : State) :=
  runI (engineIssue (.vNeg sat t d a)) s
def execVRcp (d a : VReg) (s : State) := runI (engineIssue (.vRcp d a)) s
def execVRsq (d a : VReg) (s : State) := runI (engineIssue (.vRsq d a)) s
def execVSqrt (d a : VReg) (s : State) := runI (engineIssue (.vSqrt d a)) s
def execVExp2 (d a : VReg) (s : State) := runI (engineIssue (.vExp2 d a)) s
def execVLog2 (d a : VReg) (s : State) := runI (engineIssue (.vLog2 d a)) s

/-! ## Logic, shifts, compare, select (R269, R270) -/

/-- A bitwise operation on all 512 bits. -/
def bitwise2 (f : VWord → VWord → VWord) (d a b : VReg) (_ : List Word) : M Unit := do
  let x ← readV a
  let y ← readV b
  writeV d (f x y)

/-- Shifts of a lane of `w` bits by the whole lane of b (R269). -/
def shlLane (w x n : Nat) : Nat := if w ≤ n then 0 else x * 2 ^ n % 2 ^ w
def shrLane (w x n : Nat) : Nat := if w ≤ n then 0 else x / 2 ^ n
def sarLane (w x n : Nat) : Nat := toBits w (sext w x / (2 ^ min n w : Nat))

def startShift (f : Nat → Nat → Nat → Nat) (t : ElemTy) (d a b : VReg) (_ : List Word) : M Unit :=
  lanes2 (elemBits t) (fun _ x y => (f (elemBits t) x y, 0)) d a b

def execVAnd (d a b : VReg) (s : State) := runI (engineIssue (.vAnd d a b)) s
def execVOr (d a b : VReg) (s : State) := runI (engineIssue (.vOr d a b)) s
def execVXor (d a b : VReg) (s : State) := runI (engineIssue (.vXor d a b)) s
def execVAndn (d a b : VReg) (s : State) :=
  runI (engineIssue (.vAndn d a b)) s
def execVShl (t : ElemTy) (d a b : VReg) (s : State) := runI (engineIssue (.vShl t d a b)) s
def execVShr (t : ElemTy) (d a b : VReg) (s : State) := runI (engineIssue (.vShr t d a b)) s
def execVSar (t : ElemTy) (d a b : VReg) (s : State) := runI (engineIssue (.vSar t d a b)) s

/-- A relation from a three-way comparison. -/
def relOfCompare (r : Rel) (c : Int) : Bool :=
  match r with
  | .eq => decide (c = 0)
  | .ne => !decide (c = 0)
  | .lt | .ltz => decide (c < 0)
  | .le | .lez => decide (c ≤ 0)
  | .gt | .gtz => decide (0 < c)
  | .ge | .gez => decide (0 ≤ c)

/-- One lane of `V.CMP` (R270): all ones where the relation holds. -/
def cmpLane (r : Rel) (t : ElemTy) (x y : Nat) : Nat × FlagSet :=
  let ones := fun (b : Bool) => if b then 2 ^ elemBits t - 1 else 0
  if t = .f32 then
    let a := fp32.decode x
    let b := fp32.decode y
    let quiet := decide (r = .eq) || decide (r = .ne)
    if a.isNan || b.isNan then
      (ones (decide (r = .ne)), if !quiet || a.isSnan || b.isSnan then flNV else 0)
    else (ones (relOfCompare r (fpCompare a b)), 0)
  else (ones (relOfCompare r (intLane t x - intLane t y)), 0)

def startVCmp (r : Rel) (t : ElemTy) (d a b : VReg) (_ : List Word) : M Unit :=
  lanes2 (elemBits t) (fun _ => cmpLane r t) d a b
def execVCmp (r : Rel) (t : ElemTy) (d a b : VReg) (s : State) :=
  runI (engineIssue (.vCmp r t d a b)) s

def startVSel (d a b : VReg) (_ : List Word) : M Unit := do
  let m ← readV d
  let x ← readV a
  let y ← readV b
  writeV d ((x &&& m) ||| (y &&& ~~~m))
def execVSel (d a b : VReg) (s : State) := runI (engineIssue (.vSel d a b)) s

/-! ## Horizontal reductions (R182, R271) -/

/-- One level of the tree: neighbours are combined. -/
def treeLevel (f : Nat → Nat → Nat × FlagSet) : List Nat → List (Nat × FlagSet)
  | x :: y :: l => f x y :: treeLevel f l
  | [x] => [(x, 0)]
  | [] => []

/-- The tree of R182; `fuel` is its height. -/
def treeReduce (f : Nat → Nat → Nat × FlagSet) : Nat → List Nat → FlagSet → Nat × FlagSet
  | 0, l, fl => (l.headD 0, fl)
  | k + 1, l, fl =>
    let r := treeLevel f l
    treeReduce f k (r.map (·.1)) (r.foldl (fun acc e => flOr acc e.2) fl)

def startVRed (f : Rm → Nat → Nat → Nat × FlagSet) (t : ElemTy) (d a : VReg) (_ : List Word) : M Unit := do
  let rm ← rounding
  let x ← readV a
  let (r, fl) := treeReduce (f rm) (Nat.log2 (512 / elemBits t)) (lanesOf (elemBits t) x) 0
  writeV d (BitVec.ofNat 512 r)
  raiseFlags fl

def execVRedAdd (t : ElemTy) (d a : VReg) (s : State) :=
  runI (engineIssue (.vRedAdd t d a)) s
def execVRedMin (t : ElemTy) (d a : VReg) (s : State) :=
  runI (engineIssue (.vRedMin t d a)) s
def execVRedMax (t : ElemTy) (d a : VReg) (s : State) :=
  runI (engineIssue (.vRedMax t d a)) s

/-! ## Moving lanes (R272, R273) -/

def startVBcast (t : ElemTy) (d : VReg) (l : List Word) : M Unit :=
  let w := elemBits t
  writeV d (ofLanes w (List.replicate (512 / w) ((src l 0).toNat % 2 ^ w)))
def execVBcast (t : ElemTy) (d : VReg) (a : Reg) (s : State) :=
  runI (engineIssue (.vBcast t d a)) s

def startVExt (t : ElemTy) (d : Reg) (a : VReg) (l : List Word) : M Unit := do
  let w := elemBits t
  let x ← readV a
  let v := lane w x ((src l 0).toNat % (512 / w))
  engWriteS d (if elemSigned t then ofI (sext w v) else ofN v)
def execVExt (t : ElemTy) (d : Reg) (a : VReg) (b : Reg) (s : State) :=
  runI (engineIssue (.vExt t d a b)) s

/-- A vector with lane `i` of width `w` replaced. -/
def setLane (w : Nat) (x : VWord) (i v : Nat) : VWord :=
  ofLanes w ((lanesOf w x).set i (v % 2 ^ w))

def startVIns (t : ElemTy) (d : VReg) (l : List Word) : M Unit := do
  let w := elemBits t
  let x ← readV d
  writeV d (setLane w x ((src l 1).toNat % (512 / w)) (src l 0).toNat)
def execVIns (t : ElemTy) (d : VReg) (a b : Reg) (s : State) :=
  runI (engineIssue (.vIns t d a b)) s

def startVPerm (d a b : VReg) (_ : List Word) : M Unit := do
  let x ← readV a
  let y ← readV b
  writeV d (ofLanes 8 ((lanesOf 8 y).map (fun c => if c.testBit 7 then 0 else lane 8 x (c % 64))))
def execVPerm (d a b : VReg) (s : State) := runI (engineIssue (.vPerm d a b)) s

/-! ## Conversions (R274 to R276) -/

/-- The floating-point format of a type. -/
def fpOf : ElemTy → Option FpFmt
  | .f32 => some fp32
  | .bf16 => some bf16
  | .f16 => some fp16
  | _ => none

/-- A floating-point value as an integer of a type (R274): NaN gives 0, and what lies beyond the range the nearer bound,
both with NV. -/
def toInteger (rm : Rm) (t : ElemTy) (x : FpVal) : Nat × FlagSet :=
  match x with
  | .nan _ => (0, flNV)
  | .inf neg => (toBits (elemBits t) (if neg then intLo t else intHi t), flNV)
  | .fin n m e =>
    let (v, inexact) := roundToInt rm n m e
    if v < intLo t then (toBits (elemBits t) (intLo t), flNV)
    else if intHi t < v then (toBits (elemBits t) (intHi t), flNV)
    else (toBits (elemBits t) v, if inexact then flNX else 0)

/-- One lane converted from a type to another (R274). -/
def convertLane (dst src : ElemTy) (rm : Rm) (x : Nat) : Nat × FlagSet :=
  match fpOf src, fpOf dst with
  | some f, some g => g.roundV rm (f.decode x)
  | some f, none => toInteger rm dst (f.decode x)
  | none, some g => g.roundInt rm false (intLane src x) 0
  | none, none => intResult true dst (intLane src x)

/-- Converts `n` lanes of `x` from lane `from_` on. -/
def convertLanes (dst src : ElemTy) (rm : Rm) (x : VWord) (from_ n : Nat) : List (Nat × FlagSet) :=
  (List.range n).map (fun i => convertLane dst src rm (lane (elemBits src) x (from_ + i)))

def startVCvt (dst src : ElemTy) (d a : VReg) (_ : List Word) : M Unit := do
  let rm ← rounding
  let x ← readV a
  writeLanes (elemBits dst) d (convertLanes dst src rm x 0 (512 / max (elemBits src) (elemBits dst)))
def execVCvt (dst src : ElemTy) (d a : VReg) (s : State) :=
  runI (engineIssue (.vCvt dst src d a)) s

def startVPack (dst src : ElemTy) (d a b : VReg) (_ : List Word) : M Unit := do
  let rm ← rounding
  let x ← readV a
  let y ← readV b
  let n := 512 / elemBits src
  writeLanes (elemBits dst) d (convertLanes dst src rm x 0 n ++ convertLanes dst src rm y 0 n)
def execVPack (dst src : ElemTy) (d a b : VReg) (s : State) :=
  runI (engineIssue (.vPack dst src d a b)) s

def startVUnpk (dst src : ElemTy) (d a : VReg) (h : Fin 8) (_ : List Word) : M Unit := do
  let rm ← rounding
  let x ← readV a
  let n := 512 / elemBits dst
  writeLanes (elemBits dst) d (convertLanes dst src rm x (h.val * n) n)
def execVUnpk (dst src : ElemTy) (d a : VReg) (h : Fin 8) (s : State) :=
  runI (engineIssue (.vUnpk dst src d a h)) s

/-- FP32 lane × 2^k with one rounding (R276). -/
def scaleLane (rm : Rm) (k : Int) (x : Nat) : Nat × FlagSet :=
  match fp32.decode x with
  | .fin n m e => fp32.round rm n m (e + k) false
  | v => fp32.roundV rm v

def startVScl (inv : Bool) (d a : VReg) (l : List Word) : M Unit := do
  let rm ← rounding
  let x ← readV a
  let e := fld (src l 0) 7 0
  if e = 0xFF then
    writeV d (ofLanes 32 (List.replicate 16 fp32.nan))
    raiseFlags flNV
  else
    let k : Int := if inv then 127 - (e : Int) else (e : Int) - 127
    writeLanes 32 d ((lanesOf 32 x).map (scaleLane rm k))
def execVScl (inv : Bool) (d a : VReg) (b : Reg) (s : State) :=
  runI (engineIssue (.vScl inv d a b)) s

/-! ## Codes (R277) -/

/-- Decode table bank `b` of a core. -/
def Core.bank (k : Core) (b : Nat) : TBank := k.tb.val b (TBank.reset b)

/-- The table banks that a partition owns (R377). -/
def PartWords.tbanks (w : PartWords) : Nat := fld w.w0 11 8

/-- A bank that an instruction uses: owned, or `PRIVILEGE`, unless it was when the instruction issued; sealed, or
`TABLE_UNSEALED`; a bank that is being sealed makes it wait (R161, R177, R277). -/
def useBank (b : Nat) : M TBank := do
  let s ← get
  needP (nbit (s.part s.me.part).tbanks b || s.iss.kept.any (fun k => decide (k = b))) fcPrivilege
  let t := (s.core s.myCore).bank b
  match t.st with
  | .unsealed => faultL fcTableUnsealed
  | .sealing => waitOn .retry
  | .sealed => pure t

/-- The bank that TBSEL.VBANK names. -/
def vBank : M TBank := do
  let x ← me
  useBank x.vbank

/-- `V.DEC8` and `V.DEC4`: 16 codes of `w` bits from code 16h on. -/
def startDec (w : Nat) (d a : VReg) (h : Fin 8) (_ : List Word) : M Unit := do
  let b ← vBank
  let x ← me
  let v ← readV a
  writeV d (ofLanes 32 ((List.range 16).map (fun i => b.decode x.nxm (lane w v (16 * h.val + i)) * 2 ^ 13)))

/-- `V.ENC8` and `V.ENC4`: 16 codes of `w` bits from code 16h on; the others are kept. -/
def startEnc (w : Nat) (d a : VReg) (h : Fin 8) (_ : List Word) : M Unit := do
  let b ← vBank
  needL (!decide (w = 4) || !(b.view 16).isEmpty) fcTableUnsealed
  let x ← me
  let v ← readV a
  let old ← readV d
  let codes := (lanesOf 32 v).map (b.encode (2 ^ w) x.nxm)
  writeV d (ofLanes w ((List.range (512 / w)).map (fun i =>
    if 16 * h.val ≤ i ∧ i < 16 * h.val + 16 then (codes.getD (i - 16 * h.val) (0, 0)).1 else lane w old i)))
  raiseFlags (codes.foldl (fun acc e => flOr acc e.2) 0)

def execVDec8 (d a : VReg) (h : Fin 8) (s : State) := runI (engineIssue (.vDec8 d a h)) s
def execVEnc8 (d a : VReg) (h : Fin 8) (s : State) := runI (engineIssue (.vEnc8 d a h)) s
def execVDec4 (d a : VReg) (h : Fin 8) (s : State) := runI (engineIssue (.vDec4 d a h)) s
def execVEnc4 (d a : VReg) (h : Fin 8) (s : State) := runI (engineIssue (.vEnc4 d a h)) s

end Sys2Proof.Machine
end

