-- ==== Sys2Proof/Machine/Matrix.lean ====
section
/-! DEFINITION. The matrix unit, the B operand latch and the ring (R151, R152, R278 to R287). -/

namespace Sys2Proof.Machine

/-! ## Descriptors and operands (R161, R280) -/

/-- ELEM, BANK, SCALED and PITCH of a descriptor (R161). -/
def descElem (w : Word) : Nat := fld w 3 0
def descBank (w : Word) : Nat := fld w 11 10
def descScaled (w : Word) : Bool := bitOf w 15
def descPitch (w : Word) : Nat := fld w 50 32

/-- The check of a descriptor by the instruction that uses it (R161). -/
def descCheck (w : Word) : M Unit := do
  needP (decide (fld w 63 51 = 0 ∧ fld w 31 16 = 0 ∧ fld w 14 12 = 0 ∧ fld w 9 4 = 0 ∧ descElem w ≤ 4)) fcIllegalOpcode
  if 3 ≤ descElem w then do
    let _ ← useBank (descBank w)
    pure ()
  else pure ()

/-- Width in bits of an operand element. -/
def elemWidth (elem : Nat) : Nat := if elem ≤ 2 then 16 else if elem = 3 then 8 else 4

/-- The greatest k for a width. -/
def maxK (width : Nat) : Nat := if width = 16 then 128 else if width = 8 then 256 else 512

/-- Step 2 of R280 for the widths of the operands that the instruction reads. -/
def kCheck (k : Nat) (elems : List Nat) : M Unit :=
  needP (decide (1 ≤ k ∧ k ≤ maxK ((elems.map elemWidth).foldl max 0)) && (!elems.any (fun e => decide (e = 4)) || decide (k % 2 = 0)))
    fcIllegalOpcode

/-- K and Q0 of scalar operand b (R280). -/
def opK (b : Word) : Nat := fld b 9 0
def opQ0 (b : Word) : Nat := fld b 31 16

/-- An accumulator that the slot may name (R154, R159). -/
def accCheck (m : Acc) : M Unit := do
  let s ← get
  needP (nbit (s.accMask s.me.part (s.cur % 16)) m.val) fcPrivilege

/-- An operand in LM: offset, pitch, rows, bytes of a row; and its scale bytes, as offset and length. -/
structure LmOperand where
  off : Nat
  pitch : Nat
  rows : Nat
  len : Nat
  scale : Option (Nat × Nat)
  deriving DecidableEq, Repr

/-- Number of K blocks. -/
def kBlocks (k : Nat) : Nat := (k + 31) / 32

/-- The A operand of an instruction, and the B operand (R280). -/
def aOperand (x : Slot) (off k q0 : Nat) : LmOperand :=
  { off := off, pitch := descPitch x.fa, rows := 32, len := k * elemWidth (descElem x.fa) / 8
    scale := if descScaled x.fa then some (fld x.sa 18 0 + 32 * q0, 32 * kBlocks k) else none }
def bOperand (x : Slot) (off k q0 : Nat) : LmOperand :=
  { off := off, pitch := descPitch x.fb, rows := k, len := 4 * elemWidth (descElem x.fb)
    scale := if descScaled x.fb then some (fld x.sb 18 0 + 32 * q0, 32 * kBlocks k) else none }

/-- The LM ranges that an operand reads. -/
def LmOperand.ranges (o : LmOperand) : List (Nat × Nat) :=
  (List.range o.rows).map (fun r => (o.off + r * o.pitch, o.len)) ++ o.scale.toList

/-- Steps 4 to 6 of R280 over the operands that an instruction reads. -/
def operandChecks (ops : List LmOperand) : M Unit := do
  ops.forM (fun o => (List.range o.rows).forM (fun r =>
    needL (decide ((o.off + r * o.pitch) % 8 = 0)) fcAlign (ofN (o.off + r * o.pitch))))
  let places ← (ops.flatMap LmOperand.ranges).mapM (fun e => do
    let p ← lmRange e.1 e.2
    pure (p, e.2))
  places.forM (fun e => do
    let _ ← lmLoad e.1 e.2
    pure ())

/-- Bytes of an operand row by row. -/
def LmOperand.bytes (o : LmOperand) (k : Core) : List Byte :=
  (List.range o.rows).flatMap (fun r => k.lmBytes (o.off + r * o.pitch) o.len)

/-- Scale bytes of an operand. -/
def LmOperand.scales (o : LmOperand) (k : Core) : List Byte :=
  match o.scale with
  | some (p, n) => k.lmBytes p n
  | none => []

/-! ## Element values and the block sum (R170, R176, R183, R184) -/

/-- The value of an element pattern. -/
def elemVal (elem : Nat) (bank : TBank) (nxm : Bool) (x : Nat) : FpVal :=
  match elem with
  | 1 => bf16.decode x
  | 2 => fp16.decode x
  | _ => e8m10.decode (bank.decode nxm x)

/-- The packed elements of bytes (R158), the first one in the lowest bits. -/
def unpackElems (elem : Nat) (bs : List Byte) (n : Nat) : List Nat :=
  let w := elemWidth elem
  let v := ofBytes bs
  (List.range n).map (fun i => v / 2 ^ (w * i) % 2 ^ w)

/-- A partial block sum: a NaN, infinities seen, and the exact finite sum. -/
structure BlockSum where
  nan : Bool
  posInf : Bool
  negInf : Bool
  m : Int
  e : Int
  deriving DecidableEq, Repr

/-- One more product. -/
def BlockSum.add (b : BlockSum) (p : FpVal) : BlockSum :=
  match p with
  | .nan _ => { b with nan := true }
  | .inf n => if n then { b with negInf := true } else { b with posInf := true }
  | .fin n m e =>
    let (v, ve) := dyAdd b.m b.e (signed n m) e
    { b with m := v, e := ve }

/-- The block's t as a value (R183, R184). -/
def blockVal (xs ys : List FpVal) (scaleNan : Bool) : FpVal :=
  let s := (List.zipWith (fun x y => (mulV x y).1) xs ys).foldl BlockSum.add
    { nan := scaleNan, posInf := false, negInf := false, m := 0, e := 0 }
  if s.nan || (s.posInf && s.negInf) then .nan false
  else if s.posInf then .inf false
  else if s.negInf then .inf true
  else fp32.decode (fp32.roundInt .rne false s.m s.e).1

/-- A value × 2^k. -/
def FpVal.scale (v : FpVal) (k : Int) : FpVal :=
  match v with
  | .fin n m e => .fin n m (e + k)
  | v => v

/-- One block into one accumulator element (R183). -/
def accumulate (acc : BitVec 32) (xs ys : List FpVal) (sa sb : Nat) : BitVec 32 :=
  let t := blockVal xs ys (decide (sa = 0xFF) || decide (sb = 0xFF))
  BitVec.ofNat 32 (fp32.addV .rne (fp32.decode acc.toNat) (t.scale ((sa : Int) + (sb : Int) - 254))).1

/-- An operand decoded: element (r, c) of a row-major list of `cols` columns. -/
def colsOf (l : List FpVal) (cols c : Nat) : List FpVal :=
  (List.range (l.length / cols)).map (fun r => l.getD (r * cols + c) (.fin false 0 0))

/-- The accumulator after a step (R282): `arows` and `bcols` are the rows of A and the columns of B; `sa q i` and
`sb q j` the scale bytes, 127 where SCALED is clear. -/
def stepTile (acc : List (BitVec 32)) (arows bcols : List (List FpVal)) (k : Nat) (sa sb : Nat → Nat → Nat) :
    List (BitVec 32) :=
  (List.range 32).flatMap (fun i => (List.range 32).map (fun j =>
    (List.range (kBlocks k)).foldl (fun m q =>
      accumulate m (((arows.getD i []).drop (32 * q)).take 32) (((bcols.getD j []).drop (32 * q)).take 32) (sa q i) (sb q j))
      (acc.getD (32 * i + j) 0)))

/-- Scale byte of line `i` in block `q`. -/
def scaleAt (scaled : Bool) (bs : List Byte) (q i : Nat) : Nat :=
  if scaled then (bs.getD (32 * q + i) 0).toNat else 127

/-! ## Accumulator tiles (R159, R287) -/

/-- The elements of a tile as written. -/
def Core.tile (k : Core) (t : Nat) : List (BitVec 32) :=
  let mine := k.acc.filter (fun e => decide (e.1 / 1024 = t))
  (List.range 1024).map (fun i => SMap.val mine (t * 1024 + i) 0)

/-- The elements of a tile as a chained step finds them: the last started step's. -/
def Core.tileNow (k : Core) (t : Nat) : List (BitVec 32) :=
  match (k.matrix.filter (fun w => decide (w.acc = t))).getLast? with
  | some w => w.elems
  | none => k.tile t

/-- Replaces a tile; zero elements are not listed. -/
def Core.setTile (k : Core) (t : Nat) (l : List (BitVec 32)) : Core :=
  let mine := (l.zipIdx.filter (fun e => !decide (e.1 = 0))).map (fun e => (t * 1024 + e.2, e.1))
  { k with acc := k.acc.filter (fun e => decide (e.1 / 1024 < t)) ++ mine
             ++ k.acc.filter (fun e => decide (t < e.1 / 1024)) }

/-- The oldest started step is written (R287). -/
def Core.matrixDone (k : Core) : Core :=
  match k.matrix with
  | [] => k
  | w :: ws => { k.setTile w.acc w.elems with matrix := ws }

/-- Waits until the slot's earlier instructions have written a tile (R285). -/
def tileReady (m : Acc) : M Unit := do
  let k ← myCore
  needW (!k.matrix.any (fun w => decide (w.acc = m.val)))

/-- A step enters the matrix unit, which serves one at a time (R287). -/
def enterUnit (m : Acc) (cycles : Nat) (elems : List (BitVec 32)) : M Unit := do
  let s ← get
  updCore (fun k => { k with matrix := k.matrix ++
    [{ slot := s.cur % 16, acc := m.val, free := s.now + cycles, done := s.now + cycles + 20, elems := elems }] })

/-- Waits while the matrix unit is busy. -/
def unitFree : M Unit := do
  let s ← get
  needW ((s.core s.myCore).matrix.all (fun w => decide (w.free ≤ s.now)))

/-- Cycles that a step busies the unit (R287). -/
def stepCycles (ea eb k : Nat) : Nat := if ea = 4 ∧ eb = 4 then k / 2 else k

/-! ## The latch (R278, R279) -/

/-- The holder check (R278). -/
def holderCheck : M Unit := do
  let s ← get
  needP (decide ((s.core s.myCore).latch.holder = some (s.cur % 16))) fcIllegalOpcode

/-- How far a tile stands ahead of the ring step (R278): STEP counts mod 2^16. -/
def RingTile.ahead (t : RingTile) (rstep : Nat) : Nat := (t.step + 65536 - rstep) % 65536

/-- The first spill entry of a slot with the tag that comes first from the ring step on (R152). -/
def leastSpill (slot rstep : Nat) (l : List (Nat × RingTile)) : Option (Nat × RingTile) :=
  (l.filter (fun e => decide (e.1 = slot))).foldl (fun acc e => match acc with
    | none => some e
    | some m => if e.2.ahead rstep < m.2.ahead rstep then some e else acc) none

/-- One spill entry of the holder moves into an empty bank (R152). -/
def Core.fillBank (k : Core) : Core :=
  match k.latch.holder with
  | none => k
  | some h =>
    match leastSpill h k.latch.rstep k.spill with
    | none => k
    | some e =>
      if k.latch.bank0 = none then { k with latch := { k.latch with bank0 := some e.2 }, spill := k.spill.erase e }
      else if k.latch.bank1 = none then { k with latch := { k.latch with bank1 := some e.2 }, spill := k.spill.erase e }
      else k

/-- The holder's spill entries move into its empty banks in ascending sequence tag (R152). -/
def Core.fillBanks (k : Core) : Core := k.fillBank.fillBank

/-! ## Stops and resumes (R287, R321, R368, R396) -/

/-- A slot is named in the `BUDGET` record of its core's running scan (R470). -/
def State.budgetNamed (s : State) (gs : Nat) : State :=
  let k := gs / 16 * 16 + (s.slot gs).part
  { s with budgetParked := s.budgetParked.put k (s.budgetParked.val k 0 ||| 2 ^ (gs % 16)) }

/-- Whether a slot stands parked. -/
def Slot.parked (x : Slot) : Bool :=
  match x.run with
  | .parked _ => true
  | _ => false

/-- A parked slot that holds a thread resumes at its saved boundary (R321): a held Carter command runs again (R126), and the
latch banks refill (R152). A slot with no budget left parks for budget end, and waits for the tick (R368, R373). -/
def State.resume (s : State) (gs : Nat) : State :=
  let x := s.slot gs
  let q := match x.cp.queue with
    | c :: cs => { c with held := false } :: cs
    | [] => []
  let x := { x with cp := { x.cp with queue := q }, stop := none }
  let s :=
    if x.limit ≠ 0 ∧ x.left ≤ 0 then (s.setSlot gs { x with run := .parked .budget, parkedAt := s.now + 1 }).budgetNamed gs
    else s.setSlot gs { x with run := .ready, waitLeft := x.waitLeft.map (fun n => s.now + n) }
  let k := s.core (gs / 16)
  if k.latch.holder = some (gs % 16) then s.setCore (gs / 16) k.fillBanks else s

/-- A slot parked for budget end whose refill leaves it something is made ready (R354, R368). -/
def State.budgetReady (s : State) (gs : Nat) : State :=
  match (s.slot gs).run with
  | .parked .budget => if 0 < (s.slot gs).left then s.resume gs else s
  | _ => s

/-- A slot asked to stop parks once none of its matrix steps is running and the window of its AMO is closed (R98, R287,
R396); one that stops for budget end and was refilled meanwhile goes on (R373). -/
def State.stopNow (s : State) (gs : Nat) : State :=
  match (s.slot gs).stop with
  | some why =>
    if (s.core (gs / 16)).matrix.any (fun w => decide (w.slot = gs % 16)) || s.amoOpen gs then s
    else (s.parkSlot gs why).budgetReady gs
  | none => s

/-- A matrix step's results are written; a slot that was asked to stop parks after its last. -/
def execMatrixStepComplete (core : Nat) (s : State) : Host.Outcome State Fault Refusal :=
  .next (match (s.core core).matrix with
    | w :: _ => (s.setCore core (s.core core).matrixDone).stopNow (core * 16 + w.slot)
    | [] => s)

/-- The head tile (R278): the one whose STEP equals RSTEP. -/
def Latch.head (l : Latch) : Option (Bool × RingTile) :=
  match l.bank0, l.bank1 with
  | some t, b => if t.step = l.rstep then some (false, t)
    else match b with
      | some u => if u.step = l.rstep then some (true, u) else none
      | none => none
  | none, some u => if u.step = l.rstep then some (true, u) else none
  | none, none => none

/-- Empties one bank. -/
def Latch.empty (l : Latch) (second : Bool) : Latch := if second then { l with bank1 := none } else { l with bank0 := none }

/-- RSTEP + 1. -/
def Latch.next (l : Latch) : Latch := { l with rstep := (l.rstep + 1) % 65536 }

/-- The wait for the head tile (R282 part 2): `SCHEDULE_TAG` when both banks are full without it. -/
def headTile : M (Bool × RingTile) := do
  updCore Core.fillBanks
  let k ← myCore
  match k.latch.head with
  | some h => pure h
  | none =>
    needW (k.latch.bank0.isSome && k.latch.bank1.isSome)
    faultL fcScheduleTag

/-- Waits while the tile sent last has not left the core (R151, R282). -/
def sendFree : M Unit := do
  let k ← myCore
  needW (decide (k.latch.sending = none))

/-- Sends the head tile to the successor with STEP + 1 (R282, R284): on the packet plane in free mode, else through the
network-interface entries of the route plan (R278). -/
def sendHead (second : Bool) (t : RingTile) : M Unit := do
  let x ← me
  let own := (← get).myCore
  let dest := x.mringSucc
  updCore (fun k =>
    let l := (k.latch.empty second).next
    { k with latch := { l with sending := some { dest := dest, tile := { t with step := (t.step + 1) % 65536, src := own }
                                                 plan := !decide (x.mode = 0), put := 0, got := 0 }
                               outstanding := l.outstanding + 1 } })

/-- Disposition of the head tile after a step (R282). -/
def dispose (disp : Disp) (second : Bool) (t : RingTile) : M Unit :=
  match disp with
  | .send => sendHead second t
  | .drop => updCore (fun k => { k with latch := (k.latch.empty second).next })
  | .keep => pure ()

/-- Format identifier that FB gives (R278). -/
def tileFormat (fb : Word) (k : Core) : Nat :=
  match descElem fb with
  | 1 => 2
  | 2 => 3
  | _ => 8 + (k.bank (descBank fb)).tid

/-! ## Instructions -/

/-- `M.LATCH` (R281). -/
def startMLatch (l : List Word) : M Unit := do
  holderCheck
  let x ← me
  descCheck x.fb
  needP (!decide (descElem x.fb = 0)) fcIllegalOpcode
  let b := src l 1
  let k := opK b
  kCheck k [descElem x.fb]
  let o := bOperand x (fld (src l 0) 18 0) k (opQ0 b)
  operandChecks [o]
  updCore Core.fillBanks
  let c ← myCore
  let step := fld b 63 48
  let t : RingTile := { k := k, elem := descElem x.fb, data := o.bytes c, scales := o.scales c, fmt := tileFormat x.fb c
                        scaled := descScaled x.fb, nxm := x.nxm, step := step, src := (← get).myCore }
  needW (c.latch.bank0.isNone || c.latch.bank1.isNone)
  let other := if c.latch.bank0.isNone then c.latch.bank1 else c.latch.bank0
  needL (match other with
    | some u => !decide (u.step = step)
    | none => true) fcScheduleTag
  updCore (fun c => { c with latch :=
    if c.latch.bank0.isNone then { c.latch with bank0 := some t } else { c.latch with bank1 := some t } })
def execMLatch (a b : Reg) (s : State) := runI (engineIssue (.mLatch a b)) s

/-- The checks of steps 1 to 3 of R280 for both operands. -/
def bothDescs (x : Slot) (k : Nat) (m : Acc) : M Unit := do
  descCheck x.fa
  descCheck x.fb
  needP (!decide (descElem x.fa = 0) && !decide (descElem x.fb = 0)) fcIllegalOpcode
  kCheck k [descElem x.fa, descElem x.fb]
  accCheck m

/-- The rows of A as values. -/
def aRows (x : Slot) (c : Core) (o : LmOperand) (k : Nat) : List (List FpVal) :=
  (List.range 32).map (fun r =>
    (unpackElems (descElem x.fa) (c.lmBytes (o.off + r * o.pitch) o.len) k).map
      (elemVal (descElem x.fa) (c.bank (descBank x.fa)) x.nxm))

/-- The columns of B as values, from packed rows of 32 elements. -/
def bCols (x : Slot) (c : Core) (elem : Nat) (data : List Byte) (k : Nat) : List (List FpVal) :=
  let vals := (unpackElems elem data (32 * k)).map (elemVal elem (c.bank (descBank x.fb)) x.nxm)
  (List.range 32).map (colsOf vals 32)

/-- `M.STEP` (R282). -/
def startMStep (disp : Disp) (m : Acc) (l : List Word) : M Unit := do
  holderCheck
  let x ← me
  let b := src l 1
  let k := opK b
  bothDescs x k m
  let o := aOperand x (fld (src l 0) 18 0) k (opQ0 b)
  operandChecks [o]
  let (second, t) ← headTile
  unitFree
  if disp = .send then sendFree else pure ()
  let c ← myCore
  needL (decide (t.k = k)) fcScheduleTag
  needL (decide (t.nxm = x.nxm ∧ t.fmt = tileFormat x.fb c ∧ t.scaled = descScaled x.fb)) fcFormatMismatch
  enterUnit m (stepCycles (descElem x.fa) (descElem x.fb) k)
    (stepTile (c.tileNow m.val) (aRows x c o k) (bCols x c t.elem t.data k) k
      (scaleAt (descScaled x.fa) (o.scales c)) (scaleAt t.scaled t.scales))
  dispose disp second t
def execMStep (disp : Disp) (m : Acc) (a b : Reg) (s : State) :=
  runI (engineIssue (.mStep disp m a b)) s

/-- `M.LOCAL` (R283). -/
def startMLocal (m : Acc) (l : List Word) : M Unit := do
  let x ← me
  let b := src l 1
  let k := opK b
  bothDescs x k m
  let o := aOperand x (fld (src l 0) 18 0) k (opQ0 b)
  let p := bOperand x (fld (src l 0) 50 32) k (opQ0 b)
  operandChecks [o, p]
  unitFree
  let c ← myCore
  enterUnit m (stepCycles (descElem x.fa) (descElem x.fb) k)
    (stepTile (c.tileNow m.val) (aRows x c o k) (bCols x c (descElem x.fb) (p.bytes c) k) k
      (scaleAt (descScaled x.fa) (o.scales c)) (scaleAt (descScaled x.fb) (p.scales c)))
def execMLocal (m : Acc) (a b : Reg) (s : State) := runI (engineIssue (.mLocal m a b)) s

/-- `M.PASS` (R284). -/
def startMPass (_ : List Word) : M Unit := do
  holderCheck
  let (second, t) ← headTile
  sendFree
  sendHead second t
def execMPass (s : State) := runI (engineIssue .mPass) s

/-- `M.CLR`, `M.RD` and `M.WR` (R285). -/
def startMClr (m : Acc) (_ : List Word) : M Unit := do
  accCheck m
  tileReady m
  updCore (fun k => k.setTile m.val [])
def execMClr (m : Acc) (s : State) := runI (engineIssue (.mClr m)) s

/-- Index in a tile of the first of the 16 elements that b names. -/
def halfRow (b : Word) : Nat := fld b 5 0 * 16

def startMRd (v : VReg) (m : Acc) (l : List Word) : M Unit := do
  accCheck m
  tileReady m
  let k ← myCore
  writeV v (ofLanes 32 (((k.tile m.val).drop (halfRow (src l 0))).take 16 |>.map (·.toNat)))
def execMRd (v : VReg) (m : Acc) (b : Reg) (s : State) := runI (engineIssue (.mRd v m b)) s

def startMWr (m : Acc) (v : VReg) (l : List Word) : M Unit := do
  accCheck m
  tileReady m
  let x ← readV v
  let i := halfRow (src l 0)
  updCore (fun k =>
    let t := k.tile m.val
    k.setTile m.val (t.take i ++ (lanesOf 32 x).map (BitVec.ofNat 32) ++ t.drop (i + 16)))
def execMWr (m : Acc) (v : VReg) (b : Reg) (s : State) := runI (engineIssue (.mWr m v b)) s

/-- The wait of `M.SYNC` (R286). -/
def matrixQuiet : M Unit := do
  let s ← get
  let k := s.core s.myCore
  needW (!k.matrix.any (fun w => decide (w.slot = s.cur % 16)))
  needW (!decide (k.latch.holder = some (s.cur % 16)) || decide (k.latch.outstanding = 0))

def startMSync (_ : List Word) : M Unit := matrixQuiet
def execMSync (s : State) := runI (engineIssue .mSync) s

/-- Whether the latch is kept from a slot by another holder or by the reservation of a switched-out member (R279,
R287). -/
def Latch.taken (l : Latch) (part slot : Nat) : Bool :=
  (match l.holder with
   | some h => !decide (h = slot)
   | none => false)
  || (match l.reserved with
      | some r => !decide (r = (part, slot))
      | none => false)

/-- `M.RING` (R279). -/
def startMRing (leave : Bool) (d : Reg) (l : List Word) : M Unit := do
  let s ← get
  let slot := s.cur % 16
  let x := s.me
  let latch := (s.core s.myCore).latch
  if leave then
    matrixQuiet
    if latch.holder = some slot then
      updCore (fun k => k.freeLatch x.part slot)
      engWriteS d 1
    else engWriteS d 0
  else
    let p := fld (src l 0) 7 0
    let q := fld (src l 1) 7 0
    needP (s.inCoreSet x.part p && s.inCoreSet x.part q) fcPageRights
    if latch.taken x.part slot then engWriteS d 0
    else
      updCore (fun k => { k with
        latch := { Latch.reset with holder := some slot, sending := k.latch.sending, outstanding := k.latch.outstanding }
        spill := k.spill.filter (fun e => !decide (e.1 = slot)) })
      updMe (fun x => { x with mringPred := p, mringSucc := q })
      engWriteS d 1
def execMRing (leave : Bool) (d a b : Reg) (s : State) :=
  runI (engineIssue (.mRing leave d a b)) s

/-- The matrix status word (R286). -/
def State.mStat (s : State) (gs : Nat) : Word :=
  let k := s.core (gs / 16)
  let x := s.slot gs
  let slot := gs % 16
  let l := k.latch
  let mine := decide (l.holder = some slot)
  let steps := (l.bank0.toList ++ l.bank1.toList).map (·.step)
  let low := match steps with
    | [] => 0
    | a :: r => r.foldl min a
  ofN ((if mine then l.rstep else 0) * 2 ^ 48 + x.mringPred * 2 ^ 40 + x.mringSucc * 2 ^ 32 + low * 2 ^ 16
    + b2n mine * 2 ^ 12 + steps.length * 2 ^ 10
    + (k.spillOf x.part slot).length * 2 ^ 7
    + b2n (k.matrix.any (fun w => decide (w.slot = slot))) * 2 ^ 6 + b2n (mine && l.sending.isSome) * 2 ^ 5)

def startMStat (d : Reg) (_ : List Word) : M Unit := do
  let s ← get
  engWriteS d (s.mStat s.cur)
def execMStat (d : Reg) (s : State) := runI (engineIssue (.mStat d)) s

/-! ## Arrival of a ring tile (R151, R278) -/

/-- The slot for which a tile from a core is accepted: the holder, or the switched-out member for which the latch is
reserved, when it is of the sender's partition and names the sender as its predecessor. -/
def State.tileFor (s : State) (core src part : Nat) : Option Nat :=
  let l := (s.core core).latch
  match l.holder, l.reserved with
  | some h, _ =>
    let x := s.slot (core * 16 + h)
    if x.part = part ∧ x.mringPred = src then some h else none
  | none, some (p, h) =>
    let x := ((s.saved.seek p).bind (fun m => m.slots.seek (core * 16 + h))).getD Slot.reset
    if p = part ∧ x.mringPred = src then some h else none
  | none, none => none

/-- Whether tiles for a slot go to the spill ring (R151): it is parked or switched out. -/
def State.tileSpills (s : State) (core h : Nat) : Bool :=
  !decide ((s.core core).latch.holder = some h) ||
    (match (s.slot (core * 16 + h)).run with
     | .parked _ => true
     | _ => false)

/-- The tile that a core sends has left it. -/
def Core.tileLeft (k : Core) : Core :=
  { k with latch := { k.latch with sending := none, outstanding := k.latch.outstanding - 1 } }

/-- The words of a ring tile on the Piste (R278): its elements, then its scales, in ascending order (assumption 84). -/
def RingTile.stream (t : RingTile) : List Byte := t.data ++ t.scales
def RingTile.words (t : RingTile) : Nat := (t.stream.length + 31) / 32

/-- Whether the tile stands at its destination: on the packet plane at once, on the Piste with its last word. -/
def Sending.there (x : Sending) : Bool := !x.plan || decide (x.tile.words ≤ x.got)

/-- A tile on its way from `src` to `core` arrives; the tiles spilled before it move into the free banks first, so that none is
reordered (R152), and with the spill ring full it stays in the sender. -/
def State.tileArrive (s : State) (core src : Nat) : State :=
  match (s.core src).latch.sending with
  | none => s
  | some x =>
    let t := x.tile
    if x.dest = core ∧ x.there = true then
      let part := match (s.core src).latch.holder, (s.core src).latch.reserved with
        | some h, _ => (s.slot (src * 16 + h)).part
        | none, some (p, _) => p
        | none, none => 16
      let left := s.setCore src (s.core src).tileLeft
      match s.tileFor core src part with
      | none =>
        match (s.core core).latch.holder with
        | none => left
        | some h => left.raiseDeferred (core * 16 + h)
            { code := fcScheduleTag, addr := 0, loc := false, kind := 1, cause := 4
              extra := [(32, bytesOf 2 src), (36, bytesOf 2 t.step)] }
      | some h =>
        let spills := s.tileSpills core h
        let k := if spills then left.core core else (left.core core).fillBanks
        if spills || (k.latch.bank0.isSome && k.latch.bank1.isSome) then
          if k.spill.length < 4 then left.setCore core { k with spill := k.spill ++ [(h, t)] } else s
        else if k.latch.bank0.isNone then left.setCore core { k with latch := { k.latch with bank0 := some t } }
        else left.setCore core { k with latch := { k.latch with bank1 := some t } }
    else s

def execRingTileArrival (core src : Nat) (s : State) : Host.Outcome State Fault Refusal := .next (s.tileArrive core src)

end Sys2Proof.Machine
end

