-- ==== Sys2Proof/Machine/Messages.lean ====
section
/-! DEFINITION. Messages, reduction trees and the Piste (chapters 6 and 12: R130 to R149, R295 to R302). -/

namespace Sys2Proof.Machine

/-! ## The mesh (R14, R15, R130) -/

/-- Mesh row and column of a core. -/
def meshRow (c : Nat) : Nat := 8 * (c / 64 / 2) + c % 64 / 8
def meshCol (c : Nat) : Nat := 8 * (c / 64 % 2) + c % 8

/-- The core at a mesh place. -/
def coreAt (row col : Nat) : Nat := (row / 8 * 2 + col / 8) * 64 + row % 8 * 8 + col % 8

/-- The core that a link leads to: 1 N, 2 E, 3 S, 4 W; none at the mesh's edge. -/
def neighbour (c link : Nat) : Option Nat :=
  let r := meshRow c
  let k := meshCol c
  match link with
  | 1 => if r = 0 then none else some (coreAt (r - 1) k)
  | 2 => if k = 15 then none else some (coreAt r (k + 1))
  | 3 => if r = 15 then none else some (coreAt (r + 1) k)
  | 4 => if k = 0 then none else some (coreAt r (k - 1))
  | _ => none

/-- The link on which a word arrives that left on `link`. -/
def opposite (link : Nat) : Nat := (link + 1) % 4 + 1

/-- Cycles of a Piste word on a link (R131). -/
def linkTime (a b : Nat) : Nat := if dieOfCore a = dieOfCore b then 1 else 4

/-! ## Launch sums (R358) -/

/-- A launch entry. -/
def State.launch (s : State) (k : Nat) : Launch := s.launches.val k Launch.reset

/-- Changes a launch entry. -/
def State.updLaunch (s : State) (k : Nat) (f : Launch → Launch) : State :=
  { s with launches := s.launches.put k (f (s.launch k)) }

/-- One more in SENT, or in RECV, of a launch. -/
def State.addSent (s : State) (k : Option Nat) : State :=
  match k with
  | some k => s.updLaunch k (fun l => { l with sent := (l.sent + 1) % 2 ^ 48 })
  | none => s
def State.addRecv (s : State) (k : Option Nat) : State :=
  match k with
  | some k => s.updLaunch k (fun l => { l with recv := (l.recv + 1) % 2 ^ 48 })
  | none => s

/-! ## Sending (R296) -/

/-- `MSG.SEND` (R296). -/
def execMsgSend (o : Ord) (sc : Scope) (a b : Reg) (s : State) :=
  runI (do
    if relOf o then memoryTurn else pure ()
    ready [a.val, b.val] []
    let sc ← scopeFor .part sc
    let dest ← readS a.val
    let w ← readS b.val
    let x ← me
    needP (decide (fld dest 35 0 = 0 ∧ fld w 63 20 = 0 ∧ fld w 19 16 ≠ 6 ∧ fld w 19 16 ≠ 7) && !x.outbox.isEmpty)
      fcIllegalOpcode
    needW (decide (x.inFlight < 4))
    if relOf o then releaseAt sc else pure ()
    let s ← get
    let m : Message := { core := fld dest 63 56, slot := fld dest 55 52, tin := fld dest 51 36, reason := 0, nxm := x.nxm
                         fmt := fld w 19 16, utag := fld w 15 0, words := x.outbox, popped := 0 }
    let f : Flight := { fromTin := x.tin, part := x.part, dstCore := m.core, dstSlot := m.slot, msg := m, pos := .sender
                        firstRefusal := none, halves := 0, launch := s.launchOf s.cur, counted := true
                        plan := !decide (x.mode = 0), num := x.nextNum }
    updMe (fun x => { x with outbox := [], flights := x.flights ++ [f] })
    upd (fun s => s.addSent f.launch)) s

/-- `MSG.INFO` (R297). -/
def execMsgInfo (d : Reg) (s : State) :=
  runI (do
    ready [] [d.val]
    let x ← me
    match x.inbox with
    | [] => waitOn .retry
    | m :: _ => writeS d.val (ofN m.info)) s

/-! ## Delivery (R143, R144) -/

/-- Whether a partition of the time-sliced group is switched out, its slots standing in the save area (R380). -/
def State.away (s : State) (p : Nat) : Bool := s.saved.has p

/-- The queue status word. -/
def Slot.qstat (x : Slot) : Word :=
  let ins := fun (i : Nat) => (x.inq[i]!).length
  let outs := fun (i : Nat) => (x.outq[i]!).length
  ofN (x.inFlight * 2 ^ 45 + x.inbox.length * 2 ^ 41 + x.outbox.length * 2 ^ 37 + x.q5.length * 2 ^ 32
    + x.q6.length * 2 ^ 28 + x.q7.length * 2 ^ 24
    + outs 3 * 2 ^ 21 + outs 2 * 2 ^ 18 + outs 1 * 2 ^ 15 + outs 0 * 2 ^ 12
    + ins 3 * 2 ^ 9 + ins 2 * 2 ^ 6 + ins 1 * 2 ^ 3 + ins 0)

/-! ## Bytes of a save area (R397) -/

/-- Segments at their offsets, zero between and after. -/
def layout (size : Nat) (segs : List (Nat × List Byte)) : List Byte :=
  let l := segs.foldl (fun (l : List Byte) (e : Nat × List Byte) => l ++ List.replicate (e.1 - l.length) 0 ++ e.2) []
  l ++ List.replicate (size - l.length) 0

/-- Little-endian words. -/
def wordBytes (l : List Word) : List Byte := l.flatMap (fun w => bytesOf 8 w.toNat)

/-- An inbox entry of the area. -/
def Message.bytes (m : Message) : List Byte := layout 80 [(0, bytesOf 8 m.info), (8, wordBytes m.words)]

/-- Base of the core block of ordinal `i` in a partition's SWAREA (R399). -/
def State.coreBlock (s : State) (p i : Nat) : Nat := fld (s.part p).w13 43 12 * 4096 + i * 0x30000

/-- The save area of a slot in its partition's SWAREA (R399); none for a core outside the core list. -/
def State.swArea (s : State) (p gs : Nat) : Option Nat :=
  ((List.range (s.part p).clen).find? (fun i => decide (s.clist p i = gs / 16))).map (fun i =>
    s.coreBlock p i + 0x1400 * (gs % 16))

/-- Writes the inbox of a switched-out member's slot into its save area (R380). -/
def State.saveInbox (s : State) (p gs : Nat) (x : Slot) : State :=
  match s.swArea p gs with
  | some a => (s.physWrite (a + 0x4C0) (bytesOf 8 x.qstat.toNat)).physWrite (a + 0x500) (x.inbox.flatMap Message.bytes)
  | none => s

/-- The slot as its partition sees it: the saved one while the partition is switched out. -/
def State.slotFor (s : State) (p gs : Nat) : Slot :=
  match s.saved.seek p with
  | some m => m.slots.val gs Slot.reset
  | none => s.slot gs

/-- Replaces that slot when its inbox has changed; the save area shows the inbox. -/
def State.setSlotFor (s : State) (p gs : Nat) (x : Slot) : State :=
  match s.saved.seek p with
  | some m => { s with saved := s.saved.put p { m with slots := m.slots.put gs x } }.saveInbox p gs x
  | none => s.setSlot gs x

/-- What the checks of R143 say of a message. -/
inductive Verdict
  | deliver
  | refuse
  | bounce (reason : Nat)
  deriving DecidableEq, Repr

/-- The checks of R143. -/
def State.verdict (s : State) (f : Flight) : Verdict :=
  let dst := f.dstCore * 16 + f.dstSlot
  let x := s.slotFor f.part dst
  let other := match (s.slot dst).task with
    | some t => !s.away f.part && !decide (t.part = f.part)
    | none => false
  if (s.core f.dstCore).health.gone then .bounce 3
  else if !s.inCoreSet f.part f.dstCore || !nbit (s.part f.part).slotMask f.dstSlot || other then .bounce 2
  else if !x.holds || !decide (x.tin = f.msg.tin) then .bounce 1
  else if x.inbox.length < 8 then .deliver else .refuse

/-- Removes flight `i` of a slot. -/
def State.dropFlight (s : State) (gs i : Nat) : State :=
  s.setSlot gs { s.slot gs with flights := (s.slot gs).flights.eraseIdx i }

/-- Replaces flight `i` of a slot. -/
def State.setFlight (s : State) (gs i : Nat) (f : Flight) : State :=
  s.setSlot gs { s.slot gs with flights := (s.slot gs).flights.set i f }

/-- The message enters the destination's inbox with the sender as its peer. -/
def State.deliver (s : State) (gs i : Nat) (f : Flight) : State :=
  let s := (s.dropFlight gs i).addRecv f.launch
  let dst := f.dstCore * 16 + f.dstSlot
  let x := s.slotFor f.part dst
  let m : Message := { f.msg with core := gs / 16, slot := gs % 16, tin := f.fromTin, reason := 0, popped := 0 }
  s.setSlotFor f.part dst { x with inbox := x.inbox ++ [m], event := s.now + 1 }

/-- Whether the fault queue of a partition takes a bounce at once: it has room, and no record waits for it (R393). -/
def State.staleRoom (s : State) (part : Nat) : Bool :=
  let q := s.recordQueue part fcStaleTin
  s.fqRoom q && !s.fqWait.any (fun r => decide (r.queue = q))

/-- A bounce reaches its sender's inbox, or the fault queue when the slot's TIN has changed (R144) or its task has ended, as
`TEND` sends a bounce there (R223); it waits while the one or the other is full (R144, R393). DEDUCED (assumption 25). -/
def State.bounceEnters (s : State) (gs i : Nat) (f : Flight) : State :=
  let x := s.slotFor f.part gs
  if x.tin ≠ f.fromTin ∨ x.part ≠ f.part ∨ x.holds = false then
    if s.staleRoom f.part then ((s.dropFlight gs i).addRecv f.launch).staleTin gs f.part f.fromTin x.mode x.handler f.msg
    else s.setFlight gs i { f with pos := .senderBounce }
  else if x.inbox.length < 8 then
    let s := (s.dropFlight gs i).addRecv f.launch
    let x := s.slotFor f.part gs
    s.setSlotFor f.part gs { x with inbox := x.inbox ++ [f.msg], event := s.now + 1 }
  else s.setFlight gs i { f with pos := .senderBounce }

/-- The message turns into a bounce (R143), decided at the sender's network interface or at the destination's. -/
def Flight.bounced (f : Flight) (reason : Nat) : Flight :=
  { f with msg := { f.msg with reason := reason }, halves := 0
           pos := if f.pos = .sender then .senderBounce else .destBounce }

/-- Whether a message still has to be delivered. -/
def Flight.outward (f : Flight) : Bool :=
  decide (f.pos = .sender) || decide (f.pos = .crossing) || decide (f.pos = .arrived)

/-- Whether flight `i` of a slot is held back by an earlier message of the slot to the same destination (R144). -/
def Slot.heldBack (x : Slot) (i : Nat) (f : Flight) : Bool :=
  x.flights.zipIdx.any (fun g => decide (g.2 < i ∧ g.1.dstCore = f.dstCore ∧ g.1.dstSlot = f.dstSlot) && g.1.outward)

/-- One message at its destination's network interface, where one that comes before an earlier one is turned back as a
refused one is; or one that its sender's network interface bounces (R143, R144). -/
def State.judge (s : State) (gs i : Nat) (f : Flight) : State :=
  if (s.slot gs).heldBack i f then s.setFlight gs i { f with pos := .sender, halves := 0 }
  else match s.verdict f with
  | .deliver => s.deliver gs i f
  | .bounce r => s.setFlight gs i (f.bounced r)
  | .refuse =>
    s.setFlight gs i { f with pos := .sender, halves := 0
                              firstRefusal := if f.firstRefusal.isNone then some s.now else f.firstRefusal }

/-- Whether a message is due at the checks of R143: a free-mode message, whose next refusal would change nothing; one that
has crossed; and one that its sender's network interface finds bound for an offlined core before it injects it. -/
def State.dueMessage (s : State) (gs i : Nat) (f : Flight) : Bool :=
  if f.plan then decide (f.pos = .arrived) || decide (f.pos = .sender ∧ s.verdict f = .bounce 3) && !(s.slot gs).heldBack i f
  else f.outward && !(s.slot gs).heldBack i f && !(decide (s.verdict f = .refuse) && f.firstRefusal.isSome)

/-- The flight of a slot that comes next at the checks of R143. -/
def State.nextMessage (s : State) (gs : Nat) : Option (Nat × Flight) :=
  ((s.slot gs).flights.zipIdx.find? (fun e => s.dueMessage gs e.2 e.1)).map (fun e => (e.2, e.1))

/-- A message of a slot meets the checks of R143. -/
def State.messageArrive (s : State) (gs : Nat) : State :=
  match s.nextMessage gs with
  | none => s
  | some (i, f) => s.judge gs i f

def execMessageArrival (gs : Nat) (s : State) : Host.Outcome State Fault Refusal := .next (s.messageArrive gs)

/-- A message refused for 4,096 cycles that stands in its sender's network interface (R143 step 4, assumption 88). -/
def State.timedOut (s : State) (gs : Nat) : Option (Nat × Flight) :=
  ((s.slot gs).flights.zipIdx.find? (fun e =>
    decide (e.1.pos = .sender) && (match e.1.firstRefusal with
      | some c => decide (c + 4096 ≤ s.now)
      | none => false))).map (fun e => (e.2, e.1))

def execMessageTimeout (gs : Nat) (s : State) : Host.Outcome State Fault Refusal :=
  .next (match s.timedOut gs with
    | some (i, f) => s.setFlight gs i (f.bounced 4)
    | none => s)

/-- The bounce of a slot that comes next at its inbox. -/
def State.nextBounce (s : State) (gs : Nat) : Option (Nat × Flight) :=
  ((s.slot gs).flights.zipIdx.find? (fun e =>
    decide (e.1.pos = .senderBounce) || (decide (e.1.pos = .destBounce) && !e.1.plan))).map (fun e => (e.2, e.1))

def execBounceArrival (gs : Nat) (s : State) : Host.Outcome State Fault Refusal :=
  .next (match s.nextBounce gs with
    | some (i, f) => s.bounceEnters gs i f
    | none => s)

/-- Tree entry `t` of a core. -/
def Core.tree (k : Core) (t : Nat) : TreeNode := k.trees.val t TreeNode.reset

/-- The status of a tree entry. -/
def TreeNode.status (n : TreeNode) : Word :=
  ofN (n.latered * 2 ^ 48 + n.treebad * 2 ^ 32 + n.epoch * 2 ^ 16 + b2n n.result.isSome * 8 + b2n n.loc.isSome * 4
    + b2n n.right.isSome * 2 + b2n n.left.isSome)

/-- `QSTAT` and `QSTAT.tree`. -/
def execQstat (tree : Bool) (d a : Reg) (s : State) :=
  runI (do
    ready (if tree then [a.val] else []) [d.val]
    if tree then do
      let x ← readS a.val
      let k ← myCore
      writeS d.val (k.tree (fld x 2 0)).status
    else do
      let x ← me
      writeS d.val x.qstat) s

/-! ## Reduction trees (R146 to R149) -/

/-- Fields of a tree entry (R146). -/
def treeRoot (w : Word) : Bool := bitOf w 62
def treeHasL (w : Word) : Bool := bitOf w 61
def treeHasR (w : Word) : Bool := bitOf w 60
def treeHasLoc (w : Word) : Bool := bitOf w 59
def treeParent (w : Word) : Nat := fld w 58 51
def treeLeft (w : Word) : Nat := fld w 50 43
def treeRight (w : Word) : Nat := fld w 42 35
def treeSlot (w : Word) : Nat := fld w 34 31
def treeLocIdx (w : Word) : Nat := fld w 30 23
def treeOp (w : Word) : Nat := fld w 18 15
def treeType (w : Word) : Nat := fld w 14 13

/-- One more in a 16-bit saturating count. -/
def sat16 (n k : Nat) : Nat := min 65535 (n + k)

/-- `Combine` on one lane (R148). -/
def combineLane (op ty x y : Nat) : Nat :=
  let w := if ty = 1 then 64 else 32
  match op with
  | 0 => redVal .add w x y
  | 1 => redVal .and w x y
  | 2 => redVal .or w x y
  | 3 => redVal .xor w x y
  | 4 => redVal .min w x y
  | 5 => redVal .max w x y
  | 6 => redVal .minz w x y
  | 7 => redVal .maxz w x y
  | _ => (f32Add .rne x y).1

/-- State of the combining loop of R148. -/
structure Combined where
  acc : Option (List Nat)
  pres : Nat
  inc : Bool
  bad : Nat

/-- One configured part of the loop. -/
def Combined.part (c : Combined) (op ty lanes : Nat) (p : Option RedPacket) : Combined :=
  match p with
  | none => { c with inc := true }
  | some q =>
    if q.lanes = lanes then
      { c with acc := some (match c.acc with
                  | none => q.data
                  | some a => List.zipWith (combineLane op ty) a q.data)
               pres := c.pres ||| q.present, inc := c.inc || q.incomplete }
    else { c with inc := true, bad := c.bad + 1 }

/-- The parts that an entry configures, in the order left, right, local. -/
def TreeNode.parts (n : TreeNode) : List (Option RedPacket) :=
  (if treeHasL n.entry then [n.left] else []) ++ (if treeHasR n.entry then [n.right] else [])
    ++ (if treeHasLoc n.entry then [n.loc] else [])

/-- The packet of the current epoch that a node combines (R148). -/
def TreeNode.combine (n : TreeNode) (tree core : Nat) : RedPacket × Nat :=
  let lanes := n.firstLanes.getD 0
  let c := n.parts.foldl (fun (c : Combined) p => c.part (treeOp n.entry) (treeType n.entry) lanes p)
    { acc := none, pres := 0, inc := false, bad := 0 }
  ({ tree := tree, epoch := n.epoch, src := core, lanes := lanes, incomplete := c.inc, present := c.pres
     data := c.acc.getD [] }, c.bad)

/-- Lane width of a tree's TYPE. -/
def treeWidth (w : Word) : Nat := if treeType w = 1 then 64 else 32

/-- The result that a root delivers (R149). -/
def TreeNode.resultOf (n : TreeNode) (p : RedPacket) : TreeResult :=
  let last := fld n.entry 12 5
  let missing := ((List.range (last + 1)).filter (fun i => !p.present.testBit i)).foldl (fun m i => m + 2 ^ i) 0
  { width := treeWidth n.entry, epoch := p.epoch, lanes := p.lanes, incomplete := p.incomplete, missing := missing, data := p.data }

/-- Replaces tree entry `t` of a core. -/
def State.setTree (s : State) (core t : Nat) (n : TreeNode) : State :=
  s.setCore core { s.core core with trees := (s.core core).trees.put t n }

/-- The side of a child's packet: 0 left, 1 right. -/
def TreeNode.side (n : TreeNode) (src : Nat) : Option Nat :=
  if treeHasL n.entry && decide (treeLeft n.entry = src) then some 0
  else if treeHasR n.entry && decide (treeRight n.entry = src) then some 1 else none

/-- Whether the part of a side has arrived. -/
def TreeNode.holdsSide (n : TreeNode) (side : Nat) : Bool :=
  match side with
  | 0 => n.left.isSome
  | 1 => n.right.isSome
  | _ => n.loc.isSome

/-- Whether the buffer of a child's part is empty (R149): it holds neither a packet of the epoch nor one ahead of it. A packet
that is no part is dropped and needs no room. -/
def TreeNode.hasRoom (n : TreeNode) (src : Nat) : Bool :=
  match if bitOf n.entry 63 then n.side src else none with
  | none => true
  | some side => !n.holdsSide side && !n.early.any (fun p => decide (p.src = src))

/-- Whether an event is a packet of a node on its way to its parent. -/
def Event.isPacket (parent core t : Nat) : Event → Bool
  | .treePacketArrival k p => decide (k = parent ∧ p.src = core ∧ p.tree = t)
  | _ => false

/-- Whether the result of a node can leave it (R149): at a root the buffer holds no unread result; elsewhere the node has the
credit of its part's buffer at the parent, which one packet at a time takes. DEDUCED (assumption 103): a packet waits for the
credit in the child, whose epoch stands still. -/
def State.mayDeliver (s : State) (core t : Nat) : Bool :=
  let n := (s.core core).tree t
  let parent := treeParent n.entry
  if treeRoot n.entry then n.result.isNone
  else ((s.core parent).tree t).hasRoom core && !(s.later ++ s.agenda).any (Event.isPacket parent core t)

/-- The children of an entry that has freed their parts' buffers have their credits back in the next cycle. -/
def State.treeCredit (s : State) (t : Nat) (children : List Nat) : State :=
  { s with later := s.later ++ children.map (fun c => Event.treeTimeout c t) }

/-- The children that an entry names. -/
def TreeNode.children (n : TreeNode) : List Nat :=
  (if treeHasL n.entry then [treeLeft n.entry] else []) ++ (if treeHasR n.entry then [treeRight n.entry] else [])

/-- The node delivers or forwards what it has combined and begins the next epoch (R148); what it forwards is an arrival of the
next cycle (R145). The packets that arrived early stay to be placed. -/
def State.treeAdvance (s : State) (core t : Nat) : State :=
  let n := (s.core core).tree t
  let (p, bad) := n.combine t core
  let next := { n with epoch := (n.epoch + 1) % 65536, left := none, right := none, loc := none, firstLanes := none
                       timer := none, frozen := false, treebad := sat16 n.treebad bad }
  let s := s.treeCredit t n.children
  if treeRoot n.entry then
    (s.setTree core t { next with result := some (n.resultOf p) }).signal (core * 16 + treeSlot n.entry)
  else
    let s := s.setTree core t next
    { s with later := s.later ++ [.treePacketArrival (treeParent n.entry) p] }

/-- Places a part of the current epoch; its arrival starts the timer (R148). -/
def TreeNode.place (n : TreeNode) (side : Nat) (p : RedPacket) (now : Nat) : TreeNode :=
  let n := { n with firstLanes := some (n.firstLanes.getD p.lanes), timer := some (n.timer.getD now) }
  match side with
  | 0 => { n with left := some p }
  | 1 => { n with right := some p }
  | _ => { n with loc := some p }

/-- A child packet meets its node (R149): placed, kept as early, or dropped. -/
def TreeNode.accept (n : TreeNode) (p : RedPacket) (now : Nat) : TreeNode :=
  match if bitOf n.entry 63 then n.side p.src else none with
  | none => { n with treebad := sat16 n.treebad 1 }
  | some side =>
    let ahead := (p.epoch + 65536 - n.epoch) % 65536
    if ahead = 0 then
      if n.frozen then { n with latered := sat16 n.latered 1 }
      else if n.holdsSide side then { n with early := n.early ++ [p] } else n.place side p now
    else if ahead < 32768 then { n with early := n.early ++ [p] }
    else { n with latered := sat16 n.latered 1 }

/-- Combines as long as every configured part has arrived, or the time-out has, and the result can leave; early packets of
the new epoch are placed first. -/
def State.treeSettle (s : State) (core t : Nat) : Nat → State
  | 0 => s
  | fuel + 1 =>
    let n := (s.core core).tree t
    if bitOf n.entry 63 && (n.parts.all Option.isSome || n.frozen) && s.mayDeliver core t then
      let s := s.treeAdvance core t
      let m := (s.core core).tree t
      let m := m.early.foldl (fun m p => m.accept p s.now) { m with early := [] }
      (s.setTree core t m).treeSettle core t fuel
    else s

/-- A packet arrives at a node; one that is dropped leaves its child's credit free. -/
def State.treeArrive (s : State) (core : Nat) (p : RedPacket) : State :=
  let n := (s.core core).tree p.tree
  let m := n.accept p s.now
  let s := if m.hasRoom p.src then s.treeCredit p.tree [p.src] else s
  (s.setTree core p.tree m).treeSettle core p.tree (n.early.length + 2)

def execTreePacketArrival (core : Nat) (p : RedPacket) (s : State) : Host.Outcome State Fault Refusal :=
  .next (s.treeArrive core p)

/-- Cycle at which a node's timer reaches the time-out (R146). -/
def TreeNode.deadline (n : TreeNode) : Option Nat := n.timer.map (fun c => c + 256 * 2 ^ fld n.entry 22 19)

/-- Whether a node's time-out has come (R148). -/
def TreeNode.expired (n : TreeNode) (now : Nat) : Bool :=
  bitOf n.entry 63 && !n.frozen && (match n.deadline with
    | some c => decide (c ≤ now)
    | none => false)

/-- A node's time-out (R148), with which it combines what it has, or a credit that it waited for (R149). -/
def State.treeExpire (s : State) (core t : Nat) : State :=
  let n := (s.core core).tree t
  (if n.expired s.now then s.setTree core t { n with frozen := true } else s).treeSettle core t (n.early.length + 2)

def execTreeTimeout (core tree : Nat) (s : State) : Host.Outcome State Fault Refusal := .next (s.treeExpire core tree)

/-- `RED.PKT` (R299). -/
def startRedPkt (v : VReg) (l : List Word) : M Unit := do
  needP (decide (v.val % 2 = 0)) fcIllegalOpcode
  let s ← get
  let t := fld (src l 0) 2 0
  let n := (s.core s.myCore).tree t
  needP (bitOf n.entry 63 && treeHasLoc n.entry) fcIllegalOpcode
  needP (decide (treeSlot n.entry = s.cur % 16)) fcPageRights
  let lanes := fld (src l 1) 5 0
  let w := treeWidth n.entry
  needP (decide (1 ≤ lanes ∧ lanes ≤ 1024 / w)) fcIllegalOpcode
  needW (n.loc.isNone && !n.frozen)
  let x ← readV v
  let y ← readV (shiftReg 1 v)
  let p : RedPacket := { tree := t, epoch := n.epoch, src := s.myCore, lanes := lanes, incomplete := false
                         present := 2 ^ treeLocIdx n.entry, data := (lanesOf w x ++ lanesOf w y).take lanes }
  upd (fun s => (s.setTree s.myCore t (n.place 2 p s.now)).treeSettle s.myCore t (n.early.length + 2))
def execRedPkt (v : VReg) (a b : Reg) (s : State) := runI (engineIssue (.redPkt v a b)) s

/-- The status that `RED.RECV` writes (R300). -/
def TreeResult.word (r : TreeResult) : Word :=
  ofN (b2n r.incomplete * 2 ^ 63 + r.epoch * 2 ^ 32 + r.lanes * 2 ^ 16
    + ((List.range 256).filter (fun i => r.missing.testBit i)).length)

/-- The root's buffer is freed, and the next epoch may be combined (R149, R300). -/
def State.freeResult (s : State) (core t : Nat) : State :=
  let n := (s.core core).tree t
  (s.setTree core t { n with result := none }).treeSettle core t (n.early.length + 2)

/-- `RED.RECV` (R300). -/
def startRedRecv (miss : Bool) (v : VReg) (d : Reg) (l : List Word) : M Unit := do
  needP (decide (v.val % 2 = 0)) fcIllegalOpcode
  let s ← get
  let t := fld (src l 0) 2 0
  let n := (s.core s.myCore).tree t
  needP (bitOf n.entry 63 && treeRoot n.entry) fcIllegalOpcode
  needP (decide (treeSlot n.entry = s.cur % 16)) fcPageRights
  match n.result with
  | none => waitOn .retry
  | some r => do
    if miss then writeV v (BitVec.ofNat 512 r.missing)
    else
      let w := r.width
      let k := 512 / w
      writeV v (ofLanes w (r.data.take k))
      writeV (shiftReg 1 v) (ofLanes w (r.data.drop k))
      upd (fun s => s.freeResult s.myCore t)
    engWriteS d r.word
def execRedRecv (miss : Bool) (v : VReg) (d a : Reg) (s : State) :=
  runI (engineIssue (.redRecv miss v d a)) s

/-- Whether a tree entry of a partition is well formed (R146): 0, or the fault it raises. -/
def State.treeFault (s : State) (p : Nat) (w : Word) : Option Nat :=
  let op := treeOp w
  let ty := treeType w
  if 9 ≤ op ∨ ty = 3 ∨ (op = 8 ∧ ty ≠ 2) ∨ (op < 8 ∧ ty = 2) ∨ fld w 4 0 ≠ 0 ∨ (fld w 12 5 ≠ 0 ∧ treeRoot w = false)
      ∨ (treeHasL w = false ∧ treeHasR w = false ∧ treeHasLoc w = false) then some fcIllegalOpcode
  else if (!treeRoot w && !s.inCoreSet p (treeParent w)) || !s.inCoreSet p (treeLeft w) || !s.inCoreSet p (treeRight w)
      || !nbit (s.part p).slotMask (treeSlot w) then some fcPageRights
  else none

/-- `TREE.SET` (R302). -/
def execTreeSet (a b : Reg) (s : State) :=
  runI (do
    ready [a.val, b.val] []
    let x ← readS a.val
    let w ← readS b.val
    needP (decide (fld x 63 3 = 0)) fcIllegalOpcode
    let t := fld x 2 0
    let s ← get
    let y := s.me
    needP (y.priv || nbit (fld (s.part y.part).w0 7 0) t) fcPrivilege
    if bitOf w 63 then
      match s.treeFault y.part w with
      | some f => faultP f
      | none => pure ()
    else needP (decide (w = 0)) fcIllegalOpcode
    upd (fun s => s.treeCredit t ((s.core s.myCore).tree t).children)
    updCore (fun k =>
      let n := k.tree t
      let held := b2n n.left.isSome + b2n n.right.isSome + b2n n.loc.isSome + n.early.length
      { k with trees := k.trees.put t { TreeNode.reset with
                 entry := w, result := n.result, latered := sat16 n.latered held, treebad := n.treebad } })) s

/-! ## Route plans (R134, R135, R301) -/

/-- Fields of a route-plan entry (R134). -/
def rteFwd (w : Word) : Nat := fld w 62 60
def rteDkind (w : Word) : Nat := fld w 59 58
def rteDslot (w : Word) : Nat := fld w 57 54
def rteAddr (w : Word) : Nat := fld w 51 33
def rteTagen (w : Word) : Bool := bitOf w 32
def rteInc (w : Word) : Nat := fld w 24 9
def rteSslot (w : Word) : Nat := fld w 7 4
def rteSkind (w : Word) : Nat := fld w 3 2

/-- An entry that has never been written. -/
def RteEntry.reset : RteEntry := { val := 0, ptr := 0, hole := false }

/-- The route entry at an index as last written. -/
def Core.routeLast (k : Core) (i : Nat) : RteEntry :=
  match (k.routePending.filter (fun p => decide (p.2.1 = i))).getLast? with
  | some p => p.2.2
  | none => k.route.val i RteEntry.reset

/-- The fault that an entry raises (R135), for table `t` and frame cycle `c` of a core. -/
def State.routeFault (s : State) (core part : Nat) (priv : Bool) (t c : Nat) (w : Word) : Option Nat :=
  let k := s.core core
  let taken := (List.range 5).any (fun u => !decide (u = t) &&
    (let e := k.routeLast (u * 64 + c)
     bitOf e.val 63 && decide (rteFwd e.val = rteFwd w)))
  let slots := (s.part part).slotMask
  let masked := nbit (s.part part).w3.toNat c
  let names := (rteDkind w = 1 ∨ rteDkind w = 2) ∧ nbit slots (rteDslot w) = false
  let srcs := t = 0 ∧ rteSkind w < 3 ∧ nbit slots (rteSslot w) = false
  if bitOf w 63 = false then (if priv = false ∧ masked = false then some fcPrivilege else none)
  else if 5 ≤ rteFwd w ∨ (rteDkind w = 3 ∧ rteTagen w = true) ∨ (t = 0 ∧ rteDkind w ≠ 0) ∨ rteAddr w % 32 ≠ 0
      ∨ rteInc w % 32 ≠ 0 then some fcIllegalOpcode
  else if rteFwd w ≠ 0 ∧ (neighbour core (rteFwd w)).isNone then some fcIllegalOpcode
  else if rteFwd w ≠ 0 ∧ taken = true then some fcIllegalOpcode
  else if priv = false ∧ (masked = false ∨ names ∨ srcs) then some fcPrivilege
  else none

/-- `RTE.SET` (R301): the entry takes effect two cycles after the issue. -/
def execRteSet (a b : Reg) (s : State) :=
  runI (do
    ready [a.val, b.val] []
    let x ← readS a.val
    let w ← readS b.val
    let t := fld x 2 0
    let c := fld x 13 8
    needP (decide (t < 5 ∧ fld x 7 3 = 0 ∧ fld x 63 14 = 0)) fcIllegalOpcode
    let s ← get
    match s.routeFault s.myCore s.me.part s.me.priv t c w with
    | some f => faultP f
    | none =>
      let e : RteEntry := { val := if bitOf w 63 then w else 0, ptr := rteAddr w, hole := false }
      updCore (fun k => { k with routePending := k.routePending ++ [(s.now + 2, t * 64 + c, e)] })) s

/-- Entries whose cycle of effect has come replace the older ones. -/
def Core.routeSettle (k : Core) (now : Nat) : Core :=
  { k with route := (k.routePending.filter (fun p => decide (p.1 ≤ now))).foldl (fun m p => m.put p.2.1 p.2.2) k.route
           routePending := k.routePending.filter (fun p => !decide (p.1 ≤ now)) }

/-! ## Words on the Piste (R136 to R138) -/

/-- A word before it is put on a link. -/
structure PisteOut where
  valid : Bool
  data : BitVec 256
  nxm : Bool
  fmt : Nat
  ni : Option NiWord
  cp : Option (Nat × Nat × Nat)
  src : Nat := 0

/-- A word with V = 0. -/
def PisteOut.empty (nxm : Bool) : PisteOut := { valid := false, data := 0, nxm := nxm, fmt := 0, ni := none, cp := none }

/-- Puts a word on a link in a cycle. -/
def State.putWordOn (s : State) (core link cycle : Nat) (o : PisteOut) : State :=
  match neighbour core link with
  | none => s
  | some n =>
    let k := s.core n
    s.setCore n { k with piste := k.piste ++
      [{ cycle := cycle + linkTime core n, link := opposite link, valid := o.valid, data := o.data, nxm := o.nxm
         fmt := o.fmt, ni := o.ni, cp := o.cp, src := o.src }] }

/-- One more in a saturating count. -/
def satTo (m n : Nat) : Nat := min m (n + 1)

/-- The pointer after an entry has fired (R134). -/
def RteEntry.fired (e : RteEntry) : RteEntry :=
  { e with ptr := toBits 19 ((e.ptr : Int) + sext 16 (rteInc e.val)) }

/-- A deferred fault against a slot of a core, if it holds a task (R136, R138). -/
def State.pisteFault (s : State) (core slot code cause addr srcCore cycle : Nat) : State :=
  if (s.slot (core * 16 + slot)).holds then
    s.raiseDeferred (core * 16 + slot)
      { code := code, addr := ofN addr, loc := false, kind := 1, cause := cause
        extra := [(32, bytesOf 2 srcCore), (34, bytesOf 1 cycle)] }
  else s

/-- What the network interface of a core sends next: a half-flit of a message, by its sender's global slot and its place
among the flights of that slot, or of the bounce of one decided here; or a word of the ring tile that the core sends. -/
inductive NiNext
  | half (gs i : Nat) (bounce : Bool)
  | tile
  | nothing

/-- The flights of all slots that stand at the network interface of a core as outward messages of its own slots, or as
bounces decided here (R144), with the sender's slot, the place, and whether it is a bounce. -/
def State.niFlights (s : State) (core : Nat) : List (Nat × Nat × Bool × Flight) :=
  (List.range 16).flatMap (fun i =>
    let gs := core * 16 + i
    let x := s.slot gs
    (x.flights.zipIdx.filter (fun e => e.1.plan && decide (e.1.halves < 4)
      && (decide (e.1.pos = .crossing) || (decide (e.1.pos = .sender) && !x.heldBack e.2 e.1
        && !decide (s.verdict e.1 = .bounce 3))))).map (fun e => (gs, e.2, false, e.1)))
  ++ s.cores.flatMap (fun c => c.2.slots.flatMap (fun x =>
    (x.2.flights.zipIdx.filter (fun e => e.1.plan && decide (e.1.pos = .destBounce) && decide (e.1.dstCore = core)
      && decide (e.1.halves < 4))).map (fun e => (c.1 * 16 + x.1, e.2, true, e.1))))

/-- What the network interface sends next: the message that it has begun, then the ring tile, then another message
(assumption 84). -/
def State.niNext (s : State) (core : Nat) : NiNext :=
  let l := s.niFlights core
  match l.find? (fun e => !decide (e.2.2.2.halves = 0)) with
  | some (gs, i, b, _) => .half gs i b
  | none =>
    match (s.core core).latch.sending with
    | some x => if x.plan && decide (x.put < x.tile.words) then .tile else
        match l with
        | (gs, i, b, _) :: _ => .half gs i b
        | [] => .nothing
    | none =>
      match l with
      | (gs, i, b, _) :: _ => .half gs i b
      | [] => .nothing

/-- Injection of a word of the tile that a core sends (R278). -/
def State.injectTile (s : State) (core : Nat) (nxm : Bool) : State × PisteOut :=
  let k := s.core core
  match k.latch.sending with
  | none => (s, .empty nxm)
  | some x =>
    (s.setCore core { k with latch := { k.latch with sending := some { x with put := x.put + 1 } } },
      { valid := true, data := BitVec.ofNat 256 (ofBytes ((x.tile.stream.drop (32 * x.put)).take 32)), nxm := nxm, fmt := 0
        ni := some (.tile core), cp := none })

/-- Injection of a half-flit, whose bits the specification leaves open; the same half of the same message has the same bits on
every run (R413). -/
def State.injectHalf (s : State) (gs i : Nat) (bounce nxm : Bool) : State × PisteOut :=
  match (s.slot gs).flights[i]? with
  | none => (s, .empty nxm)
  | some f =>
    let s' := s.setFlight gs i { f with halves := f.halves + 1, pos := if bounce then .destBounce else .crossing }
    (s',
      { valid := true, data := Config.halfFlit (ofN f.msg.info :: f.msg.words) f.halves, nxm := nxm
        fmt := 0, ni := some (.half gs f.num bounce), cp := none })

/-- The place in its source of the first chunk of a command that is not on the Piste: the command as if all before it had
landed. -/
def CpCmd.unsent (c : CpCmd) : CpCmd :=
  if c.row < c.sentRow ∨ (c.row = c.sentRow ∧ c.col ≤ c.sentCol) then { c with row := c.sentRow, col := c.sentCol } else c

/-- Injection of the next 32 bytes of the running Carter command of a slot (R127, R136). A word that carries fewer, the
command's last, stands for those alone, and its deposit writes no byte beside them: DEDUCED (assumption 104). R136 gives such a
word the format that the command names and R258 names none: its FMT is 0, a DESIGN CHOICE (assumption 104). -/
def State.injectCarter (s : State) (core gs : Nat) (nxm : Bool) : State × PisteOut :=
  let x := s.slot gs
  match x.run, x.cp.queue with
  | .parked _, _ => (s, .empty nxm)
  | _, [] => (s, .empty nxm)
  | _, c :: _ =>
    let u := c.unsent
    if c.kind = .l2l ∧ c.held = false ∧ fld c.a 26 19 ≠ core ∧ u.row < u.rows then
      let l := u.pieces 32
      let n := piecesLen l
      if (s.core (fld c.a 26 19)).health.gone then (s.cpStops gs c (.closed 6), .empty nxm)
      else
        let read : Except ChunkEnd CpRead := l.foldlM (fun (r : CpRead) p =>
          let a := u.srcRow p.1 + p.2.1
          match r.st.cpRead gs c a (u.dstRow p.1 + p.2.1) p.2.2 with
          | .error e => .error (e.at a)
          | .ok q => .ok { q with bytes := r.bytes ++ q.bytes }) { st := s, bytes := [], bad := [], zeroed := 0 }
        match read with
        | .error e => (s.cpStops gs c e, .empty nxm)
        | .ok r =>
          let v := u.advance n
          (r.st.setCp gs (fun q => { q with queue := { c with sentRow := v.row, sentCol := v.col } :: q.queue.tail }),
            { valid := true, data := BitVec.ofNat 256 (ofBytes r.bytes), nxm := nxm, fmt := 0, ni := none
              cp := some (gs, c.idx, n) })
    else (s, .empty nxm)

/-- Injection of 32 LM bytes at the entry's pointer, as they stood two cycles before (R136). -/
def State.injectLm (s : State) (core slot cycle : Nat) (e : RteEntry) : State × PisteOut :=
  let k := s.core core
  let x := s.slot (core * 16 + slot)
  let (bs, bad) := match k.ahead.find? (fun r => decide (r.1 = s.now)) with
    | some r => r.2
    | none => (k.lmBytes e.ptr 32, k.lmError e.ptr 32)
  if lmOwned (s.part x.part).banks e.ptr 32 = false then
    ((s.setCore core { k with pistIllegal := satTo 255 k.pistIllegal }).pisteFault core slot fcPageRights 5 e.ptr core cycle,
      .empty x.nxm)
  else match bad with
    | some o => (((s.countLm core 1 o).pisteFault core slot fcLmUncorrectable 5 o core cycle), .empty x.nxm)
    | none => (s, { valid := true, data := BitVec.ofNat 256 (ofBytes bs), nxm := x.nxm, fmt := 0, ni := none, cp := none })

/-- What an injection entry takes (R136), with the state after it. -/
def State.injectWord (s : State) (core cycle : Nat) (e : RteEntry) : State × PisteOut :=
  let slot := rteSslot e.val
  let gs := core * 16 + slot
  let x := s.slot gs
  match rteSkind e.val with
  | 0 =>
    let q := fld e.val 1 0
    match x.outq[q]! with
    | [] => (s, .empty x.nxm)
    | w :: ws =>
      (s.setSlot gs { x with outq := x.outq.setIfInBounds q ws },
        { valid := true, data := Config.queueHigh w.val ++ w.val, nxm := x.nxm, fmt := w.fmt, ni := none, cp := none })
  | 1 => s.injectLm core slot cycle e
  | 2 => s.injectCarter core gs x.nxm
  | _ =>
    match s.niNext core with
    | .nothing => (s, .empty x.nxm)
    | .tile => s.injectTile core x.nxm
    | .half g i back => s.injectHalf g i back x.nxm

/-- The injection of a core in the running cycle (R136). -/
def State.pisteInject (s : State) (core : Nat) : State :=
  let s := s.setCore core ((s.core core).routeSettle s.now)
  let c := s.now % 64
  let e := (s.core core).route.val c RteEntry.reset
  if bitOf e.val 63 && !decide (rteFwd e.val = 0) then
    let (s, o) := s.injectWord core c e
    let k := s.core core
    (s.setCore core { k with route := k.route.put c e.fired }).putWordOn core (rteFwd e.val) s.now { o with src := core }
  else s

def execPisteInject (core : Nat) (s : State) : Host.Outcome State Fault Refusal := .next (s.pisteInject core)

/-- The slot's tag register k, and SEQ raised by 1 with ADV (R138, R139). -/
def State.tagAdvance (s : State) (core : Nat) (e : RteEntry) : State :=
  let gs := core * 16 + rteDslot e.val
  let k := fld e.val 31 29
  let x := s.slot gs
  let t := x.ptag[k]!
  if bitOf e.val 8 then s.setSlot gs { x with ptag := x.ptag.setIfInBounds k (setFld t 15 0 (fld t 15 0 + 1)) } else s

/-- The end of a block at an LM deposit entry (R138): the tag that is written with it, if one is, and the entry's HOLE bit
after it. Nothing is written where the pointer stands outside the owned banks. -/
def State.blockEnd (s : State) (core : Nat) (e : RteEntry) (hole owned : Bool) : State × Option (Nat × BitVec 48) × Bool :=
  if e.ptr % 256 = 224 then
    let t := (s.slot (core * 16 + rteDslot e.val)).ptag[fld e.val 31 29]!
    let tag := if rteTagen e.val && !hole && owned then some (e.ptr / 256, BitVec.ofNat 48 t.toNat) else none
    (s.tagAdvance core e, tag, if rteTagen e.val then false else hole)
  else (s, none, hole)

/-- The bytes that a word carries: the 32 of its data, or those of a Carter command's last word (R136). -/
def PisteWord.bytes (w : PisteWord) : List Byte :=
  (bytesOf 32 w.data.toNat).take (match w.cp with
    | some p => p.2.2
    | none => 32)

/-- What a deposit writes into the LM, one cycle after the arrival (R131). -/
def State.landLater (s : State) (core : Nat) (l : Landing) : State :=
  let k := s.core core
  if l.bytes.isNone && l.tag.isNone then s else s.setCore core { k with landing := k.landing ++ [l] }

/-- The head command of a slot when its index is `idx`. -/
def State.cpHead (s : State) (gs idx : Nat) : Option CpCmd :=
  match (s.slot gs).cp.queue with
  | c :: _ => if c.idx = idx then some c else none
  | [] => none

/-- The chunk of a Carter command that a deposit has carried lands (R126, R136): it counts when the deposit is in the core
that the command names. -/
def State.pisteLanded (s : State) (core : Nat) (p : Nat × Nat × Nat) : State :=
  match s.cpHead p.1 p.2.1 with
  | none => s
  | some c =>
    if fld c.a 26 19 = core then
      let s := if c.tagen then
          s.setCore core ((c.pieces p.2.2).foldl (fun k q =>
            k.cpTag c q.1 (q.2.1 + q.2.2) ((c.dstRow q.1 + q.2.1).toNat) q.2.2) (s.core core))
        else s
      s.cpLanded p.1 c p.2.2
    else s

/-- The writes of deposits that arrived in the cycle before (R120, R131). -/
def State.land (s : State) (core : Nat) (l : Landing) : State :=
  let k := s.core core
  let k := match l.bytes with
    | some (o, bs) => k.lmStore o bs
    | none => k
  let k := match l.tag with
    | some (b, t) => k.setTag b t
    | none => k
  let s := s.setCore core k
  match l.cp with
  | some p => s.pisteLanded core p
  | none => s

/-- All of them at a core. -/
def State.landAll (s : State) (core : Nat) : State :=
  let k := s.core core
  (k.landing.filter (fun l => decide (l.cycle ≤ s.now))).foldl (fun s l => s.land core l)
    (s.setCore core { k with landing := k.landing.filter (fun l => !decide (l.cycle ≤ s.now)) })

/-- A half-flit reaches the network interface: with its fourth half-flit a message is whole there, or a bounce stands in its
sender's network interface (R144). -/
def State.halfArrives (s : State) (core gs num : Nat) (bounce : Bool) : State :=
  let k := s.core core
  let l := k.halfIn ++ [(gs, num, bounce)]
  if (l.filter (fun h => decide (h = (gs, num, bounce)))).length < 4 then s.setCore core { k with halfIn := l }
  else
    let s := s.setCore core { k with halfIn := l.filter (fun h => !decide (h = (gs, num, bounce))) }
    match (s.slot gs).flights.zipIdx.find? (fun e => decide (e.1.num = num ∧ e.1.plan = true
        ∧ e.1.pos = if bounce then .destBounce else .crossing)) with
    | none => s
    | some (f, i) => s.setFlight gs i { f with pos := if bounce then .senderBounce else .arrived }

/-- A word reaches the network interface of a core (R137, R278). -/
def State.niArrives (s : State) (core : Nat) (w : NiWord) : State :=
  match w with
  | .half gs num bounce => s.halfArrives core gs num bounce
  | .tile src =>
    let k := s.core src
    match k.latch.sending with
    | some x =>
      if x.dest = core then s.setCore src { k with latch := { k.latch with sending := some { x with got := x.got + 1 } } } else s
    | none => s

/-- The deposit of a word that an IN entry fires on (R137, R138); the entry after it is stored. -/
def State.deposit (s : State) (core i : Nat) (e : RteEntry) (w : PisteWord) : State :=
  let slot := rteDslot e.val
  let gs := core * 16 + slot
  let put := fun (s : State) (hole : Bool) =>
    let k := s.core core
    s.setCore core { k with route := k.route.put i { e.fired with hole := hole } }
  let k := s.core core
  let x := s.slot gs
  let owned := lmOwned (s.part x.part).banks e.ptr 32
  let lmEnd := fun (s : State) (hole : Bool) (bytes : Option (Nat × List Byte)) (cp : Option (Nat × Nat × Nat)) =>
    let (s, tag, hole) := s.blockEnd core e hole owned
    put (s.landLater core { cycle := w.cycle + 1, bytes := bytes, tag := tag, cp := cp }) hole
  if w.valid = false then
    if rteDkind e.val = 0 then put s e.hole
    else
      let s := s.setCore core { k with pistHole := satTo 65535 k.pistHole }
      if rteDkind e.val = 2 then lmEnd s true none none else put s true
  else match rteDkind e.val with
    | 1 =>
      let q := fld e.val 53 52
      if (x.inq[q]!).length < 4 then
        let word : QWord := { val := BitVec.ofNat 64 w.data.toNat, nxm := w.nxm, fmt := w.fmt }
        put ((s.setSlot gs { x with inq := x.inq.setIfInBounds q (x.inq[q]! ++ [word]) }).signalNext gs) e.hole
      else
        let s := s.setCore core { k with pistQdrop := satTo 65535 k.pistQdrop }
        put (s.pisteFault core slot fcScheduleTag 3 0 w.src (w.cycle % 64)) e.hole
    | 2 =>
      let efmt := fld e.val 28 25
      if owned = false then
        let s := s.setCore core { k with pistIllegal := satTo 255 k.pistIllegal }
        lmEnd (s.pisteFault core slot fcPageRights 6 e.ptr w.src (w.cycle % 64)) e.hole none none
      else if k.lmFenced e.ptr 32 then
        lmEnd (s.setCore core { k with pistIllegal := satTo 255 k.pistIllegal }) e.hole none none
      else if w.nxm ≠ x.nxm ∨ (efmt ≠ 0 ∧ w.fmt ≠ efmt) then
        let s := s.setCore core { k with pistFmterr := satTo 255 k.pistFmterr }
        lmEnd (s.pisteFault core slot fcFormatMismatch 6 e.ptr w.src (w.cycle % 64)) true none none
      else lmEnd s e.hole (some (e.ptr, w.bytes)) w.cp
    | 3 =>
      let s := put s e.hole
      match w.ni with
      | some n => s.niArrives core n
      | none => s
    | _ => put s e.hole

/-- A word arrives on a link (R137): dropped as STRAY, or forwarded and deposited. -/
def State.pisteWord (s : State) (core : Nat) (w : PisteWord) : State :=
  let i := w.link * 64 + w.cycle % 64
  let k := (s.core core).routeSettle w.cycle
  let s := s.setCore core k
  let e := k.route.val i RteEntry.reset
  if bitOf e.val 63 = false then s.setCore core { k with pistStray := satTo 65535 k.pistStray }
  else
    let s := s.deposit core i e w
    if rteFwd e.val = 0 then s
    else s.putWordOn core (rteFwd e.val) w.cycle
      { valid := w.valid, data := w.data, nxm := w.nxm, fmt := w.fmt, ni := w.ni, cp := w.cp, src := w.src }

/-- The oldest word that has arrived on a link of a core. -/
def State.pisteArrive (s : State) (core link : Nat) : State :=
  match (s.core core).piste.find? (fun w => decide (w.link = link ∧ w.cycle ≤ s.now)) with
  | none => s
  | some w => (s.setCore core { s.core core with piste := (s.core core).piste.erase w }).pisteWord core w

def execPisteArrival (core link : Nat) (s : State) : Host.Outcome State Fault Refusal := .next (s.pisteArrive core link)

end Sys2Proof.Machine
end

