-- ==== Sys2Proof/Machine/Windows.lean ====
section
/-! DEFINITION. Stream windows of a core: their registers SWCFG, SWREL and SWSTAT (R49 to R53). -/

namespace Sys2Proof.Machine

/-- Window `w` of core `c`. -/
def State.window (s : State) (c w : Nat) : Window := (s.core c).windows.val w Window.reset

/-- Replaces a window. -/
def State.setWindow (s : State) (c w : Nat) (x : Window) : State :=
  s.setCore c { s.core c with windows := (s.core c).windows.put w x }

/-- Fields of SWCFG (R49). -/
def swEn (w : Word) : Bool := bitOf w 63
def swFate (w : Word) : Nat := fld w 62 61
def swLow (w : Word) : Nat := fld w 60 56
def swSlots (w : Word) : Nat := fld w 55 52 + 1
def swSize (w : Word) : Nat := (fld w 51 44 + 1) * 256
def swCslot (w : Word) : Nat := fld w 43 40
def swBase (w : Word) : Nat := fld w 18 0

/-- SWCFG without its reserved bits, which a write cannot set (R8). -/
def swMask (w : Word) : Word := setFld w 39 19 0

/-- SWSTAT (R49), with the sequence number of the next batch. -/
def Window.status (x : Window) (seq : Nat) : Word :=
  ofN (x.dropRows * 2 ^ 32 + seq * 2 ^ 16 + x.free * 2 ^ 11 + x.filled * 2 ^ 6 + b2n x.alarm * 32
    + b2n x.ovrel * 16 + b2n x.foreign * 8 + b2n x.cfgerr * 4)

/-- The sequence number of the next batch of a window: of the oldest batch on its way from the enabled exit that names it, else
the exit's own; with no such exit 0, where a sequence starts (R48, R49). -/
def State.windowSeq (s : State) (c w : Nat) : Nat :=
  match (s.exitsTo c w).find? (fun i => lxEn (s.lxcfg i)) with
  | none => 0
  | some i =>
    match (s.exit i).closed.find? (fun b => decide (b.core = c ∧ b.win = w)) with
    | some b => b.seq
    | none => (s.exit i).seq

/-- Rows dropped at a window (R53). -/
def Window.drop (x : Window) (n : Nat) : Window :=
  { x with dropRows := min (2 ^ 32 - 1) (x.dropRows + n), dropped := min (2 ^ 32 - 1) (x.dropped + n) }

/-- The partition whose enabled entry holds a slot number of a core (R50): of the time-sliced group, the member switched
in. -/
def State.slotOwner (s : State) (c slot : Nat) : Option Nat :=
  (List.range 16).find? (fun p =>
    let w := s.part p
    bitOf w.w0 63 && nbit w.slotMask slot && s.inCoreSet p c
    && (!bitOf w.w0 62 || decide (s.sched.member = some p)))

/-- Whether a write that sets EN from 0 is refused (R50). -/
def State.swRefused (s : State) (c w : Nat) (v : Word) : Bool :=
  let last := swBase v + swSlots v * swSize v
  let banks := match s.slotOwner c (swCslot v) with
    | some p => (s.part p).banks
    | none => 0
  let others := ((List.range 8).filter (fun i =>
    !decide (i = w) && swEn (s.window c i).cfg && decide (swCslot (s.window c i).cfg = swCslot v))).map
      (fun i => swSlots (s.window c i).cfg)
  decide (2 ^ 19 < last) || !lmOwned banks (swBase v) (swSlots v * swSize v) || decide (16 < others.sum + swSlots v)

/-- Rows of an exit's closed batches on their way to a window. -/
def Exit.rowsClosed (x : Exit) (c w : Nat) : Nat :=
  ((x.closed.filter (fun b => decide (b.core = c ∧ b.win = w))).map (fun b => b.rows.length)).sum

/-- An exit without them. -/
def Exit.uncloses (x : Exit) (c w : Nat) : Exit :=
  { x with closed := x.closed.filter (fun b => !decide (b.core = c ∧ b.win = w)) }

/-- The window stops (R50): rows on their way to it are dropped, and it advertises no slot. A window that stops sets no ALARM
(assumption 94): its FREE does not fall by a batch. -/
def State.stopWindow (s : State) (c w : Nat) (cfg : Word) : State :=
  let exits := s.exitsTo c w
  let rows := (exits.map (fun i => (s.exit i).batch.length + (s.exit i).held.length + (s.exit i).blocked.toList.length)).sum
    + ((List.range 16).map (fun i => (s.exit i).rowsClosed c w)).sum
  let s := exits.foldl (fun s i => s.setExit i { s.exit i with batch := [], held := [], blocked := none, free := 0 }) s
  let s := (s.hub.exits.map (·.1)).foldl (fun s i => s.setExit i ((s.exit i).uncloses c w)) s
  s.setWindow c w { (s.window c w).drop rows with cfg := cfg, free := 0, filled := 0, head := 0 }

/-- A write of SWCFG (R50). -/
def State.swcfg (s : State) (c w : Nat) (v : Word) : State :=
  let x := s.window c w
  let v := swMask v
  if swFate v = 3 || !decide (swBase v % 256 = 0) || (swEn v && swEn x.cfg) || (swEn v && s.swRefused c w v) then
    s.setWindow c w { x with cfgerr := true }
  else if swEn v then
    let s := s.setWindow c w { x with cfg := v, dropRows := 0, free := swSlots v, filled := 0, head := 0
                                      owner := (s.slotOwner c (swCslot v)).getD 0 }
    { s with later := s.later ++ (s.exitsTo c w).map Event.freeCountUpdate }
  else if swEn x.cfg then s.stopWindow c w v
  else s.setWindow c w { x with cfg := v }

/-- A write of SWREL by a slot of the core (R52). -/
def State.swrel (s : State) (c slot w : Nat) (v : Word) : State :=
  let x := s.window c w
  if swCslot x.cfg = slot then
    let n := fld v 4 0
    let k := min n x.filled
    let s := s.setWindow c w { x with
      filled := x.filled - k, free := x.free + k, head := (x.head + k) % swSlots x.cfg
      ovrel := x.ovrel || decide (x.filled < n) }
    { s with later := s.later ++ (s.exitsTo c w).map Event.freeCountUpdate }
  else s.setWindow c w { x with foreign := true }

/-- A write of SWSTAT clears the flags whose bits are 1 (R49). -/
def State.swstat (s : State) (c w : Nat) (v : Word) : State :=
  let x := s.window c w
  s.setWindow c w { x with alarm := x.alarm && !bitOf v 5, ovrel := x.ovrel && !bitOf v 4
                           foreign := x.foreign && !bitOf v 3, cfgerr := x.cfgerr && !bitOf v 2 }

def execSwcfgWrite (core win : Nat) (w : Word) (s : State) : Host.Outcome State Fault Refusal := .next (s.swcfg core win w)
def execSwrelWrite (core slot win : Nat) (w : Word) (s : State) : Host.Outcome State Fault Refusal :=
  .next (s.swrel core slot win w)

end Sys2Proof.Machine
end

