-- ==== Sys2Proof/Machine/Ingress.lean ====
section
/-! DEFINITION. TSN ports on the way in: stream filters, gates, meters and recovered streams (R21, R62), the process image
(R23 to R26, R61), and gate control lists. -/

namespace Sys2Proof.Machine

/-! ## Counters in TSN objects -/

/-- One more in a 64-bit wrapping counter of a TSN object. -/
def State.tsnCount (s : State) (pa : Nat) : State := s.setReg pa (s.reg pa + 1)

/-- Places of port counters (R62). -/
def tpRxFrames : Nat := 0x100
def tpTxFrames : Nat := 0x108
def tpFcsErr : Nat := 0x110
def tpBadTag : Nat := 0x118
def tpRxDrop : Nat := 0x120
def tpWinMiss : Nat := 0x128
def tpGuardHold : Nat := 0x130

/-! ## The parts of a frame -/

/-- A big-endian value of `n` bytes at an offset. -/
def netAt (l : List Byte) (o n : Nat) : Nat := ((l.drop o).take n).foldl (fun acc b => acc * 256 + b.toNat) 0

/-- A received frame without its FCS, taken apart: destination, priority and VID of a C-tag, R-TAG sequence, EtherType,
payload. -/
structure FrameParts where
  da : Nat
  tag : Option (Nat × Nat)
  seq : Option Nat
  etype : Nat
  payload : List Byte
  deriving DecidableEq, Repr

/-- Takes a frame apart; none for an S-tag or two tags (R21). In a tagged frame the payload begins after the EtherType that
follows the C-tag (assumption 99). The R-TAG of IEEE 802.1CB has EtherType 0xF1C1. -/
def frameParts (f : List Byte) : Option FrameParts :=
  let t := netAt f 12 2
  let (tag, o) := if t = 0x8100 then (some (netAt f 14 2 / 8192, netAt f 14 2 % 4096), 16) else (none, 12)
  let u := netAt f o 2
  if t = 0x88A8 ∨ (tag.isSome ∧ (u = 0x8100 ∨ u = 0x88A8)) then none
  else
    let (seq, o) := if u = 0xF1C1 then (some (netAt f (o + 4) 2), o + 6) else (none, o)
    some { da := netAt f 0 6, tag := tag, seq := seq, etype := netAt f o 2, payload := f.drop (o + 2) }

/-! ## Stream filters, gates and meters (R62) -/

/-- Whether a valid filter matches a frame that a port received. -/
def State.filterMatches (s : State) (port : Nat) (p : FrameParts) (f : Nat) : Bool :=
  let w0 := s.reg (filterReg f)
  let w1 := s.reg (filterReg f + 8)
  let vid := match p.tag with
    | some (_, v) => v
    | none => fld (s.reg (tpReg port 0)) 59 48
  let prio := match p.tag with
    | some (c, _) => c
    | none => 0
  bitOf w1 63 && bitOf w1 (32 + port) && decide (fld w0 47 0 = p.da) && decide (fld w0 59 48 = vid)
  && (bitOf w0 63 || decide (fld w0 62 60 = prio))

/-- The lowest-numbered filter that matches. -/
def State.filterOf (s : State) (port : Nat) (p : FrameParts) : Option Nat :=
  (List.range 512).find? (fun f => s.filterMatches port p f)

/-- Whether a stream gate stands open. -/
def State.gateOpen (s : State) (g : Nat) : Bool :=
  let w := s.reg (sgReg g)
  let pos := s.hub.sgPos.val g ListPos.reset
  if !bitOf w 63 then true else if pos.running then decide (pos.gates = 1) else bitOf w 60

/-- A flow meter's verdict on a frame: green, yellow or red. -/
inductive Colour
  | green | yellow | red
  deriving DecidableEq, Repr

/-- The colour-blind two-rate meter: buckets fill at CIR and EIR up to CBS and EBS, counted in bits. A meter that has not
been used stands with full buckets. -/
def State.meter (s : State) (m bytes : Nat) : State × Colour :=
  let w0 := s.reg (meterReg m)
  let w1 := s.reg (meterReg m + 8)
  let cmax := fld w0 31 0 * 8
  let emax := fld (s.reg (meterReg m + 16)) 31 0 * 8
  let now := s.localNs
  let (c, e, t) := s.hub.meterTok.val m (cmax * 1000000, emax * 1000000, now)
  -- tokens in millionths of a bit: 1 kbit/s adds one of them in 1 ns
  let c := min (cmax * 1000000) (c + fld w1 31 0 * (now - t))
  let e := min (emax * 1000000) (e + fld w1 63 32 * (now - t))
  let need := bytes * 8 * 1000000
  let put := fun (c e : Nat) => s.updHub (fun h => { h with meterTok := h.meterTok.put m (c, e, now) })
  if need ≤ c then (put (c - need) e, .green)
  else if need ≤ e then (put c (e - need), .yellow)
  else (put c e, .red)

/-- A frame of filter `f` at its meter: the state, and whether the frame passes. The red state stands in the meter (REDSTATE), so that
with MARKRED it drops the frames of every filter that names the meter: a DESIGN CHOICE (assumption 108). -/
def State.metered (s : State) (f bytes : Nat) : State × Bool :=
  let w1 := s.reg (filterReg f + 8)
  let m := fld w1 53 46
  let w0 := s.reg (meterReg m)
  if !bitOf w1 62 || !bitOf w0 63 then (s, true)
  else if s.hub.meterRed.val m false then (s.tsnCount (filterCtr f + 32), false)
  else
    match s.meter m bytes with
    | (s, .green) => (s, true)
    | (s, .yellow) => (s.tsnCount (filterCtr f + 40), !bitOf w0 62)
    | (s, .red) =>
      let s := s.tsnCount (filterCtr f + 32)
      (if bitOf w0 61 then s.updHub (fun h => { h with meterRed := h.meterRed.put m true }) else s, false)

/-! ## Recovered streams: the vector recovery algorithm of IEEE 802.1CB (R21, R62) -/

/-- The signed distance of a sequence number from another, modulo 65,536. -/
def seqDelta (seq last : Nat) : Int :=
  let d := (seq + 65536 - last) % 65536
  if d < 32768 then d else (d : Int) - 65536

/-- Zeros that a history of `len` bits loses when `n` bits shift in. -/
def lostBits (hist len n : Nat) : Nat :=
  let gone := min n len
  ((List.range gone).filter (fun i => !nbit hist (len - 1 - i))).length + (n - gone)

/-- Latent error detection (R21, R62): the published test on the frames passed and discarded so far. -/
def State.latentTest (s : State) (r : Nat) : State :=
  let base := recovReg r
  if bitOf (s.reg base) 62 && Config.latentError r (s.reg (base + 8)).toNat (s.reg (base + 16)).toNat then
    let w := s.reg (base + 24)
    s.setReg (base + 24) (setFld w 31 0 ((fld w 31 0 + 1) % 2 ^ 32))
  else s

/-- A frame with a sequence number at a recovered stream: the state, and whether it passes. -/
def State.recover (s : State) (r seq : Nat) : State × Bool :=
  let base := recovReg r
  let len := fld (s.reg base) 61 56 + 1
  let now := s.localNs
  let pass := fun (s : State) (last hist : Nat) =>
    ((s.tsnCount (base + 8)).updHub (fun h => { h with recov := h.recov.put r (last, hist, now) })).latentTest r
  let rogue := fun (s : State) => (s.tsnCount (base + 16)).latentTest r
  match s.hub.recov.seek r with
  | none => (pass s seq 1, true)
  | some (last, hist, _) =>
    let d := seqDelta seq last
    if d ≥ len ∨ d ≤ -(len : Int) then (rogue s, false)
    else if d ≤ 0 then
      let k := d.natAbs
      if nbit hist k then (rogue s, false) else (pass s last (hist + 2 ^ k), true)
    else
      let k := d.natAbs
      let w := s.reg (base + 24)
      let s := s.setReg (base + 24) (setFld w 63 32 (fld w 63 32 + lostBits hist len k))
      (pass s seq ((hist * 2 ^ k + 1) % 2 ^ len), true)

/-- The recovered stream of a filter. -/
def State.recoveredOf (s : State) (f : Nat) : Option Nat :=
  (List.range 256).find? (fun r => bitOf (s.reg (recovReg r)) 63 && decide (fld (s.reg (recovReg r)) 40 32 = f))

/-- `RECOVERY_RESET_TIMEOUT` (R62): the next frame of the stream is taken as the first. -/
def execRecoveryResetTimeout (stream : Nat) (s : State) : Host.Outcome State Fault Refusal :=
  .next (s.updHub (fun h => { h with recov := h.recov.del stream }))

/-! ## Commits to the process image (R23, R25) -/

/-- Replaces a region's bookkeeping. -/
def State.setRegion (s : State) (f : Nat) (r : PiRegion) : State :=
  s.updHub (fun h => { h with regions := h.regions.put f r })

/-- Bytes of the process image are written; the words that they cover whole lose their error marks. -/
def Hub.imageWrite (h : Hub) (buf off : Nat) (bs : List Byte) : Hub :=
  let a := buf * bufBytes + off
  { h with image := memWrite h.image a bs
           imageBad := h.imageBad.filter (fun w => !decide (a ≤ 8 * w ∧ 8 * w + 8 ≤ a + bs.length)) }

/-- A frame's payload is committed to its region, or dropped as OVERSIZE. -/
def State.commitRegion (s : State) (f : Nat) (payload : List Byte) : State :=
  let r := s.hub.region f
  if !bindValid r.bound then s
  else if bindLen r.bound < payload.length then s.setRegion f { r with oversize := true }
  else
    let bs := payload ++ List.replicate (bindLen r.bound - payload.length) 0
    (s.updHub (fun h => h.imageWrite (b2n (!r.sel)) (bindOff r.bound) bs)).setRegion f
      { r with commit := some payload.length, commits := (r.commits + 1) % 2 ^ 32 }

/-- A frame that a filter matched. -/
def State.filtered (s : State) (f : Nat) (p : FrameParts) : State :=
  let s := s.tsnCount (filterCtr f)
  let w1 := s.reg (filterReg f + 8)
  let sdu := fld w1 31 16
  if sdu ≠ 0 ∧ sdu < p.payload.length then s.tsnCount (filterCtr f + 24)
  else if !s.gateOpen (fld w1 61 54) then s.tsnCount (filterCtr f + 16)
  else
    match s.metered f p.payload.length with
    | (s, false) => s
    | (s, true) =>
      let s := s.tsnCount (filterCtr f + 8)
      match s.recoveredOf f, p.seq with
      | some r, some q =>
        match s.recover r q with
        | (s, true) => s.commitRegion f p.payload
        | (s, false) => s
      | _, _ => s.commitRegion f p.payload

/-- A gPTP message: an Announce of a running domain stands when it is no worse than the one that stands, and not the part's own
(R21; the layout is IEEE 802.1AS-2020's, assumption 92). -/
def State.announce (s : State) (l : List Byte) : State :=
  let id := netAt l 53 8
  let v := gmVector (netAt l 47 1) (netAt l 48 4) (netAt l 52 1) id
  if l.length < 64 ∨ netAt l 0 1 % 16 ≠ 11 ∨ id = s.clockId then s
  else match (List.range 2).find? (fun d =>
      bitOf (s.reg (domainReg d)) 63 && decide (fld (s.reg (domainReg d)) 61 55 = netAt l 4 1)) with
    | none => s
    | some d =>
      if (s.heard d).any (fun o => decide (o < v)) then s
      else s.updHub (fun h => { h with announced := h.announced.put d (v, s.localNs) })

/-- A Sync that carries its own time, or a Follow_Up, of the grandmaster that domain 1 hears synchronises the domain (R21, R22).
Domain 0, which drives the ticks, is stepped by `SLEW` (R365). The layout is IEEE 802.1AS-2020's (assumption 92). -/
def State.ptpSync (s : State) (l : List Byte) : State :=
  let type := netAt l 0 1 % 16
  let twoStep := nbit (netAt l 6 1) 1
  let w := s.reg (domainReg 1)
  if l.length < 44 ∨ bitOf w 63 = false ∨ fld w 61 55 ≠ netAt l 4 1 ∨ (s.heard 1).isNone = true ∨ s.isGm 1 = true
      ∨ !(decide (type = 8) || (decide (type = 0) && !twoStep)) then s
  else s.updHub (fun h => { h with ptp := h.ptp.put 1 (Config.syncOffset l s.localNs), synced := h.synced.put 1 true })

/-- `TSN_FRAME_RECEIVE` (R21, R23, R62): a frame without its FCS, and whether the FCS was right. gPTP frames (EtherType
0x88F7) and pair frames (0x88B6) take their own paths. RXFRAMES counts every frame that a port in service receives, those with a
wrong FCS or bad tags too: a DESIGN CHOICE (assumption 108). -/
def State.tsnReceive (s : State) (port : Nat) (frame : List Byte) (fcsOk : Bool) : State :=
  if !bitOf (s.reg (tpReg port 0)) 63 then s
  else
    let s := s.tsnCount (tpReg port tpRxFrames)
    if !fcsOk then s.tsnCount (tpReg port tpFcsErr)
    else match frameParts frame with
      | none => s.tsnCount (tpReg port tpBadTag)
      | some p =>
        if p.etype = 0x88F7 then (s.announce p.payload).ptpSync p.payload
        else if p.etype = 0x88B6 then s
        else match s.filterOf port p with
          | none => s.tsnCount (tpReg port tpRxDrop)
          | some f => s.filtered f p

def execTsnFrameReceive (port : Nat) (frame : List Byte) (fcsOk : Bool) (s : State) : Host.Outcome State Fault Refusal :=
  .next (s.tsnReceive port frame fcsOk)

/-! ## The image at a tick (R24, R25, R26, R61) -/

/-- Writes zero into a range of both buffers. -/
def Hub.zeroImage (h : Hub) (off n : Nat) : Hub :=
  let inside := fun (a : Nat) => decide (off ≤ a % bufBytes ∧ a % bufBytes < off + n)
  { h with image := h.image.filter (fun e => !inside e.1), imageBad := h.imageBad.filter (fun w => !inside (8 * w)) }

/-- A new split takes effect: the bytes that change their part become zero. -/
def Hub.applySplit (h : Hub) : Hub :=
  match h.splitPending with
  | none => h
  | some n =>
    let lo := min h.split n * 65536
    let hi := max h.split n * 65536
    { h.zeroImage lo (hi - lo) with split := n, splitPending := none }

/-- The status entry of a region whose content a commit has made visible (R26). -/
def statusEntry (scan commits len : Nat) (held oversize : Bool) : BitVec 128 :=
  BitVec.ofNat 128 (scan + commits * 2 ^ 32 + len * 2 ^ 64 + (b2n held + b2n oversize * 2) * 2 ^ 80)

/-- A region at the tick that closes scan `n`: a binding takes effect, or the select bit flips after a commit. At the tick of
its binding a region's status entry is zero (assumption 99). -/
def Hub.regionTick (h : Hub) (f n : Nat) : Hub :=
  let r := h.region f
  match r.pending with
  | some w =>
    let h := h.leaveGhost r
    let h := if bindValid w then h.zeroImage (bindOff w) (bindLen w) else h
    { h with regions := h.regions.put f { r with
        sel := false, commit := none, commits := 0, oversize := false, status := 0, pending := none, bound := w } }
  | none =>
    if !bindValid r.bound then h
    else
      let st := r.status.toNat
      let r' := match r.commit with
        | some len => { r with sel := !r.sel, commit := none, oversize := false
                               status := statusEntry n r.commits len false r.oversize }
        | none => { r with oversize := false
                           status := statusEntry (st % 2 ^ 32) r.commits (st / 2 ^ 64 % 2 ^ 16) true r.oversize }
      { h with regions := h.regions.put f r' }

/-- What the ingress engine does at the tick that closes scan `n`. -/
def Hub.ingressTick (h : Hub) (n : Nat) : Hub :=
  (h.regions.map (·.1)).foldl (fun h f => h.regionTick f n) h.applySplit

/-! ## Writes of PISPLIT and PIBIND (R24, R61) -/

/-- Whether a region of a valid binding meets a range of the input image. -/
def State.bindingMeets (s : State) (but : Option Nat) (lo hi : Nat) : Bool :=
  (List.range 512).any (fun f =>
    let w := s.reg (pibindReg f)
    !decide (some f = but) && bindValid w && decide (bindOff w < hi ∧ lo < bindOff w + bindLen w))

/-- A write of PISPLIT. -/
def State.pisplitWrite (s : State) (w : Word) : State :=
  let n := w.toNat
  let tooFar := (List.range 256).any (fun e =>
    esEn (s.escfg e) && decide (bufBytes - n * 65536 < esOff (s.escfg e) + 8 + esLen (s.escfg e)))
  if n = 0 ∨ 64 ≤ n ∨ s.bindingMeets none (n * 65536) bufBytes ∨ tooFar then s.hubErr
  else s.updHub (fun h => { h with splitPending := some n })

def execPisplitWrite (w : Word) (s : State) : Host.Outcome State Fault Refusal := .next (s.pisplitWrite w)

/-- PIBIND word 0 without its reserved bits. -/
def bindMask (w : Word) : Word := setFld (setFld (setFld w 62 57 0) 42 22 0) 2 0 0

/-- A write of word 0 of PIBIND.f: checked with V set; a binding takes effect at the next tick, and clearing V stops
commits at once. A LEN8 above 8,192, outside the field's range and in none of R61's cases, is refused as a LEN8 of 0 is: a DESIGN
CHOICE (assumption 107). -/
def State.pibindWrite (s : State) (f : Nat) (w : Word) : State :=
  let w := bindMask w
  let split := s.hub.splitPending.getD s.hub.split * 65536
  let r := s.hub.region f
  if bindValid w then
    if fld w 56 43 = 0 ∨ 8192 < fld w 56 43 ∨ split < bindOff w + bindLen w
        ∨ s.bindingMeets (some f) (bindOff w) (bindOff w + bindLen w) then s.hubErr
    else (s.setReg (pibindReg f) w).setRegion f { r with pending := some w }
  else ((s.setReg (pibindReg f) w).updHub (fun h => h.leaveGhost r)).setRegion f { r with pending := none, bound := w, commit := none }

def execPibindWrite (filter : Nat) (w : Word) (s : State) : Host.Outcome State Fault Refusal := .next (s.pibindWrite filter w)

/-! ## Gate control lists (R62) -/

/-- The place of an object's lists and control words: list bytes, offset of the operational list, entries, ADMINBASE,
control register, bits of CHANGE and of LEN. -/
structure GateList where
  ctl : Nat
  list : Nat
  oper : Nat
  entries : Nat
  base : Nat
  deriving DecidableEq, Repr

/-- The lists of a port, and of a stream gate. -/
def qbvOf (t : Nat) : GateList :=
  { ctl := tpReg t 8, list := qbvList t, oper := 0x2000, entries := 1024, base := tpReg t 0x10 }
def sgOf (g : Nat) : GateList :=
  { ctl := sgReg g, list := sgList g, oper := 0x200, entries := 64, base := sgReg g + 8 }

/-- The entry of an operational list: gate states and interval. A stream gate list holds OPEN in bit 63. -/
def State.listEntry (s : State) (l : GateList) (port : Bool) (i : Nat) : Nat × Nat :=
  let w := s.reg (l.list + l.oper + 8 * i)
  (if port then fld w 63 56 else fld w 63 63, fld w 31 0)

/-- The first instant BASE + j × CYCLE, for whole j, at or after a time. -/
def firstInstant (base cycle t : Nat) : Nat :=
  if cycle = 0 ∨ t ≤ base then base else base + (t - base + cycle - 1) / cycle * cycle

/-- The start of a list at an instant: the admin list becomes the operational one. -/
def State.startList (s : State) (l : GateList) (port : Bool) (len t0 : Nat) : State × ListPos :=
  let s := (List.range l.entries).foldl (fun s i =>
    if (s.reg (l.list + 8 * i)) = s.reg (l.list + l.oper + 8 * i) then s
    else s.setReg (l.list + l.oper + 8 * i) (s.reg (l.list + 8 * i))) s
  let s := (s.setReg (l.base + 16) (s.reg l.base)).setReg (l.base + 24) (s.reg (l.base + 8))
  let (g, n) := s.listEntry l port 0
  (s, { entry := 0, until_ := t0 + min n (fld (s.reg (l.base + 8)) 29 0), gates := g, cycle0 := t0, running := true, len := len })

/-- The next interval of a running list: the next entry, the last state up to the end of the cycle, or the next cycle. -/
def State.nextInterval (s : State) (l : GateList) (port : Bool) (p : ListPos) : ListPos :=
  let cycle := fld (s.reg (l.base + 24)) 29 0
  let end_ := p.cycle0 + cycle
  if end_ ≤ p.until_ then
    let (g, n) := s.listEntry l port 0
    { p with entry := 0, cycle0 := end_, until_ := end_ + min n cycle, gates := g }
  else if p.entry + 1 < p.len then
    let (g, n) := s.listEntry l port (p.entry + 1)
    { p with entry := p.entry + 1, until_ := min (p.until_ + n) end_, gates := g }
  else { p with entry := p.len, until_ := end_ }

/-- Whether a pending list starts in the interval (from, to]. -/
def State.listDue (s : State) (l : GateList) (from_ dest : Nat) : Bool :=
  let base := (s.reg l.base).toNat
  let t := firstInstant base (fld (s.reg (l.base + 8)) 29 0) (from_ + 1)
  decide (t ≤ dest)

/-- A control word with LEN in [hi:lo]: dropped when LEN is outside 1 to `n`, or when CHANGE names no cycle time. -/
def State.listWriteBad (s : State) (l : GateList) (len : Nat) (change : Bool) : Bool :=
  decide (len = 0) || decide (l.entries < len) || (change && decide (fld (s.reg (l.base + 8)) 29 0 < 1000))

/-- A write of QBVCTL. -/
def State.qbvWrite (s : State) (t : Nat) (w : Word) : State :=
  let len := fld w 42 32
  if s.listWriteBad (qbvOf t) len (bitOf w 62) then s.hubErr
  else
    let s := s.setReg (tpReg t 8) (setFld (setFld (setFld w 62 61 0) 52 43 0) 31 0 0)
    if bitOf w 62 then s.updHub (fun h => { h with qbvPending := h.qbvPending.put t true }) else s

def execQbvChange (port : Nat) (w : Word) (s : State) : Host.Outcome State Fault Refusal := .next (s.qbvWrite port w)

/-- The admin list of a port becomes operational. -/
def State.qbvActivate (s : State) (t : Nat) : State :=
  if s.hub.qbvPending.val t false then
    let t0 := firstInstant (s.reg (tpReg t 0x10)).toNat (fld (s.reg (tpReg t 0x18)) 29 0) 0
    let cycle := fld (s.reg (tpReg t 0x18)) 29 0
    let now := s.gptp 0
    let start := if now < t0 ∨ cycle = 0 then t0 else now - (now - t0) % cycle
    let (s, p) := s.startList (qbvOf t) true (fld (s.reg (tpReg t 8)) 42 32) start
    s.updHub (fun h => { h with qbvPending := h.qbvPending.del t, qbvPos := h.qbvPos.put t p })
  else s

def execQbvListActivate (port : Nat) (s : State) : Host.Outcome State Fault Refusal := .next (s.qbvActivate port)

/-- Frames of a port that the guard band has held back from a window that now closes (R62 GUARDHOLD). -/
def State.guardHeld (s : State) (t closes : Nat) : Nat :=
  (s.hub.egFrames.filter (fun f => decide (esPort f.cfg = t) && nbit closes (esTc f.cfg))).length

/-- The interval of a port's list ends. -/
def State.qbvNext (s : State) (t : Nat) : State :=
  let p := s.hub.qbvPos.val t ListPos.reset
  if p.running then
    let q := s.nextInterval (qbvOf t) true p
    let held := if bitOf (s.reg (tpReg t 8)) 63 then s.guardHeld t (p.gates - (p.gates &&& q.gates)) else 0
    let s := s.setReg (tpReg t tpGuardHold) (s.reg (tpReg t tpGuardHold) + ofN held)
    s.updHub (fun h => { h with qbvPos := h.qbvPos.put t q })
  else s

def execQbvGateIntervalEnd (port : Nat) (s : State) : Host.Outcome State Fault Refusal := .next (s.qbvNext port)

/-- A write of word 0 of a stream gate's control entry. -/
def State.streamGateWrite (s : State) (g : Nat) (w : Word) : State :=
  let len := fld w 38 32
  if s.listWriteBad (sgOf g) len (bitOf w 62) then s.hubErr
  else
    let s := s.setReg (sgReg g) (setFld (setFld (setFld w 62 61 0) 59 39 0) 31 0 0)
    if bitOf w 62 then s.updHub (fun h => { h with sgPending := h.sgPending.put g true }) else s

def execStreamGateChange (gate : Nat) (w : Word) (s : State) : Host.Outcome State Fault Refusal :=
  .next (s.streamGateWrite gate w)

/-- The admin list of a stream gate becomes operational. -/
def State.streamGateActivate (s : State) (g : Nat) : State :=
  if s.hub.sgPending.val g false then
    let t0 := (s.reg (sgReg g + 8)).toNat
    let cycle := fld (s.reg (sgReg g + 16)) 29 0
    let now := s.gptp 0
    let start := if now < t0 ∨ cycle = 0 then t0 else now - (now - t0) % cycle
    let (s, p) := s.startList (sgOf g) false (fld (s.reg (sgReg g)) 38 32) start
    s.updHub (fun h => { h with sgPending := h.sgPending.del g, sgPos := h.sgPos.put g p })
  else s

def execStreamGateListActivate (gate : Nat) (s : State) : Host.Outcome State Fault Refusal := .next (s.streamGateActivate gate)

/-- The interval of a stream gate's list ends. -/
def State.streamGateNext (s : State) (g : Nat) : State :=
  let p := s.hub.sgPos.val g ListPos.reset
  if p.running then s.updHub (fun h => { h with sgPos := h.sgPos.put g (s.nextInterval (sgOf g) false p) }) else s

def execStreamGateIntervalEnd (gate : Nat) (s : State) : Host.Outcome State Fault Refusal := .next (s.streamGateNext gate)

/-! ## gPTP (R22, R62) -/

/-- `GPTP_TIME_LATCH`: a read of TIME latches the domain's time. -/
def execGptpTimeLatch (domain : Nat) (s : State) : Host.Outcome State Fault Refusal := .next (s.latchTime domain)

/-- `GPTP_SYNC_TRANSMIT`: the grandmaster sends Sync and Follow_Up, two frames, on every port in service. TXFRAMES counts every
frame that leaves a port: a DESIGN CHOICE (assumption 108). -/
def State.gptpSync (s : State) (d : Nat) : State :=
  if bitOf (s.reg (domainReg d)) 63 && s.isGm d then
    let ports := (List.range 4).filter (fun t => bitOf (s.reg (tpReg t 0)) 63)
    let s := ports.foldl (fun s t => (s.tsnCount (tpReg t tpTxFrames)).tsnCount (tpReg t tpTxFrames)) s
    s.updHub (fun h => { h with out := h.out ++ ports.map (fun t => Output.gptpSync t d (s.gptp d)) })
  else s

def execGptpSyncTransmit (domain : Nat) (s : State) : Host.Outcome State Fault Refusal := .next (s.gptpSync domain)

/-! ## Writes of TSN objects (R62) -/

/-- A write of a register of port `t` at offset `r`. -/
def State.portWrite (s : State) (t r : Nat) (w : Word) : State :=
  let pa := tpReg t r
  if r = 0 then if 3 < fld w 62 60 then s.hubErr else s.setReg pa w
  else if r = 8 then s.qbvWrite t w
  else if r = 0x10 then s.setReg pa w
  else if r = 0x18 then
    if fld w 29 0 < 1000 ∨ 1000000000 < fld w 29 0 then s.hubErr else s.setReg pa (ofN (fld w 29 0))
  else if r = 0x20 ∨ r = 0x28 ∨ (0x100 ≤ r ∧ r < 0x138) then s
  else s.hubErr

/-- A write of a gate control list entry of a port or of a stream gate. -/
def State.listWrite (s : State) (pa : Nat) (port oper : Bool) (w : Word) : State :=
  let n := fld w 31 0
  if oper then s.hubErr
  else if n % 8 ≠ 0 ∨ (port ∧ n = 0) then s.hubErr
  else s.setReg pa (if port then setFld w 55 32 0 else setFld w 62 32 0)

/-- A write of a flow meter. A write with AWARE set is refused: it disables the meter, leaves the other fields, and counts in
HUBERR (assumption 99). With COUPLE set too the write is dropped whole, and an enabled meter stays enabled: a DESIGN CHOICE
(assumption 108). -/
def State.meterWrite (s : State) (m r : Nat) (w : Word) : State :=
  let pa := meterReg m + r
  if r = 0 then
    if bitOf w 59 then s.hubErr
    else if bitOf w 60 then (s.setReg pa (setFld (s.reg pa) 63 63 0)).hubErr
    else
      let s := s.setReg pa (setFld w 58 32 0)
      if bitOf w 61 then s else s.updHub (fun h => { h with meterRed := h.meterRed.put m false })
  else if r = 8 then s.setReg pa w
  else if r = 16 then s.setReg pa (ofN (fld w 31 0))
  else s

/-- A write of a gPTP domain's word. -/
def State.domainWrite (s : State) (d r : Nat) (w : Word) : State :=
  let pa := domainReg d + r
  if r = 0 then
    if (d = 0 ∧ fld w 61 55 ≠ 0) ∨ (d = 1 ∧ fld w 61 55 = 0) then s.hubErr else s.setReg pa (setFld w 54 16 0)
  else if r = 8 then s.setReg pa (ofN (fld w 7 0))
  else s

/-- A write of a TSN object by its offset. -/
def State.tsnWrite (s : State) (o : Nat) (w : Word) : State :=
  let pa := tsnBase + o
  if o < 0x4000 then s.portWrite (o / 0x1000) (o % 0x1000) w
  else if 0x10000 ≤ o ∧ o < 0x20000 then s.listWrite pa true (decide (0x2000 ≤ (o - 0x10000) % 0x4000)) w
  else if 0x20000 ≤ o ∧ o < 0x22000 then
    s.setReg pa (if o % 16 = 0 then w else setFld (setFld w 45 36 0) 15 0 0)
  else if 0x22000 ≤ o ∧ o < 0x26000 then
    let g := (o - 0x22000) / 64
    match o % 64 / 8 with
    | 0 => s.streamGateWrite g w
    | 1 => s.setReg pa w
    | 2 => if fld w 29 0 < 1000 ∨ 1000000000 < fld w 29 0 then s.hubErr else s.setReg pa (ofN (fld w 29 0))
    | _ => s
  else if 0x26000 ≤ o ∧ o < 0x66000 then s.listWrite pa false (decide (0x200 ≤ (o - 0x26000) % 0x400)) w
  else if 0x66000 ≤ o ∧ o < 0x68000 then s.meterWrite ((o - 0x66000) / 32) (o % 32) w
  else if 0x68000 ≤ o ∧ o < 0x6A000 then
    if o % 32 = 0 then
      let r := (o - 0x68000) / 32
      if 31 < fld w 61 56 then s.hubErr
      else
        let s := s.setReg pa (setFld (setFld w 55 41 0) 31 16 0)
        if bitOf w 63 then s else s.updHub (fun h => { h with recov := h.recov.del r })
    else s
  else if 0x6A000 ≤ o ∧ o < 0x6A080 then s.domainWrite ((o - 0x6A000) / 64) (o % 64) w
  else if 0x70000 ≤ o ∧ o < 0x78000 then s
  else s.hubErr

end Sys2Proof.Machine
end

