-- ==== Sys2Proof/Machine/Egress.lean ====
section
/-! DEFINITION. The egress engine: stream registers, the result view, the decision at a tick, and frames (R54 to R57, R467),
with the digest of a redundant pair (R426). -/

namespace Sys2Proof.Machine

/-- ESHDR.e words 0 and 1. -/
def State.eshdr (s : State) (e i : Nat) : Word := s.reg (escfgReg e + 8 + 8 * i)

/-- Bytes of the result view. -/
def Hub.resultBytes (h : Hub) : Nat := bufBytes - h.resultStart

/-- A write of ESCFG.e (R54): EN set from 0 starts the stream's counters. -/
def State.escfgWrite (s : State) (e : Nat) (w : Word) : State :=
  let w := setFld w 0 0 0
  let old := s.escfg e
  let split := s.hub.splitPending.getD s.hub.split
  let bad := decide (esLen w = 0) || decide (1500 < esLen w)
    || decide (bufBytes - max split s.hub.split * 65536 < esOff w + 8 + esLen w) || decide (esLen w ≤ esStatOff w)
  let frozen := esEn old && !decide (esPort w = esPort old ∧ esTc w = esTc old ∧ esOff w = esOff old
    ∧ esLen w = esLen old ∧ esSeq w = esSeq old)
  if esEn w && (bad || frozen) then s.hubErr
  else if frozen then s.hubErr
  else
    let s := s.setReg (escfgReg e) w
    if esEn w && !esEn old then
      s.updHub (fun h => { h with egStat := (h.egStat.del (2 * e)).del (2 * e + 1), egSeq := h.egSeq.del e })
    else s

def execEscfgWrite (stream : Nat) (w : Word) (s : State) : Host.Outcome State Fault Refusal := .next (s.escfgWrite stream w)

/-- A write of a word of ESHDR.e (R55). -/
def State.eshdrWrite (s : State) (e i : Nat) (w : Word) : State :=
  if i = 1 then
    if bitOf w 16 ∧ (fld w 11 0 = 0 ∨ fld w 11 0 = 0xFFF) then s.hubErr
    else s.setReg (escfgReg e + 16) (ofN (fld w 16 0))
  else s.setReg (escfgReg e + 8) w

def execEshdrWrite (stream word : Nat) (w : Word) (s : State) : Host.Outcome State Fault Refusal :=
  .next (s.eshdrWrite stream word w)

/-- A write to the result view (R56, R58): it lands in the back buffer and sets W of the streams whose stamp word it
covers in part. -/
def State.resultWrite (s : State) (off : Nat) (bs : List Byte) : State :=
  if s.hub.resultBytes < off + bs.length then s.hubErr
  else
    let hit := (List.range 256).filter (fun e =>
      decide (off < esOff (s.escfg e) + 8 ∧ esOff (s.escfg e) < off + bs.length))
    s.updHub (fun h =>
      let h := h.imageWrite h.resBack (h.resultStart + off) bs
      { h with wbits := hit.foldl (fun m e => m.put e true) h.wbits })

def execResultViewWrite (off : Nat) (bytes : List Byte) (s : State) : Host.Outcome State Fault Refusal :=
  .next (s.resultWrite off bytes)

/-! ## Status entries (R467) -/

/-- The two words of a stream's status entry. -/
def Hub.egWord (h : Hub) (e i : Nat) : Nat := (h.egStat.val (2 * e + i) 0).toNat

/-- Adds one to a 32-bit wrapping counter: 0 STALECNT, 1 WINMISS, 2 SENT. -/
def Hub.egCount (h : Hub) (e k : Nat) : Hub :=
  let i := 2 * e + k / 2
  let w := h.egStat.val i 0
  let (hi, lo) := if k % 2 = 0 then (31, 0) else (63, 32)
  { h with egStat := h.egStat.put i (setFld w hi lo (fld w hi lo + 1)) }

/-- Sets LASTAGE. -/
def Hub.egAge (h : Hub) (e age : Nat) : Hub :=
  { h with egStat := h.egStat.put (2 * e + 1) (setFld (h.egStat.val (2 * e + 1) 0) 63 32 age) }

/-! ## The decision of a tick (R56) -/

/-- Bytes of the back result buffer. -/
def Hub.backBytes (h : Hub) (off n : Nat) : List Byte := (List.range n).map (fun i => h.resultByte (off + i))

/-- The decision for stream `e` with configuration `w` at the tick that closes scan `n`: stamp word, age, whether it is
stale, and the payload. -/
structure Decision where
  stamp : Nat
  age : Nat
  stale : Bool
  payload : List Byte
  deriving DecidableEq, Repr

def Hub.decideStream (h : Hub) (e : Nat) (w : Word) (n : Nat) : Decision :=
  let stamp := ofBytes (h.backBytes (esOff w) 8)
  let age := (n + 2 ^ 32 - stamp / 65536 % 2 ^ 32) % 2 ^ 32
  let from_ := h.resBack * bufBytes + h.resultStart + esOff w
  let bad := h.imageBad.any (fun k => decide (8 * k < from_ + 8 + esLen w ∧ from_ < 8 * k + 8))
  let stale := bad || !h.wbits.val e false || decide (esStale w < age)
  { stamp := stamp, age := age, stale := stale
    payload := if stale then putBytes (List.replicate (esLen w) 0) (esStatOff w) [BitVec.ofNat 8 (esStatVal w)]
      else h.backBytes (esOff w + 8) (esLen w) }

/-- Whether this package is the standby of a pair (R57, R425). -/
def State.standby (s : State) : Bool := bitOf (s.reg pairBase) 63 && !bitOf (s.reg pairBase) 62

/-- Frames of the scan before that no window could carry are dropped (R57). -/
def State.dropFrames (s : State) : State :=
  let s := s.hub.egFrames.foldl (fun s f =>
    (s.tsnCount (tpReg (esPort f.cfg) tpWinMiss)).updHub (fun h => h.egCount f.stream 1)) s
  s.updHub (fun h => { h with egFrames := [] })

/-- The enabled streams, in ascending number. -/
def State.enabledStreams (s : State) : List Nat := (List.range 256).filter (fun e => esEn (s.escfg e))

/-- What the egress engine does at the tick that closes scan `n`: the decisions for the enabled streams on the buffer that
was written, the digest of a pair, and the swap. -/
def State.egressTick (s : State) (n : Nat) : State :=
  let s := s.dropFrames
  let ds := s.enabledStreams.map (fun e => (e, s.hub.decideStream e (s.escfg e) n))
  let s := ds.foldl (fun s d =>
    let f : EgFrame := { stream := d.1, scan := n, payload := d.2.payload, cfg := s.escfg d.1, hdr0 := s.eshdr d.1 0
                         hdr1 := s.eshdr d.1 1 }
    s.updHub (fun h =>
      let h := h.egAge d.1 d.2.age
      let h := if d.2.stale then h.egCount d.1 0 else h
      { h with egFrames := h.egFrames ++ [f] })) s
  let s := if bitOf (s.reg pairBase) 63 then
      let digest := Config.sm3 (ds.flatMap (fun d => bytesOf 8 d.2.stamp ++ d.2.payload))
      s.updHub (fun h => { h with pair := SMap.put (h.pair.filter (fun e => decide (n ≤ e.1 + 16))) n digest })
    else s
  s.updHub (fun h => { h with resBack := 1 - h.resBack, wbits := [] })

/-! ## Frames (R55, R57) -/

/-- The CRC-32 of IEEE 802.3, bit by bit. -/
def fcsByte (c b : Nat) : Nat :=
  (List.range 8).foldl (fun c _ => if c % 2 = 1 then (c / 2) ^^^ 0xEDB88320 else c / 2) (c ^^^ b)

/-- The FCS of a frame. -/
def fcsOf (l : List Byte) : Nat := (l.foldl (fun c b => fcsByte c b.toNat) 0xFFFFFFFF) ^^^ 0xFFFFFFFF

/-- Big-endian bytes. -/
def netBytes (n x : Nat) : List Byte := (bytesOf n x).reverse

/-- A frame as it leaves, with padding to 60 bytes and FCS. -/
def State.frameBytes (s : State) (f : EgFrame) : List Byte :=
  let tag := if bitOf f.hdr1 16 then
      netBytes 2 0x8100 ++ netBytes 2 (fld f.hdr1 15 0)
    else []
  let rtag := if esSeq f.cfg then netBytes 2 0xF1C1 ++ netBytes 2 0 ++ netBytes 2 (s.hub.egSeq.val f.stream 0) else []
  let l := netBytes 6 (fld f.hdr0 47 0) ++ netBytes 6 (fld (s.reg (tpReg (esPort f.cfg) 0)) 47 0) ++ tag ++ rtag
    ++ netBytes 2 (fld f.hdr0 63 48) ++ f.payload
  let l := l ++ List.replicate (60 - l.length) 0
  l ++ bytesOf 4 (fcsOf l)

/-- Nanoseconds that `n` bytes, preamble included, take on a port. -/
def State.wireNs (s : State) (t n : Nat) : Nat :=
  let tenths := match fld (s.reg (tpReg t 0)) 62 60 with
    | 0 => 10
    | 1 => 25
    | 2 => 100
    | _ => 250
  ((n + 8) * 80 + tenths - 1) / tenths

/-- Whether a class's gate stays open for `need` ns from now. -/
def State.windowFrom (s : State) (t c now need : Nat) (p : ListPos) : Nat → Bool
  | 0 => true
  | fuel + 1 =>
    nbit p.gates c && (decide (now + need ≤ p.until_) || s.windowFrom t c now need (s.nextInterval (qbvOf t) true p) fuel)

/-- The instant at which a port's pending list starts (R62). -/
def State.pendingStart (s : State) (t : Nat) : Option Nat :=
  if s.hub.qbvPending.val t false then
    some (firstInstant (s.reg (tpReg t 0x10)).toNat (fld (s.reg (tpReg t 0x18)) 29 0) (s.gptp 0))
  else none

/-- Whether the list that now stands keeps a class's gate open for `need` ns from now; before a port's first list, INITGATES
does. -/
def State.standsOpen (s : State) (t c need : Nat) : Bool :=
  let p := s.hub.qbvPos.val t ListPos.reset
  if !p.running then nbit (fld (s.reg (tpReg t 8)) 60 53) c
  else s.windowFrom t c (s.gptp 0) need p 2050

/-- Whether port `t` has a window of class `c` that can carry a frame of `n` bytes now: the window of a list that starts
meanwhile counts with the one before it (R57, R62). -/
def State.windowOpen (s : State) (t c n : Nat) : Bool :=
  let need := s.wireNs t n
  let now := s.gptp 0
  if !bitOf (s.reg (tpReg t 8)) 63 then true
  else match s.pendingStart t with
    | some t0 =>
      if now + need ≤ t0 then s.standsOpen t c need
      else
        let (u, q) := s.startList (qbvOf t) true (fld (s.reg (tpReg t 8)) 42 32) t0
        s.standsOpen t c (t0 - now) && u.windowFrom t c t0 (now + need - t0) q 2050
    | none => s.standsOpen t c need

/-- Whether a frame can leave now: its port is in service and free, and a window carries it. A frame of a port that is not in
service waits, and is counted in WINMISS at the next tick (assumption 99). Frames wait for a pair's check at the tick (R426). -/
def State.canSend (s : State) (f : EgFrame) : Bool :=
  let t := esPort f.cfg
  bitOf (s.reg (tpReg t 0)) 63 && s.hub.pairDue.isNone && decide (s.hub.portBusy.val t 0 ≤ s.gptp 0)
  && s.windowOpen t (esTc f.cfg) (s.frameBytes f).length

/-- The frame of a port that leaves next: of the highest class, and in stream order within a class. -/
def State.nextFrame (s : State) (t : Nat) : Option EgFrame :=
  let l := s.hub.egFrames.filter (fun f => decide (esPort f.cfg = t))
  (List.range 8).reverse.findSome? (fun c => l.find? (fun f => decide (esTc f.cfg = c) && s.canSend f))

/-- `EGRESS_FRAME_SEND` (R57): the decided frame of a stream leaves; on a standby it is only counted. -/
def State.sendFrame (s : State) (e : Nat) : State :=
  match s.hub.egFrames.find? (fun f => decide (f.stream = e)) with
  | none => s
  | some f =>
    if !s.canSend f then s
    else
      let t := esPort f.cfg
      let bytes := s.frameBytes f
      let quiet := s.standby
      let busy := s.gptp 0 + s.wireNs t (bytes.length + 12)
      let s := if quiet then s else s.tsnCount (tpReg t tpTxFrames)
      s.updHub (fun h =>
        let h := h.egCount e 2
        { h with
          egFrames := h.egFrames.filter (fun g => !decide (g.stream = e))
          egSeq := h.egSeq.put e ((h.egSeq.val e 0 + 1) % 65536)
          portBusy := h.portBusy.put t busy
          out := if quiet then h.out else h.out ++ [.frame t bytes] })

def execEgressFrameSend (stream : Nat) (s : State) : Host.Outcome State Fault Refusal := .next (s.sendFrame stream)

/-- `SAFE_FRAMES` (R428): in the safe report state every TSN port sends its frames of the safe table; their contents stand
in the signed image, and none are sent when no image passed step 2. -/
def State.safeFrames (s : State) : State :=
  match s.hub.safe with
  | some (_, _, image) =>
    if !image then s
    else s.updHub (fun h => { h with out := h.out ++ (List.range 4).map (fun t => Output.safeFrame t) })
  | none => s

def execSafeFrames (s : State) : Host.Outcome State Fault Refusal := .next s.safeFrames

end Sys2Proof.Machine
end

