-- ==== Sys2Proof/Machine/Sensors.lean ====
section
/-! DEFINITION. Sensor streaming ports: frames, Skein records and their checks, staging, decode lanes and the slow lane, and
the rows that enter the Loom (R27 to R37, R44, R60). -/

namespace Sys2Proof.Machine

/-! ## Ports and counters (R60) -/

/-- Sensor port `p`. -/
def State.sensor (s : State) (p : Nat) : SensorPort := s.hub.sensors.val p SensorPort.reset

/-- Replaces a sensor port. -/
def State.setSensor (s : State) (p : Nat) (x : SensorPort) : State :=
  s.updHub (fun h => { h with sensors := h.sensors.put p x })

/-- Adds to counter `i` of a port, which saturates. -/
def SensorPort.count (x : SensorPort) (i n : Nat) : SensorPort :=
  { x with counters := x.counters.put i (min (2 ^ 32 - 1) (x.counters.val i 0 + n)) }

/-- Numbers of the counters. -/
def skDecodeError : Nat := 11
def skSlowFull : Nat := 12
def skSlowStale : Nat := 13
def skLostRows : Nat := 14
def skFrameDrop : Nat := 15
def skFcsErr : Nat := 16
def skOverLen : Nat := 17
def skBadType : Nat := 18
def skPauseSent : Nat := 19
def skRecords : Nat := 20

/-- SPCFG of a port and its fields. -/
def State.spcfg (s : State) (p : Nat) : Word := s.reg (spBase p)
def spType (w : Word) : Nat := fld w 47 32
def spPause (w : Word) : Bool := bitOf w 31
def spSlow (w : Word) : Nat := fld w 15 8

/-! ## Skein headers (R29) -/

/-- Fields of a record header. -/
def skMagic (l : List Byte) : Nat := ofBytes (l.take 2)
def skField (l : List Byte) (o n : Nat) : Nat := ofBytes ((l.drop o).take n)
def skVersion (l : List Byte) : Nat := skField l 2 1 / 16
def skCodec (l : List Byte) : Nat := skField l 2 1 % 16
def skStream (l : List Byte) : Nat := skField l 4 2
def skWidth (l : List Byte) : Nat := skField l 6 2
def skRows (l : List Byte) : Nat := skField l 8 2
def skPixfmt (l : List Byte) : Nat := skField l 10 1
def skChannels (l : List Byte) : Nat := skField l 11 1
def skLine (l : List Byte) : Nat := skField l 12 4
def skSampled (l : List Byte) : Nat := skField l 16 8
def skPaylen (l : List Byte) : Nat := skField l 24 4

/-- Bytes of a sample's container, and bits of a sample. -/
def containerBytes (fmt : Nat) : Nat := if fmt = 0 then 1 else 2
def sampleBits (fmt : Nat) : Nat := if fmt = 0 then 8 else if fmt = 1 then 12 else 16

/-- The decoded size of a record. -/
def skDecoded (l : List Byte) : Nat := skRows l * skWidth l * skChannels l * containerBytes (skPixfmt l)

/-- Bytes from a record's header to the place of the next one (R28). -/
def skSpan (l : List Byte) : Nat := (32 + skPaylen l + 7) / 8 * 8

/-! ## Stamps (R37) -/

/-- The scan period in ns. -/
def State.periodNs (s : State) : Nat := fld (s.reg scancfgReg) 26 0

/-- The scan whose interval contains a time of domain 0. -/
def State.scanOf (s : State) (t : Nat) : Nat :=
  let h := s.hub
  let p := s.periodNs
  if p = 0 then h.scan
  else if h.lastTick ≤ t then (h.scan + (t - h.lastTick) / p) % 2 ^ 32
  else (h.scan + 2 ^ 32 - (h.lastTick - t + p - 1) / p % 2 ^ 32) % 2 ^ 32

/-- STAMPSRC and STALE of a port's governing exit. -/
def State.stampSrc (s : State) (p : Nat) : Bool :=
  match s.governing p with
  | some i => lxArrival (s.lxcfg i)
  | none => false
def State.slowStale (s : State) (p : Nat) : Nat :=
  match s.governing p with
  | some i => lxStale (s.lxcfg i)
  | none => 0

/-! ## Frames (R27, R28, R33) -/

/-- The EtherType and payload of an Ethernet II frame with at most one C-tag. -/
def sensorParts (f : List Byte) : Nat × List Byte :=
  if netAt f 12 2 = 0x8100 then (netAt f 16 2, f.drop 18) else (netAt f 12 2, f.drop 14)

/-- The rows of every record that a payload lists. -/
def payloadRows (l : List Byte) : Nat → Nat
  | 0 => 0
  | fuel + 1 => if l.length < 32 ∨ skMagic l ≠ 0x4B53 then 0 else skRows l + payloadRows (l.drop (skSpan l)) fuel

/-- Bytes of a receive FIFO: four frames of maximum size, FCS included (R33). -/
def fifoBytes : Nat := 4 * 9600

/-- `SENSOR_FRAME_RECEIVE`: a frame without its FCS, and whether the FCS was right. A frame that is both damaged and too long
counts in FCSERR alone, and a PAUSE frame, which the port ignores, counts in BADTYPE (assumption 95). -/
def State.sensorReceive (s : State) (p : Nat) (frame : List Byte) (fcsOk : Bool) : State :=
  let x := s.sensor p
  let (etype, payload) := sensorParts frame
  if !fcsOk then s.setSensor p (x.count skFcsErr 1)
  else if 9596 < frame.length then s.setSensor p (x.count skOverLen 1)
  else if etype ≠ spType (s.spcfg p) then s.setSensor p (x.count skBadType 1)
  else if fifoBytes < (x.fifo.map (·.size)).sum + frame.length + 4 then
    s.setSensor p ((x.count skFrameDrop 1).count skLostRows (payloadRows payload 300))
  else s.setSensor p { x with
    fifo := x.fifo ++ [{ rest := payload, arrived := s.gptp 0, scan := s.hub.scan, size := frame.length + 4 }] }

def execSensorFrameReceive (port : Nat) (frame : List Byte) (fcsOk : Bool) (s : State) : Host.Outcome State Fault Refusal :=
  .next (s.sensorReceive port frame fcsOk)

/-! ## Checks before allocation (R32) -/

/-- What the front end does with a record. -/
inductive Check
  | pass
  /-- a zero MAGIC or no room for a header ends the frame's list (R28) -/
  | done
  /-- rejected for the reason of a counter; `skip` tells that the next record is looked at -/
  | reject (reason : Nat) (skip : Bool)
  deriving DecidableEq, Repr

/-- The streams of a port's table. -/
def State.streamKnown (s : State) (p n : Nat) : Bool :=
  (List.range 16).any (fun i =>
    let w := s.reg (spBase p + 0x40 + 8 * i)
    bitOf w 63 && decide (fld w 15 0 = n))

/-- The steps of R32 in their order. Fewer than 32 bytes left after a right MAGIC are no header whose HCRC could match
(assumption 95). -/
def State.checkRecord (s : State) (p : Nat) (l : List Byte) (arrived : Nat) : Check :=
  let size := skDecoded l
  let least := skRows l * skChannels l * (1 + (skWidth l + 7) / 8)
  let period := s.periodNs
  if l = [] ∨ skMagic l = 0 then .done
  else if skMagic l ≠ 0x4B53 then .reject 0 false
  else if l.length < 32 ∨ crc16 0xFFFF ((l.take 30).map BitVec.toNat) ≠ skField l 30 2 then .reject 1 false
  else if skVersion l ≠ 1 then .reject 2 true
  else if 1 < skCodec l then .reject 3 true
  else if 2 < skPixfmt l ∨ skChannels l = 0 ∨ 4 < skChannels l then .reject 4 true
  else if skWidth l = 0 ∨ 8192 < skWidth l ∨ skRows l = 0 ∨ 64 < skRows l then .reject 5 true
  else if l.length < 32 + skPaylen l then .reject 6 false
  else if 65536 < size then .reject 5 true
  else if skCodec l = 0 ∧ skPaylen l ≠ size then .reject 7 true
  else if skCodec l = 1 ∧ skPaylen l < least then .reject 8 true
  else if !s.streamKnown p (skStream l) then .reject 9 true
  else if !s.stampSrc p && (decide (arrived + period < skSampled l) || decide (skSampled l + 256 * period < arrived)) then
    .reject 10 true
  else .pass

/-- `SKEIN_RECORD_CHECK`: the front end looks at the next record of the oldest frame. A record that waits for staging holds
the frames behind it. -/
def State.recordCheck (s : State) (p : Nat) : State :=
  let x := s.sensor p
  match x.fifo with
  | [] => s
  | f :: rest =>
    let l := f.rest
    if x.records.any (fun r => r.started.isNone) then s
    else
      let next := { x with fifo := { f with rest := l.drop (skSpan l) } :: rest }
      match s.checkRecord p l f.arrived with
      | .done => s.setSensor p { x with fifo := rest }
      | .reject k skip =>
        let y := if skip then next else { x with fifo := rest }
        s.setSensor p ((y.count k 1).count skLostRows (skRows l))
      | .pass =>
        let r : SkRecord := { header := l.take 32, payload := (l.drop 32).take (skPaylen l)
                              stamp := if s.stampSrc p then f.scan else s.scanOf (skSampled l)
                              arrived := f.arrived, slowMult := spSlow (s.spcfg p)
                              place := fld (s.reg (spBase p + 8)) 15 0, started := none, runs := [], ended := none }
        s.setSensor p ({ next with records := x.records ++ [r] }.count skRecords 1)

def execSkeinRecordCheck (port : Nat) (s : State) : Host.Outcome State Fault Refusal := .next (s.recordCheck port)

/-! ## Staging (R33, R44) -/

/-- The ranges of a port's staging in use: of records in their lanes and in the slow lane, and of rows on their way into the
array. The first 64 KiB of the 128 stand in element (2p, 0), the others in element (2p + 1, 0). -/
def State.stagedRuns (s : State) (p : Nat) : List (Nat × Nat) :=
  let x := s.sensor p
  x.records.flatMap (·.runs) ++ x.slowq.flatMap (·.runs)
  ++ (s.hub.feed.val (2 * p) []).flatMap (·.runs) ++ (s.hub.feed.val (2 * p + 1) []).flatMap (·.runs)

/-- Bytes of a port's staging in use. -/
def State.staged (s : State) (p : Nat) : Nat := ((s.stagedRuns p).map (·.2)).sum

/-- The parts of free ranges outside a used one. -/
def cutRun (free : List (Nat × Nat)) (u : Nat × Nat) : List (Nat × Nat) :=
  free.flatMap (fun f =>
    let lo := max f.1 u.1
    let hi := min (f.1 + f.2) (u.1 + u.2)
    if lo < hi then [(f.1, lo - f.1), (hi, f.1 + f.2 - hi)].filter (fun r => decide (0 < r.2)) else [f])

/-- The first `n` bytes of ranges. -/
def takeRuns : Nat → List (Nat × Nat) → List (Nat × Nat)
  | _, [] => []
  | n, r :: rs => if n = 0 then [] else if n ≤ r.2 then [(r.1, n)] else r :: takeRuns (n - r.2) rs

/-- `n` bytes of ranges from their byte `lo` on. -/
def subRuns : List (Nat × Nat) → Nat → Nat → List (Nat × Nat)
  | [], _, _ => []
  | r :: rs, lo, n => if r.2 ≤ lo then subRuns rs (lo - r.2) n else takeRuns n ((r.1 + lo, r.2 - lo) :: rs)

/-- The lowest free `n` bytes of a port's staging (assumption 96). -/
def State.freeRuns (s : State) (p n : Nat) : List (Nat × Nat) :=
  takeRuns n ((s.stagedRuns p).foldl cutRun [(0, 65536), (65536, 65536)])

/-- The element that holds a range of a port's staging, and the offset in its memory. -/
def stagePlace (p : Nat) (o : Nat) : Nat × Nat := (16 * (2 * p + o / 65536), o % 65536)

/-- Bytes of staging. -/
def State.stageRead (s : State) (p : Nat) (runs : List (Nat × Nat)) : List Byte :=
  runs.flatMap (fun r => let e := stagePlace p r.1; memBytes (s.element e.1).mem e.2 r.2)

/-- Whether one of them stands in an uncorrectable word (R401). -/
def State.stageError (s : State) (p : Nat) (runs : List (Nat × Nat)) : Bool :=
  runs.any (fun r => let e := stagePlace p r.1; (s.element e.1).error e.2 r.2)

/-- Writes bytes into staging. -/
def State.stagePut (s : State) (p : Nat) : List (Nat × Nat) → List Byte → State
  | [], _ => s
  | r :: rs, bs =>
    let e := stagePlace p r.1
    (s.setElement e.1 ((s.element e.1).write e.2 (bs.take r.2))).stagePut p rs (bs.drop r.2)

/-- PAUSE by the free staging (R44). -/
def State.pauseCheck (s : State) (p : Nat) : State :=
  let x := s.sensor p
  let free := 131072 - s.staged p
  let send := fun (q : Nat) (on : Bool) =>
    (s.setSensor p ({ x with paused := on }.count skPauseSent 1)).updHub (fun h => { h with out := h.out ++ [.pause p q] })
  if spPause (s.spcfg p) && !x.paused && decide (free < 19200) then send 0xFFFF true
  else if x.paused && decide (38400 ≤ free) then send 0 false
  else s

/-- A write of SPCFG: a SLOWMULT below 8 refuses it; CLR clears the counters; a 1 clears CFGERR.
PAUSEEN set with little staging free sends PAUSE at once (R44). -/
def State.spcfgWrite (s : State) (p : Nat) (w : Word) : State :=
  let old := s.spcfg p
  if spSlow w < 8 then s.setReg (spBase p) (setFld old 0 0 1)
  else
    let new := ofN (spType w * 2 ^ 32 + b2n (spPause w) * 2 ^ 31 + spSlow w * 256 + b2n (bitOf old 0 && !bitOf w 0))
    let s := s.setReg (spBase p) new
    (if bitOf w 1 then s.setSensor p { s.sensor p with counters := [] } else s).pauseCheck p

def execSpcfgWrite (port : Nat) (w : Word) (s : State) : Host.Outcome State Fault Refusal := .next (s.spcfgWrite port w)

def execSpcfgClr (port : Nat) (s : State) : Host.Outcome State Fault Refusal :=
  .next (s.setSensor port { s.sensor port with counters := [] })

/-- The record that waits takes its staging, and its decode begins. -/
def allocFirst (now : Nat) (runs : List (Nat × Nat)) : List SkRecord → List SkRecord
  | [] => []
  | r :: rs =>
    if r.started.isSome then r :: allocFirst now runs rs else { r with started := some now, runs := runs } :: rs

/-- `STAGING_ALLOCATE`. -/
def State.stagingAllocate (s : State) (p : Nat) : State :=
  let x := s.sensor p
  match x.records.find? (fun r => r.started.isNone) with
  | none => s
  | some r =>
    let n := skDecoded r.header
    if s.staged p + n ≤ 131072 then
      (s.setSensor p { x with records := allocFirst s.now (s.freeRuns p n) x.records }).pauseCheck p
    else s.pauseCheck p

def execStagingAllocate (port : Nat) (s : State) : Host.Outcome State Fault Refusal := .next (s.stagingAllocate port)

/-! ## Codecs (R30, R31) -/

/-- The bits of bytes, the most significant of each byte first. -/
def bitsOf (l : List Byte) : List Bool := l.flatMap (fun b => (List.range 8).reverse.map (fun i => b.getLsbD i))

/-- The next `n` bits as a number. -/
def takeBits : Nat → Nat → List Bool → Option (Nat × List Bool)
  | 0, acc, l => some (acc, l)
  | _ + 1, _, [] => none
  | n + 1, acc, b :: l => takeBits n (2 * acc + b2n b) l

/-- One bits up to 24; the terminating zero is consumed, none follows 24 of them. -/
def unary : Nat → Nat → List Bool → Option (Nat × List Bool)
  | 0, q, l => some (q, l)
  | _ + 1, _, [] => none
  | n + 1, q, b :: l => if b then unary n (q + 1) l else some (q, l)

/-- One sample of a delta-Rice segment. -/
def riceSample (k b : Nat) (pred : Int) (l : List Bool) : Option (Nat × List Bool) := do
  let (q, l) ← unary 24 0 l
  if q = 24 then
    let (x, l) ← takeBits 16 0 l
    if x < 2 ^ b then some (x, l) else none
  else
    let (lo, l) ← takeBits k 0 l
    let z := q * 2 ^ k + lo
    let x : Int := if z % 2 = 0 then pred + (z / 2 : Nat) else pred - ((z + 1) / 2 : Nat)
    if 0 ≤ x ∧ x < 2 ^ b then some (x.toNat, l) else none

/-- The samples of a segment. -/
def riceSamples (k b : Nat) : Nat → Nat → List Bool → Option (List Nat × List Bool)
  | 0, _, l => some ([], l)
  | n + 1, pred, l => do
    let (x, l) ← riceSample k b pred l
    let (xs, l) ← riceSamples k b n x l
    some (x :: xs, l)

/-- One segment: its parameter byte, its samples, and the rest of its last byte. -/
def riceSegment (width b : Nat) (l : List Bool) : Option (List Nat × List Bool) := do
  let (k, l) ← takeBits 8 0 l
  if 15 < k then none
  else
    let (xs, l) ← riceSamples k b width 0 l
    some (xs, l.drop (l.length % 8))

/-- `n` segments. -/
def riceSegments (width b : Nat) : Nat → List Bool → Option (List (List Nat) × List Bool)
  | 0, l => some ([], l)
  | n + 1, l => do
    let (x, l) ← riceSegment width b l
    let (xs, l) ← riceSegments width b n l
    some (x :: xs, l)

/-- Splits a list into pieces of `n`. -/
def chunks (n : Nat) : Nat → List α → List (List α)
  | 0, _ => []
  | k + 1, l => l.take n :: chunks n k (l.drop n)

/-- The rows of a record as samples in their interleaved order; none for `DECODE_ERROR`. -/
def decodeRecord (h payload : List Byte) : Option (List (List Nat)) :=
  let w := skWidth h
  let ch := skChannels h
  let b := sampleBits (skPixfmt h)
  if skCodec h = 0 then
    let c := containerBytes (skPixfmt h)
    let xs := (List.range (skRows h * w * ch)).map (fun i => ofBytes ((payload.drop (c * i)).take c))
    if xs.all (fun x => decide (x < 2 ^ b)) then some (chunks (w * ch) (skRows h) xs) else none
  else
    match riceSegments w b (skRows h * ch) (bitsOf payload) with
    | some (segs, []) =>
      some ((chunks ch (skRows h) segs).map (fun row =>
        (List.range w).flatMap (fun i => row.map (fun seg => seg.getD i 0))))
    | _ => none

/-! ## Rows into the array (R35, R37) -/

/-- The link words of a row's bytes. -/
def rowWords (bytes : List Byte) : List LinkWord :=
  let n := (bytes.length + 7) / 8
  (List.range n).map (fun i => { data := ofN (ofBytes ((bytes.drop (8 * i)).take 8)), eor := decide (i + 1 = n) })

/-- A link word of samples of one value. -/
def fillWord (c v : Nat) : Word := ofN (ofBytes ((List.range (8 / c)).flatMap (fun _ => bytesOf c v)))

/-- Bytes of a placeholder row. -/
def fillBytes (w : Word) (n : Nat) : List Byte := (List.range n).map (fun i => BitVec.ofNat 8 (w.toNat / 2 ^ (8 * (i % 8))))

/-- Row `j` of a record as it waits to enter: from its staging, or as a placeholder. -/
def feedRowOf (r : SkRecord) (late slow : Bool) (j : Nat) : FeedRow :=
  let c := containerBytes (skPixfmt r.header)
  let n := skWidth r.header * skChannels r.header * c
  { info := { stream := skStream r.header, line := (skLine r.header + j) % 2 ^ 32, stamp := r.stamp, sampled := skSampled r.header
              late := late, slowFill := slow, since := 0, fill := fillWord c r.place }
    len := n, runs := if late then [] else subRuns r.runs (j * n) n }

/-- The rows of a record wait to enter, each at the array row of its line number's parity (R37). -/
def State.queueRows (s : State) (p : Nat) (r : SkRecord) (late slow : Bool) : State :=
  (List.range (skRows r.header)).foldl (fun s j =>
    let f := feedRowOf r late slow j
    let a := 2 * p + f.info.line % 2
    s.updHub (fun h => { h with feed := h.feed.put a (h.feed.val a [] ++ [f]) })) s

/-- Records whose lane is done with them enter in arrival order (R34). -/
def State.queueEnded (s : State) (p : Nat) : Nat → State
  | 0 => s
  | fuel + 1 =>
    let x := s.sensor p
    match x.records with
    | r :: rest =>
      match r.ended with
      | some e => ((s.setSensor p { x with records := rest }).queueRows p r (decide (e = .placeholders)) false).queueEnded p fuel
      | none => s
    | [] => s

/-- The decoded bytes of a record. -/
def decodedBytes (h : List Byte) (rows : List (List Nat)) : List Byte :=
  rows.flatMap (fun row => row.flatMap (bytesOf (containerBytes (skPixfmt h))))

/-- A row begins to enter the array: its words, and its metadata into the queue of the array row. A row of which a staged word
is uncorrectable becomes a placeholder row and is counted (R401). -/
def State.rowEnters (s : State) (a : Nat) (f : FeedRow) : State :=
  let p := a / 2
  let bad := s.stageError p f.runs
  let info := { f.info with late := f.info.late || bad, since := s.localNs }
  let bytes := if bad ∨ f.runs = [] then fillBytes f.info.fill f.len else s.stageRead p f.runs
  let s := if bad then s.setSensor p ((s.sensor p).count skLostRows 1) else s
  s.updHub (fun h => { h with rowMeta := h.rowMeta.put a (h.rowMeta.val a [] ++ [info]), entering := h.entering.put a (rowWords bytes) })

/-- HCLK cycles of a fast decode: 4 payload bytes in each. -/
def SkRecord.cycles (r : SkRecord) : Nat := (r.payload.length + 3) / 4

/-- The mean with one more decode time. -/
def SensorPort.timed (x : SensorPort) (t : Nat) : SensorPort :=
  let l := (t :: x.times).take 256
  { x with times := l, mean := min 65535 (l.sum / l.length) }

/-- Replaces the first record that meets a condition. -/
def replaceFirst (f : SkRecord → Bool) (g : SkRecord → SkRecord) : List SkRecord → List SkRecord
  | [] => []
  | r :: rs => if f r then g r :: rs else r :: replaceFirst f g rs

/-- Whether a record stands in a fast lane, and whether its decode takes a number of cycles. -/
def SkRecord.inLane (r : SkRecord) : Bool := r.started.isSome && r.ended.isNone
def SkRecord.takes (r : SkRecord) (n : Nat) : Bool := r.inLane && decide (r.cycles = n)

/-- A lane is done with a record. -/
def SkRecord.ends (r : SkRecord) (e : SkEnd) : SkRecord :=
  { r with ended := some e, runs := if e = .decoded then r.runs else [] }

/-- `DECODE_COMPLETE`: the oldest record whose decode takes `elapsed` cycles leaves its fast lane: its rows stand in staging,
or at a `DECODE_ERROR` its staging is free and placeholders replace it (R36). -/
def State.decodeDone (s : State) (p elapsed : Nat) : State :=
  let x := s.sensor p
  match x.records.find? (·.takes elapsed) with
  | none => s
  | some r =>
    let done := fun (y : SensorPort) (e : SkEnd) =>
      { y with records := replaceFirst (·.takes elapsed) (·.ends e) x.records }
    let s := match decodeRecord r.header r.payload with
      | some rows => (s.setSensor p (done (x.timed elapsed) .decoded)).stagePut p r.runs (decodedBytes r.header rows)
      | none => s.setSensor p (done (x.count skDecodeError 1) .placeholders)
    (s.queueEnded p x.records.length).pauseCheck p

def execDecodeComplete (port elapsed : Nat) (s : State) : Host.Outcome State Fault Refusal := .next (s.decodeDone port elapsed)

/-- HCLK cycles that a record has been in its decoder. -/
def State.decodeTime (s : State) (r : SkRecord) : Nat :=
  match r.started with
  | some t => s.localNs - t * 5 / 6
  | none => 0

/-- Whether a record in a fast lane has been there for SLOWMULT times the mean (R35). -/
def State.overdue (s : State) (p : Nat) (r : SkRecord) : Bool :=
  r.inLane && decide (r.slowMult * (s.sensor p).mean ≤ s.decodeTime r)

/-- `SLOW_LANE_MOVE`: placeholders stand in for the oldest record that is overdue, which queues for the slow lane with its
staging or is discarded. -/
def State.slowMove (s : State) (p : Nat) : State :=
  let x := s.sensor p
  match x.records.find? (s.overdue p) with
  | none => s
  | some r =>
    let y := { x with records := replaceFirst (s.overdue p) (·.ends .placeholders) x.records }
    let y := if x.slowq.length < 4 then { y with slowq := x.slowq ++ [{ r with started := if x.slowq.isEmpty then some s.now else none }] }
      else y.count skSlowFull 1
    ((s.setSensor p y).queueEnded p x.records.length).pauseCheck p

def execSlowLaneMove (port : Nat) (s : State) : Host.Outcome State Fault Refusal := .next (s.slowMove port)

/-- The slow lane begins with its next record. -/
def allocHead (now : Nat) : List SkRecord → List SkRecord
  | [] => []
  | r :: rs => { r with started := some now } :: rs

/-- `SLOW_DECODE_END`: the rows of the oldest slow record enter with the slow-fill mark, unless they are stale or do not
decode. -/
def State.slowEnd (s : State) (p : Nat) : State :=
  let x := s.sensor p
  match x.slowq with
  | [] => s
  | r :: rest =>
    let y := { x with slowq := allocHead s.now rest }
    match decodeRecord r.header r.payload with
    | none => (s.setSensor p (y.count skDecodeError 1)).pauseCheck p
    | some rows =>
      if s.slowStale p < (s.hub.scan + 2 ^ 32 - r.stamp) % 2 ^ 32 then (s.setSensor p (y.count skSlowStale 1)).pauseCheck p
      else (((s.setSensor p y).stagePut p r.runs (decodedBytes r.header rows)).queueRows p r false true).pauseCheck p

def execSlowDecodeEnd (port : Nat) (s : State) : Host.Outcome State Fault Refusal := .next (s.slowEnd port)

end Sys2Proof.Machine
end

