-- ==== Sys2Proof/Machine/Loom.lean ====
section
/-! DEFINITION. The Loom array (R38 to R44) and the stream exits (R45 to R48, R51 to R53). -/

namespace Sys2Proof.Machine

/-! ## Elements -/

/-- LECTL and stage word `k` of an element. -/
def State.lectl (s : State) (n : Nat) : Word := s.reg (lectlBase + 8 * n)
def State.stageWord (s : State) (n k : Nat) : Word := s.reg (stageBase + 512 * n + 8 * k)

/-- Fields of a stage word (R40). -/
def stOp (w : Word) : Nat := fld w 63 59
def stSa (w : Word) : Nat := fld w 58 56
def stSb (w : Word) : Nat := fld w 55 53
def stDst (w : Word) : Nat := fld w 52 50
def stLanes (w : Word) : Nat := fld w 40 39
def stImm (w : Word) : Nat := fld w 31 0

/-- Whether LANES is allowed for an operation (R43). -/
def lanesAllowed (op lanes : Nat) : Bool :=
  match op with
  | 0 | 1 | 9 | 10 | 11 | 17 => true
  | 18 | 19 => decide (lanes ≤ 1)
  | 20 | 21 | 22 => decide (lanes = 2)
  | 23 | 24 => decide (lanes = 3)
  | _ => decide (lanes ≤ 2)

/-- Whether element (r, c) has a link of a direction: a neighbour, a front end at W of column 0, an exit at E of column
15. -/
def hasLink (r c d : Nat) (src : Bool) : Bool :=
  match d with
  | 0 => decide (0 < r)
  | 1 => decide (c < 15) || !src
  | 2 => decide (r < 15)
  | _ => decide (0 < c) || src

/-- The check of a stage word at a start (R41). -/
def stageBad (r c : Nat) (w : Word) : Bool :=
  let link := fun (d : Nat) (src : Bool) => decide (d < 4) && !hasLink r c d src
  decide (24 < stOp w) || decide (stSa w = 7) || decide (stSb w = 7) || decide (stDst w = 5) || decide (stDst w = 6)
  || !decide (fld w 38 32 = 0) || link (stSa w) true || link (stSb w) true || link (stDst w) false
  || !lanesAllowed (stOp w) (stLanes w)

/-- A write of LECTL (R41, R42). While RUN is set a write that leaves NM1 at its value is no write of NM1, and sets no CFGERR
(assumption 97). A write that clears RUN while the stage in progress is stalled stops the element at once, and that stage never
completes: a DESIGN CHOICE (assumption 106). -/
def State.lectlWrite (s : State) (n : Nat) (w : Word) : State :=
  let old := s.lectl n
  let run := bitOf old 63
  let nm1 := if run then fld old 5 0 else fld w 5 0
  let moved := run && !decide (fld w 5 0 = fld old 5 0)
  let cfgerr := (bitOf old 7 && !bitOf w 7) || moved
  let memerr := bitOf old 6 && !bitOf w 6
  let start := bitOf w 63 && !run
  let refuse := start && (List.range (nm1 + 1)).any (fun k => stageBad (n / 16) (n % 16) (s.stageWord n k))
  let new := ofN (b2n (bitOf w 63 && !refuse) * 2 ^ 63 + b2n (cfgerr || refuse) * 128 + b2n memerr * 64 + nm1)
  let s := s.setReg (lectlBase + 8 * n) new
  if start && !refuse then s.setElement n { s.element n with stage := 0 } else s

def execLectlWrite (row col : Nat) (w : Word) (s : State) : Host.Outcome State Fault Refusal :=
  .next (s.lectlWrite (16 * row + col) w)

/-- A write of a stage word: while the element runs it is ignored and sets CFGERR. -/
def State.stageWrite (s : State) (n k : Nat) (w : Word) : State :=
  if bitOf (s.lectl n) 63 then s.setReg (lectlBase + 8 * n) (setFld (s.lectl n) 7 7 1)
  else s.setReg (stageBase + 512 * n + 8 * k) w

def execStageWordWrite (row col k : Nat) (w : Word) (s : State) : Host.Outcome State Fault Refusal :=
  .next (s.stageWrite (16 * row + col) k w)

/-! ## Operations (R43) -/

/-- Lane width of a LANES code. -/
def laneWidth (n : Nat) : Nat := 8 * 2 ^ n

/-- The lanes of a 64-bit word. -/
def wordLanes (w : Nat) (x : Word) : List Nat := (List.range (64 / w)).map (fun i => x.toNat / 2 ^ (w * i) % 2 ^ w)

/-- A word from its lanes. -/
def ofWordLanes (w : Nat) (l : List Nat) : Word := ofN (l.foldr (fun x acc => x % 2 ^ w + acc * 2 ^ w) 0)

/-- Clamps an integer into the signed range of `w` bits. -/
def satSigned (w : Nat) (x : Int) : Int := max (-(2 ^ (w - 1) : Nat)) (min ((2 ^ (w - 1) : Nat) - 1) x)

/-- A lane's result of an integer operation. -/
def laneOp (op w imm a b : Nat) : Nat :=
  let sa := sext w a
  let sb := sext w b
  let n := imm % 64
  let ones := 2 ^ w - 1
  match op with
  | 1 => a
  | 2 => a + b
  | 3 => a + 2 ^ w - b
  | 4 => a * b
  | 5 =>
    if w ≤ n then (if sa * sb < 0 then ones else 0)
    else toBits w (satSigned w ((sa * sb + (if n = 0 then 0 else (2 ^ (n - 1) : Nat))) / (2 ^ n : Nat)))
  | 6 => if sa ≤ sb then a else b
  | 7 => if sa ≤ sb then b else a
  | 8 =>
    let m := max sa sb
    toBits w (min m (sext w imm))
  | 9 => a &&& b
  | 10 => a ||| b
  | 11 => a ^^^ b
  | 12 => if w ≤ n then 0 else a * 2 ^ n
  | 13 => if w ≤ n then 0 else a / 2 ^ n
  | 14 => toBits w (sa / (2 ^ (min n w) : Nat))
  | 15 => if sa < sb then ones else 0
  | 16 => if a = b then ones else 0
  | _ => 0

/-- A pattern of an OCP 8-bit format from a finite value, to nearest even, saturating at `big`. -/
def ocpFinite (f : FpFmt) (bias : Int) (big : Nat) (neg : Bool) (m : Nat) (e : Int) : Nat :=
  let sign := if neg then 128 else 0
  if m = 0 then sign
  else
    let emin : Int := 1 - bias
    let q := max (e + Nat.log2 m) emin - f.fb
    let mag := (q + f.fb - emin).toNat * 2 ^ f.fb + (roundAt .rne neg m e q false).1
    sign + min mag big

/-- An FP32 pattern in OCP E4M3 or E5M2 (R43 F2N). -/
def toOcp (e5 : Bool) (x : Nat) : Nat :=
  let f : FpFmt := if e5 then ⟨5, 2⟩ else ⟨4, 3⟩
  let big := if e5 then 0x7B else 0x7E
  let neg := nbit x 31
  match fp32.decode x with
  | .nan _ => if neg then 0xFF else 0x7F
  | .inf _ => (if neg then 128 else 0) + big
  | .fin n m e => ocpFinite f (if e5 then 15 else 7) big n m e

/-- F2N: both lanes to a narrow format, packed from bit 0. -/
def narrow (kind : Nat) (l : List Nat) : Word :=
  match kind with
  | 0 => ofWordLanes 16 (l.map (fun x => (bf16.roundV .rne (fp32.decode x)).1))
  | 1 => ofWordLanes 16 (l.map (fun x => (fp16.roundV .rne (fp32.decode x)).1))
  | 2 => ofWordLanes 8 (l.map (toOcp false))
  | _ => ofWordLanes 8 (l.map (toOcp true))

/-- WIDEN and SWIDEN: two source lanes into two 32-bit lanes. -/
def widen (sgn : Bool) (w imm : Nat) (a : Word) : Word :=
  let k := imm % 4
  let at_ := fun i => (wordLanes w a).getD i 0
  let ext := fun (x : Nat) => if sgn then toBits 32 (sext w x) else x
  if w = 16 ∧ 1 < k then 0 else ofWordLanes 32 [ext (at_ (2 * k)), ext (at_ (2 * k + 1))]

/-- The result of an operation that touches no element memory. -/
def stageResult (w e0 a b : Word) : Word :=
  let lw := laneWidth (stLanes w)
  let imm := stImm w
  match stOp w with
  | 17 => (a &&& e0) ||| (b &&& ~~~e0)
  | 18 => widen false lw imm a
  | 19 => widen true lw imm a
  | 20 => ofWordLanes 32 ((wordLanes 32 a).map (fun x => (fp32.roundInt .rne false (sext 32 x) 0).1))
  | 21 => ofWordLanes 32 (((wordLanes 32 a).zip (wordLanes 32 b)).map (fun e => (f32Fma .rne e.1 e.2 imm).1))
  | 22 => narrow (imm % 4) (wordLanes 32 a)
  | op => ofWordLanes lw (((wordLanes lw a).zip (wordLanes lw b)).map (fun e => laneOp op lw imm e.1 e.2))

/-- IMM as a source: its low lane-width bits in every lane. -/
def immSource (w : Word) : Word :=
  let lw := min 32 (laneWidth (stLanes w))
  ofWordLanes lw (List.replicate (64 / lw) (stImm w))

/-! ## Links and exits -/

/-- The link FIFO of an element in a direction. -/
def Element.link (x : Element) (d : Nat) : List LinkWord := x.links.val d []

/-- Replaces a link FIFO. -/
def Element.setLink (x : Element) (d : Nat) (l : List LinkWord) : Element := { x with links := x.links.put d l }

/-- Whether an exit's window has a slot that no batch on its way will take (R53). -/
def State.exitFree (s : State) (i : Nat) : Bool := decide (0 < (s.exit i).free)

/-- FATE of the window of an exit. -/
def State.exitFate (s : State) (i : Nat) : Nat := swFate (s.window (lxCore (s.lxdst i)) (lxWin (s.lxdst i))).cfg

/-- Whether BLOCK keeps a whole row where it is (R53). -/
def State.rowBlocked (s : State) (i : Nat) : Bool :=
  decide (s.exitFate i = 2) && !s.exitFree i && decide ((s.exit i).hold ≤ (s.exit i).held.length)

/-- Whether an exit is busy: disabled, with a whole row not yet taken up, or stopped by BLOCK (R45, R53). -/
def State.exitBusy (s : State) (i : Nat) : Bool :=
  let x := s.exit i
  !lxEn (s.lxcfg i) || x.whole || x.blocked.isSome || s.rowBlocked i

/-- An exit takes a link word (R46): after 8,192 words a row is cut, and the rest up to EOR is discarded. -/
def State.exitTake (s : State) (i : Nat) (w : LinkWord) : State :=
  let x := s.exit i
  if x.skip then s.setExit i { x with skip := !w.eor }
  else
    let x := { x with row := w.data :: x.row, spoiled := x.spoiled || w.spoiled }
    if w.eor || decide (x.row.length = 8192) then
      let s := s.setExit i { x with whole := true, skip := !w.eor }
      { s with agenda := s.agenda ++ [.exitRowComplete i] }
    else s.setExit i x

/-- Whether element `n` can push a word in direction `d`. The E link of column 15 has no FIFO of its own: its word enters the exit at
once, and a busy exit alone stalls the stage. DESIGN CHOICE (assumption 106): the specification does not say whether an exit is a
receiving end of R38. -/
def State.linkRoom (s : State) (n d : Nat) : Bool :=
  match d with
  | 0 => decide (((s.element (n - 16)).link 2).length < 2)
  | 1 => if n % 16 = 15 then !s.exitBusy (n / 16) else decide (((s.element (n + 1)).link 3).length < 2)
  | 2 => decide (((s.element (n + 16)).link 0).length < 2)
  | _ => decide (((s.element (n - 1)).link 1).length < 2)

/-- Pushes a word in direction `d`: it arrives on the opposite link of the neighbour, or at an exit. -/
def State.linkPush (s : State) (n d : Nat) (w : LinkWord) : State :=
  let into := fun (m back : Nat) => s.setElement m ((s.element m).setLink back ((s.element m).link back ++ [w]))
  match d with
  | 0 => into (n - 16) 2
  | 1 => if n % 16 = 15 then s.exitTake (n / 16) w else into (n + 1) 3
  | 2 => into (n + 16) 0
  | _ => into (n - 1) 1

/-- A source of a stage: its word and the element after the pop; none where the link is empty. -/
def stageSource (x : Element) (w : Word) (code reg : Nat) : Option (LinkWord × Element) :=
  if code < 4 then
    match x.link code with
    | [] => none
    | v :: vs => some (v, x.setLink code vs)
  else if code = 4 then some ({ data := x.e.val reg 0, eor := false }, x)
  else if code = 5 then some ({ data := immSource w, eor := false }, x)
  else some ({ data := 0, eor := false }, x)

/-- The element after stage word `w` completes, at its next stage. -/
def State.stageDone (s : State) (n : Nat) (x : Element) : State :=
  s.setElement n { x with stage := if x.stage = fld (s.lectl n) 5 0 then 0 else x.stage + 1 }

/-- An element stops at a bad memory access (R44). -/
def State.stageStop (s : State) (n : Nat) : State :=
  s.setReg (lectlBase + 8 * n) (setFld (setFld (s.lectl n) 63 63 0) 6 6 1)

/-- Writes a stage's result: to a link, a register, or nowhere. A row that has met an uncorrectable word stays marked to its
end (R401). -/
def State.stageWriteDst (s : State) (n : Nat) (x : Element) (w : Word) (v : LinkWord) : State :=
  let d := stDst w
  if d < 4 then
    let v := { v with spoiled := v.spoiled || x.spoiled }
    (s.setElement n { x with spoiled := x.spoiled && !v.eor }).linkPush n d v
  else if d = 4 then s.setElement n { x with e := x.e.put (fld w 43 41) v.data }
  else s.setElement n x

/-- `LOOM_STAGE` (R39): one stage word of a running element; a stall has no effect. -/
def State.loomStage (s : State) (n : Nat) : State :=
  let x := s.element n
  let w := s.stageWord n x.stage
  if !bitOf (s.lectl n) 63 then s
  else if stOp w = 0 then s.stageDone n x
  else
    match stageSource x w (stSa w) (fld w 49 47) with
    | none => s
    | some (a, x1) =>
      match stageSource x1 w (stSb w) (fld w 46 44) with
      | none => s
      | some (b, x2) =>
        if stDst w < 4 && !decide (stOp w = 24) && !s.linkRoom n (stDst w) then s
        else
          let eor := a.eor || b.eor
          let bad := a.spoiled || b.spoiled
          let step := ofI (sext 32 (stImm w))
          if stOp w = 23 ∨ stOp w = 24 then
            let r := if stOp w = 23 then 7 else 6
            let o := (x.e.val r 0).toNat
            if o % 8 ≠ 0 ∨ 0x18000 < o + 8 then s.stageStop n
            else
              let move := fun (y : Element) => ({ y with e := y.e.put r (y.e.val r 0 + step) } : Element)
              if stOp w = 23 then
                let err := x.error o 8
                let data := if err then Config.freeWord s.fresh else ofN (ofBytes (memBytes x.mem o 8))
                let s := if err then { s with fresh := s.fresh + 1 } else s
                let x2 := { x2 with spoiled := x2.spoiled || err }
                let t := s.stageWriteDst n x2 w { data := data, eor := eor, spoiled := bad }
                t.stageDone n (move (t.element n))
              else s.stageDone n (move (x2.write o (bytesOf 8 a.data.toNat)))
          else
            let t := s.stageWriteDst n x2 w { data := stageResult w (x.e.val 0 0) a.data b.data, eor := eor, spoiled := bad }
            t.stageDone n (t.element n)

def execLoomStage (row col : Nat) (s : State) : Host.Outcome State Fault Refusal := .next (s.loomStage (16 * row + col))

/-- The row that waits at an array row begins to enter, when none is entering. -/
def State.feedNext (s : State) (a : Nat) : State :=
  match s.hub.entering.val a [], s.hub.feed.val a [] with
  | [], f :: _ => s.rowEnters a f
  | _, _ => s

/-- A front end feeds the W link of column 0 while it has room (R37, R38); after its last word a row's staging is free. -/
def State.feedRow (s : State) (a : Nat) : State :=
  if ((s.element (16 * a)).link 3).length < 2 then
    let s := s.feedNext a
    match s.hub.entering.val a [] with
    | [] => s
    | w :: ws =>
      let x := s.element (16 * a)
      let s := (s.setElement (16 * a) (x.setLink 3 (x.link 3 ++ [w]))).updHub (fun h => { h with entering := h.entering.put a ws })
      if ws.isEmpty then (s.updHub (fun h => { h with feed := h.feed.put a (h.feed.val a []).tail })).pauseCheck (a / 2) else s
  else s

/-! ## Batches (R46 to R48, R51 to R53) -/

/-- The window of an exit. -/
def State.exitWindow (s : State) (i : Nat) : Nat × Nat := (lxCore (s.lxdst i), lxWin (s.lxdst i))

/-- Rows dropped at the window of an exit. -/
def State.dropRows (s : State) (i n : Nat) : State :=
  let (c, w) := s.exitWindow i
  s.setWindow c w ((s.window c w).drop n)

/-- The open batch closes: it takes the sequence number and goes to the window (R48). -/
def State.closeBatch (s : State) (i : Nat) : State :=
  let x := s.exit i
  if x.batch.isEmpty then s
  else
    let cfg := s.lxcfg i
    let b : Batch := { seq := x.seq, rows := x.batch, pitch := lxPitch cfg, per := lxRows cfg
                       core := lxCore (s.lxdst i), win := lxWin (s.lxdst i) }
    let s := s.setExit i { x with batch := [], closed := x.closed ++ [b], seq := (x.seq + 1) % 65536, free := x.free - 1 }
    { s with agenda := s.agenda ++ [.batchDeliver i] }

/-- Whether a row may stand in a batch. -/
def sameKind (r q : RowMeta) : Bool :=
  decide (r.stamp = q.stamp ∧ r.stream = q.stream ∧ r.slowFill = q.slowFill)

/-- The open batch closes before a row whose kind differs (R48). -/
def State.closeFor (s : State) (i : Nat) (m : RowMeta) : State :=
  match (s.exit i).batch.getLast? with
  | some q => if sameKind q.info m then s else s.closeBatch i
  | none => s

/-- A row joins the open batch, which closes when it is full; for a window with a free slot. -/
def State.addRow (s : State) (i : Nat) (r : Row) : State :=
  let x := s.exit i
  let since := if x.batch.isEmpty then s.localNs else x.batchSince
  let s := s.setExit i { x with batch := x.batch ++ [r], batchSince := since }
  if x.batch.length + 1 = lxRows (s.lxcfg i) then s.closeBatch i else s

/-- A row that finds no free slot (R53). -/
def State.holdRow (s : State) (i : Nat) (r : Row) : State :=
  let x := s.exit i
  let hold := x.hold
  if x.held.length < hold then s.setExit i { x with held := x.held ++ [r] }
  else if s.exitFate i = 1 ∧ 0 < hold then (s.setExit i { x with held := x.held.tail ++ [r] }).dropRows i 1
  else s.dropRows i 1

/-- The kept bytes of a row (R46): PACK bits of each link word from COL0 on, and whether the row was padded. -/
def keptBytes (cfg : Word) (words : List Word) : List Byte × Bool :=
  let k := packBytes (lxPack cfg)
  let kept := (words.drop (lxCol0 cfg)).take (lxCols cfg)
  let bytes := (kept ++ List.replicate (lxCols cfg - kept.length) 0).flatMap (fun (w : Word) => bytesOf k w.toNat)
  (bytes ++ List.replicate (lxPitch cfg - bytes.length) 0, decide (kept.length < lxCols cfg))

/-- A whole row with its metadata is batched, held or dropped; under BLOCK with a full hold it stays. -/
def State.placeRow (s : State) (i : Nat) : State :=
  match (s.exit i).blocked with
  | none => s
  | some r =>
    let s := s.closeFor i r.info
    if s.rowBlocked i then s
    else
      let x := s.exit i
      let s := s.setExit i { x with blocked := none }
      if x.held.isEmpty && decide (0 < x.free) then s.addRow i r else s.holdRow i r

/-- `EXIT_ROW_COMPLETE` (R45 to R47): the whole row takes the next entry of its metadata queue, and HOLD and BATCHWAIT as they
now stand. A row that met an uncorrectable word has become a placeholder and is counted (R401). A row whose metadata has not
come waits for it. -/
def State.rowComplete (s : State) (i : Nat) : State :=
  let cfg := s.lxcfg i
  let a := lxEntry cfg
  let x := s.exit i
  if !lxEn cfg || !x.whole || x.blocked.isSome then s
  else
    match s.hub.rowMeta.val a [] with
    | [] => s
    | m :: ms =>
      let words := if x.spoiled then List.replicate x.row.length m.fill else x.row.reverse
      let (bytes, short) := keptBytes cfg words
      let r : Row := { info := { m with late := m.late || x.spoiled }, bytes := bytes, clip := short || x.skip }
      let s := if x.spoiled then s.setSensor (a / 2) ((s.sensor (a / 2)).count skLostRows 1) else s
      let s := s.setExit i { x with row := [], whole := false, spoiled := false, hold := lxHold cfg, wait := lxWait cfg
                                    blocked := some r }
      (s.updHub (fun h => { h with rowMeta := h.rowMeta.put a ms })).placeRow i

def execExitRowComplete (exit : Nat) (s : State) : Host.Outcome State Fault Refusal := .next (s.rowComplete exit)

/-- `BATCHWAIT_EXPIRY` (R48). -/
def execBatchwaitExpiry (exit : Nat) (s : State) : Host.Outcome State Fault Refusal := .next (s.closeBatch exit)

/-- `METADATA_TIMEOUT` (R47): the oldest metadata goes; its row counts as lost. -/
def State.metaTimeout (s : State) (i : Nat) : State :=
  let a := lxEntry (s.lxcfg i)
  match s.hub.rowMeta.val a [] with
  | [] => s
  | _ :: ms =>
    ((s.updHub (fun h => { h with rowMeta := h.rowMeta.put a ms })).setReg (lxdstReg i) (setFld (s.lxdst i) 0 0 1)).dropRows i 1

def execMetadataTimeout (exit : Nat) (s : State) : Host.Outcome State Fault Refusal := .next (s.metaTimeout exit)

/-- FLAGS of a batch, as bits 48 to 54 of its descriptor hold them (R51, R52). -/
def batchFlags (rows : List Row) (per : Nat) (gap : Bool) : Nat :=
  b2n (rows.any (fun r => r.info.late)) + b2n (rows.any (fun r => r.info.slowFill)) * 2 + b2n (decide (rows.length < per)) * 4
  + b2n gap * 8 + b2n (rows.any (·.clip)) * 16

/-- The 64-byte header of a batch (R51). -/
def batchHeader (tag pitch dropped flags : Nat) (rows : List Row) : List Byte :=
  let late := (rows.zipIdx.map (fun e => b2n e.1.info.late * 2 ^ e.2)).sum
  let first := fun (f : RowMeta → Nat) => match rows with
    | r :: _ => f r.info
    | [] => 0
  bytesOf 8 tag ++ bytesOf 4 (first (·.line)) ++ bytesOf 2 (first (·.stream)) ++ bytesOf 1 rows.length ++ bytesOf 1 flags
  ++ bytesOf 8 late ++ bytesOf 4 dropped ++ bytesOf 4 pitch ++ bytesOf 8 (first (·.sampled)) ++ List.replicate 24 0

/-- A window with one more filled slot (R52, R53). -/
def Window.fill (x : Window) : Window :=
  let free := x.free - 1
  { x with filled := x.filled + 1, free := free, dropped := 0
           alarm := x.alarm || (decide (free ≤ swLow x.cfg) && decide (swLow x.cfg < x.free)) }

/-- The q5 of a slot of a switched-out member, with its save area, takes a descriptor (R50, R380, R397). -/
def State.saveQ5 (s : State) (p gs : Nat) (x : Slot) : State :=
  match s.saved.seek p with
  | none => s
  | some m =>
    let s := { s with saved := s.saved.put p { m with slots := m.slots.put gs x } }
    match s.swArea p gs with
    | some a => (s.physWrite (a + 0x380) (wordBytes x.q5)).physWrite (a + 0x4C0) (bytesOf 8 x.qstat.toNat)
    | none => s

/-- A descriptor is pushed onto a slot's q5. -/
def State.pushQ5 (s : State) (p gs : Nat) (d : Word) : State :=
  let x := s.slotFor p gs
  let x := { x with q5 := x.q5 ++ [d] }
  if s.away p then s.saveQ5 p gs x else (s.setSlot gs x).signalNext gs

/-- `BATCH_DELIVER` (R52): the oldest closed batch of an exit lands in the next free slot with its tags, and its descriptor is
pushed onto CSLOT's q5. It waits while a bank of the slot is in its wipe; in a bank that the window's partition no longer owns
it lands nowhere, and its rows are dropped (R118, assumption 98), as they are in a fenced bank (R405). -/
def State.batchDeliver (s : State) (i : Nat) : State :=
  match (s.exit i).closed with
  | [] => s
  | b :: rest =>
    let c := b.core
    let win := s.window c b.win
    let slot := (win.head + win.filled) % swSlots win.cfg
    let place := swBase win.cfg + slot * swSize win.cfg
    if !swEn win.cfg ∨ win.free = 0 ∨ (s.core c).lmWiping place (swSize win.cfg) then s
    else
      let s := s.setExit i { s.exit i with closed := rest }
      if !lmOwned (s.part win.owner).banks place (swSize win.cfg) || (s.core c).lmFenced place (swSize win.cfg) then
        let s := s.setWindow c b.win (win.drop b.rows.length)
        { s with later := s.later ++ [.freeCountUpdate i] }
      else
        let stamp := match b.rows with
          | r :: _ => r.info.stamp
          | [] => 0
        let tag := stamp * 65536 + b.seq
        let flags := batchFlags b.rows b.per (decide (0 < win.dropped))
        let bytes := batchHeader tag b.pitch win.dropped flags b.rows ++ b.rows.flatMap (·.bytes)
        let k := (s.core c).lmStore place bytes
        let k := (List.range (swSize win.cfg / 256)).foldl (fun k t => k.setTag (place / 256 + t) (BitVec.ofNat 48 tag)) k
        let s := (s.setCore c k).setWindow c b.win win.fill
        s.pushQ5 win.owner (c * 16 + swCslot win.cfg)
          (ofN (b.win * 2 ^ 59 + slot * 2 ^ 55 + flags * 2 ^ 48 + tag))

def execBatchDeliver (exit : Nat) (s : State) : Host.Outcome State Fault Refusal := .next (s.batchDeliver exit)

/-- Held rows form batches while slots are free. -/
def State.takeHeld (s : State) (i : Nat) : Nat → State
  | 0 => s
  | n + 1 =>
    match (s.exit i).held with
    | [] => s
    | r :: rs =>
      let s := s.closeFor i r.info
      if s.exitFree i then ((s.setExit i { s.exit i with held := rs }).addRow i r).takeHeld i n else s

/-- `FREE_COUNT_UPDATE` (R52, R53): the window's free count, less the batches on their way, reaches the exit, which goes on with
the rows that it holds. -/
def State.freeUpdate (s : State) (i : Nat) : State :=
  let (c, w) := s.exitWindow i
  let x := s.exit i
  let onWay := (x.closed.filter (fun b => decide (b.core = c ∧ b.win = w))).length
  ((s.setExit i { x with free := (s.window c w).free - onWay }).takeHeld i x.held.length).placeRow i

def execFreeCountUpdate (exit : Nat) (s : State) : Host.Outcome State Fault Refusal := .next (s.freeUpdate exit)

/-! ## LXCFG and LXDST (R45) -/

/-- Sets CFGERR of an exit. -/
def State.exitCfgErr (s : State) (i : Nat) : State := s.setReg (lxdstReg i) (setFld (s.lxdst i) 1 1 1)

/-- Whether a configuration may stand with EN: COLS, the other exits' ENTRY, and the size of a batch (R45, R46, R51). -/
def State.exitBad (s : State) (i : Nat) (w : Word) : Bool :=
  let (c, n) := s.exitWindow i
  decide (lxCols w = 0)
  || (List.range 16).any (fun j => !decide (j = i) && lxEn (s.lxcfg j) && decide (lxEntry (s.lxcfg j) = lxEntry w))
  || decide (swSize (s.window c n).cfg < 64 + lxRows w * lxPitch w)

/-- A write of LXCFG.i (R45). A row that BLOCK keeps at the exit counts among the held rows that clearing EN discards
(assumption 98). -/
def State.lxcfgWrite (s : State) (i : Nat) (w : Word) : State :=
  let old := s.lxcfg i
  let loose := fun (v : Word) => setFld (setFld (setFld (setFld v 63 63 0) 28 21 0) 19 12 0) 7 0 0
  if lxEn old && !decide (loose w = loose old) then s.exitCfgErr i
  else if lxEn w && s.exitBad i w then s.exitCfgErr i
  else
    let s := s.setReg (lxcfgReg i) w
    let x := s.exit i
    if lxEn w && !lxEn old then
      let s := s.setExit i { x with seq := 0, hold := lxHold w, wait := lxWait w }
      { s with agenda := s.agenda ++ [.freeCountUpdate i, .exitRowComplete i] }
    else if lxEn old && !lxEn w then
      (s.setExit i { x with batch := [], held := [], blocked := none }).dropRows i
        (x.batch.length + x.held.length + x.blocked.toList.length)
    else s

def execLxcfgWrite (exit : Nat) (w : Word) (s : State) : Host.Outcome State Fault Refusal := .next (s.lxcfgWrite exit w)

/-- A write of LXDST.i: a 1 clears a flag; CORE and WIN stand while EN is 1. -/
def State.lxdstWrite (s : State) (i : Nat) (w : Word) : State :=
  let old := s.lxdst i
  let moved := !decide (fld w 19 9 = fld old 19 9)
  if lxEn (s.lxcfg i) && moved then s.exitCfgErr i
  else
    s.setReg (lxdstReg i) (ofN (fld w 19 9 * 512 + b2n (bitOf old 1 && !bitOf w 1) * 2 + b2n (bitOf old 0 && !bitOf w 0)))

def execLxdstWrite (exit : Nat) (w : Word) (s : State) : Host.Outcome State Fault Refusal := .next (s.lxdstWrite exit w)

end Sys2Proof.Machine
end

