-- ==== Sys2Proof/Machine/Replay.lean ====
section
/-! DEFINITION. Starts of queued engine instructions (R263, R469) and the Treadle: capture and replay (R288 to
R292). -/

namespace Sys2Proof.Machine

/-- The start of an engine instruction. -/
def startOf : Instr → Option (List Word → M Unit)
  | .vld lm v _ => some (startVld lm v)
  | .vst lm v _ => some (startVst lm v)
  | .vlds lm t v _ _ => some (startVlds lm t v)
  | .vgath lm t v _ x => some (startVgath lm t v x)
  | .vscat lm t v _ x => some (startVscat lm t v x)
  | .vAdd sat t d a b => some (startVAdd sat t d a b)
  | .vSub sat t d a b => some (startVSub sat t d a b)
  | .vMul t d a b => some (startVMul t d a b)
  | .vFma d a b => some (fused f32Fma d a b)
  | .vFms d a b => some (fused f32Fms d a b)
  | .vMin t d a b => some (startVMin t d a b)
  | .vMax t d a b => some (startVMax t d a b)
  | .vAbs sat t d a => some (startVAbs sat t d a)
  | .vNeg sat t d a => some (startVNeg sat t d a)
  | .vRcp d a => some (startVRcp d a)
  | .vRsq d a => some (startVRsq d a)
  | .vSqrt d a => some (startVSqrt d a)
  | .vExp2 d a => some (startVExp2 d a)
  | .vLog2 d a => some (startVLog2 d a)
  | .vAnd d a b => some (bitwise2 (fun x y => x &&& y) d a b)
  | .vOr d a b => some (bitwise2 (fun x y => x ||| y) d a b)
  | .vXor d a b => some (bitwise2 (fun x y => x ^^^ y) d a b)
  | .vAndn d a b => some (bitwise2 (fun x y => x &&& ~~~y) d a b)
  | .vShl t d a b => some (startShift shlLane t d a b)
  | .vShr t d a b => some (startShift shrLane t d a b)
  | .vSar t d a b => some (startShift sarLane t d a b)
  | .vCmp r t d a b => some (startVCmp r t d a b)
  | .vSel d a b => some (startVSel d a b)
  | .vRedAdd t d a => some (startVRed (arith (· + ·) f32Add false t) t d a)
  | .vRedMin t d a => some (startVRed (fun _ => minMaxLane false t) t d a)
  | .vRedMax t d a => some (startVRed (fun _ => minMaxLane true t) t d a)
  | .vBcast t d _ => some (startVBcast t d)
  | .vExt t d a _ => some (startVExt t d a)
  | .vIns t d _ _ => some (startVIns t d)
  | .vPerm d a b => some (startVPerm d a b)
  | .vCvt dst src d a => some (startVCvt dst src d a)
  | .vScl inv d a _ => some (startVScl inv d a)
  | .vPack dst src d a b => some (startVPack dst src d a b)
  | .vUnpk dst src d a h => some (startVUnpk dst src d a h)
  | .vDec8 d a h => some (startDec 8 d a h)
  | .vEnc8 d a h => some (startEnc 8 d a h)
  | .vDec4 d a h => some (startDec 4 d a h)
  | .vEnc4 d a h => some (startEnc 4 d a h)
  | .mClr m => some (startMClr m)
  | .mLatch _ _ => some startMLatch
  | .mStep disp m _ _ => some (startMStep disp m)
  | .mLocal m _ _ => some (startMLocal m)
  | .mPass => some startMPass
  | .mRd v m _ => some (startMRd v m)
  | .mWr m v _ => some (startMWr m v)
  | .mRing leave d _ _ => some (startMRing leave d)
  | .mStat d => some (startMStat d)
  | .mSync => some startMSync
  | .redPkt v _ _ => some (startRedPkt v)
  | .redRecv miss v d _ => some (startRedRecv miss v d)
  | _ => none

/-! ## The engine queue (R263, R469) -/

/-- The state in which the engine stream of a slot acts; `replay` for an instruction of its replay (R289). -/
def State.engineOf (s : State) (gs : Nat) (replay : Bool) : State :=
  { s with cur := gs, iss := { s.iss with engine := true, replay := replay, held := [] } }

/-- The state with some of a core's table banks replaced by those that an instruction keeps. -/
def State.withBanks (s : State) (core : Nat) (banks : SMap TBank) : State :=
  let s : State := { s with iss := { s.iss with kept := banks.map (·.1) } }
  let k := s.core core
  s.setCore core { k with tb := banks.foldl (fun m e => m.put e.1 e.2) k.tb }

/-- The fault of a queued engine instruction (R469): it stays at the head of the queue, and the slot parks at its scalar
boundary. -/
def State.engineFault (s : State) (gs : Nat) (e : EngEntry) (f : FaultInfo) : State :=
  let s := s.parkSlot gs .fault
  let s := s.setSlot gs { s.slot gs with late := none }
  s.slotRecord gs { f with kind := 0, cause := 7 } e.pc false [(32, bytesOf 8 (s.slot gs).pc)]

/-- The kill of a slot whose engine instruction meets an uncorrectable register word (R401, R406); the window of its AMO
completes first (R417). -/
def State.engineKill (s : State) (gs pc next : Nat) : State :=
  if s.amoOpen gs then s
  else (s.slotRecord gs signatureFault pc false [(32, bytesOf 8 next)]).kill gs fcSignature

/-- One engine turn of a slot: the head of its queue starts, stays while it would wait, or faults; a fault waits for the
window of the slot's AMO (R369). -/
def State.engineTurn (s : State) (gs : Nat) : State :=
  let x := s.slot gs
  match x.run, x.engq with
  | .parked _, _ => s
  | _, [] => s
  | _, e :: _ =>
    match startOf e.instr with
    | none => s
    | some start =>
      if (s.core (gs / 16)).unitsBad (gs % 16) (startUnits e.instr) then s.engineKill gs e.pc (s.slot gs).pc
      else
      let old := (s.core (gs / 16)).tb
      match start e.srcs ((s.engineOf gs false).withBanks (gs / 16) e.banks) with
      | .ok (_, t) =>
        let t := t.setCore (gs / 16) ({ t.core (gs / 16) with tb := old }.unitsWritten (gs % 16) (wroteUnits e.instr))
        let t : State := { t with cur := s.cur, iss := s.iss }
        let x := t.slot gs
        (t.setSlot gs { x with engq := x.engq.tail, walked := x.walked.filter (fun w => !decide (w.kind = .engine)) }).charge gs
      | .error (.wait _ keep) =>
        let t := keep (s.engineOf gs false)
        { t.setCore (gs / 16) { t.core (gs / 16) with tb := old } with cur := s.cur, iss := s.iss }
      | .error (.fault f _) => if s.amoOpen gs then s else s.engineFault gs e f

def execEngineTurn (gs : Nat) (s : State) : Host.Outcome State Fault Refusal := .next (s.engineTurn gs)

/-! ## Capture (R288) -/

/-- Whether a Treadle-stream instruction may name these scalar operands. -/
def captureOperands (tr : Treadle) (i : Instr) : Bool :=
  let ok := fun (queue : Nat) (n : Nat) =>
    (decide (n < 24) && (decide (n = tr.areg0) || decide (n = tr.areg1))) || decide (24 ≤ n ∧ n < 28) || decide (n = queue)
  (scalarReads i).all (ok 30) && (scalarWrites i).all (ok 31)

/-- The capture of one instruction in place of its execution. One that may not be captured raises `ILLEGAL_OPCODE`, and
the capture is abandoned with the buffer empty. -/
def captureOp (i : Instr) (guarded : Bool) : M Unit := do
  let x ← me
  if isCapturable i && !guarded && captureOperands x.tr i then
    let s ← get
    updMe (fun x => { x with tr := { x.tr with buf := x.tr.buf ++ [{ pc := x.pc, instr := i, words := s.iss.words }]
                                               capture := x.tr.capture - 1 } })
  else
    faultKeep fcIllegalOpcode false (fun s => s.setMe { s.me with tr := { s.me.tr with buf := [], capture := 0 } })

/-- `TR.DEF` (R288). -/
def execTrDef (imm : Nat) (s : State) :=
  runI (do
    let a0 := nbits imm 8 4
    let a1 := nbits imm 13 9
    let bad := fun n => decide (24 ≤ n ∧ n < 31)
    needP (decide (imm / 2 ^ 14 = 0) && !bad a0 && !bad a1 && !(decide (a0 = a1) && decide (a0 < 24))) fcIllegalOpcode
    let x ← me
    needW (!x.tr.active)
    updMe (fun x => { x with tr := { x.tr with buf := [], capture := nbits imm 3 0 + 1, areg0 := a0, areg1 := a1 } })) s

/-! ## Replay (R289 to R292) -/

/-- `TR.GO` (R289). -/
def execTrGo (a : Reg) (imm : Nat) (s : State) :=
  runI (do
    let x ← me
    needP (decide (imm / 2 ^ 20 = 0) && !x.tr.buf.isEmpty) fcIllegalOpcode
    needW (!x.tr.active)
    ready ([a.val] ++ [x.tr.areg0, x.tr.areg1].filter (fun n => decide (n < 24))) []
    let w ← readS a.val
    if nbits imm 15 0 = 0 then pure ()
    else
      updMe (fun x => { x with tr := { x.tr with
        active := true, p := 0, j := 0, passes := 0, count := nbits imm 15 0, stride := nbits imm 19 16
        c0 := if x.tr.areg0 < 24 then x.g[x.tr.areg0]! else 0
        c1 := if x.tr.areg1 < 24 then x.g[x.tr.areg1]! else 0
        inc0 := fld w 31 0, inc1 := fld w 63 32 } })) s

/-- `TR.WAIT` (R291). -/
def execTrWait (d : Reg) (s : State) :=
  runI (do
    ready [] [d.val]
    let x ← me
    needW (!x.tr.active)
    writeS d.val (ofN x.tr.passes)) s

/-- `TR.STOP` (R291): the replay ends with its issue, and d is written when the instructions that have started are
complete; of these only matrix instructions take longer than their start. -/
def execTrStop (d : Reg) (s : State) :=
  runI (do
    ready [] [d.val]
    let x ← me
    let s ← get
    if (x.tr.active || x.tr.stopping) && (s.core s.myCore).matrix.any (fun w => decide (w.slot = s.cur % 16)) then
      waitKeep .retry (fun s => s.setMe { s.me with tr := { s.me.tr with active := false, stopping := true } })
    else
      updMe (fun x => { x with tr := { x.tr with active := false, stopping := false } })
      writeS d.val (ofN x.tr.passes)) s

/-- An instruction with every vector register renamed (R289). -/
def renamed (k : Nat) : Instr → Instr
  | .vld lm v a => .vld lm (shiftReg k v) a
  | .vst lm v a => .vst lm (shiftReg k v) a
  | .vlds lm t v a b => .vlds lm t (shiftReg k v) a b
  | .vgath lm t v a x => .vgath lm t (shiftReg k v) a (shiftReg k x)
  | .vscat lm t v a x => .vscat lm t (shiftReg k v) a (shiftReg k x)
  | .vAdd sat t d a b => .vAdd sat t (shiftReg k d) (shiftReg k a) (shiftReg k b)
  | .vSub sat t d a b => .vSub sat t (shiftReg k d) (shiftReg k a) (shiftReg k b)
  | .vMul t d a b => .vMul t (shiftReg k d) (shiftReg k a) (shiftReg k b)
  | .vFma d a b => .vFma (shiftReg k d) (shiftReg k a) (shiftReg k b)
  | .vFms d a b => .vFms (shiftReg k d) (shiftReg k a) (shiftReg k b)
  | .vMin t d a b => .vMin t (shiftReg k d) (shiftReg k a) (shiftReg k b)
  | .vMax t d a b => .vMax t (shiftReg k d) (shiftReg k a) (shiftReg k b)
  | .vAbs sat t d a => .vAbs sat t (shiftReg k d) (shiftReg k a)
  | .vNeg sat t d a => .vNeg sat t (shiftReg k d) (shiftReg k a)
  | .vRcp d a => .vRcp (shiftReg k d) (shiftReg k a)
  | .vRsq d a => .vRsq (shiftReg k d) (shiftReg k a)
  | .vSqrt d a => .vSqrt (shiftReg k d) (shiftReg k a)
  | .vExp2 d a => .vExp2 (shiftReg k d) (shiftReg k a)
  | .vLog2 d a => .vLog2 (shiftReg k d) (shiftReg k a)
  | .vAnd d a b => .vAnd (shiftReg k d) (shiftReg k a) (shiftReg k b)
  | .vOr d a b => .vOr (shiftReg k d) (shiftReg k a) (shiftReg k b)
  | .vXor d a b => .vXor (shiftReg k d) (shiftReg k a) (shiftReg k b)
  | .vAndn d a b => .vAndn (shiftReg k d) (shiftReg k a) (shiftReg k b)
  | .vShl t d a b => .vShl t (shiftReg k d) (shiftReg k a) (shiftReg k b)
  | .vShr t d a b => .vShr t (shiftReg k d) (shiftReg k a) (shiftReg k b)
  | .vSar t d a b => .vSar t (shiftReg k d) (shiftReg k a) (shiftReg k b)
  | .vCmp r t d a b => .vCmp r t (shiftReg k d) (shiftReg k a) (shiftReg k b)
  | .vSel d a b => .vSel (shiftReg k d) (shiftReg k a) (shiftReg k b)
  | .vRedAdd t d a => .vRedAdd t (shiftReg k d) (shiftReg k a)
  | .vRedMin t d a => .vRedMin t (shiftReg k d) (shiftReg k a)
  | .vRedMax t d a => .vRedMax t (shiftReg k d) (shiftReg k a)
  | .vBcast t d a => .vBcast t (shiftReg k d) a
  | .vExt t d a b => .vExt t d (shiftReg k a) b
  | .vIns t d a b => .vIns t (shiftReg k d) a b
  | .vPerm d a b => .vPerm (shiftReg k d) (shiftReg k a) (shiftReg k b)
  | .vCvt dst src d a => .vCvt dst src (shiftReg k d) (shiftReg k a)
  | .vScl inv d a b => .vScl inv (shiftReg k d) (shiftReg k a) b
  | .vPack dst src d a b => .vPack dst src (shiftReg k d) (shiftReg k a) (shiftReg k b)
  | .vUnpk dst src d a h => .vUnpk dst src (shiftReg k d) (shiftReg k a) h
  | .vDec8 d a h => .vDec8 (shiftReg k d) (shiftReg k a) h
  | .vEnc8 d a h => .vEnc8 (shiftReg k d) (shiftReg k a) h
  | .vDec4 d a h => .vDec4 (shiftReg k d) (shiftReg k a) h
  | .vEnc4 d a h => .vEnc4 (shiftReg k d) (shiftReg k a) h
  | .mRd v m b => .mRd (shiftReg k v) m b
  | .mWr m v b => .mWr m (shiftReg k v) b
  | i => i

/-- A scalar source of a replayed instruction: the copy of an address register, moved on by the pass, or a word popped
from q0 to q3 or q6 (R288, R289). -/
def replayRead (n : Nat) : M Word := do
  let x ← me
  if n < 24 then
    if n = x.tr.areg0 then pure (x.tr.c0 + ofI ((x.tr.p : Int) * sext 32 x.tr.inc0))
    else pure (x.tr.c1 + ofI ((x.tr.p : Int) * sext 32 x.tr.inc1))
  else if n = 30 then
    match x.q6 with
    | [] => waitOn .retry
    | w :: ws => do
      updMe (fun x => { x with q6 := ws })
      pure w
  else readS n

/-- The replay one instruction further (R289). -/
def Treadle.step (t : Treadle) : Treadle :=
  if t.j + 1 < t.buf.length then { t with j := t.j + 1 }
  else { t with j := 0, p := t.p + 1, passes := t.passes + 1, active := decide (t.p + 1 < t.count) }

/-- The meaning of the instruction that a replay is at. -/
def replayOp : M Unit := do
  let x ← me
  match x.tr.buf[x.tr.j]? with
  | none => updMe (fun x => { x with tr := { x.tr with active := false } })
  | some e =>
    let srcs ← (scalarReads e.instr).mapM replayRead
    match startOf (renamed (x.tr.p * x.tr.stride) e.instr) with
    | none => pure ()
    | some start => start srcs
    updMe (fun x => { x with tr := x.tr.step })

/-- One engine turn of a slot's replay: it waits for the engine instructions before it, and a fault parks the slot with
pass and index in the record, whose PC is that of the captured instruction (R292, R394, R395). -/
def State.replayIssue (s : State) (gs : Nat) : State :=
  let x := s.slot gs
  match x.run with
  | .parked _ => s
  | _ =>
    let e : TrEntry := (x.tr.buf[x.tr.j]?).getD { pc := x.pc, instr := .nop, words := [] }
    let i := renamed (x.tr.p * x.tr.stride) e.instr
    if !x.tr.active || !x.engq.isEmpty then s
    else if (s.core (gs / 16)).unitsBad (gs % 16) (startUnits i) then s.engineKill gs e.pc (e.pc + 2 * e.words.length)
    else match replayOp (s.engineOf gs true) with
      | .ok (_, t) =>
        let t : State := { t.setCore (gs / 16) ((t.core (gs / 16)).unitsWritten (gs % 16) (wroteUnits i)) with cur := s.cur, iss := s.iss }
        let x := t.slot gs
        (t.setSlot gs { x with walked := x.walked.filter (fun w => !decide (w.kind = .engine)) }).charge gs
      | .error (.wait _ keep) => { keep (s.engineOf gs true) with cur := s.cur, iss := s.iss }
      | .error (.fault f _) =>
        if s.amoOpen gs then s else
        let s := s.parkSlot gs .fault
        let s := s.setSlot gs { s.slot gs with late := none }
        s.slotRecord gs f e.pc true [(32, bytesOf 8 (e.pc + 2 * e.words.length)), (40, bytesOf 2 x.tr.p), (42, bytesOf 1 x.tr.j)]

def execTreadleReplayIssue (gs : Nat) (s : State) : Host.Outcome State Fault Refusal := .next (s.replayIssue gs)

end Sys2Proof.Machine
end

