-- ==== Sys2Proof/Machine/Tasks.lean ====
section
/-! DEFINITION. Task queues, launches, packets, placement and binding (chapter 14, R303 to R307), the end of a task
(R223) and of a launch (R358, R359). -/

namespace Sys2Proof.Machine

/-! ## Process and queue tables (R352) -/

/-- Bytes at their home as all stores merged there leave them. -/
def State.peek (s : State) (key n : Nat) : List Byte := (s.physRead key n).2

/-- A little-endian value of `n` bytes at an offset of a byte string. -/
def bytesAt (l : List Byte) (o n : Nat) : Nat := ofBytes ((l.drop o).take n)

/-- A value of `n` bytes at a physical address. -/
def State.peekNat (s : State) (key n : Nat) : Nat := ofBytes (s.peek key n)

/-- Writes a value of `n` bytes at a physical address. -/
def State.pokeNat (s : State) (key n v : Nat) : State := s.physWrite key (bytesOf n v)

/-- PTROOT, without its reserved bits (R8, R72), QTBASE and QTCOUNT of a process of a partition; none when the ASN has no
entry. -/
def State.process (s : State) (part asn : Nat) : Option (Word × Nat × Nat) :=
  let w := (s.part part).w7
  if fld w 63 48 ≤ asn then none
  else
    let a := fld w 43 5 * 32 + 32 * asn
    let root := setFld (setFld (ofN (s.peekNat a 8)) 47 44 part) 13 1 0
    some (root, s.peekNat (a + 8) 8 % physEnd, s.peekNat (a + 16) 2)

/-- QMAX and RESQ of a partition (R377). -/
def PartWords.qmax (w : PartWords) : Nat := fld w.w6 28 16
def PartWords.resq (w : PartWords) : Nat := fld w.w6 6 0

/-- The address of the descriptor of a queue handle; none where R352 makes the handle absent. -/
def State.queueAt (s : State) (part asn h : Nat) : Option Nat :=
  match s.process part asn with
  | none => none
  | some (_, base, count) =>
    if min count (s.part part).qmax ≤ h then none
    else
      let d := s.peekNat (base + 8 * h) 8 % physEnd
      let flags := s.peekNat (d + 17) 1
      if d = 0 ∨ nbit flags 3 = false ∨ 16 < nbits (s.peekNat (d + 16) 1) 4 0 then none else some d

/-- The dies that hold cores of a partition. -/
def State.diesOf (s : State) (part : Nat) : List Nat :=
  (List.range 4).filter (fun d => (List.range (s.part part).clen).any (fun i => decide (dieOfCore (s.clist part i) = d)))

/-- The die whose dispatcher acts for a partition as a whole. -/
def State.firstDie (s : State) (part : Nat) : Nat := dieOfCore (s.clist part 0)

/-! ## Resident queues (R353) -/

/-- Whether a resident entry is the one of a die and queue. -/
def Resident.is (r : Resident) (die part asn h : Nat) : Bool :=
  decide (r.die = die ∧ r.part = part ∧ r.asn = asn ∧ r.handle = h)

/-- The resident entry of a queue on a die. -/
def State.residentOn (s : State) (die part asn h : Nat) : Option Resident :=
  s.residents.find? (fun r => r.is die part asn h)

/-- Changes the resident entry of a queue on a die. -/
def State.updResident (s : State) (die part asn h : Nat) (f : Resident → Resident) : State :=
  { s with residents := s.residents.map (fun r => if r.is die part asn h then f r else r) }

/-- DHEAD of a die for the queue whose descriptor lies at `d`. -/
def State.dhead (s : State) (die part asn h d : Nat) : Nat :=
  match s.residentOn die part asn h with
  | some r => r.dhead
  | none => s.peekNat (d + 20 + 4 * die) 4

/-- Packets in a queue: TAIL − HEAD, where HEAD is the least DHEAD over the dies of the partition (R352). -/
def State.queueDepth (s : State) (part asn h d : Nat) : Nat :=
  let tail := s.peekNat (d + 8) 4
  ((s.diesOf part).map (fun die => (tail + 2 ^ 32 - s.dhead die part asn h d) % 2 ^ 32)).foldl max 0

/-- HEAD of a queue. -/
def State.queueHead (s : State) (part asn h d : Nat) : Nat :=
  (s.peekNat (d + 8) 4 + 2 ^ 32 - s.queueDepth part asn h d) % 2 ^ 32

/-- Writes a resident entry back to its descriptor and frees its place (R353 step 1). -/
def State.evictResident (s : State) (r : Resident) : State :=
  let s' := match s.queueAt r.part r.asn r.handle with
    | some d =>
      (s.pokeNat (d + 20 + 4 * r.die) 4 r.dhead).pokeNat (d + 12) 4 (s.queueHead r.part r.asn r.handle d)
    | none => s
  { s' with residents := s'.residents.filter (fun q => !q.is r.die r.part r.asn r.handle) }

/-- The least recently used of some entries. -/
def oldest : List Resident → Option Resident
  | [] => none
  | r :: rs =>
    match oldest rs with
    | none => some r
    | some q => if r.lastUse ≤ q.lastUse then some r else some q

/-- The place for one more queue of a partition on a die: none where every place of the quota holds a pinned queue,
else the entry that must go, if one must. -/
def State.placeFor (s : State) (die part : Nat) : Option (Option Resident) :=
  let l := s.residents.filter (fun r => decide (r.die = die ∧ r.part = part))
  if l.length < (s.part part).resq then some none
  else (oldest (l.filter (fun r => !r.pinned))).map some

/-- Cycles of one millisecond and of one microsecond (R16). -/
def cyclesPerMs : Nat := 1200000
def cyclesPerUs : Nat := 1200

/-- The `QUEUE_MISS` event (R353, R395): once per millisecond, die and partition, and one that waits takes the new
count (R393). -/
def State.postMiss (s : State) (die part : Nat) : State :=
  let count := (s.part part).qmiss
  let bytes := recordBytes fcQueueMiss part 4 0 0 0 0 0 false false s.hub.scan 0 0
    [(32, bytesOf 4 count), (36, bytesOf 1 die)]
  let mine := fun (w : WaitingRecord) => decide (w.code = fcQueueMiss ∧ bytesAt w.bytes 36 1 = die
    ∧ bytesAt w.bytes 0 8 = bytesAt bytes 0 8)
  if s.fqWait.any mine then
    { s with fqWait := s.fqWait.map (fun w => if mine w then { w with bytes := bytes } else w) }
  else
    let last := s.missPosted.val (die * 16 + part) 0
    if last = 0 ∨ last + cyclesPerMs ≤ s.now + 1 then
      { s with missPosted := s.missPosted.put (die * 16 + part) (s.now + 1) }.postRecord 0 fcQueueMiss none bytes
    else s

/-- One more in a 16-bit saturating count in memory. -/
def State.bump16 (s : State) (key : Nat) : State := s.pokeNat key 2 (min 65535 (s.peekNat key 2 + 1))

/-- Loads the descriptor at `d` into a place of a die. -/
def State.loadResident (s : State) (die part asn h d : Nat) (pinned : Bool) : State :=
  { s with residents := s.residents ++
      [{ die := die, part := part, asn := asn, handle := h, pinned := pinned, lastUse := s.now
         ring := nbits (s.peekNat d 8) 43 6 * 64, log2n := nbits (s.peekNat (d + 16) 1) 4 0
         prio := nbits (s.peekNat (d + 17) 1) 1 0, dhead := s.peekNat (d + 20 + 4 * die) 4 }] }

/-- A queue becomes resident on a die, in place of the least recently used unpinned entry when the quota is full (R353 steps 1
and 2). -/
def State.makeResident (s : State) (die part asn h : Nat) : State :=
  if (s.residentOn die part asn h).isSome then s
  else match s.queueAt part asn h, s.placeFor die part with
    | some d, some victim =>
      let s := match victim with
        | some r => s.evictResident r
        | none => s
      s.loadResident die part asn h d false
    | _, _ => s

/-- A queue miss of the queue at descriptor `d` counts (R353 step 3). -/
def State.countMiss (s : State) (die part d : Nat) : State :=
  let s := s.bump16 (d + 18)
  (s.setPart part { s.part part with qmiss := satTo (2 ^ 64 - 1) (s.part part).qmiss }).postMiss die part

/-- Serves a queue miss (R353 steps 1 to 3). -/
def State.serveMiss (s : State) (die part asn h : Nat) : State :=
  if (s.residentOn die part asn h).isSome then s
  else match s.queueAt part asn h, s.placeFor die part with
    | some d, some _ => (s.makeResident die part asn h).countMiss die part d
    | _, _ => s

def execQueueMiss (die part asn handle : Nat) (s : State) : Host.Outcome State Fault Refusal :=
  .next (s.serveMiss die part asn handle)

/-- Appends a packet at the tail of a queue (R353); none when the queue is full (R352). -/
def State.appendPacket (s : State) (part asn h d ring log2n : Nat) (packet : List Byte) : Option State :=
  let tail := s.peekNat (d + 8) 4
  if s.queueDepth part asn h d = 2 ^ log2n then none
  else
    let s := s.physWrite (ring + 64 * (tail % 2 ^ log2n)) packet
    let s := s.pokeNat (d + 8) 4 ((tail + 1) % 2 ^ 32)
    some { s with pushed := if s.pushed.any (fun q => decide (q = (part, asn, h))) then s.pushed
                            else s.pushed ++ [(part, asn, h)] }

/-! ## TQ.PUSH, TQ.SPAWN, TQ.PIN, TQ.STAT (R303 to R306) -/

/-- The resident entry of a handle on the issuing die; a miss is served while the instruction waits (R353). -/
def queueFor (h : Nat) : M (Nat × Resident) := do
  let s ← get
  let part := s.me.part
  let asn := fld s.me.ptroot 63 48
  let die := dieOfCore s.myCore
  match s.queueAt part asn h with
  | none => faultP fcPageAbsent (ofN h)
  | some d =>
    match s.residentOn die part asn h with
    | some r =>
      upd (fun s => s.updResident die part asn h (fun r => { r with lastUse := s.now }))
      pure (d, r)
    | none =>
      if (s.placeFor die part).isNone then faultP fcPageAbsent (ofN h)
      else waitKeep .retry (fun s => { s with agenda := s.agenda ++ [.queueMiss die part asn h] })

/-- A push by the executing task; answers whether the packet was queued. An accepted push counts in SENT, and with its
completion in RECV, of the task's launch (R358). -/
def pushOp (d : Nat) (r : Resident) (packet : List Byte) : M Bool := do
  let s ← get
  match s.appendPacket r.part r.asn r.handle d r.ring r.log2n packet with
  | none => pure false
  | some t =>
    let l := s.launchOf s.cur
    set ((t.addSent l).addRecv l)
    pure true

/-- `TQ.PUSH` (R303). -/
def execTqPush (d a b : Reg) (s : State) :=
  runI (do
    memoryTurn
    ready [a.val, b.val] [d.val]
    let h ← readS a.val
    let va ← readS b.val
    aligned va 64
    let l ← locate .r false va
    let (q, r) ← queueFor (fld h 11 0)
    releaseAt .part
    let v ← loadAt l 64
    let ok ← pushOp q r (bytesOf 64 v)
    writeS d.val (if ok then 0 else 1)) s

/-- An accepted spawn raises the end count of a deferred launch (R359). -/
def State.raiseEnd (s : State) (k : Nat) : State :=
  let l := s.launch k
  if l.isOpen && bitOf (ofN (bytesAt l.header 0 8)) 61 then s.updLaunch k (fun l => { l with endCount := l.endCount + 1 })
  else s

/-- `TQ.SPAWN` (R304). -/
def execTqSpawn (d a b : Reg) (s : State) :=
  runI (do
    memoryTurn
    ready [a.val, b.val] [d.val]
    let h ← readS a.val
    let wid ← readS b.val
    let x ← me
    match x.task.bind (fun t => t.packet.map (fun p => (t.part * 16 + p.1, p))) with
    | none => faultP fcIllegalOpcode
    | some (k, (launch, compl, _)) =>
      needP (decide (fld h 15 12 = 0)) fcIllegalOpcode
      needL (!bitOf h 16) fcAlign (ofN (fld h 63 16))
      let (q, r) ← queueFor (fld h 11 0)
      releaseAt .part
      let ok ← pushOp q r (({ x with wid := wid } : Slot).replayPacket launch compl (fld h 63 16))
      if ok then upd (fun s => s.raiseEnd k) else pure ()
      writeS d.val (if ok then 0 else 1)) s

/-- Header word `i` of a launch (R344). -/
def Launch.word (l : Launch) (i : Nat) : Word := ofN (bytesAt l.header (8 * i) 8)

/-- MODE, ASN and QUEUE of a launch header. -/
def Launch.mode (l : Launch) : Nat := fld (l.word 0) 63 62
def Launch.asn (l : Launch) : Nat := fld (l.word 4) 15 0
def Launch.queue (l : Launch) : Nat := fld (l.word 4) 27 16

/-- Whether an open figure-mode or tracing-mode launch names a queue (R353). -/
def State.queueInUse (s : State) (part asn h : Nat) : Bool :=
  s.launches.any (fun e => decide (e.1 / 16 = part) && e.2.isOpen && !decide (e.2.mode = 0)
    && decide (e.2.asn = asn ∧ e.2.queue = h))

/-- Sets PINNED of a queue in its descriptor and on every die (R305). -/
def State.setPinned (s : State) (part asn h d : Nat) (on : Bool) : State :=
  let f := s.peekNat (d + 17) 1
  let s := s.pokeNat (d + 17) 1 (f - b2n (nbit f 2) * 4 + b2n on * 4)
  (s.diesOf part).foldl (fun s die => s.updResident die part asn h (fun r => { r with pinned := on })) s

/-- `TQ.PIN` and `TQ.PIN.unpin` (R305, R353). A pin of a handle that is not resident on the issuing die is a queue miss there. -/
def execTqPin (unpin : Bool) (d a : Reg) (s : State) :=
  runI (do
    ready [a.val] [d.val]
    let w ← readS a.val
    let h := fld w 11 0
    let s ← get
    let part := s.me.part
    let asn := fld s.me.ptroot 63 48
    match s.queueAt part asn h with
    | none => faultP fcPageAbsent (ofN h)
    | some q =>
      if unpin then
        if s.queueInUse part asn h then writeS d.val 0
        else
          upd (fun s => s.setPinned part asn h q false)
          writeS d.val 1
      else if (s.diesOf part).all (fun die => (s.residentOn die part asn h).isSome || (s.placeFor die part).isSome) then
        let own := dieOfCore s.myCore
        upd (fun s => ((s.diesOf part).foldl (fun s die =>
          if die = own then s.serveMiss die part asn h else s.makeResident die part asn h) s).setPinned part asn h q true)
        writeS d.val 1
      else writeS d.val 0) s

/-- `TQ.STAT` (R306). The read of a handle that is not resident on the issuing die is a queue miss, which counts (R353 step 3)
before the descriptor is read and makes nothing resident. -/
def execTqStat (d a : Reg) (s : State) :=
  runI (do
    ready [a.val] [d.val]
    let w ← readS a.val
    let h := fld w 11 0
    let s ← get
    let part := s.me.part
    let asn := fld s.me.ptroot 63 48
    match s.queueAt part asn h with
    | none => faultP fcPageAbsent (ofN h)
    | some q =>
      let r := s.residentOn (dieOfCore s.myCore) part asn h
      if r.isNone then upd (fun s => s.countMiss (dieOfCore s.myCore) part q) else pure ()
      let s ← get
      let flags := s.peekNat (q + 17) 1
      writeS d.val (ofN (min 65535 (s.queueDepth part asn h q) * 2 ^ 48
        + (match r with
          | some r => r.prio
          | none => nbits flags 1 0) * 2 ^ 46
        + b2n r.isSome * 2 ^ 45 + b2n (nbit flags 2) * 2 ^ 44 + s.peekNat (q + 18) 2 * 2 ^ 16 + h))) s

/-- `TSTAT` (R307). -/
def execTstat (d : Reg) (s : State) :=
  runI (do
    ready [] [d.val]
    let s ← get
    let x := s.me
    let k := s.core s.myCore
    let lane := match x.task with
      | some t => t.lane
      | none => 0xFFFF
    writeS d.val (ofN (k.scan * 2 ^ 32 + k.beat * 2 ^ 28 + x.mode * 2 ^ 26 + x.part * 2 ^ 20 + lane))) s

/-! ## Counters of a launch (R344, R358) -/

/-- Translates an address through the tables of a process for the dispatcher of a die. -/
def State.procAccess (s : State) (die part asn : Nat) (need : Need) (va : Nat) : Option (State × Loc) :=
  match s.process part asn with
  | none => none
  | some (root, _, _) =>
    match touchAfter (s.xlateHub (16 * die) root need va) with
    | (_, .error _) => none
    | (t, .ok l) => some (t, l)

/-- The place of counter `i` of a launch with a right; none when it is untranslatable, lacks the right, or is poisoned
(R345, R348, R358). -/
def State.counterAt (s : State) (die part : Nat) (l : Launch) (need : Need) (i : Nat) : Option (State × Loc) :=
  match s.procAccess die part l.asn need ((l.word 5).toNat + 8 * i) with
  | none => none
  | some (t, p) => if t.isPoisoned p.key then none else some (t, p)

/-- The place and value of a counter that the dispatcher watches; a poisoned one reads as zero on a page with ETOL (R403). -/
def State.counterValue (s : State) (die part : Nat) (l : Launch) (i : Nat) : Option (Nat × Nat) :=
  match s.procAccess die part l.asn .r ((l.word 5).toNat + 8 * i) with
  | none => none
  | some (t, p) =>
    if !t.isPoisoned p.key then some (p.key, t.peekNat p.key 8) else if p.etol then some (p.key, 0) else none

/-- Whether a dispatcher's access for a partition at an address waits, in its walk or at the home, because a slice stalls the
partition (R106). -/
def State.procStalls (s : State) (die part asn : Nat) (va : Nat) : Bool :=
  match s.process part asn with
  | none => false
  | some (root, _, _) =>
    match s.xlateHub (16 * die) root .r va with
    | (_, .error .walk) => true
    | (t, .ok l) => t.holdingStall part l
    | _ => false

/-- The same for counter `i` of a launch. -/
def State.counterStalls (s : State) (die part : Nat) (l : Launch) (i : Nat) : Bool :=
  s.procStalls die part l.asn ((l.word 5).toNat + 8 * i)

/-- The add of 1 that a dispatcher makes to a counter for the launch's partition; one that cannot be made is recorded (R358), and
one at a reserved word waits behind the reservation, as a RED does (R98). The record of a task's add names the slot `who` that ran
it (R394). -/
def State.counterAdd (s : State) (who : Option Nat) (die part : Nat) (l : Launch) (i : Nat) : State :=
  match s.counterAt die part l .w i with
  | some (t, p) =>
    if t.reserved p.key then
      let n := t.homeSlice p.key
      t.setAmo n ((t.slice n).amo ++ [{ key := p.key, core := 256, slot := 4096, granted := false
                                        op := .red .add false false 1, via := { part := part } }])
    else
      let (t, v) := t.takeWord p.key false part
      t.putWord p.key false ((v + 1) % 2 ^ 64)
  | none =>
    let bytes := match who with
      | some gs =>
        let x := s.slot gs
        recordBytes fcLaunch part 3 0 (gs / 16) (gs % 16) x.tin x.mode false x.handler (s.core (gs / 16)).scan 0 9 [(32, bytesOf 2 i)]
      | none => recordBytes fcLaunch part 3 0 0 0 0 0 false false s.hub.scan 0 9 [(32, bytesOf 2 i)]
    s.postRecord (s.recordQueue part fcLaunch) fcLaunch none bytes

/-! ## The end of a task (R223) -/

/-- Whether a task's completion needs the write-back of R359: a deferred launch, on a core off the launch's die. -/
def Launch.offDie (l : Launch) (core : Nat) : Bool := bitOf (l.word 0) 61 && !decide (dieOfCore core = l.die)

/-- Part 1 of `TEND`: what it waits for (R223, R279). -/
def Core.quiet (k : Core) (x : Slot) (slot : Nat) : Bool :=
  x.cp.queue.isEmpty && x.engq.isEmpty && !x.tr.active
  && !(decide (k.latch.holder = some slot) && k.latch.sending.isSome)

/-- The completion add of a task that a packet brought. -/
def State.completeTask (s : State) (gs : Nat) : State :=
  let x := s.slot gs
  match x.task with
  | some t =>
    match t.packet with
    | some (launch, compl, _) =>
      let l := s.launch (t.part * 16 + launch)
      let s := if l.offDie (gs / 16) then s.flushU (gs / 16) else s
      s.counterAdd (some gs) (dieOfCore (gs / 16)) t.part l compl
    | none => s
  | none => s

/-- A slot as `TEND` frees it: no task, no signature or trap state. -/
def Slot.freed (x : Slot) : Slot :=
  { x with task := none, run := .parked .noThread, sig := SigState.reset, sigAside := SigState.reset, handler := false
           waitLeft := none, awPhase := none, wseq := none, clPos := none, walked := []
           left := if x.limit = 0 then x.left else signed32 (x.left - 1) }

/-- Part 2 of `TEND`, in one step. -/
def State.endTask (s : State) (gs : Nat) : State :=
  let c := gs / 16
  let s := (s.release c .die).completeTask gs
  let s := (s.returnInbox gs).leaveCombiners c (gs % 16)
  let s := s.setCore c ((s.core c).freeLatch (s.slot gs).part (gs % 16))
  (s.dropWaits gs).setSlot gs (s.slot gs).freed

/-- Whether the completion add of a slot's task waits at a slice that stalls (R106). -/
def State.endStalls (s : State) (gs : Nat) : Bool :=
  match (s.slot gs).task with
  | some t =>
    match t.packet with
    | some (launch, compl, _) =>
      s.counterStalls (dieOfCore (gs / 16)) t.part (s.launch (t.part * 16 + launch)) compl
    | none => false
  | none => false

/-- `TEND` (R223). The issue that completes it is charged with the step. -/
def execTend (s : State) : Host.Outcome State Fault Refusal :=
  if (s.core s.myCore).quiet s.me (s.cur % 16) && !s.endStalls s.cur then .next (s.endTask s.cur) else .next (s.waiting .retry)

/-! ## Launch packets (R344 to R346) -/

/-- Fields of a packet (R346). -/
def pkWidBase (p : List Byte) : Nat := bytesAt p 0 8
def pkCount (p : List Byte) : Nat := bytesAt p 8 4
def pkEntry (p : List Byte) : Nat := bytesAt p 12 6
def pkStart (p : List Byte) : Bool := nbit (bytesAt p 18 1) 6
def pkNdep (p : List Byte) : Nat := nbits (bytesAt p 18 1) 5 4
def pkLaunch (p : List Byte) : Nat := nbits (bytesAt p 18 1) 3 0
def pkCompl (p : List Byte) : Nat := bytesAt p 46 2
def pkDep (p : List Byte) (i : Nat) : Nat := bytesAt p (52 + 2 * i) 2
def pkThr (p : List Byte) (i : Nat) : Nat := bytesAt p (56 + 4 * i) 4

/-- Width k of a launch's WID fields, and their total (R343). -/
def Launch.width (l : Launch) (k : Nat) : Nat := fld (l.word 1) (7 * k + 6) (7 * k)
def Launch.widBits (l : Launch) : Nat := ((List.range 6).map l.width).sum

/-- NCB, NSB and the selectors (R344). -/
def Launch.ncb (l : Launch) : Nat := fld (l.word 2) 51 48
def Launch.nsb (l : Launch) : Nat := fld (l.word 3) 26 24
def Launch.csel (l : Launch) (j : Nat) : Nat := fld (l.word 2) (6 * j + 5) (6 * j)
def Launch.ssel (l : Launch) (j : Nat) : Nat := fld (l.word 3) (6 * j + 5) (6 * j)

/-- The slot numbers of a partition in ascending order. -/
def PartWords.slotList (w : PartWords) : List Nat := (List.range 16).filter (nbit w.slotMask)

/-- Check 2 of R345. -/
def Launch.badFields (l : Launch) (part : Nat) (packet : List Byte) : Bool :=
  let sels := (List.range l.ncb).map l.csel ++ (List.range l.nsb).map l.ssel
  !decide (fld (l.word 0) 55 48 = 0 ∧ fld (l.word 1) 63 42 = 0 ∧ fld (l.word 2) 63 52 = 0 ∧ fld (l.word 3) 63 27 = 0
    ∧ fld (l.word 4) 63 28 = 0 ∧ fld (l.word 7) 63 32 = 0)
  || (List.range 7).any (fun i => !decide (l.word (9 + i) = 0))
  || decide (l.mode = 3) || decide (64 < l.widBits) || decide (8 < l.ncb) || decide (4 < l.nsb)
  || sels.any (fun b => decide (l.widBits ≤ b)) || (bitOf (l.word 0) 56 && !decide (part = 0))
  || !decide (pkNdep packet = 0) || bitOf (l.word 0) 0

/-- Whether the tracing barrier fails R244 (check 7 of R345). -/
def State.badTraceBar (s : State) (die part : Nat) (l : Launch) : Bool :=
  decide (l.mode = 2) &&
    (!decide ((l.word 8).toNat % 32 = 0) ||
      (match s.procAccess die part l.asn .rw (l.word 8).toNat with
       | none => true
       | some (t, p) => !(t.barAt p.key).2.ok part))

/-- The checks of R345 from 2 on: code 0 when the launch is accepted. -/
def State.launchCode (s : State) (die part asn h : Nat) (l : Launch) (packet : List Byte) : Nat :=
  let w := s.part part
  let pinnedAll := (s.diesOf part).all (fun d => match s.residentOn d part l.asn l.queue with
    | some r => r.pinned
    | none => false)
  let ordinals := (List.range (2 ^ l.ncb)).map (fun i => dieOfCore (s.clist part i))
  let deferred := bitOf (l.word 0) 61
  if l.badFields part packet then 2
  else if w.clen < 2 ^ l.ncb ∨ w.slotList.length < 2 ^ l.nsb then 3
  else if (s.launch (part * 16 + pkLaunch packet)).isOpen then 4
  else if l.mode ≠ 0 ∧ (pinnedAll = false ∨ l.asn ≠ asn ∨ l.queue ≠ h) then 5
  else if (s.process part l.asn).isNone then 6
  else if s.badTraceBar die part l then 7
  else if deferred && ordinals.any (fun d => !decide (some d = ordinals.head?)) then 8
  else if !decide (fld (l.word 5) 2 0 = 0) || (deferred && decide (l.word 6 = 0))
      || (s.counterAt die part l .rw (fld (l.word 7) 31 16)).isNone
      || (deferred && (s.counterAt die part l .rw (fld (l.word 7) 15 0)).isNone) then 9
  else 0

/-- The launch header that a packet names, or none for check 1 of R345. -/
def State.headerOf (s : State) (die part asn : Nat) (packet : List Byte) : Option (List Byte) :=
  let va := pkWidBase packet
  if va % 128 ≠ 0 then none
  else match s.procAccess die part asn .r va with
    | none => none
    | some (t, p) => if t.anyPoison p.key 128 then none else some (t.peek p.key 128)

/-- The record of a refused launch or packet (R345, R348, R395). -/
def State.refusePacket (s : State) (part h code : Nat) (packet : List Byte) : State :=
  s.postRecord (s.recordQueue part fcLaunch) fcLaunch none
    (recordBytes fcLaunch part 3 0 0 0 0 0 false false s.hub.scan 0 code [(32, bytesOf 2 h), (64, packet)])

/-- The mark of a packet, if a die has judged it. -/
def State.markOf (s : State) (part asn h num : Nat) : Option PacketMark :=
  s.marks.find? (fun m => decide (m.part = part ∧ m.asn = asn ∧ m.handle = h ∧ m.num = num))

/-- The packet at the head of a queue on a die (R352). -/
def State.headPacket (s : State) (r : Resident) : List Byte := s.peek (r.ring + 64 * (r.dhead % 2 ^ r.log2n)) 64

/-- A resident queue that holds a packet for its die. -/
def State.pendingOn (s : State) (die part asn h : Nat) : Option (Nat × Resident) :=
  match s.queueAt part asn h, s.residentOn die part asn h with
  | some d, some r => if r.dhead = s.peekNat (d + 8) 4 then none else some (d, r)
  | _, _ => none

/-- Whether a read of a launch header, or of the counters that it names, waits at a slice that stalls the partition (R106). -/
def State.launchStalls (s : State) (die part asn : Nat) (p : List Byte) : Bool :=
  s.procStalls die part asn (pkWidBase p) ||
    (match s.headerOf die part asn p with
     | some hdr =>
       let l := { Launch.reset with header := hdr }
       s.counterStalls die part l (fld (l.word 7) 31 16) || s.counterStalls die part l (fld (l.word 7) 15 0)
     | none => false)

/-- A launch packet at the head of its queue (R345): opens its entry or is refused. -/
def State.openLaunch (s : State) (die part asn h : Nat) : State :=
  match s.pendingOn die part asn h with
  | none => s
  | some (_, r) =>
    let p := s.headPacket r
    if !pkStart p || (s.markOf part asn h r.dhead).isSome || s.launchStalls die part asn p then s
    else
      let mark := fun (s : State) (code : Nat) => ({ s with marks := s.marks ++
        [{ part := part, asn := asn, handle := h, num := r.dhead, code := code, eligible := true }] } : State)
      match s.headerOf die part asn p with
      | none => mark (s.refusePacket part h 1 p) 1
      | some hdr =>
        let l := { Launch.reset with header := hdr }
        match s.launchCode die part asn h l p with
        | 0 =>
          mark (s.updLaunch (part * 16 + pkLaunch p) (fun _ =>
            { l with isOpen := true, endCount := (l.word 6).toNat, die := dieOfCore (s.clist part 0) })) 0
        | code => mark (s.refusePacket part h code p) code

def execLaunchOpen (die part asn handle : Nat) (s : State) : Host.Outcome State Fault Refusal :=
  .next (s.openLaunch die part asn handle)

/-! ## Placement (R350) -/

/-- An ordinal from selected WID bits. -/
def ordinalOf (wid : Nat) (n : Nat) (sel : Nat → Nat) : Nat :=
  ((List.range n).map (fun j => b2n (nbit wid (sel j)) * 2 ^ j)).sum

/-- Core ordinal, slot ordinal and lane of a WID. -/
def Launch.cord (l : Launch) (wid : Nat) : Nat := ordinalOf wid l.ncb l.csel
def Launch.sord (l : Launch) (wid : Nat) : Nat := ordinalOf wid l.nsb l.ssel
def Launch.laneOf (l : Launch) (wid : Nat) : Nat := l.cord wid * 2 ^ l.nsb + l.sord wid

/-- The core of a WID's placement. -/
def State.coreOf (s : State) (part : Nat) (l : Launch) (wid : Nat) : Nat := s.clist part (l.cord wid)

/-- The first index at or after `i` whose WID is placed on a die; `n` indices are left. -/
def State.nextOn (s : State) (die part : Nat) (l : Launch) (base i : Nat) : Nat → Option Nat
  | 0 => none
  | n + 1 => if dieOfCore (s.coreOf part l (base + i)) = die then some i else s.nextOn die part l base (i + 1) n

/-! ## Work packets (R348, R349) -/

/-- The checks of R348: code 0 when the packet is accepted. -/
def State.packetCode (s : State) (die part asn h : Nat) (l : Launch) (p : List Byte) : Nat :=
  let entry := if pkEntry p = 0 then fld (l.word 0) 47 0 else pkEntry p
  let deps := List.range (pkNdep p)
  if pkCount p = 0 ∨ 2 ^ l.widBits < pkWidBase p + pkCount p then 16
  else if l.mode ≠ 0 ∧ (asn ≠ l.asn ∨ h ≠ l.queue ∨ (match l.lastWid with
      | some w => decide (pkWidBase p ≤ w)
      | none => false) = true) then 17
  else if bitOf (l.word 0) 61 = true ∧ pkCompl p ≠ fld (l.word 7) 15 0 then 18
  else if nbit (bytesAt p 18 1) 7 = true ∨ bytesAt p 19 1 ≠ 0 ∨ bytesAt p 32 8 / 2 ^ 57 ≠ 0 ∨ pkNdep p = 3
      ∨ entry % 2 = 1 then 19
  else if deps.any (fun i => (s.counterValue die part l (pkDep p i)).isNone)
      || (s.counterAt die part l .rw (pkCompl p)).isNone then 20
  else 0

/-- Whether every dependence counter of a packet has met its threshold (R349). -/
def State.depsMet (s : State) (die part : Nat) (l : Launch) (p : List Byte) : Bool :=
  (List.range (pkNdep p)).all (fun i => match s.counterValue die part l (pkDep p i) with
    | some (_, v) => decide (pkThr p i ≤ v)
    | none => false)

/-- Whether a read of a counter of a packet waits at a slice that stalls the partition (R106). -/
def State.packetStalls (s : State) (die part : Nat) (l : Launch) (p : List Byte) : Bool :=
  s.counterStalls die part l (pkCompl p) || (List.range (pkNdep p)).any (fun i => s.counterStalls die part l (pkDep p i))

/-- The packet passes the head of its queue on a die: DHEAD rises, in the resident entry or in the descriptor, and marks that
no die needs go (R352). -/
def State.passPacket (s : State) (die part asn h d : Nat) : State :=
  let s := if (s.residentOn die part asn h).isSome then
      s.updResident die part asn h (fun r => { r with dhead := (r.dhead + 1) % 2 ^ 32 })
    else s.pokeNat (d + 20 + 4 * die) 4 ((s.dhead die part asn h d + 1) % 2 ^ 32)
  let depth := s.queueDepth part asn h d
  let tail := s.peekNat (d + 8) 4
  { s with marks := s.marks.filter (fun m => !decide (m.part = part ∧ m.asn = asn ∧ m.handle = h)
      || decide ((tail + 2 ^ 32 - m.num) % 2 ^ 32 ≤ depth ∧ 0 < depth)) }

/-- Whether a record of a refused packet of a queue still waits (R393). -/
def State.refusalWaits (s : State) (part h : Nat) : Bool :=
  s.fqWait.any (fun w => decide (w.code = fcLaunch ∧ bytesAt w.bytes 32 2 = h ∧ bytesAt w.bytes 6 1 / 16 = part))

/-- The write-back of R359 before a dependent packet binds on a die: by the cores of the other die that ran the launch. -/
def State.dependFlush (s : State) (die part : Nat) (l : Launch) (p : List Byte) : State :=
  (List.range (pkNdep p)).foldl (fun s i =>
    match s.counterValue die part l (pkDep p i) with
    | none => s
    | some (key, _) =>
      (s.deferredEnds.filter (fun e => decide (e.1 = key) && !decide (e.2.1 = die))).foldl
        (fun s e => (e.2.2.filter (fun c => decide (dieOfCore c = e.2.1))).foldl (fun s c => s.flushU c) s) s) s

/-- The packet that a die has to take next of a queue that is not resident there: its number and its bytes. -/
def State.unreadOn (s : State) (die part asn h : Nat) : Option (Nat × List Byte) :=
  match s.queueAt part asn h, s.residentOn die part asn h with
  | some d, none =>
    let num := s.dhead die part asn h d
    if num = s.peekNat (d + 8) 4 then none
    else some (num, s.peek (nbits (s.peekNat d 8) 43 6 * 64 + 64 * (num % 2 ^ nbits (s.peekNat (d + 16) 1) 4 0)) 64)
  | _, _ => none

/-- Whether a packet places no task on a die: a launch packet that has been dealt with, a refused one, or one of an open launch
whose placements do not name the die (R350, R353). -/
def State.passesBy (s : State) (die part asn h num : Nat) (p : List Byte) : Bool :=
  let l := s.launch (part * 16 + pkLaunch p)
  match s.markOf part asn h num with
  | some m => decide (m.code ≠ 0) || pkStart p || (s.nextOn die part l (pkWidBase p) 0 (pkCount p)).isNone
  | none => false

/-- Whether a packet misses its queue on a die where it is not resident (R353): a new packet whose placements name the die, or
one that no die has found yet, on the partition's first die. -/
def State.missesOn (s : State) (die part asn h num : Nat) (p : List Byte) : Bool :=
  let l := s.launch (part * 16 + pkLaunch p)
  let named := !pkStart p && l.isOpen && (s.nextOn die part l (pkWidBase p) 0 (pkCount p)).isSome
  match s.markOf part asn h num with
  | some m => decide (m.code = 0) && named
  | none => named || (decide (some die = (s.diesOf part).find? (fun d => decide (d = s.firstDie part)))
      && !s.residents.any (fun r => decide (r.part = part ∧ r.asn = asn ∧ r.handle = h)))

/-- A packet at the head of its queue on a die: judged once (R348), then taken as the queue's current packet when it is
eligible. A die where the queue is not resident passes a packet that places no task there. -/
def State.takePacket (s : State) (die part asn h : Nat) : State :=
  match s.pendingOn die part asn h with
  | none =>
    match s.unreadOn die part asn h, s.queueAt part asn h with
    | some (num, p), some d => if s.passesBy die part asn h num p then s.passPacket die part asn h d else s
    | _, _ => s
  | some (d, r) =>
    let p := s.headPacket r
    let k := part * 16 + pkLaunch p
    let l := s.launch k
    match s.markOf part asn h r.dhead with
    | none =>
      if pkStart p || !l.isOpen || s.packetStalls die part l p then s
      else
        let code := s.packetCode die part asn h l p
        let m : PacketMark := { part := part, asn := asn, handle := h, num := r.dhead, code := code
                                eligible := decide (code ≠ 0) || s.depsMet die part l p }
        let s := { s with marks := s.marks ++ [m] }
        if code = 0 then
          if l.mode = 0 then s
          else s.updLaunch k (fun l => { l with lastWid := some (pkWidBase p + pkCount p - 1) })
        else s.refusePacket part h code p
    | some m =>
      if m.code ≠ 0 ∨ pkStart p = true then
        if decide (m.code ≠ 0) && s.refusalWaits part h then s else s.passPacket die part asn h d
      else if !l.isOpen || !m.eligible
          || s.takings.any (fun t => decide (t.die = die ∧ t.part = part ∧ t.asn = asn ∧ t.handle = h)) then s
      else match s.nextOn die part l (pkWidBase p) 0 (pkCount p) with
        | none => s.passPacket die part asn h d
        | some i =>
          let s := (s.dependFlush die part l p).passPacket die part asn h d
          { s with takings := s.takings ++ [{ die := die, part := part, asn := asn, handle := h, prio := r.prio
                                              packet := p, next := i }] }

def execPacketTake (die part asn handle : Nat) (s : State) : Host.Outcome State Fault Refusal :=
  .next (s.takePacket die part asn handle)

/-- A packet whose thresholds are met becomes eligible (R349), and stays so. -/
def State.packetReady (s : State) (die part asn h : Nat) : State :=
  match s.pendingOn die part asn h with
  | none => s
  | some (_, r) =>
    let p := s.headPacket r
    if s.depsMet die part (s.launch (part * 16 + pkLaunch p)) p then
      { s with marks := s.marks.map (fun m =>
          if m.part = part ∧ m.asn = asn ∧ m.handle = h ∧ m.num = r.dhead then { m with eligible := true } else m) }
    else s

def execPacketEligible (die part asn handle : Nat) (s : State) : Host.Outcome State Fault Refusal :=
  .next (s.packetReady die part asn handle)

/-! ## Binding (R351, R354, R355, R465) -/

/-- Whether a slot is free for binding a task of a partition (R465). -/
def State.freeFor (s : State) (part gs : Nat) : Bool :=
  let x := s.slot gs
  x.task.isNone && decide (x.run = .parked .noThread) && !(match s.replay.seek gs with
    | some e => e.pend
    | none => false)
  && !(s.core (gs / 16)).health.gone && !s.away part && !s.hub.resetting.has part

/-- The shadow register that a packed descriptor word expands into (R347). -/
def expandDesc (p : Nat) : Word :=
  ofN (nbits p 31 13 * 2 ^ 32 + nbits p 12 12 * 2 ^ 15 + nbits p 11 10 * 2 ^ 10 + nbits p 9 4 * 2 ^ 4 + nbits p 3 0)

/-- SW at binding (R163). -/
def Launch.sw (l : Launch) : Word :=
  ofN (fld (l.word 0) 57 57 * 512 + fld (l.word 0) 56 56 * 256 + l.mode * 64 + fld (l.word 0) 59 58 * 4
    + fld (l.word 0) 60 60)

/-- A slot with the registers, queues and buffers that R155, R205 and R295 set. -/
def Slot.fresh (x : Slot) : Slot :=
  { x with
    g := (Vector.replicate 24 0).setIfInBounds 23 x.slim, p := 0, v := Vector.replicate 16 0
    inbox := [], outbox := [], q6 := [], q7 := [], sig := { SigState.reset with lastXfer := true }
    sigAside := SigState.reset, handler := false, engq := [], tr := Treadle.reset, waitLeft := none, awPhase := none
    wseq := none, clPos := none, event := 0, deferred := [], walked := [], again := false, late := none, run := .ready
    tin := (x.tin + 1) % 65536 }

/-- Binding a WID (R355): every step of the binding in one. -/
def State.bindTask (s : State) (gs part lane k : Nat) (p : List Byte) (wid : Nat) : State :=
  let l := s.launch k
  let root := match s.process part l.asn with
    | some (r, _, _) => r
    | none => 0
  let entry := if pkEntry p = 0 then fld (l.word 0) 47 0 else pkEntry p
  let offs := bytesAt p 32 8
  let x := (s.slot gs).fresh
  let limit := bytesAt p 48 4
  let y := { x with
    fa := expandDesc (bytesAt p 20 4), fb := expandDesc (bytesAt p 24 4), fc := expandDesc (bytesAt p 28 4)
    sa := ofN (nbits offs 18 0), sb := ofN (nbits offs 37 19), sc := ofN (nbits offs 56 38)
    wid := ofN wid, cstamp := ofN (bytesAt p 40 6), limit := limit, left := sext 32 limit
    ptroot := root, sw := l.sw, pc := entry, startAt := s.now + 32
    task := some { part := part, lane := if l.mode = 0 then 0xFFFF else lane
                   packet := some (k % 16, pkCompl p, entry) } }
  let s := (s.acquire (gs / 16) .part).setSlot gs y
  let s := s.setCore (gs / 16) ((s.core (gs / 16)).unitsWritten (gs % 16) (List.range 25 ++ (List.range 16).map (32 + ·)))
  s.updLaunch k (fun l => { l with cores := insertNew (gs / 16) l.cores })

/-- The slot of a WID's lane. -/
def State.laneSlot (s : State) (part : Nat) (l : Launch) (wid : Nat) : Nat :=
  s.coreOf part l wid * 16 + (s.part part).slotList.getD (l.sord wid) 0

/-- The heads of the lane FIFOs of a partition on a die whose slots are free, with their places in the list. -/
def State.lanesReady (s : State) (die part : Nat) : List (LaneWid × Nat) :=
  s.lanes.zipIdx.filter (fun e =>
    let w := e.1
    let l := s.launch w.launch
    decide (w.part = part) && decide (dieOfCore (s.coreOf part l w.wid.toNat) = die)
    && !s.lanes.zipIdx.any (fun f => decide (f.2 < e.2 ∧ f.1.launch = w.launch ∧ f.1.lane = w.lane))
    && s.freeFor part (s.laneSlot part l w.wid.toNat))

/-- The first of them. -/
def State.laneReady (s : State) (die part : Nat) : Option (LaneWid × Nat) := (s.lanesReady die part).head?

/-- The free slot that a free-mode WID binds: the lowest on the core of its placement. -/
def State.freeSlot (s : State) (part core : Nat) : Option Nat :=
  ((s.part part).slotList.map (fun i => core * 16 + i)).find? (s.freeFor part)

/-- Whether a current packet's next WID can be taken now (R351). -/
def State.canTake (s : State) (t : Taking) : Bool :=
  let k := t.part * 16 + pkLaunch t.packet
  let l := s.launch k
  let wid := pkWidBase t.packet + t.next
  if l.mode = 0 then (s.freeSlot t.part (s.coreOf t.part l wid)).isSome
  else decide ((s.lanes.filter (fun w => decide (w.launch = k ∧ w.lane = l.laneOf wid))).length < 4)

/-- A queue as a number within its partition. -/
def Taking.code (t : Taking) : Nat := t.asn * 4096 + t.handle

/-- The current packet that a partition serves next on a die: by priority, then round-robin over the queues (R354). -/
def State.chooseTaking (s : State) (die part : Nat) : Option Taking :=
  let l := s.takings.filter (fun t => decide (t.die = die ∧ t.part = part) && s.canTake t)
  let best := l.foldl (fun (m : Nat) (t : Taking) => min m t.prio) 4
  let last := s.lastQueue.val ((die * 16 + part) * 4 + best) 0
  let rank := fun (t : Taking) => if last ≤ t.code then t.code else t.code + 2 ^ 28
  (l.filter (fun t => decide (t.prio = best))).foldl (fun (m : Option Taking) (t : Taking) =>
    match m with
    | none => some t
    | some u => if rank t < rank u then some t else some u) none

/-- The current packet after one of its WIDs: dropped with its last one on the die. -/
def State.advanceTaking (s : State) (t : Taking) : State :=
  let l := s.launch (t.part * 16 + pkLaunch t.packet)
  let same := fun (u : Taking) => decide (u.die = t.die ∧ u.part = t.part ∧ u.asn = t.asn ∧ u.handle = t.handle)
  match s.nextOn t.die t.part l (pkWidBase t.packet) (t.next + 1) (pkCount t.packet - (t.next + 1)) with
  | none => { s with takings := s.takings.filter (fun u => !same u) }
  | some i => { s with takings := s.takings.map (fun u => if same u then { u with next := i } else u) }

/-- One WID of a current packet is taken: into its lane FIFO, or bound to a free slot (R351). -/
def State.takeWid (s : State) (t : Taking) : State :=
  let k := t.part * 16 + pkLaunch t.packet
  let l := s.launch k
  let wid := pkWidBase t.packet + t.next
  let s' := if l.mode = 0 then
      match s.freeSlot t.part (s.coreOf t.part l wid) with
      | some gs => s.bindTask gs t.part (l.laneOf wid) k t.packet wid
      | none => s
    else { s with lanes := s.lanes ++ [{ part := t.part, launch := k, lane := l.laneOf wid, packet := t.packet
                                         wid := ofN wid }] }
  let s' := s'.advanceTaking t
  { s' with dieTurn := s'.dieTurn.put t.die (s.now + 4), lastPart := s'.lastPart.put t.die (t.part + 1)
            lastQueue := s'.lastQueue.put ((t.die * 16 + t.part) * 4 + t.prio) (t.code + 1) }

/-- One act of a die's dispatcher for a partition: a lane head binds, which takes no turn, or a WID is taken. -/
def State.dispatch (s : State) (die part : Nat) : State :=
  match s.laneReady die part with
  | some (w, i) =>
    let s := { s with lanes := s.lanes.eraseIdx i }
    let l := s.launch w.launch
    s.bindTask (s.laneSlot part l w.wid.toNat) part w.lane w.launch w.packet w.wid.toNat
  | none =>
    if s.now < s.dieTurn.val die 0 then s
    else match s.chooseTaking die part with
      | some t => s.takeWid t
      | none => s

def execTaskBind (die part : Nat) (s : State) : Host.Outcome State Fault Refusal := .next (s.dispatch die part)

/-! ## The end of a launch (R358 to R360) -/

/-- Whether a slot holds a task of a launch. -/
def Slot.ofLaunch (x : Slot) (k : Nat) : Bool :=
  match x.task with
  | some t => decide (t.packet.map (fun p => t.part * 16 + p.1) = some k)
  | none => false

/-- Whether a packet of a launch stands in one of the partition's queues. -/
def State.queued (s : State) (k : Nat) : Bool :=
  s.pushed.any (fun q =>
    decide (q.1 = k / 16) &&
      (match s.queueAt q.1 q.2.1 q.2.2 with
       | none => false
       | some d =>
         let depth := s.queueDepth q.1 q.2.1 q.2.2 d
         let ring := nbits (s.peekNat d 8) 43 6 * 64
         let size := 2 ^ nbits (s.peekNat (d + 16) 1) 4 0
         let head := s.queueHead q.1 q.2.1 q.2.2 d
         (List.range depth).any (fun i =>
           let p := s.peek (ring + 64 * ((head + i) % size)) 64
           !pkStart p && decide (pkLaunch p = k % 16))))

/-- Whether every core is idle for a launch (R358). -/
def State.launchIdle (s : State) (k : Nat) : Bool :=
  s.cores.all (fun c => c.2.slots.all (fun x => !x.2.ofLaunch k))
  && s.saved.all (fun m => m.2.slots.all (fun x => !x.2.ofLaunch k))
  && !s.takings.any (fun t => decide (t.part * 16 + pkLaunch t.packet = k))
  && !s.lanes.any (fun w => decide (w.launch = k))
  && !s.queued k

/-- One launch at a sweep (R358). -/
def State.sweepLaunch (s : State) (k : Nat) : State :=
  let l := s.launch k
  if !l.isOpen || bitOf (l.word 0) 61 then s
  else if s.launchIdle k && decide (l.sent = l.recv) then
    if s.counterStalls (s.firstDie (k / 16)) (k / 16) l (fld (l.word 7) 31 16) then s
    else if l.lastSweep = some (l.sent, l.recv) then
      let s := l.cores.foldl (fun s c => s.flushU c) s
      let s := s.counterAdd none (s.firstDie (k / 16)) (k / 16) l (fld (l.word 7) 31 16)
      s.updLaunch k (fun l => { l with isOpen := false })
    else s.updLaunch k (fun l => { l with lastSweep := some (l.sent, l.recv) })
  else s.updLaunch k (fun l => { l with lastSweep := none })

/-- A sweep of every open launch. -/
def State.sweep (s : State) : State := (s.launches.map (·.1)).foldl (fun s k => s.sweepLaunch k) s

def execLaunchSweep (s : State) : Host.Outcome State Fault Refusal := .next s.sweep

/-- Whether the completion counter of a deferred launch has reached its end count. -/
def State.deferredDone (s : State) (k : Nat) : Bool :=
  let l := s.launch k
  l.isOpen && bitOf (l.word 0) 61 && (match s.counterValue l.die (k / 16) l (fld (l.word 7) 15 0) with
    | some (_, v) => decide (l.endCount ≤ v)
    | none => false)

/-- The end of a deferred launch (R359). -/
def State.endDeferred (s : State) (k : Nat) : State :=
  if s.deferredDone k && !s.counterStalls (s.launch k).die (k / 16) (s.launch k) (fld ((s.launch k).word 7) 31 16) then
    let l := s.launch k
    let i := fld (l.word 7) 31 16
    let s' := match s.counterAt l.die (k / 16) l .w i with
      | some (_, p) => { s with deferredEnds := s.deferredEnds ++ [(p.key, l.die, l.cores)] }
      | none => s
    (s'.counterAdd none l.die (k / 16) l i).updLaunch k (fun l => { l with isOpen := false })
  else s

def execDeferredLaunchEnd (part entry : Nat) (s : State) : Host.Outcome State Fault Refusal :=
  .next (s.endDeferred (part * 16 + entry))

end Sys2Proof.Machine
end

