-- ==== Sys2Proof/Machine/Gates.lean ====
section
/-! DEFINITION. Gates: the gate table, its operations, the bridge to the partner and the remap (R308 to R314, R381 to
R388). -/

namespace Sys2Proof.Machine

/-! ## Entries (R381) -/

/-- Gate `n`. -/
def State.gate (s : State) (n : Nat) : Gate := s.gates.val n Gate.reset

/-- Replaces gate `n`. -/
def State.setGate (s : State) (n : Nat) (g : Gate) : State := { s with gates := s.gates.put n g }

def Gate.state (g : Gate) : Nat := fld g.w0 63 62
def Gate.prior (g : Gate) : Nat := fld g.w0 61 60
def Gate.owner (g : Gate) : Nat := fld g.w0 59 56
def Gate.stall (g : Gate) : Bool := bitOf g.w0 55
def Gate.valid (g : Gate) : Bool := bitOf g.w0 54
def Gate.expect (g : Gate) : Nat := fld g.w0 53 49
def Gate.reqMask (g : Gate) : Nat := fld g.w0 47 32
def Gate.arrMask (g : Gate) : Nat := fld g.w0 31 16
def Gate.round (g : Gate) : Nat := fld g.w3 63 32
def Gate.bridge (g : Gate) : Bool := bitOf g.w3 31
def Gate.master (g : Gate) : Bool := bitOf g.w3 30
def Gate.peer (g : Gate) : Nat := fld g.w3 9 0

/-- States of a gate. -/
def gsOpen : Nat := 0
def gsClosed : Nat := 1
def gsHeld : Nat := 2
def gsPeerReset : Nat := 3

/-- Bucket `p` as its 32 bits, and its fields. -/
def Gate.bucket (g : Gate) (p : Nat) : Nat := g.buckets.val p 0
def bkDepth (b : Nat) : Nat := nbits b 31 27
def bkTokens (b : Nat) : Nat := nbits b 26 22
def bkPeriod (b : Nat) : Nat := nbits b 21 0

/-- A bucket with another token count. -/
def bkSet (b t : Nat) : Nat := bkDepth b * 2 ^ 27 + t * 2 ^ 22 + bkPeriod b

/-- Replaces STATE, or ARRMASK. -/
def Gate.setState (g : Gate) (n : Nat) : Gate := { g with w0 := setFld g.w0 63 62 n }
def Gate.setPrior (g : Gate) (n : Nat) : Gate := { g with w0 := setFld g.w0 61 60 n }
def Gate.setArr (g : Gate) (m : Nat) : Gate := { g with w0 := setFld g.w0 31 16 m }

/-- Rights of a partition: [3] POST, [2] WAIT, [1] ARRIVE, [0] STATE; P0 holds all of a valid gate (R308 step 1). -/
def Gate.rightsOf (g : Gate) (p : Nat) : Nat :=
  if g.valid then (if p = 0 then 15 else nbits g.rights.toNat (4 * p + 3) (4 * p)) else 0

/-! ## Operations at the table (R308 to R312) -/

/-- What an operation comes to: it completes with d and perhaps v; it waits; or it faults. Each leaves a gate. -/
inductive GateAnswer
  | done (g : Gate) (d : Word) (v : Option VWord)
  | waits (g : Gate)
  | fault (code : Nat) (g : Gate)

/-- The right that an operation needs (R308 step 1): POST, WAIT, ARRIVE or STATE; for OPEN and CLOSE, to own the gate. -/
def Gate.hasRight (g : Gate) (op p : Nat) : Bool :=
  match op with
  | 0 => nbit (g.rightsOf p) 3
  | 1 | 2 => nbit (g.rightsOf p) 2
  | 3 => nbit (g.rightsOf p) 1
  | 4 => nbit (g.rightsOf p) 0
  | 5 | 6 => g.valid && (decide (p = 0) || decide (g.owner = p))
  | _ => g.valid

/-- Steps 1 and 2 of R308 before the effect `k` of an operation: its right, then the state by R309. -/
def Gate.allowed (g : Gate) (op p : Nat) (k : GateAnswer) : GateAnswer :=
  if g.hasRight op p = false then .fault fcGateRights g
  else if 4 ≤ op then (if (op = 5 ∨ op = 6) ∧ g.state = gsHeld then .waits g else k)
  else if g.state = gsOpen then k
  else if g.state = gsClosed then .fault fcGateClosed g
  else if g.state = gsHeld then .waits g
  else .fault fcGatePeerReset g

/-- The payload that a wait for post `n` gets (R311). -/
def Gate.payloadOf (g : Gate) (n : Nat) : VWord :=
  if 1 ≤ n ∧ g.postcnt.toNat - n < 8 then g.ring.val (n % 8) 0 else 0

/-- The waiters whose targets are met are woken (R310, R387); one whose slot is parked samples when it issues again. -/
def Gate.wake (g : Gate) : Gate :=
  { g with waiters := g.waiters.map (fun w =>
      match w.target with
      | some n =>
        if n ≤ g.postcnt.toNat ∧ w.answer = none ∧ w.parked = false ∧ g.hasRight 1 w.part = true then
          { w with answer := some (.done g.postcnt (g.payloadOf n)) }
        else w
      | none => w) }

/-- The waiters that a gate's end or new state decides raise its fault at their next sample (R309, R382, R384). A wait whose
slot is parked samples the state when it issues again; only VALID's end reaches it. -/
def Gate.fail (g : Gate) (code : Nat) : Gate :=
  { g with waiters := g.waiters.map (fun w =>
      if w.answer = none ∧ (code = fcGateRights ∨ w.parked = false ∨ w.target = none) then { w with answer := some (.fault code) }
      else w) }

/-- A gate leaves its state for CLOSED or PEER_RESET. -/
def Gate.leave (g : Gate) (n : Nat) : Gate :=
  (g.setState n).fail (if n = gsClosed then fcGateClosed else fcGatePeerReset)

/-- `GT.POST` at the table (R308, R310, R383). -/
def Gate.post (g : Gate) (p : Nat) (payload : VWord) : GateAnswer :=
  g.allowed 0 p (
    let b := g.bucket p
    let limited := !decide (p = 0) && !decide (bkPeriod b = 0)
    if limited && decide (bkTokens b = 0) then (if g.stall then .waits g else .fault fcGateRate g)
    else
      let n := g.postcnt + 1
      let buckets := if limited then g.buckets.put p (bkSet b (bkTokens b - 1)) else g.buckets
      let h : Gate := { g with postcnt := n, buckets := buckets, ring := g.ring.put (n.toNat % 8) payload }
      .done h.wake n none)

/-- `GT.WAIT` and `GT.TRY` at the table (R311). -/
def Gate.await (g : Gate) (p : Nat) (target : Word) (try_ : Bool) : GateAnswer :=
  g.allowed (if try_ then 2 else 1) p (
    if target.toNat ≤ g.postcnt.toNat then .done g g.postcnt (some (g.payloadOf target.toNat))
    else if try_ then .done g g.postcnt none
    else .waits g)

/-- The gate without a waiter record. -/
def Gate.forget (g : Gate) (wseq : Nat) : Gate :=
  { g with waiters := g.waiters.filter (fun w => !decide (w.wseq = wseq)) }

/-- The record of a waiter. -/
def Gate.waiter (g : Gate) (wseq : Nat) : Option GateWaiter := g.waiters.find? (fun w => decide (w.wseq = wseq))

/-- Number of set bits of a 16-bit mask. -/
def pop16 (m : Nat) : Nat := ((List.range 16).filter (fun i => nbit m i)).length

/-- The round completes: ROUND rises, ARRIVED falls to 0, and the waiters of the round are woken in arrival order (R312). -/
def Gate.complete (g : Gate) : Gate :=
  { g.setArr 0 with
    w3 := setFld g.w3 63 32 (g.round + 1)
    waiters := g.waiters.map (fun w =>
      if w.target = none ∧ w.answer = none then { w with answer := some (.done (ofN g.round) 0) } else w) }

/-- `GT.ARRIVE` at the table (R312): counted once, then it waits for the round. -/
def Gate.arrive (g : Gate) (p slot wseq : Nat) : GateAnswer :=
  g.allowed 3 p (
    if (g.waiter wseq).isSome then .waits g
    else if nbit g.arrMask p then .fault fcBarrierOverrun g
    else
      let m := g.arrMask + 2 ^ p
      if g.expect ≤ pop16 m then .done g.complete (ofN g.round) none
      else .waits { g.setArr m with waiters := g.waiters ++ [{ slot := slot, part := p, wseq := wseq, target := none }] })

/-- A wait enters its record at the gate, or takes up the one that it has (R387). -/
def Gate.recordWait (g : Gate) (p slot wseq : Nat) (target : Word) : Gate :=
  if (g.waiter wseq).isSome then
    { g with waiters := g.waiters.map (fun w =>
        if w.wseq = wseq then { w with slot := slot, part := p, target := some target.toNat, parked := false } else w) }
  else { g with waiters := g.waiters ++ [{ slot := slot, part := p, wseq := wseq, target := some target.toNat }] }

/-- Whether a waiter that has been woken completes after another: waits in ascending WSEQ, arrivals of a round in the order
of their arrival (R310, R312, R387). -/
def Gate.behind (g : Gate) (wseq : Nat) : Bool :=
  let woken := fun (w : GateWaiter) => !w.parked && (match w.answer with
    | some (.done ..) => true
    | _ => false)
  match g.waiter wseq with
  | some w =>
    if w.target.isSome then g.waiters.any (fun u => u.target.isSome && woken u && decide (u.wseq < wseq))
    else (g.waiters.takeWhile (fun u => !decide (u.wseq = wseq))).any (fun u => u.target.isNone && woken u)
  | none => false

/-- An operation that may wait at the gate: one whose fate is decided completes or faults; one that ends leaves no
record. -/
def Gate.waiting (g : Gate) (wseq : Nat) (a : GateAnswer) : GateAnswer :=
  match (g.waiter wseq).bind (·.answer) with
  | some (.done d v) => if g.behind wseq then .waits g else .done (g.forget wseq) d (some v)
  | some (.fault c) => .fault c (g.forget wseq)
  | none =>
    match a with
    | .done h d v => .done (h.forget wseq) d v
    | .waits h => .waits h
    | .fault c h => .fault c (h.forget wseq)

/-- A 16-bit mask without the bits of another. -/
def nandBits (m n : Nat) : Nat := ((List.range 16).map (fun i => b2n (nbit m i && !nbit n i) * 2 ^ i)).sum

/-- A change of the state by an operation (R309): 5 OPEN, 6 CLOSE, 7 HOLD, 8 HOLD.rel, which also applies what a reset has
left to it (R384). -/
def Gate.change (g : Gate) (op : Nat) : Gate :=
  match op with
  | 5 => (if g.state = gsPeerReset then g.setArr 0 else g).setState gsOpen
  | 6 => if g.state = gsClosed then g else g.leave gsClosed
  | 7 => if g.state = gsHeld then g else (g.setPrior g.state).setState gsHeld
  | _ =>
    if g.state = gsHeld then
      let g := { g.setArr (nandBits g.arrMask g.relClear) with relClear := 0 }
      if g.prior = gsOpen then (g.setState gsOpen).wake else g.leave g.prior
    else g

/-- The status word of R313 for a partition. -/
def Gate.status (g : Gate) (p : Nat) : Word :=
  let b := g.bucket p
  ofN (g.state * 2 ^ 62 + g.owner * 2 ^ 58 + g.rightsOf p * 2 ^ 54 + b2n g.stall * 2 ^ 53
    + (if bkPeriod b = 0 then 31 else bkTokens b) * 2 ^ 48 + pop16 g.arrMask * 2 ^ 32 + fld g.postcnt 31 0)

/-- An operation at the table: 0 POST, 1 WAIT, 2 TRY, 3 ARRIVE, 4 STAT, 5 OPEN, 6 CLOSE, 7 HOLD, 8 HOLD.rel. -/
def Gate.apply (g : Gate) (op p slot wseq : Nat) (operand : Word) (payload : VWord) : GateAnswer :=
  match op with
  | 0 => g.post p payload
  | 1 => g.waiting wseq (match g.await p operand false with
      | .waits h => .waits (h.recordWait p slot wseq operand)
      | a => a)
  | 2 => g.await p operand true
  | 3 => g.waiting wseq (g.arrive p slot wseq)
  | 4 => g.allowed 4 p (.done g (g.status p) none)
  | _ => g.allowed op p (.done (g.change op) 0 none)

/-- Whether a fault code of a gate operation is of class L (R390). -/
def gateFaultLocal (code : Nat) : Bool :=
  decide (code = fcGateRate) || decide (code = fcGateClosed) || decide (code = fcGatePeerReset)

/-! ## Operations of a slot -/

/-- A wait or an arrival takes its WSEQ at its first issue (R387). -/
def State.takeSeq (s : State) (op : Nat) : State :=
  if (op = 1 ∨ op = 3) ∧ s.me.wseq.isNone then
    { s.setMe { s.me with wseq := some s.wseq } with wseq := (s.wseq + 1) % 2 ^ 32 }
  else s

/-- The operation is over: WSEQ goes. -/
def State.dropSeq (s : State) : State := s.setMe { s.me with wseq := none }

/-- What an operation that waits leaves behind: the gate, its WSEQ, and for an arrival the release that came before it
(R312 step 1, R332). -/
def State.gateWait (s : State) (op n : Nat) (g : Gate) : State :=
  ((if op = 3 then s.release s.myCore .part else s).setGate n g).takeSeq op

/-- An operation is sent to the master (R385), a post and an arrival after their release (R310, R312, R332). -/
def State.sendGate (s : State) (op n : Nat) (operand : Word) (payload : VWord) : State :=
  let tag := s.hub.bridgeTag
  let b : BridgedOp := { tag := tag, slot := s.cur, gate := n, op := op, operand := operand, payload := payload, reply := none }
  let s := if op = 0 ∨ op = 3 then s.release s.myCore .part else s
  { s with hub := { s.hub with
      bridged := s.hub.bridged ++ [b], bridgeTag := tag + 1
      out := s.hub.out ++ [.gateRequest tag s.me.part (s.gate n).peer n op operand payload] } }

/-- An operation on a bridged entry that is not the master (R385): it travels, and its result returns. The right and
the state of the own entry are checked first; a change of the state is made to the own entry too. -/
def bridgedOp (op n : Nat) (operand : Word) (payload : VWord) : M (Word × Option VWord) := do
  let s ← get
  let g := s.gate n
  let gs := s.cur
  let mine := fun (b : BridgedOp) => decide (b.slot = gs ∧ b.gate = n ∧ b.op = op)
  let drop := fun (s : State) =>
    ({ s with hub := { s.hub with bridged := s.hub.bridged.filter (fun b => !mine b) } } : State)
  match g.allowed op s.me.part (.done g 0 none) with
  | .fault c _ => faultKeep c (gateFaultLocal c) drop
  | .waits _ => waitOn .sync
  | .done .. =>
    match s.hub.bridged.find? mine with
    | none => if s.hub.linkUp then waitKeep .sync (fun s => s.sendGate op n operand payload) else waitOn .sync
    | some b =>
      match b.reply with
      | some (.result _ d v) => do
        upd drop
        if 5 ≤ op then upd (fun s => s.setGate n ((s.gate n).change op)) else pure ()
        pure (d, v)
      | some (.fault _ c) => faultKeep c (gateFaultLocal c) drop
      | _ => waitOn .sync

/-- Whether an operation on an entry travels: not to a master that the link does not reach, for the operations that read and
set the state, by which a gate is recovered (R309, R384). -/
def State.travels (s : State) (op : Nat) (g : Gate) : Bool :=
  g.valid && g.bridge && !g.master && (s.hub.linkUp || decide (op < 4) || s.hub.bridged.any (fun b => decide (b.slot = s.cur)))

/-- Whether gate `n` is no bridged gate, or its pair is one: exactly one MASTER, and each PEER names the other (R385). The
partner's entry is as the link has brought it. -/
def State.paired (s : State) (n : Nat) (g : Gate) : Bool :=
  let w := s.hub.partnerGates.val g.peer 0
  !g.bridge || (bitOf w 31 && decide (bitOf w 30 ≠ g.master) && decide (fld w 9 0 = n))

/-- An operation of the executing slot on gate `n`. On a pair that is none it raises `GATE_CLOSED`, after its rights (R308,
R385). -/
def gateOp (op n : Nat) (operand : Word) (payload : VWord) : M (Word × Option VWord) := do
  let s ← get
  let g := s.gate n
  if g.hasRight op s.me.part && !s.paired n g then faultKeep fcGateClosed true State.dropSeq
  else if s.travels op g then bridgedOp op n operand payload
  else match g.apply op s.me.part s.cur (s.me.wseq.getD s.wseq) operand payload with
    | .done g d v => do
      upd (fun s => (s.setGate n g).dropSeq)
      pure (d, v)
    | .waits g => waitKeep .sync (fun s => s.gateWait op n g)
    | .fault c g => faultKeep c (gateFaultLocal c) (fun s => (s.setGate n g).dropSeq)

/-- A gate operand (R294). -/
def gateOf (w : Word) : Nat := fld w 9 0

/-- `GT.POST` (R310). -/
def execGtPost (d : Reg) (v : VReg) (a : Reg) (s : State) :=
  runI (do
    memoryTurn
    engineIdle
    ready [a.val] [d.val]
    let w ← readS a.val
    let payload ← readV v
    releaseAt .part
    let (n, _) ← gateOp 0 (gateOf w) 0 payload
    writeS d.val n) s

/-- `GT.WAIT` and `GT.TRY` (R311): a wait that completes, and a try that finds its post, acquire. -/
def gateAwait (op : Nat) (d : Reg) (v : VReg) (a : Reg) : M Unit := do
  memoryTurn
  engineIdle
  ready [d.val, a.val] [d.val]
  let target ← readS d.val
  let w ← readS a.val
  let (c, r) ← gateOp op (gateOf w) target 0
  match r with
  | some x => do
    writeV v x
    acquireAt .part
  | none => pure ()
  writeS d.val c

def execGtWait (d : Reg) (v : VReg) (a : Reg) (s : State) := runI (gateAwait 1 d v a) s
def execGtTry (d : Reg) (v : VReg) (a : Reg) (s : State) := runI (gateAwait 2 d v a) s

/-- `GT.ARRIVE` (R312): one that has arrived has made its release. -/
def execGtArrive (d a : Reg) (s : State) :=
  runI (do
    memoryTurn
    ready [a.val] [d.val]
    let w ← readS a.val
    if s.me.wseq.isSome then pure () else releaseAt .part
    let (r, _) ← gateOp 3 (gateOf w) 0 0
    acquireAt .part
    writeS d.val r) s

/-- `GT.STAT` (R313). -/
def execGtStat (d a : Reg) (s : State) :=
  runI (do
    ready [a.val] [d.val]
    let w ← readS a.val
    let (r, _) ← gateOp 4 (gateOf w) 0 0
    writeS d.val r) s

/-- `GT.OPEN` and `GT.CLOSE` (R309, R314): the owner's, or P0's. -/
def gateSet (op : Nat) (a : Reg) : M Unit := do
  ready [a.val] []
  let w ← readS a.val
  let _ ← gateOp op (gateOf w) 0 0

def execGtOpen (a : Reg) (s : State) := runI (gateSet 5 a) s
def execGtClose (a : Reg) (s : State) := runI (gateSet 6 a) s

/-- `GT.HOLD` and `GT.HOLD.rel` (R309, R314). -/
def execGtHold (rel : Bool) (a : Reg) (s : State) :=
  runI (do
    supervisor [a.val] []
    gateSet (if rel then 8 else 7) a) s

/-! ## Stores to the table, tokens, the bridge, the remap -/

/-- Whether bucket words hold DEPTH 0 with a PERIOD (R382). -/
def badBuckets (w : Word) : Bool :=
  [fld w 31 0, fld w 63 32].any (fun b => decide (bkDepth b = 0) && !decide (bkPeriod b = 0))

/-- Whether a store to word `i` of an entry is dropped (R382). -/
def badGateWord (i : Nat) (w : Word) : Bool :=
  match i with
  | 0 => bitOf w 48 || !decide (fld w 15 0 = 0) || decide (16 < fld w 53 49)
  | 1 | 2 => false
  | 3 => !decide (fld w 29 10 = 0)
  | _ => if i < 12 then badBuckets w else !decide (w = 0)

/-- A bucket after a store: TOKENS stays while the gate is valid. -/
def bkStore (valid : Bool) (old new : Nat) : Nat := if valid then bkSet new (bkTokens old) else new

/-- Every bucket full. -/
def Gate.fill (g : Gate) : Gate :=
  { g with buckets := (List.range 16).foldl (fun (m : SMap Nat) p =>
      if m.has p then m.put p (bkSet (m.val p 0) (bkDepth (m.val p 0))) else m) g.buckets }

/-- An entry after a store of word `i` that is not dropped (R382): the buckets' clocks start when VALID is set (R461), and
every waiter raises `GATE_RIGHTS` once VALID is cleared. -/
def Gate.store (g : Gate) (i : Nat) (w : Word) : Gate :=
  match i with
  | 0 =>
    if g.valid then
      let h := { g with w0 := setFld (setFld (setFld w 63 62 g.state) 61 60 g.prior) 31 16 g.arrMask }
      if bitOf w 54 then h else h.fail fcGateRights
    else
      let h := { g with w0 := setFld w 61 60 g.prior }
      if bitOf w 54 then { h.fill with elapsed := [] } else h
  | 1 => { g with rights := w }
  | 2 => if g.valid then g else { g with postcnt := w }
  | 3 => if g.valid then { g with w3 := setFld w 63 32 g.round } else { g with w3 := w }
  | _ =>
    let p := 2 * (i - 4)
    let b := g.buckets.put p (bkStore g.valid (g.bucket p) (fld w 31 0))
    { g with buckets := b.put (p + 1) (bkStore g.valid (g.bucket (p + 1)) (fld w 63 32)) }

/-- A supervisor store to word `i` of an entry (R382); the partner learns of BRIDGE, MASTER and PEER (R385). -/
def State.gateStore (s : State) (n i : Nat) (w : Word) : State :=
  if badGateWord i w then s.hubErr
  else if i < 12 then
    let t := s.setGate n ((s.gate n).store i w)
    if i = 3 then t.updHub (fun h => { h with out := h.out ++ [.gateEntry n (t.gate n).w3] }) else t
  else s

def execGateTableWrite (gate word : Nat) (w : Word) (s : State) : Host.Outcome State Fault Refusal :=
  .next (s.gateStore gate word w)

/-- A bucket gains a token (R383). -/
def State.refill (s : State) (n p : Nat) : State :=
  let g := s.gate n
  let b := g.bucket p
  if g.valid && !decide (g.state = gsHeld) && !decide (bkPeriod b = 0) && decide (bkTokens b < bkDepth b) then
    s.setGate n { g with buckets := g.buckets.put p (bkSet b (bkTokens b + 1)) }
  else s

def execGateTokenRefill (gate part : Nat) (s : State) : Host.Outcome State Fault Refusal := .next (s.refill gate part)

/-- An operation of the partner's at this table (R385): applied when this table is the master of a gate whose PEER names the
partner's; the answer leaves, or the operation waits here. -/
def State.remoteApply (s : State) (o : RemoteOp) : State :=
  let g := s.gate o.gate
  let reply := fun (s : State) (a : BridgeMsg) =>
    ({ s with hub := { s.hub with out := s.hub.out ++ [.gateReply o.peer a] } } : State)
  if g.valid && g.bridge && g.master && decide (g.peer = o.peer) && s.paired o.gate g then
    match g.apply o.op o.part 4096 o.wseq o.operand o.payload with
    | .done h d v => reply (s.setGate o.gate h) (.result o.tag d v)
    | .waits h => { s.setGate o.gate h with hub := { s.hub with remote := s.hub.remote ++ [o] } }
    | .fault c h => reply (s.setGate o.gate h) (.fault o.tag c)
  else reply s (.fault o.tag fcGateClosed)

/-- An operation of the partner's arrives, and takes a WSEQ of this table. -/
def State.remoteOp (s : State) (tag part gate peer op : Nat) (operand : Word) (payload : VWord) : State :=
  ({ s with wseq := (s.wseq + 1) % 2 ^ 32 } : State).remoteApply
    { tag := tag, part := part, gate := gate, peer := peer, op := op, operand := operand, payload := payload, wseq := s.wseq }

/-- The partner's operations that wait sample the table again (R308, R309). -/
def State.remoteSample (s : State) : State :=
  s.hub.remote.foldl (fun s o => s.remoteApply o) { s with hub := { s.hub with remote := [] } }

/-- The answer to the operation with a tag. -/
def State.bridgeReply (s : State) (tag : Nat) (m : BridgeMsg) : State :=
  { s with hub := { s.hub with bridged := s.hub.bridged.map (fun b =>
      if b.tag = tag ∧ b.reply = none then { b with reply := some m } else b) } }

def execBridgedGateOp (m : BridgeMsg) (s : State) : Host.Outcome State Fault Refusal :=
  .next (match m with
    | .request tag part gate peer op operand payload => s.remoteOp tag part gate peer op operand payload
    | .result tag _ _ => s.bridgeReply tag m
    | .fault tag _ => s.bridgeReply tag m
    | .entry gate w => s.updHub (fun h => { h with partnerGates := h.partnerGates.put (gate % 1024) w }))

/-- A mask with bit `to` replaced by bit `from_`, and bit `from_` clear. -/
def moveBit (m from_ dest : Nat) : Nat :=
  ((List.range 16).map (fun i => b2n (if i = dest then nbit m from_ else if i = from_ then false else nbit m i) * 2 ^ i)).sum

/-- One HELD gate under a remap (R388). -/
def Gate.remap (g : Gate) (from_ dest : Nat) : Gate :=
  let r := nbits g.rights.toNat (4 * from_ + 3) (4 * from_)
  let rights := setFld (setFld g.rights (4 * dest + 3) (4 * dest) r) (4 * from_ + 3) (4 * from_) 0
  let w0 := setFld (setFld g.w0 47 32 (moveBit g.reqMask from_ dest)) 31 16 (moveBit g.arrMask from_ dest)
  let w0 := if g.owner = from_ then setFld w0 59 56 dest else w0
  let waiters := g.waiters.map (fun w => if w.part = from_ then { w with part := dest } else w)
  { g with rights := rights, w0 := w0, waiters := waiters, buckets := (g.buckets.put dest (g.bucket from_)).put from_ 0
           elapsed := (g.elapsed.put dest (g.elapsed.val from_ 0)).del from_, relClear := moveBit g.relClear from_ dest }

/-- A write of REMAP (R388): the HELD gates, with the partner's operations that wait at them. -/
def State.remapWrite (s : State) (w : Word) : State :=
  if bitOf w 63 then
    if s.hub.remapBusy ∨ fld w 3 0 = fld w 7 4 then s.hubErr
    else
      let gates := s.gates.map (fun e => (e.1, if e.2.state = gsHeld then e.2.remap (fld w 3 0) (fld w 7 4) else e.2))
      let remote := s.hub.remote.map (fun o =>
        if o.part = fld w 3 0 ∧ (s.gate o.gate).state = gsHeld then { o with part := fld w 7 4 } else o)
      { s with gates := gates, hub := { s.hub with remapBusy := true, remote := remote }, agenda := s.agenda ++ [.remapDone] }
  else s

def execRemapWrite (w : Word) (s : State) : Host.Outcome State Fault Refusal := .next (s.remapWrite w)

/-- A remap has completed: DONE returns to 1. -/
def execRemapDone (s : State) : Host.Outcome State Fault Refusal :=
  .next { s with hub := { s.hub with remapBusy := false } }

/-- A gate after the reset of a partition (R384); what a HELD gate takes from it applies at `GT.HOLD.rel`. -/
def Gate.afterReset (g : Gate) (p : Nat) : Gate :=
  let dest := fun (g : Gate) (n : Nat) => if g.state = gsHeld then g.setPrior n else g.leave n
  if !g.valid then g
  else if nbit g.reqMask p then
    if g.state = gsPeerReset then g
    else if g.state = gsHeld then { g.setPrior gsPeerReset with relClear := g.relClear ||| 2 ^ p }
    else (g.setArr (nandBits g.arrMask (2 ^ p))).leave gsPeerReset
  else if g.owner = p then (if g.state = gsClosed then g else dest g gsClosed)
  else g

/-- A gate after the loss of the sync link (R384, R424); the partner's waits go with it. -/
def Gate.linkLost (g : Gate) : Gate :=
  let g := { g with waiters := g.waiters.filter (fun w => !decide (w.slot = 4096)) }
  if g.valid && g.bridge && !decide (g.state = gsHeld) then g.leave gsPeerReset else g

end Sys2Proof.Machine
end

