-- ==== Sys2Proof/Machine/Leaving.lean ====
section
/-! DEFINITION. Unbacked pages that leave their frames: late attach, the evict holding buffer, its event, and the
retirement of a slice (R104 to R108, R111). -/

namespace Sys2Proof.Machine

/-! ## The late-frame pool (R105) -/

/-- LFCOUNT and LFBASE of a partition (R377). -/
def PartWords.lfCount (w : PartWords) : Nat := fld w.w8 63 48
def PartWords.lfBase (w : PartWords) : Nat := fld w.w8 43 3 * 8

/-- Takes the last entry of the pool, skipping frames that fail the check; `fuel` bounds the entries. -/
def State.takePoolFrame (s : State) (p : Nat) : Nat → State × Option Nat
  | 0 => (s, none)
  | fuel + 1 =>
    let w := s.part p
    if w.lfCount = 0 then (s, none)
    else
      let (s, bs) := s.physRead (w.lfBase + 8 * (w.lfCount - 1)) 8
      let f := ofBytes bs * 16384
      let w := { w with w8 := setFld w.w8 63 48 (w.lfCount - 1) }
      if f < s.dramEnd ∧ nbit (fld w.w0 15 12) (f / s.groupBytes) = true then (s.setPart p w, some f)
      else (s.setPart p { w with lfbad := min (2 ^ 64 - 1) (w.lfbad + 1) }).takePoolFrame p fuel

/-! ## Leaving a frame (R104 to R107) -/

/-- KEY of a page in an event (R107). -/
def pageKey (part asn vpn : Nat) : Nat := part * 2 ^ 60 + asn * 2 ^ 44 + vpn

/-- Lines in the holding buffer of a slice. -/
def Slice.heldLines (x : Slice) : Nat := (x.holding.map (fun h => popc64 h.held)).sum

/-- A supervisor event record of a partition (R393, R395). -/
def State.postEvent (s : State) (code part : Nat) (extra : List (Nat × List Byte)) : State :=
  s.postRecord 0 code none (recordBytes code part 4 0 0 0 0 0 false false s.hub.scan 0 0 extra)

/-- The event of a page whose lines stand in the buffer, or whose late attach failed (R105, R107). -/
def State.evictEvent (s : State) (n : Nat) (h : HeldPage) : State :=
  s.postEvent fcUnbackedEvict h.part
    [(32, bytesOf 8 (pageKey h.part h.asn h.vpn)), (40, bytesOf 8 h.held.toNat), (48, bytesOf 8 (s.resWord h.part n).toNat)
    , (56, bytesOf 1 h.cause), (57, bytesOf 1 n), (64, bytesOf 8 h.frame)]

/-- The dirty lines of a page wait to enter the holding buffer (R104 step 3); a page with none is gone, with an event when a
late attach took a frame for it (R105). -/
def State.toHolding (s : State) (n part asn vpn leafPa : Nat) (leaf : Word) (dirty : BitVec 64) (cause frame : Nat) : State :=
  let s := s.meetPage (unbackedKey n part asn vpn 0) dirty
  let x := (s.slice n).dropPage part asn vpn
  if dirty = 0 then
    let s := s.setSlice n x
    if cause = 5 then
      s.evictEvent n { part := part, asn := asn, vpn := vpn, leafPa := leafPa, leaf := leaf, held := 0, waiting := 0
                       cause := 5, frame := frame, posted := true }
    else s
  else
    let h : HeldPage := { part := part, asn := asn, vpn := vpn, leafPa := leafPa, leaf := leaf, held := 0, waiting := dirty
                          cause := cause, frame := frame, posted := false }
    { s.setSlice n { x with holding := x.holding ++ [h] } with agenda := s.agenda ++ [.holdingBufferEntry n] }

/-- Writes the dirty lines of a page to a frame, each sector with its mark. -/
def State.attachLines (s : State) (from_ f : Nat) (dirty : BitVec 64) : State :=
  let s := s.meetPage from_ dirty
  ((List.range 512).filter (fun i => dirty.getLsbD (i / 8))).foldl (fun s i =>
    let bad := s.isPoisoned (from_ + 32 * i)
    let s := s.storeHome (f + 32 * i) (s.homeBytes (from_ + 32 * i) 32) 0
    if bad then s.setPoison (f + 32 * i) else s) s

/-- Drops the bytes and marks of a page at its home. -/
def State.clearPage (s : State) (key : Nat) : State :=
  { s with mem := s.mem.filter (fun e => !decide (key ≤ e.1 ∧ e.1 < key + 16384))
           poison := s.poison.filter (fun e => !decide (key ≤ e.1 * 32 ∧ e.1 * 32 < key + 16384)) }

/-- The leaf that a late attach writes (R105). -/
def attachedLeaf (old : Word) (f : Nat) : Word :=
  setFld (setFld (setFld (setFld old 63 63 0) 61 61 0) 57 52 0) 43 14 (f / 16384)

/-- A page leaves its frame, or a held page tries again (R104, R105, R108): a late attach when LATE is set and the pool
gives a frame, else the holding buffer, with the cause that the leaf or the pool gives. -/
def State.leavePage (s : State) (n part asn vpn : Nat) : State :=
  match s.findPage part asn vpn with
  | none => s
  | some (_, leafPa, leaf, _) =>
    let key := unbackedKey n part asn vpn 0
    let s := s.evictPage key
    let dirty := match s.findPage part asn vpn with
      | some p => p.2.2.2
      | none => 0
    let inBuffer := (s.slice n).holding.any (·.names part asn vpn)
    let (s, f) := if bitOf leaf 61 then s.takePoolFrame part 65536 else (s, none)
    match f with
    | none =>
      if inBuffer then s else s.toHolding n part asn vpn leafPa leaf dirty (if bitOf leaf 61 then 4 else 3) 0
    | some f =>
      let s := s.attachLines key f dirty
      match s.swapLeaf leafPa leaf (attachedLeaf leaf f) with
      | some s =>
        let s := (s.setSlice n ((s.slice n).dropPage part asn vpn)).clearPage key
        ((s.shootPage part asn vpn).rekey (movedKey key f 16384)).postEvent fcLateAttach part
          [(32, bytesOf 8 (pageKey part asn vpn)), (40, bytesOf 8 f)]
      | none => s.toHolding n part asn vpn leafPa leaf dirty 5 f

def execLateAttach (slice part asn vpn : Nat) (s : State) : Host.Outcome State Fault Refusal :=
  .next (s.leavePage slice part asn vpn)

/-- The lowest `n` lines of a mask. -/
def lowLines (m : BitVec 64) (n : Nat) : BitVec 64 :=
  (((List.range 64).filter (fun i => m.getLsbD i)).take n).foldl (fun acc i => acc ||| (1#64 <<< i)) 0

/-- Lines that wait enter the holding buffer of a slice in arrival order while it has room (R106). -/
def State.holdingEntry (s : State) (n : Nat) : State :=
  let x := s.slice n
  let r := x.holding.foldl (fun (acc : Nat × List HeldPage × List Event) h =>
    let take := lowLines h.waiting acc.1
    let h' := { h with held := h.held ||| take, waiting := h.waiting &&& ~~~take }
    (acc.1 - popc64 take, acc.2.1 ++ [h'],
      acc.2.2 ++ (if h.held = 0 ∧ take ≠ 0 then [Event.unbackedEvict n] else []))) (64 - x.heldLines, [], [])
  { s.setSlice n { x with holding := r.2.1 } with agenda := s.agenda ++ r.2.2 }

def execHoldingBufferEntry (slice : Nat) (s : State) : Host.Outcome State Fault Refusal := .next (s.holdingEntry slice)

/-- The event of the oldest page whose lines stand in the buffer and whose event is still to be posted (R107). -/
def State.unbackedEvict (s : State) (n : Nat) : State :=
  match (s.slice n).holding.find? (fun h => !decide (h.held = 0) && !h.posted) with
  | none => s
  | some h =>
    let x := s.slice n
    (s.evictEvent n h).setSlice n { x with holding := x.holding.map (fun g => if g = h then { g with posted := true } else g) }

def execUnbackedEvict (slice : Nat) (s : State) : Host.Outcome State Fault Refusal := .next (s.unbackedEvict slice)

/-! ## Quota cuts (R104) -/

/-- The frames of a partition in removed ways end: a page moves to the lowest frame left with no page, or leaves. Pinned
lines of the ways become normal lines (R99). -/
def State.quotaCut (s : State) (n p removed : Nat) : State :=
  let x := s.slice n
  let ends := fun (place : Nat) => nbit removed (place / 16)
  let x := { x with
    frames := x.frames.filter (fun f => !(decide (f.2 = p) && ends f.1))
    pinned := x.pinned.filter (fun e => !(decide (e.2 % 16 = p) && nbit removed (e.2 / 16))) }
  let movers := ((x.pages.filter (fun f => decide (f.part = p) && ends f.place)).map (·.place))
  let s := s.setSlice n x
  ((List.range 256).filter (fun place => movers.any (fun m => decide (m = place)))).foldl (fun s place =>
    let x := s.slice n
    match x.freeFrame p with
    | some f => s.setSlice n { x with pages := x.pages.map (fun q => if q.place = place ∧ q.part = p then { q with place := f } else q) }
    | none =>
      match x.pages.find? (fun q => decide (q.place = place ∧ q.part = p)) with
      | some q => { s with agenda := s.agenda ++ [.lateAttach n p q.asn q.vpn] }
      | none => s) s

/-- The held pages of a partition whose leaf has LATE set try the pool again (R108). -/
def State.retryHeld (s : State) (p : Nat) : State :=
  { s with agenda := s.agenda ++ s.slices.flatMap (fun e =>
      (e.2.holding.filter (fun h => decide (h.part = p) && bitOf h.leaf 61)).map (fun h =>
        Event.lateAttach e.1 h.part h.asn h.vpn)) }

/-! ## Retirement (R111) -/

/-- The dirty sectors of a retiring slice's backed lines go to DRAM, with the poison mark where a word of theirs is uncorrectable
(R401). -/
def State.meetLines (s : State) (n : Nat) : State :=
  (s.slice n).badData.foldl (fun s sec =>
    match (s.slice n).lines.seek (sec / 8) with
    | some l =>
      if l.dirty.getLsbD (sec % 8) || l.underBad.any (fun m => decide (m.1 = sec)) then s.setPoison (sec * 32) else s
    | none => s) s

/-- Drops every L1D copy of a slice's lines, tracked or not, after merging dirty bytes. -/
def State.dropCopies (s : State) (n : Nat) : State :=
  let s := (s.cores.map (·.1)).foldl (fun s c =>
    ((s.core c).l1d.filter (fun e => decide (s.homeSlice (e.1 * 32) = n))).foldl (fun s e => s.evict c e.1) s) s
  s.setSlice n { s.slice n with dir := [] }

/-- Retires a slice: its pages leave, its backed lines go to DRAM, and it serves uncached from then on. -/
def State.retire (s : State) (n : Nat) : State :=
  let s := (s.dropCopies n).meetLines n
  let s := (s.slice n).pages.foldl (fun s f => s.meetPage (unbackedKey n f.part f.asn f.vpn 0) f.dirty) s
  let x := s.slice n
  { s.setSlice n { x with retired := true, lines := [], pinned := [], frames := [], badData := [], badSets := [] } with
    agenda := s.agenda ++ x.pages.map (fun f => Event.lateAttach n f.part f.asn f.vpn) }

def execSliceRetire (slice : Nat) (s : State) : Host.Outcome State Fault Refusal := .next (s.retire slice)

end Sys2Proof.Machine
end

