-- ==== Sys2Proof/Machine/SliceEvents.lean ====
section
/-! DEFINITION. Steps of walkers, home slices and L1Ds by themselves (R74, R78, R84, R93 to R98, R114), and the wake-ups of
`WAIT` and `EVT.WAIT` (R248, R250). -/

namespace Sys2Proof.Machine

/-! ## Walks and shoot-downs -/

/-- `PAGE_WALK` (R74, R77, R78): a walker takes the request for a page out of the cluster's queue and serves everyone that
merged onto it; a walk that finds no leaf leaves the fault to the accesses that wait for it. A walk is one step, so none
is in flight when a shoot-down comes (R84 step 2). -/
def State.pageWalk (s : State) (cl part asn root va : Nat) : State :=
  let q := s.walks.val cl []
  if 2 ^ 47 ≤ va then s
  else match q.find? (fun r => r.covers part asn va) with
  | some r => ({ s with walks := s.walks.put cl (q.erase r) }).serveWalk cl r
  | none => s.serveWalk cl { part := part % 16, asn := asn % 65536, root := root % physEnd / 16384 * 16384, page := va / 16384, askers := [] }

def execPageWalk (cluster part asn root va : Nat) (s : State) : Host.Outcome State Fault Refusal :=
  .next (s.pageWalk cluster part asn root va)

def execShootdownDebit (cluster : Nat) (s : State) : Host.Outcome State Fault Refusal := .next (s.shootdownDebit cluster)

/-! ## Requests at a home slice (R93) -/

/-- A die-local read; the core then holds the sector. -/
def State.sliceRead (s : State) (c key : Nat) : State :=
  if s.homeDie key = dieOfCore c then s.fetchSector 0 c (key / 32) else s

def execSliceRead (core key : Nat) (s : State) : Host.Outcome State Fault Refusal := .next (s.sliceRead core key)

/-- A die-local store request: every other tracked copy goes, and the core holds the line in E. -/
def State.grantExc (s : State) (c key : Nat) : State :=
  if s.homeDie key = dieOfCore c ∧ (s.atHome 0 key).mayCache 0 c key = true then s.ownSector 0 c (key / 32) (0, 0) else s

def execSliceStoreRequest (core key : Nat) (s : State) : Host.Outcome State Fault Refusal := .next (s.grantExc core key)

/-- A write-back: from the owner the whole line leaves and becomes UNC, from another core its bytes merge. -/
def State.sliceWriteBack (s : State) (c key : Nat) : State :=
  if s.homeDie key = dieOfCore c ∧ s.dirOf key = .exc (c % 64) then
    ((sectorsOf key).foldl (fun s sec => s.evict c sec) s).setDir key .unc
  else s.writeBack c (key / 32)

def execSliceWriteBack (core key : Nat) (s : State) : Host.Outcome State Fault Refusal := .next (s.sliceWriteBack core key)

/-- A cross-die read: the core holds an untracked copy. -/
def State.crossRead (s : State) (c key : Nat) : State :=
  if s.homeDie key = dieOfCore c then s else s.fetchSector 0 c (key / 32)

def execCrossDieRead (core key : Nat) (s : State) : Host.Outcome State Fault Refusal := .next (s.crossRead core key)

/-- Bytes written at their homes by a request of no core's L1D, sector by sector; those of a reserved word wait (R93, R98). -/
def State.crossBytes (s : State) (key : Nat) (bs : List Byte) : State :=
  (sectorKeys key bs.length).foldl (fun s sec =>
    let lo := max (sec * 32) key
    let hi := min (sec * 32 + 32) (key + bs.length)
    s.crossPokes 0 lo 0 0 (pokesOf lo ((bs.drop (lo - key)).take (hi - lo)))) s

/-- A cross-die write merges sector by sector. -/
def execCrossDieWrite (_core key : Nat) (bytes : List Byte) (s : State) : Host.Outcome State Fault Refusal :=
  .next (s.crossBytes key bytes)

/-- An ATTR 1 access is served at the slice. -/
def State.attr1 (s : State) (key width : Nat) (w : Option Word) : State :=
  match w with
  | some v => s.crossBytes key (bytesOf width v.toNat)
  | none => (s.atHome 0 key).recallAny key

def execAttr1Access (_core key width : Nat) (write : Option Word) (s : State) : Host.Outcome State Fault Refusal :=
  .next (s.attr1 key width write)

/-- The recalled sectors of an EXC owner arrive. -/
def execRecallResponse (core key : Nat) (s : State) : Host.Outcome State Fault Refusal :=
  .next (if s.dirOf key = .exc (core % 64) ∧ s.homeDie key = dieOfCore core then s.recallAny key else s)

/-- A sector arrives at an L1D; bytes that stores covered stay (R114). -/
def execSectorFill (core key : Nat) (s : State) : Host.Outcome State Fault Refusal := .next (s.fetchSector 0 core (key / 32))

/-! ## REDs, gathers and reservations (R96 to R98) -/

/-- `RED_APPLY` (R96): behind a reservation of its word the RED waits in arrival order (R98). -/
def State.redStep (s : State) (gs : Nat) (op : RedOp) (w32 etol : Bool) (key : Nat) (v : Word) : State :=
  if s.reserved key then
    let n := s.homeSlice key
    s.setAmo n ((s.slice n).amo ++ [{ key := key, core := gs / 16, slot := gs, granted := false, op := .red op w32 etol v
                                      via := { part := (s.slot gs).part } }])
  else s.redServe gs op w32 etol key v (s.slot gs).part

def execRedApply (gslot : Nat) (op : RedOp) (w32 etol : Bool) (key : Nat) (v : Word) (s : State) :
    Host.Outcome State Fault Refusal := .next (s.redStep gslot op w32 etol key v)

/-- `HGATH_SERVE` (R97): the packed words reach the vector register; a poisoned word that is not tolerated leaves the
fault to the instruction. -/
def State.hgathServe (s : State) (gs : Nat) (v : VReg) (key : Nat) (sel : Word) (etol : Bool) : State :=
  let s := (s.lineAtHome (s.slot gs).part key).refreshU (gs / 16) key
  let (w, bad) := hgathWords s key sel
  let x := s.slot gs
  if bad.isEmpty then s.setSlot gs { x with v := x.v.setIfInBounds v.val w }
  else if etol then
    s.setSlot gs { x with v := x.v.setIfInBounds v.val w, subcnt := x.subcnt + ofN bad.length }
  else s

def execHgathServe (gslot : Nat) (v : VReg) (key : Nat) (sel : Word) (etol : Bool) (s : State) :
    Host.Outcome State Fault Refusal := .next (s.hgathServe gslot v key sel etol)

/-- `AMO_RESERVE` (R98 step 1): the core's own untracked copy goes back first; a request that finds 64 reservations in the
queue waits behind them. -/
def State.amoReserve (s : State) (gs key : Nat) : State :=
  let s := s.dropUntracked (gs / 16) (key / 32)
  let n := s.homeSlice key
  if (s.amoOf gs).isSome then s
  else s.setAmo n ((s.slice n).amo ++ [{ key := key, core := gs / 16, slot := gs, granted := false }])

def execAmoReserve (gslot key : Nat) (s : State) : Host.Outcome State Fault Refusal := .next (s.amoReserve gslot key)

/-- `AMO_GRANT` (R98 step 2). -/
def State.amoGrant (s : State) (n : Nat) : State :=
  match grantable [] (inQueue 64 (s.slice n).amo) with
  | some r => s.grant n r
  | none => s

def execAmoGrant (slice : Nat) (s : State) : Host.Outcome State Fault Refusal := .next (s.amoGrant slice)

/-- `AMO_RELEASE` (R98 step 4): the value of a granted reservation is written and every tracked copy of the sector goes. -/
def State.amoRelease (s : State) (gs key width : Nat) (v : Option Word) : State :=
  match s.amoOf gs with
  | some (n, r) =>
    if r.granted && sameWord r.key key then
      let s := match v with
        | some w => s.storeHome key (bytesOf width w.toNat) (s.slot gs).part
        | none => s
      s.amoLeave n r
    else s
  | none => s

def execAmoRelease (gslot key width : Nat) (v : Option Word) (s : State) : Host.Outcome State Fault Refusal :=
  .next (s.amoRelease gslot key width v)

/-- `AMO_WITHDRAW` (R369). -/
def execAmoWithdraw (gslot : Nat) (s : State) : Host.Outcome State Fault Refusal := .next (s.amoWithdraw gslot)

/-! ## Wake-ups (R248, R250) -/

/-- Whether a counter has reached a threshold; a poisoned counter wakes its waiter, which meets the mark. -/
def State.counterMet (s : State) (key thr : Nat) : Bool :=
  decide (thr ≤ ((s.recallAny key).homeWord key).toNat) || (s.recallAny key).isPoisoned key

/-- A slot that waits issues its instruction again. -/
def State.wake (s : State) (gs : Nat) : State :=
  match (s.slot gs).run with
  | .waiting _ => s.setSlot gs { s.slot gs with run := .ready }
  | _ => s

/-- `EVT_WATCH_WAKE` (R250): the slice wakes every waiter whose watched threshold is met, and frees its entry. -/
def State.watchWake (s : State) (n : Nat) : State :=
  let x := s.slice n
  let met := x.watch.filter (fun w => s.counterMet w.1 w.2.1)
  let s := s.setSlice n { x with watch := x.watch.filter (fun w => !met.any (fun m => decide (m.2.2 = w.2.2))) }
  met.foldl (fun s w => s.wake w.2.2) s

def execEvtWatchWake (slice : Nat) (s : State) : Host.Outcome State Fault Refusal := .next (s.watchWake slice)

/-- `EVT_WAIT_POLL` (R250): a waiter without an entry reads its counter again. -/
def State.waitPoll (s : State) (gs : Nat) : State :=
  match (s.slot gs).run with
  | .waiting (.event key thr false _) => if s.counterMet key thr then s.wake gs else s
  | _ => s

def execEvtWaitPoll (gslot : Nat) (s : State) : Host.Outcome State Fault Refusal := .next (s.waitPoll gslot)

/-- `WAIT_WAKE` (R248): a `WAIT` whose conditions hold, or else whose time-out has ended, issues again with the conditions
as sampled here. -/
def State.waitWake (s : State) (gs : Nat) : State :=
  let x := s.slot gs
  let c := x.condMask
  match x.run with
  | .waiting (.conds mask all) =>
    if wakes mask c all then s.setSlot gs { x with run := .waiting (.woken c false) }
    else match x.waitLeft with
      | some e => if e ≤ s.now then s.setSlot gs { x with run := .waiting (.woken c true) } else s
      | none => s
  | _ => s

def execWaitWake (gslot : Nat) (s : State) : Host.Outcome State Fault Refusal := .next (s.waitWake gslot)

end Sys2Proof.Machine
end

