-- ==== Sys2Proof/Machine/Partition.lean ====
section
/-! DEFINITION. The partition table: the checks of `PART.SET`, what an accepted word changes, and `PART.SET` itself
(R319, R374 to R378, R459). -/

namespace Sys2Proof.Machine

/-! ## Words -/

/-- Whether a word of the table takes an index (R376, R377). -/
def partIndexOk (word i : Nat) : Bool :=
  match word with
  | 1 | 5 => decide (i < 256)
  | 2 => decide (i < 16)
  | 4 => decide (i < 64)
  | _ => decide (word ≤ 14 ∧ i = 0)

/-- The slice takes the masks of a partition from a written word 4 (R89, R111). -/
def State.takeWays (s : State) (p word n : Nat) : State :=
  if word = 4 then
    s.setSlice n { s.slice n with noWays := (s.slice n).noWays.filter (fun q => !decide (q = p)) }
  else s

/-- Stores a word of the table, with no check and no effect. -/
def State.putPartWord (s : State) (p word i : Nat) (v : Word) : State :=
  let w := s.part p
  (s.takeWays p word i).setPart p (match word with
    | 0 => { w with w0 := v }
    | 1 => { w with clist := w.clist.put i v.toNat }
    | 2 => { w with acc := w.acc.put i v.toNat }
    | 3 => { w with w3 := v }
    | 4 => { w with ways := w.ways.put i v.toNat }
    | 5 => { w with l1ways := w.l1ways.put i v.toNat }
    | 6 => { w with w6 := v }
    | 7 => { w with w7 := v }
    | 8 => { w with w8 := v }
    | 9 => { w with w9 := v }
    | 10 => { w with w10 := v }
    | 11 => { w with w11 := v }
    | 12 => { w with w12 := v }
    | 13 => { w with w13 := v }
    | 14 => { w with w14 := v }
    | _ => w)

/-- EN, TS, SLICE of a partition. -/
def PartWords.en (w : PartWords) : Bool := bitOf w.w0 63
def PartWords.ts (w : PartWords) : Bool := bitOf w.w0 62
def PartWords.slice (w : PartWords) : Nat := fld w.w11 19 0

/-- Whether a word breaks its own fields: a reserved bit, a range, or an address outside DRAM (R377, R378 code 1). -/
def State.badValue (s : State) (p word : Nat) (v : Word) : Bool :=
  let zero := fun (hi lo : Nat) => decide (fld v hi lo = 0)
  let dram := fun (hi lo : Nat) => decide (fld v hi lo * 2 ^ lo < s.dramEnd)
  !(match word with
    | 0 => zero 52 48 && decide (fld v 61 53 ≤ 256)
    | 1 | 2 => zero 63 8
    | 4 => zero 63 32
    | 5 => zero 63 12
    | 6 => zero 63 29 && zero 15 7 && decide (fld v 28 16 ≤ 4096 ∧ fld v 6 0 ≤ 64)
    | 7 => zero 47 44 && zero 4 0 && dram 43 5
    | 8 => zero 47 44 && zero 2 0 && dram 43 3
    | 9 => zero 63 9
    | 11 => zero 63 20 && (decide (v = 0) || decide (50 ≤ v.toNat ∧ v.toNat ≤ 1000000))
    | 12 => zero 63 52 && zero 47 44 && zero 5 0
        && (decide (fld v 51 48 = 0) || (decide (4 ≤ fld v 51 48 ∧ fld v 51 48 ≤ 12) && dram 43 6))
    | 13 => if p = 0 then zero 63 4 else zero 63 44 && zero 11 0 && dram 43 12
    | 14 => zero 61 25 && zero 15 8 && decide (fld v 7 0 + fld v 24 16 ≤ 256)
    | _ => true)

/-! ## The checks of R378 -/

/-- The cores of a partition's list. -/
def State.coresOf (s : State) (p : Nat) : List Nat := (List.range (s.part p).clen).map (s.clist p)

/-- The other enabled partitions. -/
def State.enabledBut (s : State) (p : Nat) : List Nat :=
  (List.range 16).filter (fun q => !decide (q = p) && (s.part q).en)

/-- Tiles that a partition gives to its slots. -/
def State.tilesOf (s : State) (p : Nat) : Nat := (List.range 16).foldl (fun m i => m ||| s.accMask p i) 0

/-- Whether two partitions share a unit that R374 keeps apart. -/
def State.overlap (s : State) (p q : Nat) : Bool :=
  let a := s.part p
  let b := s.part q
  let group := a.ts && b.ts
  let meet := fun (x y : Nat) => !decide (x &&& y = 0)
  let shared := (s.coresOf p).filter (s.inCoreSet q)
  let core := !shared.isEmpty
  let field := fun (hi lo : Nat) => meet (fld a.w0 hi lo) (fld b.w0 hi lo)
  (!group && !decide (p = 0) && !decide (q = 0) && field 15 12)
  || (core && (field 31 16 || field 7 0 || meet a.w3.toNat b.w3.toNat))
  || (core && !group && (field 47 32 || field 11 8 || meet (s.tilesOf p) (s.tilesOf q)))
  || (!group && shared.any (fun c => meet (s.l1ways p c) (s.l1ways q c)))
  || (List.range 64).any (fun n =>
      let x := s.waysOf p n
      let y := s.waysOf q n
      meet (nbits x 31 16) (nbits y 31 16)
      || (!a.ts && meet (nbits x 15 0) (nbits y 31 16)) || (!b.ts && meet (nbits y 15 0) (nbits x 31 16))
      || (!group && meet (nbits x 15 0) (nbits y 15 0)))

/-- Whether a partition gives one tile to two of its slots (R159, R374). -/
def State.tileTwice (s : State) (p : Nat) : Bool :=
  (List.range 16).any (fun i => (List.range i).any (fun j => !decide (s.accMask p i &&& s.accMask p j = 0)))

/-- Whether two members of the time-sliced group differ where they share (R378 code 3). -/
def State.groupDiffers (s : State) (p q : Nat) : Bool :=
  let a := (s.part p).w0
  let b := (s.part q).w0
  !decide (fld a 47 32 = fld b 47 32 ∧ fld a 11 8 = fld b 11 8)
  || (List.range 16).any (fun i => !decide (s.accMask p i = s.accMask q i))
  || (List.range 64).any (fun n => !decide (nbits (s.waysOf p n) 15 0 = nbits (s.waysOf q n) 15 0))
  || (List.range 256).any (fun c => !decide (s.l1ways p c = s.l1ways q c))

/-- Number of ones in 16 bits. -/
def ones16 (m : Nat) : Nat := ((List.range 16).filter (nbit m)).length

/-- R378 code 4. -/
def State.overLimit (s : State) (p : Nat) (others : List Nat) : Bool :=
  (List.range 64).any (fun n =>
    decide (12 < ((p :: others).map (fun q => ones16 (s.rways q n))).sum)
    || !decide (nbits (s.waysOf p n) 15 0 &&& s.rways p n = 0))
  || decide (64 < ((List.range 16).map (fun q => (s.part q).resq)).sum)
  || (List.range 4).any (fun d =>
      decide ((s.part p).resq < (s.residents.filter (fun r => decide (r.part = p ∧ r.die = d) && r.pinned)).length))

/-- Whether a slot holds a task of a partition; the slots of a partition that is switched out are free for the change
(R378). -/
def State.holdsFor (s : State) (p gs : Nat) : Bool :=
  match (s.slot gs).task with
  | some t => decide (t.part = p)
  | none => false

/-- Whether a bound task or an open launch keeps a partition in use. -/
def State.partBusy (s : State) (p : Nat) : Bool :=
  s.cores.any (fun c => c.2.slots.any (fun x => match x.2.task with
    | some t => decide (t.part = p)
    | none => false))
  || (match s.saved.seek p with
      | some m => m.slots.any (fun x => x.2.holds)
      | none => false)
  || (List.range 16).any (fun k => (s.launch (p * 16 + k)).isOpen)

/-- R378 code 5, from the table before and after. -/
def State.inUse (s t : State) (p : Nat) : Bool :=
  if (t.part p).en then
    (s.part p).en && (s.coresOf p).any (fun c => (List.range 16).any (fun i =>
      nbit (s.part p).slotMask i && !(t.inCoreSet p c && nbit (t.part p).slotMask i) && s.holdsFor p (c * 16 + i)))
  else decide (p = 0) || ((s.part p).en && s.partBusy p)

/-- R378 code 6. -/
def State.badList (s : State) (p : Nat) : Bool :=
  let l := s.coresOf p
  !decide (l.eraseDups.length = l.length) || l.any (fun c => (s.core c).health.offline)

/-- Whether a word moves the SLOTS of an enabled member of the time-sliced group while the group is switched in (R389). -/
def State.slotsMove (s t : State) (p : Nat) : Bool :=
  (s.part p).en && (s.part p).ts && s.sched.member.isSome && !decide (fld (s.part p).w0 47 32 = fld (t.part p).w0 47 32)

/-- The code with which `PART.SET` refuses a value, or 0 (R378, R459): `s` is the state before, `t` the table with the
value in it. -/
def State.partCode (s t : State) (p word : Nat) (v : Word) : Nat :=
  let w := t.part p
  let others := t.enabledBut p
  if s.badValue p word v then 1
  else if !(s.part p).en && !w.en then 0
  else if !decide (w.ts = true ↔ w.slice ≠ 0) then 1
  else if w.en && (others.any (t.overlap p) || t.tileTwice p) then 2
  else if w.en && w.ts && (s.slotsMove t p || others.any (fun q => (t.part q).ts && t.groupDiffers p q)) then 3
  else if w.en && t.overLimit p others then 4
  else if s.inUse t p then 5
  else if w.en && decide (word ≤ 1) && t.badList p then 6
  else 0

/-! ## Effects of an accepted word -/

/-- Engine instructions issued earlier in slots of the bank's owner keep a bank as it stood (R177). -/
def Core.keepBank (k : Core) (b : Nat) (mine : Nat → Bool) : Core :=
  let old := k.bank b
  { k with slots := k.slots.map (fun e => (e.1, if mine e.2.part then { e.2 with engq := e.2.engq.map (fun q =>
      if q.banks.has b then q else { q with banks := q.banks.put b old }) } else e.2)) }

/-- A decode table bank goes to another partition: sealed, with its contents after wipe (R177). -/
def Core.passBank (k : Core) (b : Nat) (mine : Nat → Bool) : Core :=
  { k.keepBank b mine with tb := k.tb.put b (TBank.reset b) }

/-- The table banks that an engine instruction of a slot uses (R161, R277). -/
def Slot.banksOf (x : Slot) (i : Instr) : List Nat :=
  let desc := fun (w : Word) => if 3 ≤ descElem w then [descBank w] else []
  match i with
  | .vDec8 .. | .vEnc8 .. | .vDec4 .. | .vEnc4 .. => [x.vbank]
  | .mLatch .. => desc x.fb
  | .mStep .. | .mLocal .. => desc x.fa ++ desc x.fb
  | _ => []

/-- Whether a slot that is not parked has an engine instruction to start that uses a table bank. -/
def Slot.usesTable (x : Slot) (b : Nat) : Bool :=
  let uses := fun (i : Instr) => (x.banksOf i).any (fun n => decide (n = b))
  !(match x.run with
    | .parked _ => true
    | _ => false) && (x.engq.any (fun e => uses e.instr) || (x.tr.active && x.tr.buf.any (fun e => uses e.instr)))

/-- Whom the units of a partition count as given to: members of the time-sliced group share. -/
def State.ownerCode (s : State) (p : Nat) : Nat := if (s.part p).ts then 16 else p

/-- Whether a table bank that an accepted word gives to partition `p` has a use that issued earlier (R177). -/
def State.tableHeld (s : State) (p : Nat) : Bool :=
  let w := s.part p
  w.en && (s.coresOf p).any (fun c => (List.range 4).any (fun b =>
    nbit w.tbanks b && !decide ((s.core c).owners.val (16 + b) 0 = s.ownerCode p)
    && (s.core c).slots.any (fun e => !decide (e.2.part = p) && e.2.usesTable b)))

/-- Whether a table bank that an accepted word takes from partition `p` has a use that issued earlier in one of its slots
(R177): it is waited for, and a parked slot's instruction keeps the bank as it stood. -/
def State.tableLost (old s : State) (p : Nat) : Bool :=
  (old.part p).en && (old.coresOf p).any (fun c => (List.range 4).any (fun b =>
    nbit (old.part p).tbanks b && !((s.part p).en && s.inCoreSet p c && nbit (s.part p).tbanks b)
    && (old.core c).slots.any (fun e => decide (e.2.part = p) && e.2.usesTable b)))

/-- Engine instructions of parked slots of partition `p` keep the table banks that it loses. -/
def State.keepLost (old s : State) (p : Nat) : State :=
  if (old.part p).en then
    (old.coresOf p).foldl (fun s c => ((List.range 4).filter (fun b => nbit (old.part p).tbanks b
        && !((s.part p).en && s.inCoreSet p c && nbit (s.part p).tbanks b))).foldl
      (fun s b => s.setCore c ((s.core c).keepBank b (fun q => decide (q = p)))) s) s
  else s

/-- The units that an enabled partition holds on one of its cores pass to it (R118, R159, R177). -/
def State.takeUnits (s : State) (p c : Nat) : State :=
  let w := s.part p
  let who := s.ownerCode p
  let s := ((List.range 16).filter (fun b => nbit w.banks b)).foldl (fun s b =>
    let k := s.core c
    if k.owners.val b 0 = p then s
    else
      let k := { k with owners := k.owners.put b p, wiping := insertNew b k.wiping }
      let s := (s.setCore c k).endOnBank p c b
      { s with agenda := s.agenda ++ [.lmWipeDone c b] }) s
  let s := ((List.range 4).filter (fun b => nbit w.tbanks b)).foldl (fun s b =>
    let k := s.core c
    if k.owners.val (16 + b) 0 = who then s
    else s.setCore c { k.passBank b (fun q => decide (s.ownerCode q = k.owners.val (16 + b) 0)) with owners := k.owners.put (16 + b) who }) s
  (List.range 128).foldl (fun s e =>
    let i := e / 8
    let t := e % 8
    if nbit (s.accMask p i) t then
      let k := s.core c
      if k.owners.val (32 + t) 0 = who * 16 + i + 1 then s
      else s.setCore c { k.clearTiles (2 ^ t) with owners := k.owners.put (32 + t) (who * 16 + i + 1) }
    else s) s

/-- The wipe of a bank ends (R118). -/
def State.lmWipeDone (s : State) (c b : Nat) : State :=
  let k := s.core c
  s.setCore c { k.wipeBank b with wiping := k.wiping.filter (fun w => !decide (w = b)) }

def execLmWipeDone (core bank : Nat) (s : State) : Host.Outcome State Fault Refusal := .next (s.lmWipeDone core bank)

/-- The first enabled member of the time-sliced group after `p` in ascending number, wrapping. -/
def State.nextMember (s : State) (p : Nat) : Option Nat :=
  ((List.range 16).map (fun i => (p + 1 + i) % 16)).find? (fun q => (s.part q).en && (s.part q).ts && !decide (q = p))

/-- A member joins the time-sliced group: the first is switched in, a later one joins switched out (R379). -/
def State.joinGroup (s : State) (p : Nat) : State :=
  match s.sched.member with
  | none => { s with sched := { s.sched with member := some p, allot := (s.part p).slice, ran := 0
                                             credit := s.sched.credit.put p 0 } }
  | some _ =>
    { s with sched := { s.sched with credit := s.sched.credit.put p 0 }
             saved := s.saved.put p { part := p, slots := [], valid := [] } }

/-- The latch reservation of a partition on a core ends (R287). -/
def Core.dropReserved (k : Core) (p : Nat) : Core :=
  match k.latch.reserved with
  | some (q, h) => if q = p then k.freeLatch p h else k
  | none => k

/-- The latch reservations of a member that leaves the group end (R287). -/
def State.dropReserved (s : State) (p : Nat) : State :=
  { s with cores := s.cores.map (fun e => (e.1, e.2.dropReserved p)) }

/-- A sparse table under other keys. -/
def SMap.rekey {α : Type} (m : SMap α) (f : Nat → Nat) : SMap α := m.foldl (fun (l : SMap α) e => l.put (f e.1) e.2) []

/-- What a switched-out member saved on core `a` goes to core `b`, which takes the ordinal (R378, R380). -/
def SavedMember.moveCore (m : SavedMember) (a b : Nat) : SavedMember :=
  let move := fun (size n : Nat) => if n / size = a then b * size + n % size else n
  { m with
    slots := SMap.rekey m.slots (move 16), valid := m.valid.map (move 1) }

/-- A core ordinal of a switched-out member is remapped: its saved contexts wait for the new core. -/
def State.moveSaved (s : State) (p a b : Nat) : State :=
  match s.saved.seek p with
  | some m =>
    if a = b then s
    else { s.setCore a ((s.core a).dropReserved p) with saved := s.saved.put p (m.moveCore a b) }
  | none => s

/-- A member leaves the group; when it was the one switched in, the next is switched in, ready or not (R379). -/
def State.leaveGroup (s : State) (p : Nat) : State :=
  let s := ({ s with saved := s.saved.del p } : State).dropReserved p
  if s.sched.member = some p ∨ s.sched.switching = some p then
    match s.nextMember p with
    | some q => { s with sched := { s.sched with member := none, allot := (s.part q).slice, ran := 0, switching := some q }
                         agenda := s.agenda ++ [.tsSwitchComplete] }
    | none => { s with sched := { s.sched with member := none, allot := 0, ran := 0, switching := none } }
  else s

/-- Resident queues beyond a partition's places on a die are written back (R353). -/
def State.trimResidents (s : State) (p die : Nat) : Nat → State
  | 0 => s
  | fuel + 1 =>
    let l := s.residents.filter (fun r => decide (r.part = p ∧ r.die = die))
    if l.length ≤ (if (s.part p).en then (s.part p).resq else 0) then s
    else match oldest (l.filter (fun r => !r.pinned)) with
      | some r => (s.evictResident r).trimResidents p die fuel
      | none => s

/-- What follows from an accepted word (R319). -/
def State.partEffect (old s : State) (p word i : Nat) : State :=
  let w := s.part p
  let was := old.part p
  let s := if word ≤ 1 then old.keepLost s p else s
  let s := if w.en && decide (word ≤ 2) then (s.coresOf p).foldl (fun s c => s.takeUnits p c) s else s
  let s := if word = 1 ∧ i < w.clen then s.moveSaved p (old.clist p i) (s.clist p i) else s
  let s := if word = 4 then
      let cut := (List.range 16).filter (fun b => nbit (old.rways p i) b && !nbit (s.rways p i) b)
      if cut.isEmpty then s else s.quotaCut i p ((cut.map (fun b => 2 ^ b)).sum)
    else s
  let s := if word = 0 ∨ word = 6 then (List.range 4).foldl (fun s d => s.trimResidents p d 64) s else s
  let s := if word = 8 ∧ was.lfCount < w.lfCount then s.retryHeld p else s
  let s := if word = 12 then
      { s with agenda := s.agenda ++ (s.fqWait.filter (fun r => decide (r.queue = p))).map (fun _ => Event.faultRecordWrite p) }
    else s
  let before := was.en && was.ts
  let after := w.en && w.ts
  if after && !before then s.joinGroup p else if before && !after then s.leaveGroup p else s

/-- A die that comes to hold a core of a partition starts at HEAD of every queue of it: the packets before have been taken by the
dies that held its cores (R352, assumption 102). A pinned queue is made resident there, so that its launches take no miss
(R305, R353). -/
def State.joinDie (old s : State) (p die : Nat) : State :=
  (s.pushed.filter (fun q => decide (q.1 = p))).foldl (fun s q =>
    match s.queueAt p q.2.1 q.2.2 with
    | none => s
    | some d =>
      let s := s.pokeNat (d + 20 + 4 * die) 4 (old.queueHead p q.2.1 q.2.2 d)
      if nbit (s.peekNat (d + 17) 1) 2 then
        (s.makeResident die p q.2.1 q.2.2).updResident die p q.2.1 q.2.2 (fun r => { r with pinned := true })
      else s) s

/-- The dies that a write of the core list adds. -/
def State.joinDies (old s : State) (p : Nat) : State :=
  ((s.diesOf p).filter (fun d => !(old.diesOf p).any (fun e => decide (e = d)))).foldl (fun s d => old.joinDie s p d) s

/-- `PART.SET` of a word: the state and the code (R319, R378). -/
def State.partSet (s : State) (p word i : Nat) (v : Word) : State × Nat :=
  let t := s.putPartWord p word i v
  match s.partCode t p word v with
  | 0 => (if word ≤ 1 then s.joinDies (s.partEffect t p word i) p else s.partEffect t p word i, 0)
  | code => (s, code)

/-- `PART.SET` (R319). -/
def execPartSet (d a b : Reg) (s : State) :=
  runI (do
    supervisor [a.val, b.val] [d.val]
    ready [a.val, b.val] [d.val]
    let sel ← readS a.val
    let v ← readS b.val
    needP (decide (fld sel 63 20 = 0) && partIndexOk (fld sel 11 4) (fld sel 19 12)) fcIllegalOpcode
    let s ← get
    let p := fld sel 3 0
    let (t, code) := s.partSet p (fld sel 11 4) (fld sel 19 12) v
    let w := s.putPartWord p (fld sel 11 4) (fld sel 19 12) v
    needW (!(decide (code = 0 ∧ fld sel 11 4 ≤ 2) && (w.tableHeld p || s.tableLost w p)))
    set t
    writeS d.val (ofN code)) s

end Sys2Proof.Machine
end

