-- ==== Sys2Proof/Machine/System.lean ====
section
/-! DEFINITION. System registers, the capability list and the decode table instructions (R164 to R168, R175 to R179, R315
to R318, R430, R468). -/

namespace Sys2Proof.Machine

/-! ## Capability list (R430, R468) -/

/-- A header word of a capability record. -/
def capHeader (id lenw next : Nat) : Word := ofN (id * 2 ^ 48 + 2 ^ 40 + lenw * 2 ^ 32 + next)

/-- A word of the capability list. -/
def State.capWord (s : State) (i : Nat) : Word :=
  match i with
  | 0 => capHeader 1 5 5
  | 1 => 0x303635322D48525A#64
  | 2 => if s.large then 0x3635322D#64 else 0x3832312D#64
  | 3 => ofN Config.siliconRevision.toNat
  | 4 => 1
  | 5 => capHeader 2 3 8
  | 6 => ofN s.dramEnd
  | 7 => ofN (Config.channelBytes s.large)
  | 8 => capHeader 3 2 10
  | 9 => ofN (112000 * 256 + 2)
  | 10 => capHeader 4 4 0
  | 11 => 190
  | 12 => 210
  | 13 => 3840
  | _ => 0

/-! ## System registers (R165 to R168) -/

/-- PISTAT (R140). -/
def Core.pistat (k : Core) : Word :=
  ofN (k.pistStray * 2 ^ 48 + k.pistHole * 2 ^ 32 + k.pistQdrop * 2 ^ 16 + k.pistFmterr * 256 + k.pistIllegal)

/-- BUDGET (R162). -/
def Slot.budget (x : Slot) : Word := ofN (toBits 32 x.left * 2 ^ 32 + x.limit)

/-- FA, FB or FC as a read gives it (R161): its reserved fields, which a packed descriptor may fill (R347), read as zero (R8). -/
def descRead (w : Word) : Word := ofN (fld w 50 32 * 2 ^ 32 + b2n (bitOf w 15) * 2 ^ 15 + fld w 11 10 * 2 ^ 10 + fld w 3 0)

/-- The system register with a number, as the executing slot reads it; none for a number that R165 does not list. -/
def State.sysReg (s : State) (n : Nat) : Option Word :=
  let x := s.me
  let c := s.myCore
  let k := s.core c
  match n with
  | 0x000 => some x.sw
  | 0x001 => some x.sbase
  | 0x002 => some x.slim
  | 0x003 => some x.trapv
  | 0x004 => some x.trappc
  | 0x005 => some x.trapcode
  | 0x006 => some x.trapaddr
  | 0x008 => some x.subcnt
  | 0x009 => some x.clampcnt
  | 0x00A => some (ofN x.mringPred)
  | 0x00B => some (ofN x.mringSucc)
  | 0x00C => some (ofN ((s.part x.part).tbanks * 16 + x.vbank))
  | 0x00D => some (ofN (s.accMask x.part (s.cur % 16)))
  | 0x010 => some (descRead x.fa)
  | 0x011 => some (descRead x.fb)
  | 0x012 => some (descRead x.fc)
  | 0x013 => some x.sa
  | 0x014 => some x.sb
  | 0x015 => some x.sc
  | 0x016 => some x.wid
  | 0x017 => some (ofN x.tin)
  | 0x018 => some x.cstamp
  | 0x019 => some x.budget
  | 0x020 => some x.ptroot
  | 0x040 => some (ofN (c * 256 + s.cur % 16 * 16 + x.part))
  | 0x041 => some (ofN (s.part x.part).banks)
  | 0x328 => some k.pistat
  | _ =>
    if 0x300 ≤ n ∧ n < 0x308 then some (s.window c (n - 0x300)).cfg
    else if 0x308 ≤ n ∧ n < 0x310 then some 0
    else if 0x310 ≤ n ∧ n < 0x318 then some ((s.window c (n - 0x310)).status (s.windowSeq c (n - 0x310)))
    else if 0x320 ≤ n ∧ n < 0x328 then some (x.ptag[n - 0x320]!)
    else if 0xE00 ≤ n ∧ n < 0xF00 then some (s.capWord (n - 0xE00))
    else none

/-- The bits of a register that are marked RWS (R49, R72, R163, R165). -/
def rwsMask (n : Nat) : Nat :=
  match n with
  | 0x000 => 0x200
  | 0x001 | 0x002 => 2 ^ 19 - 1
  | 0x008 | 0x009 => 2 ^ 64 - 1
  | 0x020 => 0xFFFF00000000C001 ||| (2 ^ 44 - 2 ^ 14)
  | _ => if 0x300 ≤ n ∧ n < 0x308 then 0xFFFFFF000007FFFF else 0

/-- The bits of SW that a write changes (R163). -/
def swWritable : Nat := 0xFFF8060D

/-- A write of SW: ignored when WFMT or XFMT names a reserved identifier (R173). -/
def badFormats (w : Word) : Bool :=
  decide (fld w 26 23 = 6) || decide (fld w 26 23 = 7) || decide (fld w 22 19 = 6) || decide (fld w 22 19 = 7)

/-- The bits of `new` under a mask, the others of `old`. -/
def maskWord (m : Nat) (new old : Word) : Word := (new &&& ofN m) ||| (old &&& ~~~(ofN m))

/-- SBASE and SLIM as a write leaves them (R166): ignored when they would not be multiples of 8 in order. -/
def Slot.setStack (x : Slot) (lo hi : Word) : Slot :=
  if lo.toNat % 8 = 0 ∧ hi.toNat % 8 = 0 ∧ lo.toNat < hi.toNat then { x with sbase := lo, slim := hi } else x

/-- The effect of a write of a system register that may happen. -/
def State.sysWrite (s : State) (n : Nat) (w : Word) : State :=
  let x := s.me
  let c := s.myCore
  let low := fun (k : Nat) => ofN (w.toNat % 2 ^ k)
  match n with
  | 0x000 => if badFormats w then s else s.setMe { x with sw := maskWord swWritable w x.sw }
  | 0x001 => s.setMe (x.setStack (low 19) x.slim)
  | 0x002 => s.setMe (x.setStack x.sbase (low 19))
  | 0x003 => s.setMe { x with trapv := low 48 }
  | 0x004 => s.setMe { x with trappc := ofN (w.toNat % 2 ^ 48 / 2 * 2) }
  | 0x008 => s.setMe { x with subcnt := w }
  | 0x009 => s.setMe { x with clampcnt := w }
  | 0x00A => s.setMe { x with mringPred := w.toNat % 256 }
  | 0x00B => s.setMe { x with mringSucc := w.toNat % 256 }
  | 0x00C => s.setMe { x with vbank := w.toNat % 4 }
  | 0x020 => s.setMe { x with ptroot := maskWord (rwsMask 0x020) w x.ptroot }
  | _ =>
    if 0x300 ≤ n ∧ n < 0x308 then s.swcfg c (n - 0x300) w
    else if 0x308 ≤ n ∧ n < 0x310 then s.swrel c (s.cur % 16) (n - 0x308) w
    else if 0x310 ≤ n ∧ n < 0x318 then s.swstat c (n - 0x310) w
    else if 0x320 ≤ n ∧ n < 0x328 then s.setMe { x with ptag := x.ptag.setIfInBounds (n - 0x320) (low 48) }
    else s

/-- Whether a register settles only when the engine instructions before it have started: SW (R164) and TBSEL, which
they read. -/
def settles (n : Nat) : Bool := decide (n = 0x000) || decide (n = 0x00C)

/-- `SYS.RD` (R315). -/
def execSysRd (d : Reg) (n : Nat) (s : State) :=
  runI (do
    ready [] [d.val]
    match s.sysReg n with
    | none => faultP fcIllegalOpcode
    | some _ => do
      if settles n then engineIdle else pure ()
      let s ← get
      writeS d.val ((s.sysReg n).getD 0)) s

/-- `SYS.WR` (R166, R315). -/
def execSysWr (a : Reg) (n : Nat) (s : State) :=
  runI (do
    ready [a.val] []
    match s.sysReg n with
    | none => faultP fcIllegalOpcode
    | some old => do
      if settles n then engineIdle else pure ()
      let w ← readS a.val
      let x ← me
      if n = 0 ∧ badFormats w then pure ()
      else
        needP (x.priv || decide ((w ^^^ old) &&& ofN (rwsMask n) = 0)) fcPrivilege
        upd (fun s => s.sysWrite n w)) s

/-- `CAP.RD` (R318). -/
def execCapRd (d a : Reg) (s : State) :=
  runI (do
    ready [a.val] [d.val]
    let i ← readS a.val
    let s ← get
    writeS d.val (s.capWord (fld i 7 0))) s

/-! ## Decode tables (R177 to R179, R316, R317) -/

/-- A bank that `TBL.WR` or `TBL.SEAL` names: owned, and not in SEALING. -/
def tableBank (b : Nat) : M TBank := do
  let s ← get
  needP (nbit (s.part s.me.part).tbanks b) fcPrivilege
  let t := (s.core s.myCore).bank b
  needW (!decide (t.st = .sealing))
  pure t

/-- A write to a bank: engine instructions issued before it keep the table as it stood (R177). -/
def State.writeBank (s : State) (c b : Nat) (t : TBank) : State :=
  let k := s.core c
  let k := if (k.bank b).st = .sealed then k.keepBank b (fun q => decide (s.ownerCode q = s.ownerCode s.me.part)) else k
  s.setCore c { k with tb := k.tb.put b t }

/-- `TBL.WR` (R316). -/
def execTblWr (rom : Bool) (a b : Reg) (s : State) :=
  runI (do
    ready [a.val, b.val] []
    let sel ← readS a.val
    let v ← readS b.val
    needP (decide (fld sel 7 2 = 0 ∧ fld sel 63 16 = 0) && (!rom || decide (fld sel 15 8 = 0))) fcIllegalOpcode
    needP (!(rom && decide (fld v 2 0 = 7))) fcIllegalOpcode
    let n := fld sel 1 0
    let t ← tableBank n
    let u : TBank := if rom then { rom := fld v 2 0, written := [], st := .unsealed, tid := fld v 2 0 }
      else { t with written := t.written.put (fld sel 15 8) (BitVec.ofNat 32 (fld v 31 0)), st := .unsealed, tid := 7 }
    upd (fun s => s.writeBank s.myCore n u)) s

/-- The verdict of `TBL.SEAL` (R317): REASON and ENTRY. -/
def TBank.verdict (t : TBank) : Nat × Nat :=
  match (List.range 256).find? (fun c => !decide (entryBad (t.entry c) = 0)) with
  | some c => (entryBad (t.entry c), c)
  | none => if (List.range 256).any (fun c => decide (entryClass (t.entry c) = 0)) then (0, 0) else (4, 0)

/-- `TBL.SEAL` (R317). -/
def execTblSeal (d a : Reg) (s : State) :=
  runI (do
    ready [a.val] [d.val]
    let sel ← readS a.val
    needP (decide (fld sel 63 2 = 0)) fcIllegalOpcode
    let n := fld sel 1 0
    let t ← tableBank n
    let (reason, entry) := t.verdict
    if reason = 0 then
      upd (fun s =>
        let k := s.core s.myCore
        { s.setCore s.myCore { k with tb := k.tb.put n { t with st := .sealing } } with
          agenda := s.agenda ++ [.sealComplete s.myCore n] })
    else pure ()
    writeS d.val (ofN (entry * 256 + reason))) s

/-- The views of a bank are built (R177). -/
def State.sealDone (s : State) (c b : Nat) : State :=
  let k := s.core c
  let t := k.bank b
  if t.st = .sealing then s.setCore c { k with tb := k.tb.put b { t with st := .sealed } } else s

def execSealComplete (core bank : Nat) (s : State) : Host.Outcome State Fault Refusal := .next (s.sealDone core bank)

end Sys2Proof.Machine
end

