-- ==== Sys2Proof/Machine/Slots.lean ====
section
/-! DEFINITION. Stopping and starting slots, and the slot save area (R320 to R323, R396 to R398, R423). The places that
R397 leaves inside a field of the area are the model's own (assumption 42). -/

namespace Sys2Proof.Machine

/-! ## Stopping and starting (R320, R321, R396) -/

/-- Engine instructions of a slot that can start without a wait start (R396). -/
def State.drainEngine (s : State) (gs : Nat) : Nat → State
  | 0 => s
  | n + 1 =>
    let t := s.engineTurn gs
    if (t.slot gs).engq.length < (s.slot gs).engq.length then t.drainEngine gs n else t

/-- A pre-emption request stops a slot (R396): at once, or when its started matrix steps and the window of its AMO are
complete (R98, R287). A fault of an engine instruction that starts meanwhile parks it by itself (R469). -/
def State.stopSlot (s : State) (gs : Nat) (why : ParkWhy) : State :=
  let t := s.drainEngine gs 4
  if (t.slot gs).parked then t else (t.setSlot gs { t.slot gs with stop := some why }).stopNow gs

/-- A pre-emption request from outside the slot (R396). One that meets a budget end, still to come or of this cycle, makes
one stop with it, so that the tick alone does not make the slot ready (R373); a slot that stands parked is not affected. -/
def State.preempt (s : State) (gs : Nat) : State :=
  let x := s.slot gs
  if x.parked then
    if x.run = .parked .budget ∧ x.parkedAt = s.now + 1 then s.setSlot gs { x with run := .parked .stopped } else s
  else if x.stop = some .budget then s.setSlot gs { x with stop := some .stopped }
  else if x.stop.isSome then s
  else s.stopSlot gs .stopped

/-- `SLOT.PARK` of a slot, which `asked` tells to have been asked before (R320): the state, and d once the slot stands
parked. -/
def State.parkOp (s : State) (gs : Nat) (asked : Bool) : State × Option Word :=
  let was := (s.slot gs).parked && !asked
  let t := s.preempt gs
  let y := t.slot gs
  (t, if y.parked then some (ofN (b2n was * 2 ^ 63 + b2n y.holds * 2 ^ 62 + y.pc)) else none)

/-- `SLOT.RUN` of a slot (R321); one whose `WFE` an arrival of this cycle has woken was in `WFE` (R325). -/
def State.runOp (s : State) (gs : Nat) : State × Word :=
  let x := s.slot gs
  match x.run with
  | .waiting (.wfe ..) => (s.signal gs, 1)
  | .parked _ => if x.holds then (s.resume gs, 0) else (s, 3)
  | .ready => (s, if x.wokeAt = s.now + 1 ∧ x.event = s.now + 1 then 1 else 2)
  | _ => (s, 2)

/-- The bits of SW and of PTROOT that are no reserved field (R8, R72, R163). -/
def swFields : Nat := 0xFFF807CD
def ptrootFields : Nat := 0xFFFFFFFFFFFFC001

/-- The thread that `SLOT.RUN.new` starts (R155, R321). -/
def State.newThread (s : State) (gs pc : Nat) (ptroot : Word) : State :=
  let x := (s.slot gs).fresh
  let priv := match s.slotOwner (gs / 16) (gs % 16) with
    | some p => decide (p = 0)
    | none => false
  s.setSlot gs { x with
    fa := 0, fb := 0, fc := 0, sa := 0, sb := 0, sc := 0, wid := 0, cstamp := 0, left := 0, limit := 0
    sw := ofN (b2n priv * 256), ptroot := ptroot &&& ofN ptrootFields, pc := pc
    task := some { part := fld ptroot 47 44, lane := 0xFFFF, packet := none } }

/-- Whether `SLOT.RUN.new` may start a thread in a slot (R321, R465). -/
def Slot.startable (x : Slot) : Bool := x.parked && !x.holds

/-- The slot that an operand names (R294). -/
def slotOf (w : Word) : Nat := fld w 11 0

/-- A slot operand that may not name the issuing slot. -/
def otherSlot (w : Word) : M Nat := do
  let s ← get
  needP (!decide (slotOf w = s.cur)) fcIllegalOpcode
  pure (slotOf w)

/-- `SLOT.PARK` (R320). -/
def execSlotPark (d a : Reg) (s : State) :=
  runI (do
    supervisor [a.val] [d.val]
    ready [a.val] [d.val]
    let w ← readS a.val
    let gs ← otherSlot w
    let s ← get
    match s.parkOp gs (decide (s.me.run = .waiting .parking)) with
    | (t, some r) => do
      set t
      writeS d.val r
    | (_, none) => waitKeep .parking (fun s => (s.parkOp gs false).1)) s

/-- `SLOT.RUN` and `SLOT.RUN.new` (R321). -/
def execSlotRun (new : Bool) (d a b : Reg) (s : State) :=
  runI (do
    supervisor [a.val, b.val] [d.val]
    ready [a.val, b.val] [d.val]
    let w ← readS a.val
    let pc ← readS b.val
    let gs ← otherSlot w
    let s ← get
    if new then
      if (s.slot gs).startable then do
        checkTarget pc.toNat
        upd (fun s => s.newThread gs pc.toNat s.me.ptroot)
        writeS d.val 0
      else writeS d.val 3
    else
      let (t, r) := s.runOp gs
      set t
      writeS d.val r) s

/-- `SLOT.SCRUB` of a slot (R323, R406). -/
def State.scrubOp (s : State) (gs : Nat) : State × Word := if (s.slot gs).parked then (s.scrub gs 0, 0) else (s, 1)

/-- `SLOT.SCRUB` (R323). -/
def execSlotScrub (d a : Reg) (s : State) :=
  runI (do
    supervisor [a.val] [d.val]
    ready [a.val] [d.val]
    let w ← readS a.val
    let s ← get
    let (t, r) := s.scrubOp (slotOf w)
    set t
    writeS d.val r) s

/-! ## The slot save area (R397, R398) -/

/-- Bytes of a slot save area. -/
def areaBytes : Nat := 5120

/-- The word at a byte offset. -/
def wordIn (l : List Byte) (o : Nat) : Word := ofN (bytesAt l o 8)

/-- `n` words from a byte offset. -/
def wordsIn (l : List Byte) (o n : Nat) : List Word := (List.range n).map (fun i => wordIn l (o + 8 * i))

/-- An optional number as a word: bit 63 tells that it is there. -/
def optWord : Option Nat → Word
  | none => 0
  | some n => ofN (2 ^ 63 + n)

/-- The optional number of such a word. -/
def wordOpt (w : Word) : Option Nat := if bitOf w 63 then some (fld w 62 0) else none

/-- The signature word of R397. -/
def SigState.word (g : SigState) (handler : Bool) : Word :=
  ofN (b2n handler * 2 ^ 63 + b2n g.lastXfer * 2 ^ 33 + b2n g.armed * 2 ^ 32 + g.expect * 2 ^ 16 + g.run)

/-- The signature state of such a word. -/
def sigOfWord (w : Word) : SigState :=
  { armed := bitOf w 32, expect := fld w 31 16, run := fld w 15 0, lastXfer := bitOf w 33 }

/-- Codes of the park cause. -/
def ParkWhy.code : ParkWhy → Nat
  | .noThread => 0
  | .stopped => 1
  | .budget => 2
  | .fault => 3
  | .switched => 4
  | .reset => 5

/-- The park cause of a code. -/
def parkOfCode (n : Nat) : ParkWhy :=
  match n with
  | 0 => .noThread
  | 2 => .budget
  | 3 => .fault
  | 4 => .switched
  | 5 => .reset
  | _ => .stopped

/-- The words of q0 to q3 in the area: inbound, then outbound, four places each. -/
def Slot.qPlaces (x : Slot) : List (Option QWord) :=
  (List.range 32).map (fun i => if i < 16 then (x.inq[i / 4]!)[i % 4]? else (x.outq[(i - 16) / 4]!)[i % 4]?)

/-- The inbox entry of 80 bytes. -/
def messageOf (l : List Byte) (popped : Nat) : Message :=
  let i := wordIn l 0
  { core := fld i 63 56, slot := fld i 55 52, tin := fld i 51 36, reason := fld i 32 30, nxm := bitOf i 29
    fmt := fld i 28 25, utag := fld i 15 0, words := wordsIn l 8 (fld i 35 33 + 1), popped := popped }

/-- Instruction words, zero-padded to 16 bytes. -/
def halfBytes (l : List Half) : List Byte := layout 16 [(0, l.flatMap (fun h => bytesOf 2 h.toNat))]

/-- The instruction and its words at a byte offset; none where no chain decodes. -/
def instrIn (l : List Byte) (o : Nat) : Option (Instr × List Half) :=
  let ws := (List.range 8).map (fun i => BitVec.ofNat 16 (bytesAt l (o + 2 * i) 2))
  match decodeWords ws with
  | .ok c => some (c.instr, ws.take (c.len / 2))
  | .error _ => none

/-- Codes of a Carter command's kind. -/
def CpKind.code : CpKind → Nat
  | .g2l => 0
  | .l2g => 1
  | .l2l => 2
  | .g2g => 3
  | .fillG => 4
  | .fillL => 5

/-- The kind of a code. -/
def kindOfCode (n : Nat) : CpKind :=
  match n with
  | 0 => .g2l
  | 1 => .l2g
  | 2 => .l2l
  | 3 => .g2g
  | 4 => .fillG
  | _ => .fillL

/-- A home key in 48 bits: an address, or the slice of an unbacked page. -/
def keyCode (key : Nat) : Nat := if isUnbacked key then 2 ^ 47 + (unbackedPage key).1 else key

/-- The home key of a code, for a virtual address under a translation root. -/
def keyOfCode (n va : Nat) (ptroot : Word) : Nat :=
  if nbit n 47 then unbackedKey (n % 64) (fld ptroot 47 44) (fld ptroot 63 48) (va / 16384) (va % 16384) else n

/-- A queued Carter command in 64 bytes. -/
def CpCmd.bytes (c : CpCmd) : List Byte :=
  wordBytes [c.a, c.b, c.c0, c.c1, c.c2, c.c3, c.ptroot]
  ++ bytesOf 8 (keyCode c.barKey * 2 ^ 16 + b2n c.priv * 2 ^ 8 + c.idx * 2 ^ 4 + c.kind.code * 2 + 1)

/-- The command of 64 bytes; none in an empty place. -/
def cmdOf (l : List Byte) : Option CpCmd :=
  let w := wordIn l 56
  if bitOf w 0 then
    some { kind := kindOfCode (fld w 3 1), a := wordIn l 0, b := wordIn l 8, c0 := wordIn l 16, c1 := wordIn l 24
           c2 := wordIn l 32, c3 := wordIn l 40
           rows := if kindOfCode (fld w 3 1) = .fillG ∨ kindOfCode (fld w 3 1) = .fillL then 1 else bytesAt l 40 2 + 1
           idx := fld w 7 4, priv := bitOf w 8, ptroot := wordIn l 48
           barKey := keyOfCode (fld w 63 16) (wordIn l 24).toNat (wordIn l 48), row := 0, col := 0, landed := 0, held := false }
  else none

/-- An engine queue entry in 64 bytes. -/
def EngEntry.bytes (e : EngEntry) : List Byte :=
  layout 63 [(0, halfBytes e.words), (16, bytesOf 8 e.pc), (24, wordBytes e.srcs)] ++ bytesOf 1 (128 + e.srcs.length)

/-- The engine queue entry of 64 bytes. -/
def engOf (l : List Byte) : Option EngEntry :=
  let t := bytesAt l 63 1
  if nbit t 7 then
    (instrIn l 0).map (fun i => { instr := i.1, words := i.2, pc := bytesAt l 16 8, srcs := wordsIn l 24 (t % 8), banks := [] })
  else none

/-- The area's bytes of a slot: header, registers, queues, Treadle, Carter and engine queue; `owned` is the OWNED field of its
TBSEL (R168). -/
def Slot.area (x : Slot) (gs part scan owned : Nat) : List Byte :=
  let flags := b2n x.holds + b2n x.tr.active * 2 + b2n x.again * 4
  let why := match x.run with
    | .parked w => w.code
    | _ => 0
  let q := x.qPlaces
  let side := (q.zipIdx.map (fun e => match e.1 with
    | some w => (b2n w.nxm * 16 + w.fmt) * 2 ^ (5 * e.2)
    | none => 0)).sum
  let popped := match x.inbox with
    | m :: _ => m.popped
    | [] => 0
  let head := match x.cp.queue with
    | c :: _ => bytesOf 4 c.row ++ bytesOf 4 c.col ++ bytesOf 8 c.landed ++ bytesOf 1 (b2n c.held)
    | [] => []
  layout areaBytes
    [ (0x0000, bytesOf 2 0x4358 ++ bytesOf 1 1 ++ bytesOf 1 flags ++ bytesOf 2 20 ++ bytesOf 1 (gs / 16) ++ bytesOf 1 (gs % 16)
        ++ bytesOf 1 part ++ bytesOf 1 x.mode ++ bytesOf 2 x.tin ++ bytesOf 4 scan)
    , (0x0040, wordBytes x.g.toList)
    , (0x0100, wordBytes [ofN x.pc, x.sw, x.sbase, x.slim, x.trapv, x.trappc, x.trapcode, x.trapaddr, x.subcnt, x.clampcnt
        , ofN x.mringPred, ofN x.mringSucc, ofN (owned * 16 + x.vbank), x.ptroot])
    , (0x0170, wordBytes [x.fa, x.fb, x.fc, x.sa, x.sb, x.sc, x.wid, ofN x.tin, x.cstamp, x.budget])
    , (0x01C0, wordBytes [ofN (x.p.toNat / 2 * 2 + 1), x.sig.word x.handler, x.sigAside.word false, ofN x.inFlight])
    , (0x0200, wordBytes x.ptag.toList)
    , (0x0240, wordBytes [optWord x.waitLeft, optWord x.wseq, optWord x.clPos, ofN why, optWord x.awPhase])
    , (0x0280, wordBytes (q.map (fun w => match w with
        | some w => w.val
        | none => 0)))
    , (0x0380, wordBytes x.q5)
    , (0x0400, wordBytes x.q6), (0x0440, wordBytes x.q7), (0x0480, wordBytes x.outbox)
    , (0x04C0, wordBytes [x.qstat] ++ bytesOf 20 side ++ bytesOf 1 popped)
    , (0x0500, x.inbox.flatMap Message.bytes)
    , (0x0800, x.v.toList.flatMap (fun v => bytesOf 64 v.toNat))
    , (0x0C00, x.tr.buf.flatMap (fun e => halfBytes e.words))
    , (0x0D00, wordBytes [x.tr.c0, x.tr.c1] ++ [x.tr.inc0, x.tr.inc1, x.tr.count, x.tr.stride
        , x.tr.buf.length + x.tr.capture - 1, x.tr.areg0, x.tr.areg1, x.tr.p, x.tr.j, b2n x.tr.active, x.tr.capture].flatMap (bytesOf 4))
    , (0x0E00, head)
    , (0x0E40, x.cp.queue.flatMap CpCmd.bytes)
    , (0x1240, x.engq.flatMap EngEntry.bytes) ]

/-- The Treadle of an area. The area holds no address of a captured instruction: the saved PC stands in its place. -/
def treadleOf (l : List Byte) : Treadle :=
  let f := fun (i : Nat) => bytesAt l (0xD10 + 4 * i) 4
  let all := f 4 + 1
  let places := (List.range (min all 16)).map (fun i => 0xC00 + 16 * i)
  let buf := (places.takeWhile (fun o => !decide (bytesAt l o 16 = 0))).filterMap (fun o =>
    (instrIn l o).map (fun i => ({ pc := bytesAt l 0x100 6, instr := i.1, words := i.2 } : TrEntry)))
  { buf := buf, capture := f 10
    areg0 := f 5, areg1 := f 6, active := decide (f 9 = 1), p := f 7, j := f 8, c0 := wordIn l 0xD00, c1 := wordIn l 0xD08
    inc0 := f 0, inc1 := f 1, count := f 2, stride := f 3, passes := f 7 }

/-- The Carter queue of an area. -/
def cpQueueOf (l : List Byte) : List CpCmd :=
  match (List.range 16).filterMap (fun i => cmdOf ((l.drop (0xE40 + 64 * i)).take 64)) with
  | [] => []
  | c :: cs =>
    { c with row := bytesAt l 0xE00 4, col := bytesAt l 0xE04 4, landed := bytesAt l 0xE08 8
             held := decide (bytesAt l 0xE10 1 = 1) } :: cs

/-- Whether a header is refused for a slot of a partition (R398). -/
def areaRefused (l : List Byte) (part : Nat) : Bool :=
  !decide (bytesAt l 0 2 = 0x4358 ∧ bytesAt l 2 1 = 1 ∧ bytesAt l 4 2 = 20) || !decide (bytesAt l 3 1 < 8)
  || !decide (bytesAt l 16 48 = 0) || !decide (bytesAt l 8 1 = part) || decide (bytesAt l 9 1 = 3)

/-- A slot with the context of an area (R322, R398): reserved fields of the registers stay zero (R8), MODE and PART are the
header's, which has passed its checks. The dispatcher's facts of its task are its own. -/
def Slot.load (x : Slot) (gs : Nat) (l : List Byte) : Slot :=
  let w := wordIn l
  let low := fun (o n : Nat) => ofN ((w o).toNat % 2 ^ n)
  let flags := bytesAt l 3 1
  let holds := nbit flags 0
  let stat := w 0x4C0
  let side := fun (i : Nat) => bytesAt l 0x4C8 20 / 2 ^ (5 * i) % 32
  let qw := fun (i : Nat) => ({ val := w (0x280 + 8 * i), nxm := nbit (side i) 4, fmt := side i % 16 } : QWord)
  let queue := fun (base n : Nat) => (List.range n).map (fun j => qw (base + j))
  let cmds := cpQueueOf l
  let accepted := match cmds.getLast? with
    | some c => c.idx + 1
    | none => x.cp.accepted
  let task := match x.task with
    | some t => t
    | none => { part := bytesAt l 8 1, lane := 0xFFFF, packet := none }
  { x with
    g := (Vector.range 24).map (fun i => w (0x40 + 8 * i))
    p := BitVec.ofNat 16 (bytesAt l 0x1C0 2 / 2 * 2)
    v := (Vector.range 16).map (fun i => BitVec.ofNat 512 (bytesAt l (0x800 + 64 * i) 64))
    inq := (Vector.range 4).map (fun i => queue (4 * i) (fld stat (3 * i + 2) (3 * i)))
    outq := (Vector.range 4).map (fun i => queue (16 + 4 * i) (fld stat (3 * i + 14) (3 * i + 12)))
    inbox := (List.range (fld stat 44 41)).map (fun i =>
      messageOf ((l.drop (0x500 + 80 * i)).take 80) (if i = 0 then bytesAt l 0x4DC 1 else 0))
    outbox := wordsIn l 0x480 (fld stat 40 37)
    q5 := wordsIn l 0x380 (fld stat 36 32), q6 := wordsIn l 0x400 (fld stat 31 28), q7 := wordsIn l 0x440 (fld stat 27 24)
    pc := fld (w 0x100) 47 1 * 2, sw := setFld (w 0x108 &&& ofN swFields) 7 6 (bytesAt l 9 1)
    sbase := low 0x110 19, slim := low 0x118 19, trapv := low 0x120 48, trappc := ofN (fld (w 0x128) 47 1 * 2)
    trapcode := low 0x130 8, trapaddr := w 0x138, subcnt := w 0x140, clampcnt := w 0x148
    mringPred := fld (w 0x150) 7 0, mringSucc := fld (w 0x158) 7 0, vbank := fld (w 0x160) 1 0
    ptroot := setFld (w 0x168 &&& ofN ptrootFields) 47 44 (bytesAt l 8 1)
    fa := w 0x170, fb := w 0x178, fc := w 0x180, sa := low 0x188 19, sb := low 0x190 19, sc := low 0x198 19, wid := w 0x1A0
    tin := if bytesAt l 6 1 = gs / 16 ∧ bytesAt l 7 1 = gs % 16 then bytesAt l 10 2 else (x.tin + 1) % 65536
    cstamp := low 0x1B0 48, left := sext 32 (fld (w 0x1B8) 63 32), limit := fld (w 0x1B8) 31 0
    ptag := (Vector.range 8).map (fun i => low (0x200 + 8 * i) 48)
    sig := sigOfWord (w 0x1C8), sigAside := sigOfWord (w 0x1D0), handler := bitOf (w 0x1C8) 63
    engq := (List.range 4).filterMap (fun i => engOf ((l.drop (0x1240 + 64 * i)).take 64))
    tr := treadleOf l
    stop := none, late := none
    cp := { x.cp with queue := cmds, accepted := accepted }
    flights := x.flights.map (fun f => { f with counted := false })
    run := .parked (if holds then (if parkOfCode (bytesAt l 0x258 1) = .noThread then .stopped else parkOfCode (bytesAt l 0x258 1))
      else .noThread)
    task := if holds then some task else none
    waitLeft := wordOpt (w 0x240), wseq := wordOpt (w 0x248), clPos := wordOpt (w 0x250), awPhase := wordOpt (w 0x260)
    event := 0, again := nbit flags 2, deferred := [] }

/-- The partition whose context a slot may take: that of its task, or of its owner. -/
def State.slotPart (s : State) (gs : Nat) : Nat :=
  if (s.slot gs).holds then (s.slot gs).part else (s.slotOwner (gs / 16) (gs % 16)).getD 0

/-- `CTX.SAVE` of a slot: the bytes of its area. -/
def State.saveArea (s : State) (gs : Nat) : List Byte :=
  (s.slot gs).area gs (s.slotPart gs) (s.core (gs / 16)).scan (s.part (s.slotPart gs)).tbanks

/-- A context that waits for a tracing barrier is that of another slot now (R242). -/
def State.tracedTo (s : State) (gs : Nat) : State :=
  let x := s.slot gs
  if x.mode = 2 then
    { s with traced := s.traced.map (fun t => if s.tracedBy gs t then { t with slot := gs } else t) }
  else s

/-- The barrier objects of a loaded context's Carter commands are translated anew: their pages may have moved while the context
stood in memory (R110). -/
def State.rebar (s : State) (gs : Nat) : State :=
  s.setCp gs (fun q => { q with queue := q.queue.map (fun c =>
    match s.xlateHub (clusterOf (gs / 16)) c.ptroot .rw c.c1.toNat with
    | (_, .ok l) => { c with barKey := l.key, barVia := l.via c.ptroot }
    | _ => c) })

/-- `CTX.LOAD` of a slot from an area: none when the header is refused. -/
def State.loadArea (s : State) (gs : Nat) (l : List Byte) : Option State :=
  if areaRefused l (s.slotPart gs) then none else some (((s.setSlot gs ((s.slot gs).load gs l)).tracedTo gs).rebar gs)

/-- Checks a save area in every page that it touches (R76, R322). -/
def areaPlaces (need : Need) (va : Word) : M (Loc × Loc) := do
  aligned va 256
  let a ← locate need false va
  let b ← if va.toNat % 16384 + areaBytes ≤ 16384 then pure a else locate need false (ofN (va.toNat / 16384 * 16384 + 16384))
  pure (a, b)

/-- `CTX.SAVE` (R322): the area is written through the issuing core and performed everywhere before it completes. -/
def execCtxSave (d a b : Reg) (s : State) :=
  runI (do
    supervisor [a.val, b.val] [d.val]
    memoryTurn
    ready [a.val, b.val] [d.val]
    let w ← readS a.val
    let va ← readS b.val
    let (l, m) ← areaPlaces .w va
    let s ← get
    if (s.slot (slotOf w)).parked then do
      let bs := s.saveArea (slotOf w)
      let n := min areaBytes (16384 - va.toNat % 16384)
      needW (!(s.anyReserved l.key n || s.anyReserved m.key (areaBytes - n)))
      set ((s.storeBytes s.me.part s.myCore l.key (decide (l.attr = 0)) (bs.take n)).storeBytes s.me.part s.myCore m.key
        (decide (m.attr = 0)) (bs.drop n))
      releaseAt .dev
      writeS d.val 0
    else writeS d.val 1) s

/-- `CTX.LOAD` (R322, R398). -/
def execCtxLoad (d a b : Reg) (s : State) :=
  runI (do
    supervisor [a.val, b.val] [d.val]
    memoryTurn
    ready [a.val, b.val] [d.val]
    let w ← readS a.val
    let va ← readS b.val
    let (l, m) ← areaPlaces .r va
    let s ← get
    if (s.slot (slotOf w)).parked then do
      let n := min areaBytes (16384 - va.toNat % 16384)
      let first ← (sectorKeys l.key n).mapM (fun sec => loadSector l areaBytes sec (decide (l.attr = 0)))
      let rest ← (sectorKeys m.key (areaBytes - n)).mapM (fun sec => loadSector m areaBytes sec (decide (m.attr = 0)))
      let s ← get
      match s.loadArea (slotOf w) ((first ++ rest).flatMap (fun x => bytesOf 32 x.toNat)) with
      | none => writeS d.val 2
      | some t =>
        set t
        writeS d.val 0
    else writeS d.val 1) s

end Sys2Proof.Machine
end

