-- ==== Sys2Proof/Machine/Reliability.lean ====
section
/-! DEFINITION. Errors of DRAM and of the part's arrays, heartbeats, offlining, LM fences and the replay list (R68 to R70,
R324, R401 to R411, R417). -/

namespace Sys2Proof.Machine

/-! ## DRAM (R64, R69, R70) -/

/-- The physical address of a channel address (R64). -/
def State.physOf (s : State) (channel a : Nat) : Nat :=
  let q := a / 256
  let j := ((channel % 4) ^^^ (q % 4)) ^^^ (q / 64 % 4)
  channel / 4 * s.groupBytes + q * 1024 + j * 256 + a % 256

/-- A channel's counts. -/
def State.channel (s : State) (ch : Nat) : Channel := s.channels.val ch Channel.reset

/-- A sector as DRAM gives it with a poison mark: where the slice holds the sector, dirty bytes stand over it and clean ones
are the slice's own (R86, R90). -/
def State.dramPoison (s : State) (pa : Nat) : State :=
  let n := s.homeSlice pa
  let x := s.slice n
  match x.lines.seek (pa / 256) with
  | none => s.setPoison pa
  | some l =>
    if l.dirty.getLsbD (pa / 32 % 8) then
      s.setSlice n { x with lines := x.lines.put (pa / 256) { l with underBad := l.underBad.put (pa / 32) 0 } }
    else if l.valid.getLsbD (pa / 32 % 8) then s else s.setPoison pa

/-- The poison bit of a stored sector is set (R69): while the slice holds the sector, the bit stands in DRAM under it. -/
def State.storePoison (s : State) (pa : Nat) : State :=
  let n := s.homeSlice pa
  let x := s.slice n
  match x.lines.seek (pa / 256) with
  | none => s.setPoison pa
  | some l =>
    if l.valid.getLsbD (pa / 32 % 8) || l.dirty.getLsbD (pa / 32 % 8) then
      s.setSlice n { x with lines := x.lines.put (pa / 256) { l with underBad := l.underBad.put (pa / 32) 0 } }
    else s.setPoison pa

/-- A corrected read counts (R69). -/
def State.memCe (s : State) (ch : Nat) : State :=
  let c := s.channel ch
  { s with channels := s.channels.put ch { c with ce := c.ce + 1 } }

/-- An uncorrectable unit: counted, logged, and reported to P0 (R69, R395). -/
def State.memUe (s : State) (ch a : Nat) : State :=
  let c := s.channel ch
  { s with channels := s.channels.put ch { c with ue := c.ue + 1, lastUe := a } }.postEvent fcMemUe 0
    [(32, bytesOf 1 ch), (40, bytesOf 8 a)]

/-- A read of a 64-byte unit (R69): both sectors of an uncorrectable one are marked poisoned. -/
def State.dramRead (s : State) (ch a : Nat) (o : MemOutcome) : State :=
  match o with
  | .clean => s
  | .corrected => s.memCe ch
  | .uncorrectable =>
    let pa := s.physOf ch (a / 64 * 64)
    ((s.memUe ch a).dramPoison pa).dramPoison (pa + 32)

def execDramReadReturn (channel addr : Nat) (outcome : MemOutcome) (s : State) : Host.Outcome State Fault Refusal :=
  .next (s.dramRead channel addr outcome)

/-- `DRAM_PATROL` (R70): a read under the rules of R69. -/
def execDramPatrol (channel addr : Nat) (outcome : MemOutcome) (s : State) : Host.Outcome State Fault Refusal :=
  .next (s.dramRead channel addr outcome)

/-- The mark of a sector that is written to DRAM: as its slice holds it, and where no slice holds it, as written. -/
def State.markSector (s : State) (pa : Nat) (bad : Bool) : State :=
  if s.holdsLine pa then s
  else if bad then s.setPoison pa else { s with poison := s.poison.del (pa / 32) }

/-- A write of a unit or of one sector with its poison bits; the other sector of one sector is read first, with the outcome
`other`, which counts as for a read (R69). -/
def State.dramWrite (s : State) (ch a sectors bits : Nat) (other : MemOutcome) : State :=
  let pa := s.physOf ch (a / 64 * 64)
  let one := fun (s : State) (i : Nat) =>
    if nbit sectors i then s.markSector (pa + 32 * i) (nbit bits i)
    else match other with
      | .clean => s
      | .corrected => s.memCe ch
      | .uncorrectable => (s.memUe ch a).storePoison (pa + 32 * i)
  if sectors % 4 = 0 then s else one (one s 0) 1

def execDramWrite (channel addr sectors poison : Nat) (other : MemOutcome) (s : State) : Host.Outcome State Fault Refusal :=
  .next (s.dramWrite channel addr sectors poison other)

/-! ## Patrol of the arrays (R401, R402, R404) -/

/-- Marks a word of a core's arrays that holds an error: an LM offset, for a tile tag that of its block, a set × 16 + way of
the L1D or the L1I, or a register word, unit × 16 + slot (assumption 90). -/
def Core.markBad (k : Core) (array place : Nat) : Core :=
  match array with
  | 1 => { k with lmBad := insertNew (place / 8) k.lmBad }
  | 2 => { k with tagBad := insertNew (place / 256) k.tagBad }
  | 3 =>
    match k.l1At (place % 16) (place / 16) with
    | some e => { k with l1dBad := insertNew e.1 k.l1dBad }
    | none => k
  | 4 =>
    match k.l1iAt (place % 16) (place / 16) with
    | some e => { k with l1iBad := insertNew e.1 k.l1iBad }
    | none => k
  | 5 => { k with regBad := insertNew (unitPlace (place % 16) (place / 16)) k.regBad }
  | _ => k

/-- Marks a word of a slice's data, at (set × 16 + way) × 8 + sector, or the tags of the set of set × 16 + way, of which both
copies are lost: that goes to P0's queue (R401, assumption 90). -/
def State.markSliceBad (s : State) (n array place : Nat) : State :=
  let x := s.slice n
  match array with
  | 6 =>
    match s.lineAt n (place / 8 % 16) (place / 128) with
    | some e => s.setSlice n { x with badData := insertNew (e.1 * 8 + place % 8) x.badData }
    | none =>
      match x.pages.find? (fun f => decide (f.place = place / 8 % 16 * 16 + place / 128 / 64)) with
      | some f =>
        let key := unbackedKey n f.part f.asn f.vpn (place / 128 % 64 * 256 + place % 8 * 32)
        s.setSlice n { x with badData := insertNew (key / 32) x.badData }
      | none => s
  | 7 => (s.setSlice n { x with badSets := insertNew (place / 16) x.badSets }).postEvent fcMemUe 0 []
  | _ => s

/-- Marks a word of the hub's arrays: 9 element memory, by element and offset; 10 the staging of a sensor port; else the
process or result image (assumption 90). -/
def Hub.markBad (h : Hub) (i array place : Nat) : Hub :=
  match array with
  | 9 =>
    let e := h.elements.val i Element.reset
    { h with elements := h.elements.put i { e with bad := insertNew (place / 8) e.bad } }
  | 10 =>
    let n := 16 * (2 * i + place / 65536)
    let e := h.elements.val n Element.reset
    { h with elements := h.elements.put n { e with bad := insertNew (place % 65536 / 8) e.bad } }
  | _ => { h with imageBad := insertNew place h.imageBad }

/-- `SRAM_PATROL` (R402): a corrected word counts in CECNT, an uncorrectable one in UECNT with its place in LASTUE; the
next access meets it. -/
def State.sramPatrol (s : State) (unit : SramUnit) (i array place : Nat) (o : MemOutcome) : State :=
  match unit, o with
  | _, .clean => s
  | .core, .corrected =>
    let k := s.core i
    s.setCore i { k with health := { k.health with cecnt := k.health.cecnt + 1 } }
  | .core, .uncorrectable => (s.setCore i ((s.core i).markBad array place)).countUe i array place
  | .slice, .corrected => s.setSlice i { s.slice i with cecnt := (s.slice i).cecnt + 1 }
  | .slice, .uncorrectable =>
    (s.setSlice i { s.slice i with uecnt := (s.slice i).uecnt + 1, lastue := ofN (array * 2 ^ 56 + place % 2 ^ 19)
      }).markSliceBad i array place
  | .hub, .corrected => s.updHub (fun h => { h with cecnt := h.cecnt + 1 })
  | .hub, .uncorrectable => s.updHub (fun h => { h.markBad i array place with
      uecnt := h.uecnt + 1, lastue := ofN (array * 2 ^ 56 + place % 2 ^ 19) })

def execSramPatrol (unit : SramUnit) (index struct_ place : Nat) (outcome : MemOutcome) (s : State) :
    Host.Outcome State Fault Refusal :=
  .next (s.sramPatrol unit index struct_ place outcome)

/-! ## Heartbeats (R324, R409) -/

/-- Changes a core's health entry. -/
def State.updHealth (s : State) (c : Nat) (f : Health → Health) : State :=
  s.setCore c { s.core c with health := f (s.core c).health }

/-- A core posts (R409). -/
def State.heartbeatPost (s : State) (c : Nat) : State :=
  if (s.core c).health.en then
    s.updHealth c (fun h => { h with beats := (h.beats + 1) % 2 ^ 32, misses := 0, posted := true })
  else s

def execHeartbeatPost (core : Nat) (s : State) : Host.Outcome State Fault Refusal := .next (s.heartbeatPost core)

/-- The hub closes a period of a core (R409). -/
def State.heartbeatClose (s : State) (c : Nat) : State :=
  let h := (s.core c).health
  if !h.en then s
  else if h.posted then s.updHealth c (fun h => { h with posted := false })
  else
    let s := s.updHealth c (fun h => { h with misses := min 255 (h.misses + 1), suspect := h.suspect || decide (h.misses = 1) })
    if h.misses = 1 then s.postEvent fcCoreSuspect 0 [(32, bytesOf 1 c)] else s

def execHeartbeatPeriodClose (core : Nat) (s : State) : Host.Outcome State Fault Refusal := .next (s.heartbeatClose core)

/-! ## Offlining (R410) -/

/-- The sequence that follows OFFLINE (R410 steps 2 to 4): kills, write-back, and the fence of every bank. The write-back of every
line is delivered at once, so no byte is left after 100 µs (timing: assumption 110). -/
def State.offlineDone (s : State) (c : Nat) : State :=
  let s := (List.range 16).foldl (fun s i => s.kill (c * 16 + i) fcCoreSuspect) s
  let s := ((s.core c).l1d.map (·.1)).foldl (fun s sec => s.evict c sec) s
  s.updHealth c (fun h => { h with en := false, offline := true, leaving := false, lmfence := 0xFFFF })

def execOfflineComplete (core : Nat) (s : State) : Host.Outcome State Fault Refusal :=
  if (s.core core).health.leaving then
    .next (if (List.range 16).any (fun i => s.amoOpen (core * 16 + i)) then { s with later := s.later ++ [.offlineComplete core] }
      else s.offlineDone core)
  else .next s

/-- ONLINE wipes the core's LM, tags and caches, and clears its marks (R410). -/
def State.online (s : State) (c : Nat) : State :=
  let k := s.core c
  s.setCore c { k with
    lm := [], tags := [], lmBad := [], tagBad := [], wiping := [], l1d := [], l1i := [], l1dBad := [], l1iBad := []
    health := { k.health with offline := false, lmfence := 0, misses := 0, suspect := false } }

/-- An action of `HB.CTL` on a core (R324); none where the action raises `ILLEGAL_OPCODE`. -/
def State.hbAction (s : State) (c action : Nat) : Option State :=
  let h := (s.core c).health
  match action with
  | 0 => some (if h.en then s else s.updHealth c (fun h => { h with en := true, enSince := s.now, posted := false }))
  | 1 => some (s.updHealth c (fun h => { h with en := false }))
  | 2 => some (s.updHealth c (fun h => { h with misses := 0, suspect := false }))
  | 3 =>
    if c = s.myCore then none
    else some { s.updHealth c (fun h => { h with leaving := true }) with agenda := s.agenda ++ [.offlineComplete c] }
  | 4 => if h.offline then some (s.online c) else none
  | _ => none

/-- `HB.CTL` (R324): the action stands in the second operand. -/
def hbControl (a b : Reg) : M Unit := do
  supervisor [a.val, b.val] []
  ready [a.val, b.val] []
  let x ← readS a.val
  let y ← readS b.val
  let s ← get
  match s.hbAction (fld x 7 0) (fld y 2 0) with
  | none => faultP fcIllegalOpcode
  | some t => set t

def execHbCtlEnable (a b : Reg) (s : State) := runI (hbControl a b) s
def execHbCtlDisable (a b : Reg) (s : State) := runI (hbControl a b) s
def execHbCtlClear (a b : Reg) (s : State) := runI (hbControl a b) s
def execHbCtlOffline (a b : Reg) (s : State) := runI (hbControl a b) s
def execHbCtlOnline (a b : Reg) (s : State) := runI (hbControl a b) s

/-- `HB.STAT` (R324). -/
def execHbStat (d a : Reg) (s : State) :=
  runI (do
    ready [a.val] [d.val]
    let w ← readS a.val
    let s ← get
    needP (s.me.priv || s.inCoreSet s.me.part (fld w 7 0)) fcPageRights
    writeS d.val (s.core (fld w 7 0)).health.word) s

/-! ## LM fences (R404, R405) -/

/-- A write of LMFENCE and SPARESET of a core: a bank whose fence falls is wiped before it answers. -/
def State.lmfenceWrite (s : State) (c : Nat) (w : Word) : State :=
  let old := (s.core c).health.lmfence
  let new := fld w 15 0
  let freed := (List.range 16).filter (fun b => nbit old b && !nbit new b)
  let s := s.updHealth c (fun h => { h with lmfence := new, spare := bitOf w 16 })
  let k := s.core c
  { s.setCore c { k with wiping := freed.foldl (fun l b => insertNew b l) k.wiping } with
    agenda := s.agenda ++ freed.map (fun b => Event.lmWipeDone c b) }

def execLmfenceWrite (core : Nat) (w : Word) (s : State) : Host.Outcome State Fault Refusal := .next (s.lmfenceWrite core w)

/-! ## The replay list (R407, R408) -/

/-- The end of an action of REPLAYCTL. -/
def State.replayEnd (s : State) (err : Bool) : State :=
  s.updHub (fun h => { h with replayBusy := false, replayErr := err })

/-- A pending entry of a slot whose launch entry is open. -/
def State.pendingEntry (s : State) (gs : Nat) : Option ReplayEntry :=
  match s.replay.seek gs with
  | none => none
  | some e => if e.pend && (s.launch (e.part * 16 + e.launch)).isOpen then some e else none

/-- PEND of an entry falls. -/
def State.clearPend (s : State) (gs : Nat) (e : ReplayEntry) : State :=
  { s with replay := s.replay.put gs { e with pend := false } }

/-- REBIND (R408). -/
def State.rebind (s : State) (gs mode : Nat) : State :=
  match s.pendingEntry gs with
  | none => s.replayEnd true
  | some e =>
    let k := e.part * 16 + e.launch
    let core := if e.lane = 0xFFFF then gs / 16 else s.clist e.part (e.lane / 2 ^ (s.launch k).nsb)
    let dest := core * 16 + gs % 16
    let pending := match s.replay.seek dest with
      | some r => r.pend && !decide (dest = gs)
      | none => false
    if (s.core core).health.gone || (s.slot dest).holds || pending || decide (mode = 1) || decide (mode = 3) then s.replayEnd true
    else
      let s := s.clearPend gs e
      let s := s.bindTask dest e.part e.lane k e.packet (pkWidBase e.packet)
      let x := s.slot dest
      let s := if mode = 2 then s.setSlot dest { x with sw := setFld x.sw 7 6 2 } else s
      s.replayEnd false

def execRebind (gslot mode : Nat) (s : State) : Host.Outcome State Fault Refusal := .next (s.rebind gslot mode)

/-- COMPLETE (R408): the add of part 2 of R223. -/
def State.replayComplete (s : State) (gs : Nat) : State :=
  match s.pendingEntry gs with
  | none => s.replayEnd true
  | some e =>
    let l := s.launch (e.part * 16 + e.launch)
    if s.counterStalls (dieOfCore (gs / 16)) e.part l (pkCompl e.packet) then
      { s with later := s.later ++ [.replayComplete gs] } else
    ((s.counterAdd (some gs) (dieOfCore (gs / 16)) e.part l (pkCompl e.packet)).clearPend gs e).replayEnd false

def execReplayComplete (gslot : Nat) (s : State) : Host.Outcome State Fault Refusal := .next (s.replayComplete gslot)

/-- DROP (R408). -/
def State.replayDrop (s : State) (gs : Nat) : State :=
  match s.pendingEntry gs with
  | none => s.replayEnd true
  | some e => (s.clearPend gs e).replayEnd false

def execReplayDrop (gslot : Nat) (s : State) : Host.Outcome State Fault Refusal := .next (s.replayDrop gslot)

/-- A write of REPLAYCTL (R408): a GO while an action runs is dropped. -/
def State.replayCtl (s : State) (w : Word) : State :=
  if !bitOf w 63 then s
  else if s.hub.replayBusy then s.hubErr
  else
    let gs := fld w 11 0
    let s := s.updHub (fun h => { h with replayBusy := true })
    match fld w 60 59 with
    | 0 => { s with agenda := s.agenda ++ [.rebind gs (fld w 58 57)] }
    | 1 => { s with agenda := s.agenda ++ [.replayComplete gs] }
    | 2 => { s with agenda := s.agenda ++ [.replayDrop gs] }
    | _ => s.replayEnd true

end Sys2Proof.Machine
end

