-- ==== Sys2Proof/Machine/Faults.lean ====
section
/-! DEFINITION. Fault queues, deferred faults, budget end, the watchdog, pre-emption requests, and the faults that an
instruction raises before it has a meaning (R76, R191, R367 to R369, R390 to R396, R470). -/

namespace Sys2Proof.Machine

/-! ## Interrupts to supervisor firmware (R421, R422) -/

/-- Sets bit `b` of SVIRQ; the supervisor cores that enable it are interrupted. -/
def State.raiseIrq (s : State) (b : Nat) : State :=
  let on := (List.range 4).filter (fun k => bitOf (s.reg (hostBase + 0x90 + 8 * k)) b)
  s.updHub (fun h => { h with svirq := h.svirq ||| 2 ^ b, out := h.out ++ on.map Output.svInterrupt })

/-- A write of SVIRQEN.k: enabling a bit of SVIRQ that is set interrupts SVk, since an enabled bit that is set is the interrupt
(R422). -/
def State.svirqenWrite (s : State) (pa : Nat) (w : Word) : State :=
  let on := !decide (s.hub.svirq &&& fld w 4 0 = 0)
  (s.setReg pa (ofN (fld w 4 0))).updHub (fun h =>
    { h with out := h.out ++ if on then [Output.svInterrupt ((pa - hostBase - 0x90) / 8)] else [] })

/-- Capabilities of PCI Express that R418 names. -/
inductive PcieCap
  | srIov | ari | flr | aer | msix | doe
  | msi | intx | ats | pri | pasid | l0p | l1Substates | vfMigration | resizableBar | ide | securedSpdm
  deriving DecidableEq, Repr

/-- What the configuration space of a function offers (R418); it is fixed, and it answers in the safe report state too (R428). Its
layout is the published standard's. -/
def pcieCaps (function : Nat) : List PcieCap := (if function = 0 then [.srIov] else []) ++ [.ari, .flr, .aer, .msix, .doe]

/-- MSI-X vectors of a function (R418). -/
def msixVectors (function : Nat) : Nat := if (pcieCaps function).any (fun c => decide (c = .msix)) then 64 else 0

/-- Fires an MSI-X vector of a function. -/
def State.fireMsix (s : State) (function vector : Nat) : State :=
  if msixVectors function ≤ vector then s else s.updHub (fun h => { h with out := h.out ++ [.msix function vector] })

/-! ## The fault queues (R393) -/

/-- FQBASE of a partition (R377). -/
def State.fqBaseOf (s : State) (p : Nat) : Nat := fld (s.part p).w12 43 6 * 64

/-- The address of record `k` of queue `p`. -/
def State.fqSlot (s : State) (p k : Nat) : Nat := s.fqBaseOf p + 128 * (k % 2 ^ s.fqLog2 p)

/-- Writes a record with its SEQ, then raises TAIL, and signals (R393, R394, R421). -/
def State.writeRecord (s : State) (p : Nat) (bs : List Byte) : State :=
  let tail := s.fqTail.val p 0
  let s := s.physWrite (s.fqSlot p tail) (putBytes bs 28 (bytesOf 4 tail))
  let s := { s with fqTail := s.fqTail.put p ((tail + 1) % 2 ^ 32) }
  let s := if p = 0 then s.raiseIrq 0 else s
  s.fireMsix p 0

/-- Takes the first waiting record of a queue out of the list. -/
def takeWaiting (q : Nat) : List WaitingRecord → Option (WaitingRecord × List WaitingRecord)
  | [] => none
  | r :: rs => if r.queue = q then some (r, rs) else (takeWaiting q rs).map (fun e => (e.1, r :: e.2))

/-- `FAULT_RECORD_WRITE` (R392 step 4, R393): the oldest record for a queue is written, or waits while the queue is full;
without a queue of its own the partition's records go to P0's. -/
def State.recordWrite (s : State) (q : Nat) : State :=
  let p := if s.fqLog2 q = 0 then 0 else q
  match takeWaiting q s.fqWait with
  | none => s
  | some (r, rest) => if s.fqRoom p then { s with fqWait := rest }.writeRecord p r.bytes else s

def execFaultRecordWrite (queue : Nat) (s : State) : Host.Outcome State Fault Refusal := .next (s.recordWrite queue)

/-- A write of FQHEAD.p (R393): ignored when it would pass TAIL; records that waited for room are written. -/
def State.fqheadWrite (s : State) (p : Nat) (w : Word) : State :=
  let tail := s.fqTail.val p 0
  let head := s.fqHead.val p 0
  let new := fld w 31 0
  if (tail + 2 ^ 32 - new) % 2 ^ 32 ≤ (tail + 2 ^ 32 - head) % 2 ^ 32 then
    { s with fqHead := s.fqHead.put p new
             agenda := s.agenda ++ (s.fqWait.filter (fun r =>
               decide ((if s.fqLog2 r.queue = 0 then 0 else r.queue) = p))).map (fun r => Event.faultRecordWrite r.queue) }
  else s

def execFqheadWrite (part : Nat) (w : Word) (s : State) : Host.Outcome State Fault Refusal := .next (s.fqheadWrite part w)

/-- Whether a parked slot's record still waits at a full queue, so that the slot waits with it (R393). -/
def State.recordWaits (s : State) (gs : Nat) : Bool := s.fqWait.any (fun r => decide (r.slot = some gs))

/-! ## Deferred faults (R390, R392) -/

/-- The oldest deferred fault of a slot is reported: the slot parks at its boundary, or stands parked already. -/
def State.deferredFault (s : State) (gs : Nat) : State :=
  match (s.slot gs).deferred with
  | [] => s
  | f :: fs =>
    let s := s.setSlot gs { s.slot gs with deferred := fs }
    let s := s.parkSlot gs .fault
    let s := s.slotRecord gs f (s.slot gs).pc false []
    s.setSlot gs { s.slot gs with run := .parked .fault }

/-- `DEFERRED_FAULT`: the window of an AMO completes first (R369). -/
def execDeferredFault (gslot : Nat) (s : State) : Host.Outcome State Fault Refusal :=
  .next (if s.amoOpen gslot then { s with later := s.later ++ [.deferredFault gslot] } else s.deferredFault gslot)

/-! ## Budget end (R368, R470) and the watchdog (R369) -/

/-- A slot whose LEFT has reached 0 stops and parks for budget end; the core notes it for the record of the scan. With a
pre-emption request under way it is one stop for both (R373). -/
def State.budgetEnd (s : State) (gs : Nat) : State :=
  let x := s.slot gs
  if x.parked ∨ x.limit = 0 ∨ 0 < x.left ∨ !x.holds then s
  else if x.stop.isSome then s.budgetNamed gs
  else
    let t := s.stopSlot gs .budget
    if (t.slot gs).run = .parked .fault then t else t.budgetNamed gs

def execBudgetEnd (gslot : Nat) (s : State) : Host.Outcome State Fault Refusal := .next (s.budgetEnd gslot)

/-- The `BUDGET` record of a core and partition for a closed scan; it merges with one that waits (R470). -/
def State.budgetRecord (s : State) (core part mask scan : Nat) : State :=
  let bytes := fun m => recordBytes fcBudget part 4 0 core 0 0 0 false false scan 0 0 [(32, bytesOf 2 m)]
  let mine := fun (w : WaitingRecord) => decide (w.code = fcBudget ∧ bytesAt w.bytes 15 1 = core
    ∧ nbits (bytesAt w.bytes 0 8) 55 52 = part)
  if s.fqWait.any mine then
    { s with fqWait := s.fqWait.map (fun w =>
        if mine w then { w with bytes := bytes (bytesAt w.bytes 32 2 ||| mask) } else w) }
  else s.postRecord (s.recordQueue part fcBudget) fcBudget none (bytes mask)

/-- The `BUDGET` records of the scan that closes on a core (R470). -/
def State.closeBudgets (s : State) (core scan : Nat) : State :=
  let mine := s.budgetParked.filter (fun e => decide (e.1 / 16 = core))
  let s := { s with budgetParked := s.budgetParked.filter (fun e => !decide (e.1 / 16 = core)) }
  mine.foldl (fun s e => s.budgetRecord core (e.1 % 16) e.2 scan) s

/-- `WATCHDOG` (R369): the slot's thread is killed, and the record names the PC and LEFT; a task that has ended in the
meantime is not (R373). -/
def State.watchdog (s : State) (gs : Nat) : State :=
  let x := s.slot gs
  if x.holds then
    let f : FaultInfo := { code := fcWatchdog, addr := 0, loc := false, kind := 0, cause := 0, extra := [] }
    (s.slotRecord gs f x.pc false [(32, bytesOf 8 x.pc), (48, bytesOf 8 (ofI x.left).toNat)]).kill gs fcWatchdog
  else s

/-- `WATCHDOG`: the window of an AMO completes first (R323, R417). -/
def execWatchdog (gslot : Nat) (s : State) : Host.Outcome State Fault Refusal :=
  .next (if s.amoOpen gslot then { s with later := s.later ++ [.watchdog gslot] } else s.watchdog gslot)

/-- `PREEMPT_REQUEST` (R396): the slot stops at its next boundary and keeps its task; a parked slot is not affected. -/
def execPreemptRequest (gslot : Nat) (s : State) : Host.Outcome State Fault Refusal :=
  .next (s.preempt gslot)

/-! ## Faults before decode -/

/-- A chain whose prefixes are malformed, or whose cell is empty (R191 steps 1 to 3). -/
def execIllegalOpcode (prefixFault : Bool) (s : State) : Host.Outcome State Fault Refusal :=
  .next (s.takeFault { code := if prefixFault then fcIllegalPrefix else fcIllegalOpcode, addr := 0, loc := false, kind := 0
                       cause := 0, extra := [] })

/-- A chain that lies in a page which translation refuses (R76, R117). -/
def execInstructionFetchFault (code : Nat) (addr : Word) (cause : Nat) (s : State) : Host.Outcome State Fault Refusal :=
  .next (s.takeFault { code := code, addr := addr, loc := false, kind := 0, cause := cause, extra := [] })

end Sys2Proof.Machine
end

