-- ==== Sys2Proof/Machine/Pair.lean ====
section
/-! DEFINITION. The sync link and the redundant pair (R424 to R427). -/

namespace Sys2Proof.Machine

/-- PAIRCFG and its fields. -/
def State.pairEn (s : State) : Bool := bitOf (s.reg pairBase) 63
def State.primary (s : State) : Bool := bitOf (s.reg pairBase) 62

/-- A write of PAIRCFG. -/
def State.pairWrite (s : State) (w : Word) : State :=
  s.setReg pairBase (ofN (fld w 63 61 * 2 ^ 61 + fld w 57 56 * 2 ^ 56))

/-- A write of PAIRST clears MISMATCH and SWITCHED whose bits are 1. -/
def State.pairStWrite (s : State) (w : Word) : State :=
  s.updHub (fun h => { h with mismatch := h.mismatch && !bitOf w 62, switched := h.switched && !bitOf w 61 })

/-! ## The link (R424) -/

/-- `SYNC_LINK_DOWN`: LINKUP falls, SVIRQ.LINKDOWN is set, bridged gates go to PEER_RESET (R384), and operations under way on
them raise `GATE_PEER_RESET` (R432). -/
def State.linkDown (s : State) : State :=
  let lost := fun (b : BridgedOp) => (if b.reply = none then { b with reply := some (.fault b.tag fcGatePeerReset) } else b : BridgedOp)
  let s := s.updHub (fun h => { h with linkUp := false, bridged := h.bridged.map lost, remote := [] })
  ({ s with gates := s.gates.map (fun e => (e.1, e.2.linkLost)) } : State).raiseIrq 2

def execSyncLinkDown (s : State) : Host.Outcome State Fault Refusal := .next s.linkDown

def execSyncLinkUp (s : State) : Host.Outcome State Fault Refusal := .next (s.updHub (fun h => { h with linkUp := true }))

/-! ## Pair frames (R426) -/

/-- A difference between the digests of a scan. -/
def State.mismatchAt (s : State) (scan : Nat) : State :=
  (s.updHub (fun h => { h with mismatch := true, misscan := scan })).raiseIrq 1

/-- Compares the digests of a scan when both are there. -/
def State.comparePair (s : State) (scan : Nat) : State :=
  match s.hub.pair.seek scan, s.hub.partner.seek scan with
  | some a, some b => if a = b then s else s.mismatchAt scan
  | _, _ => s

/-- `PAIR_FRAME_SEND`: the digest of the scan just closed leaves by both paths: the sync link while it is up, and port HBPORT while
that is in service. The specification gives no layout of the Ethernet frame beyond its EtherType and what it carries. -/
def State.pairSend (s : State) : State :=
  let n := (s.hub.scan + 2 ^ 32 - 1) % 2 ^ 32
  if s.pairEn then
    match s.hub.pair.seek n with
    | some d =>
      let s := if s.hub.linkUp then s.updHub (fun h => { h with out := h.out ++ [.pairFrame n d] }) else s
      let t := fld (s.reg pairBase) 57 56
      if bitOf (s.reg (tpReg t 0)) 63 then
        (s.tsnCount (tpReg t tpTxFrames)).updHub (fun h => { h with out := h.out ++ [.pairEthernet t n d] })
      else s
    | none => s
  else s

def execPairFrameSend (s : State) : Host.Outcome State Fault Refusal := .next s.pairSend

/-- `PAIR_FRAME_RECEIVE`. -/
def State.pairReceive (s : State) (scan : Nat) (digest : BitVec 256) : State :=
  if s.pairEn then
    (s.updHub (fun h => { h with partner := SMap.put (h.partner.filter (fun e => decide (scan ≤ e.1 + 16))) scan digest })).comparePair
      scan
  else s

def execPairFrameReceive (scan : Nat) (digest : BitVec 256) (s : State) : Host.Outcome State Fault Refusal :=
  .next (s.pairReceive scan digest)

/-- What the pair does at the tick that opens scan `m` (R426): the package compares the digest of the scan just closed; a
standby looks for the primary's frame of scan m − 2, and takes over after two misses with AUTOSW. -/
def State.pairTick (s : State) (m : Nat) : State :=
  if !s.pairEn then s
  else
    let s := s.comparePair ((m + 2 ^ 32 - 1) % 2 ^ 32)
    if s.primary then s
    else if s.hub.partner.has ((m + 2 ^ 32 - 2) % 2 ^ 32) then s.updHub (fun h => { h with hbmiss := 0 })
    else
      let miss := min 7 (s.hub.hbmiss + 1)
      let s := s.updHub (fun h => { h with hbmiss := miss })
      if 2 ≤ miss ∧ bitOf (s.reg pairBase) 61 then
        ((s.setReg pairBase (setFld (s.reg pairBase) 62 62 1)).updHub (fun h => { h with switched := true })).raiseIrq 3
      else s

/-! ## Mirroring (R427) -/

/-- MIRROR and MIRLEN. -/
def mirrorReg : Nat := pairBase + 0x10
def mirlenReg : Nat := pairBase + 0x18

/-- A write of MIRROR: a 1 clears LATE. -/
def State.mirrorWrite (s : State) (w : Word) : State :=
  let late := bitOf (s.reg mirrorReg) 62 && !bitOf w 62
  s.setReg mirrorReg (ofN (fld w 63 63 * 2 ^ 63 + b2n late * 2 ^ 62 + fld w 43 14 * 2 ^ 14))

/-- First line and number of lines of the range. -/
def State.mirrorRange (s : State) : Nat × Nat :=
  (fld (s.reg mirrorReg) 43 14 * 64, fld (s.reg mirlenReg) 15 0 * 64)

/-- A copy starts at the tick of the primary that opens scan `m`; one that has not ended makes the new one wait, and sets
LATE. -/
def State.mirrorTick (s : State) (m : Nat) : State :=
  if bitOf (s.reg mirrorReg) 63 && s.pairEn && s.primary then
    match s.hub.mirrorNext with
    | some _ => (s.setReg mirrorReg (setFld (s.reg mirrorReg) 62 62 1)).updHub (fun h => { h with mirrorAgain := true })
    | none => if s.mirrorRange.2 = 0 then s else s.updHub (fun h => { h with mirrorNext := some s.mirrorRange, mirrorFrom := m })
  else s

/-- One line of the copy leaves over the link; while the link is down the copy stands, and LATE tells at the next tick. -/
def State.mirrorSend (s : State) : State :=
  match s.hub.mirrorNext with
  | none => s
  | some (line, left) =>
    if !s.hub.linkUp then s else
    let (t, bs) := s.physRead (line * 256) 256
    let more := if 1 < left then some (line + 1, left - 1) else if s.hub.mirrorAgain then some s.mirrorRange else none
    t.updHub (fun h => { h with
      mirrorNext := more, mirrorAgain := h.mirrorAgain && decide (1 < left)
      mirrorFrom := if left ≤ 1 ∧ h.mirrorAgain = true then h.scan else h.mirrorFrom
      out := h.out ++ [.mirrorLine (line * 256) bs (decide (left ≤ 1)) h.mirrorFrom] })

/-- What a tick left for the end of its HCLK cycle: the pair's check, and the copy that the primary of then begins (R426, R427). -/
def State.pairEnd (s : State) : State :=
  match s.hub.pairDue with
  | some (m, c) =>
    if c < s.localNs then ((s.updHub (fun h => { h with pairDue := none })).pairTick m).mirrorTick m else s
  | none => s

/-- `MIRROR_LINE_LAND`: a line of the partner's copy lands; with the last one INPROG falls and SCAN is written. -/
def State.mirrorLand (s : State) (pa : Nat) (bytes : List Byte) (last : Bool) (scan : Nat) : State :=
  (s.physWrite pa bytes).updHub (fun h => { h with mirInprog := !last, mirScan := if last then scan else h.mirScan })

def execMirrorLineLand (pa : Nat) (bytes : List Byte) (last : Bool) (scan : Nat) (s : State) :
    Host.Outcome State Fault Refusal := .next (s.mirrorLand pa bytes last scan)

end Sys2Proof.Machine
end

