-- ==== Sys2Proof/Machine/ScanClock.lean ====
section
/-! DEFINITION. The scan unit and what a tick and a beat do (R362 to R368, R470, R422). -/

namespace Sys2Proof.Machine

/-! ## The scan unit's registers (R363, R364) -/

/-- EN, PHASE and PERIOD of SCANCFG. -/
def scEn (w : Word) : Bool := bitOf w 63
def scPhase (w : Word) : Nat := fld w 58 32
def scPeriod (w : Word) : Nat := fld w 26 0

/-- The first instant at or after `t` that meets the alignment of R362. -/
def alignedFrom (w : Word) (t : Nat) : Nat :=
  let p := scPeriod w
  if p = 0 then t else t + (scPhase w + p - t % p) % p

/-- A time plus a signed step, not below zero. -/
def shiftNs (t : Nat) (d : Int) : Nat := ((t : Int) + d).toNat

/-- How far the nearest aligned instant stands after a time, in ns. -/
def alignErr (w : Word) (t : Nat) : Int :=
  let up := alignedFrom w t
  let p := scPeriod w
  if up - t ≤ p / 2 then (up - t : Nat) else ((up - t : Nat) : Int) - p

/-- Whether a tick stands 10 ns or more off its alignment, which SLEW shows (R365). -/
def offAlign (w : Word) (t : Nat) : Bool := decide (10 ≤ (alignErr w t).natAbs)

/-- The coming tick moved toward the nearest aligned instant by at most 100 ns; in holdover it stays where the local oscillator
puts it. -/
def slewTick (w : Word) (t : Nat) (holdover : Bool) : Nat :=
  if holdover then t else shiftNs t (max (-100) (min 100 (alignErr w t)))

/-- The instant of the tick after the one at `t`, with the configuration then in force. -/
def afterTick (old : Word) (pending : Option Word) (t : Nat) : Word × Nat :=
  match pending with
  | some w => (w, alignedFrom w (t + (scPeriod w + 1) / 2))
  | none => (old, t + scPeriod old)

/-- SCANCFG without its reserved bits. -/
def scanMask (w : Word) : Word := setFld (setFld w 62 59 0) 31 27 0

/-- A write of SCANCFG; one that meets a tick in its cycle is applied at that tick (R364, R373). -/
def State.scancfgWrite (s : State) (w : Word) : State :=
  let w := scanMask w
  let old := s.reg scancfgReg
  if scPeriod w < 31250 ∨ 100000000 < scPeriod w ∨ scPeriod w ≤ scPhase w then s.updHub (fun h => { h with scanCfgErr := true })
  else if scEn w && scEn old then
    match s.hub.tickAt with
    | some (c, t) =>
      if c = s.now then
        let (cfg, next) := afterTick old (some w) t
        (s.setReg scancfgReg cfg).updHub (fun h => { h with cfgPending := none, nextTick := some (slewTick cfg next h.holdover) })
      else s.updHub (fun h => { h with cfgPending := some w })
    | none => s.updHub (fun h => { h with cfgPending := some w })
  else
    let first := if scEn w then some (alignedFrom w (s.gptp 0 + scPeriod w)) else none
    (s.setReg scancfgReg w).updHub (fun h => { h with cfgPending := none, nextTick := first })

def execScancfgWrite (w : Word) (s : State) : Host.Outcome State Fault Refusal := .next (s.scancfgWrite w)

/-- A write of SCANNUM, only while EN is 0. -/
def State.scannumWrite (s : State) (w : Word) : State :=
  if scEn (s.reg scancfgReg) then s.updHub (fun h => { h with scanCfgErr := true })
  else s.updHub (fun h => { h with scan := fld w 31 0 })

def execScannumWrite (w : Word) (s : State) : Host.Outcome State Fault Refusal := .next (s.scannumWrite w)

/-- A write of SCANST: a 1 clears CFGERR. -/
def State.scanstWrite (s : State) (w : Word) : State :=
  s.updHub (fun h => { h with scanCfgErr := h.scanCfgErr && !bitOf w 29 })

/-! ## Holdover and slewing (R365) -/

/-- `HOLDOVER`: domain 0 has lost its grandmaster; ticks go on by the local oscillator. -/
def execHoldover (s : State) : Host.Outcome State Fault Refusal :=
  .next (s.updHub (fun h => { h with holdover := true, synced := h.synced.put 0 false }))

/-- `SLEW`: gPTP time of domain 0 steps by `err` ns and is synchronised; the coming tick stands where it stood on the local
clock, as do the beats of the running scan, and the ticks move to their alignment from there. -/
def State.slewBy (s : State) (err : Int) : State :=
  s.updHub (fun h => { h with
    ptp := h.ptp.put 0 (shiftNs (h.ptp.val 0 0) err), nextTick := h.nextTick.map (fun t => shiftNs t err)
    lastTick := shiftNs h.lastTick err, holdover := false, synced := h.synced.put 0 true
    slew := match h.nextTick with
      | some t => offAlign (s.reg scancfgReg) (shiftNs t err)
      | none => false })

def execSlew (err : Int) (s : State) : Host.Outcome State Fault Refusal := .next (s.slewBy err)

/-! ## The tick at the hub (R366) -/

/-- The first ACLK cycle that begins 100 ns or more after a gPTP instant. -/
def State.cycleAfter (s : State) (t : Nat) : Nat := ((t + 100 - s.hub.ptp.val 0 0) * 6 + 4) / 5

/-- `SCAN_TICK`: the tick that closes the current scan and opens the next one. At a tick that changes PISPLIT, the egress
decisions read each region at its place under the new split, whose moved bytes are zero (assumption 99). The pair's check waits for
the end of the HCLK cycle, since a frame that arrives in it counts (R426). -/
def State.scanTick (s : State) : State :=
  match s.hub.nextTick with
  | none => s
  | some t =>
    let n := s.hub.scan
    let m := (n + 1) % 2 ^ 32
    let s := s.updHub (fun h => h.ingressTick n)
    let s := s.egressTick n
    let old := s.reg scancfgReg
    let (cfg, next) := afterTick old s.hub.cfgPending t
    let next := slewTick cfg next s.hub.holdover
    let slew := offAlign old t
    let err : Int := (s.gptp 0 : Int) - (t + alignErr old t)
    let core := s.cycleAfter t
    let s := (s.setReg scancfgReg cfg).updHub (fun h => { h with
      scan := m, lastTick := t, lastErr := err, cfgPending := none, nextTick := some next, slew := slew
      coreTick := some core, nextBeat := 1, tickAt := some (s.now, t), pairDue := if s.pairEn then some (m, s.localNs) else none })
    let s := if s.pairEn then s else s.mirrorTick m
    if s.pairEn then { s with agenda := s.agenda ++ [.pairFrameSend] } else s

def execScanTick (s : State) : Host.Outcome State Fault Refusal := .next s.scanTick

/-! ## The tick and the beats at the cores (R366 to R368) -/

/-- LEFT at a core tick: debt carries forward, what is left does not (R367). -/
def refillLeft (left : Int) (limit : Nat) : Int := signed32 (if left < 0 then limit + left else limit)

/-- A slot at the core tick: PTAG is loaded, the budget refilled, and a `WFE` wakes (R139, R228). -/
def Slot.tick (x : Slot) (scan now : Nat) : Slot :=
  { x with
    ptag := Vector.replicate 8 (ofN (scan * 65536))
    left := if x.limit = 0 ∨ x.task.isNone then x.left else refillLeft x.left x.limit
    event := now + 1 }

/-- The core tick at one core that holds anything. -/
def State.tickCore (s : State) (c scan : Nat) : State :=
  let k := s.core c
  let s := s.closeBudgets c k.scan
  let k := s.core c
  let s := s.setCore c { k with scan := scan, beat := 0, slots := k.slots.map (fun e => (e.1, e.2.tick scan s.now)) }
  (k.slots.map (·.1)).foldl (fun s i => s.budgetReady (c * 16 + i)) s

/-- Sets a bit of mip in every scan and supervisor core (R422). -/
def Hub.setMip (h : Hub) (bit : Nat) : Hub :=
  { h with mip := (List.range 12).foldl (fun m i => m.put i (m.val i 0 ||| 2 ^ bit)) h.mip }

/-- A saved slot at the core tick: one parked for budget end whose refill leaves it something waits for the switch alone
(R368, R379). -/
def Slot.savedTick (x : Slot) (scan now : Nat) : Slot :=
  let y := x.tick scan now
  match y.run with
  | .parked .budget => if 0 < y.left then { y with run := .parked .switched } else y
  | _ => y

/-- The saved slots of a switched-out member at the core tick: their time stands, their budgets are refilled. -/
def SavedMember.tick (m : SavedMember) (scan now : Nat) : SavedMember :=
  { m with slots := m.slots.map (fun e => (e.1, e.2.savedTick scan now)) }

/-- The save area of such a slot shows its PTAGs and its budget (R397). -/
def State.saveTick (s : State) (p gs : Nat) (x : Slot) : State :=
  match s.swArea p gs with
  | some a => (s.physWrite (a + 0x1B8) (bytesOf 8 x.budget.toNat)).physWrite (a + 0x200) (wordBytes x.ptag.toList)
  | none => s

/-- `CORE_TICK`: every core makes the new scan current. -/
def State.coreTick (s : State) : State :=
  let scan := s.hub.scan
  let s := s.updHub (fun h => { h.setMip 16 with coreScan := scan, coreBeat := 0, coreTick := none })
  let s := (s.cores.map (·.1)).foldl (fun s c => s.tickCore c scan) s
  let s := { s with saved := s.saved.map (fun (e : Nat × SavedMember) => (e.1, e.2.tick scan s.now)) }
  s.saved.foldl (fun (s : State) (e : Nat × SavedMember) =>
    e.2.slots.foldl (fun (s : State) (x : Nat × Slot) => s.saveTick e.1 x.1 x.2) s) s

def execCoreTick (s : State) : Host.Outcome State Fault Refusal := .next s.coreTick

/-- `BEAT`: every core makes the coming beat current. -/
def State.beatStep (s : State) : State :=
  let b := s.hub.nextBeat
  if 1 ≤ b ∧ b ≤ 15 then
    { s.updHub (fun h => { h.setMip 17 with coreBeat := b, nextBeat := b + 1 }) with
      cores := s.cores.map (fun e => (e.1, { e.2 with beat := b })) }
  else s

def execBeat (s : State) : Host.Outcome State Fault Refusal := .next s.beatStep

/-- The cycle of the coming beat, when one is to come in the running scan. -/
def State.beatCycle (s : State) : Option Nat :=
  let b := s.hub.nextBeat
  if 1 ≤ b ∧ b ≤ 15 ∧ s.hub.coreTick.isNone then some (s.cycleAfter (s.hub.lastTick + b * s.periodNs / 16)) else none

end Sys2Proof.Machine
end

