-- ==== Sys2Proof/Machine/TimeSlice.lean ====
section
/-! DEFINITION. The time-sliced group: its schedule, the save of the outgoing member and the load of the incoming one
(R379, R380, R399, R400). -/

namespace Sys2Proof.Machine

/-! ## Readiness and credit (R379) -/

/-- Whether a slot's thread counts for its member's readiness. -/
def Slot.readyThread (x : Slot) : Bool :=
  x.holds && (match x.run with
    | .parked .budget | .parked .fault | .parked .stopped => false
    | _ => true)

/-- Whether a member of the group is ready. -/
def State.memberReady (s : State) (p : Nat) : Bool :=
  (match s.saved.seek p with
   | some m => m.slots.any (fun e => e.2.readyThread)
   | none => s.cores.any (fun c => c.2.slots.any (fun e => e.2.readyThread && decide (e.2.part = p))))
  || s.marks.any (fun m => decide (m.part = p) && m.eligible)

/-- The enabled members of the group. -/
def State.members (s : State) : List Nat := (List.range 16).filter (fun p => (s.part p).en && (s.part p).ts)

/-- The first ready member after `r`, wrapping, `r` itself last. -/
def State.nextReady (s : State) (r : Nat) : Option Nat :=
  ((List.range 16).map (fun i => (r + 1 + i) % 16)).find? (fun q => s.members.any (fun p => decide (p = q)) && s.memberReady q)

/-- One µs of the schedule. -/
def State.creditAccrue (s : State) : State :=
  let was := s.sched.ready
  let ready := s.members.filter s.memberReady
  let is := fun (p : Nat) => ready.any (fun q => decide (q = p))
  let credit := s.members.foldl (fun (m : SMap Nat) p =>
    if s.sched.member = some p ∨ is p = true then m else m.put p (min (s.part p).slice (m.val p 0 + 1))) s.sched.credit
  match s.sched.member with
  | none => { s with sched := { s.sched with credit := credit, ready := ready } }
  | some r =>
    let ran := if is r then s.sched.ran + 1 else s.sched.ran
    let stopped := !is r && (was.any (fun q => decide (q = r)) || !ready.isEmpty)
    let s := { s with sched := { s.sched with credit := credit, ready := ready, ran := ran } }
    if stopped || (is r && decide (s.sched.allot ≤ ran)) then { s with agenda := s.agenda ++ [.tsSliceEnd] } else s

def execTsCreditAccrue (s : State) : Host.Outcome State Fault Refusal := .next s.creditAccrue

/-! ## Saving a member (R380, R399) -/

/-- The tiles that the group's slots are given, as a mask. -/
def State.groupTiles (s : State) (p : Nat) : List Nat := (List.range 8).filter (nbit (s.tilesOf p))

/-- The slot numbers of a partition's slot set. -/
def slotsIn (mask : Nat) : List Nat := (List.range 16).filter (nbit mask)

/-- Bytes of a ring tile in a bank or spill entry. -/
def RingTile.bytes (t : RingTile) : List Byte := layout 0x2400 [(0, t.data), (0x2000, t.scales)]

/-- Every started step of a slot set is written. -/
def Core.finishSteps (k : Core) (mask : Nat) : Core :=
  (k.matrix.filter (fun w => nbit mask w.slot)).foldl
    (fun k w => { k.setTile w.acc w.elems with matrix := k.matrix.filter (fun v => !decide (v = w)) }) k

/-- The first word of VALIDMAP. -/
def validMap (latch : Latch) (spill : List (Nat × RingTile)) (tiles tables : Nat) : Nat :=
  b2n latch.bank0.isSome + b2n latch.bank1.isSome * 2 + (2 ^ spill.length - 1) * 4 + tiles * 2 ^ 6 + tables * 2 ^ 14

/-- The labels of a ring tile as VALIDMAP keeps them. -/
def RingTile.label (t : RingTile) : List Byte :=
  bytesOf 2 t.step ++ bytesOf 2 t.k ++ bytesOf 1 t.elem ++ bytesOf 1 t.fmt ++ bytesOf 1 (b2n t.nxm + b2n t.scaled * 2)
  ++ bytesOf 1 t.src

/-- VALIDMAP of a core block; the places after its first word are the model's own. -/
def validBytes (latch : Latch) (spill : List (Nat × RingTile)) (pred succ tiles tables : Nat) (tids : List Nat) : List Byte :=
  layout 128
    [ (0, bytesOf 8 (validMap latch spill tiles tables))
    , (8, bytesOf 1 (latch.holder.getD 255) ++ bytesOf 2 latch.rstep ++ bytesOf 1 pred ++ bytesOf 1 succ
        ++ bytesOf 1 (b2n latch.holder.isSome))
    , (16, (latch.bank0.toList ++ latch.bank1.toList ++ spill.map (·.2)).flatMap RingTile.label)
    , (64, tids.flatMap (bytesOf 1)) ]

/-- A core of the outgoing member: its slots stop, and what the switch saves leaves the core for its core block. What the
hardware itself goes on updating in memory, the contexts with their inboxes, stands in the member's record too. -/
def State.saveCore (s : State) (p i c : Nat) : State :=
  let mask := (s.part p).slotMask
  let s := ((slotsIn mask).map (fun k => c * 16 + k)).foldl (fun s gs => (s.drainEngine gs 4).parkSlot gs .switched) s
  let k := (s.core c).finishSteps mask
  let base := s.coreBlock p i
  let out := (slotsIn mask).map (fun i => (i, k.slot i))
  let tiles := s.groupTiles p
  let banks := (List.range 4).filter (nbit (s.part p).tbanks)
  let held := match k.latch.holder with
    | some h => nbit mask h
    | none => false
  let latch := if held then k.latch else Latch.reset
  let own := match k.latch.reserved with
    | some (q, _) => decide (q = p)
    | none => true
  let spill := if own then k.spill.filter (fun e => nbit mask e.1) else []
  let kept := if own then k.spill.filter (fun e => !nbit mask e.1) else k.spill
  let ring := match k.latch.holder with
    | some h => let x := k.slot h; (x.mringPred, x.mringSucc)
    | none => (0, 0)
  let left : Latch := if held then
      { Latch.reset with reserved := k.latch.holder.map (fun h => (p, h)), sending := k.latch.sending
                         outstanding := k.latch.outstanding }
    else k.latch
  let s := out.foldl (fun (s : State) e =>
    s.physWrite (base + 0x1400 * e.1) (e.2.area (c * 16 + e.1) p k.scan (s.part p).tbanks)) s
  let s := tiles.foldl (fun (s : State) t => s.physWrite (base + 0x14000 + 0x1000 * t)
    ((k.tile t).flatMap (fun e => bytesOf 4 e.toNat))) s
  let s := (latch.bank0.toList.map (fun t => (0, t)) ++ latch.bank1.toList.map (fun t => (1, t))).foldl
    (fun (s : State) (e : Nat × RingTile) => s.physWrite (base + 0x1C000 + 0x4000 * e.1) e.2.bytes) s
  let s := (spill.zipIdx).foldl (fun (s : State) e => s.physWrite (base + 0x24000 + 0x2400 * e.2) e.1.2.bytes) s
  let s := banks.foldl (fun (s : State) b => s.physWrite (base + 0x2D000 + 0x400 * b)
    ((List.range 256).flatMap (fun e => bytesOf 4 ((k.bank b).entry e).toNat))) s
  let s := s.physWrite (base + 0x2E000) (validBytes latch spill ring.1 ring.2 (s.tilesOf p) (s.part p).tbanks
    ((List.range 4).map (fun b => (k.bank b).tid)))
  let m := (s.saved.seek p).getD { part := p, slots := [], valid := [] }
  let m : SavedMember := { m with
    slots := out.foldl (fun (l : SMap Slot) e => l.put (c * 16 + e.1) { e.2 with flights := [], event := 0 }) m.slots
    valid := insertNew c m.valid }
  let gone := k.slots.map (fun (e : Nat × Slot) => (e.1, if nbit mask e.1 then { k.freshSlot with flights := e.2.flights } else e.2))
  let s := s.setCore c { k with slots := gone, latch := left, spill := kept }
  { s with saved := s.saved.put p m }

/-- The cores of a partition's list, with their ordinals. -/
def State.listed (s : State) (p : Nat) : List (Nat × Nat) :=
  (List.range (s.part p).clen).map (fun i => (i, s.clist p i))

/-- The switch-out of a member. -/
def State.switchOut (s : State) (p : Nat) : State :=
  let s := { s with saved := s.saved.put p { part := p, slots := [], valid := [] } }
  (s.listed p).foldl (fun s e => s.saveCore p e.1 e.2) s

/-! ## Loading a member (R380, R399) -/

/-- A ring tile from the bytes of its label and of its bank or spill entry. -/
def tileOfBytes (label bs : List Byte) : RingTile :=
  let k := bytesAt label 2 2
  let elem := bytesAt label 4 1
  let flags := bytesAt label 6 1
  { k := k, elem := elem, data := bs.take (k * 4 * elemWidth elem), fmt := bytesAt label 5 1, nxm := nbit flags 0
    scaled := nbit flags 1, scales := (bs.drop 0x2000).take (if nbit flags 1 then 32 * kBlocks k else 0)
    step := bytesAt label 0 2, src := bytesAt label 7 1 }

/-- A decode table bank with its TID of VALIDMAP and the 256 entries of its save area, resealed (R380). -/
def tableOfBytes (tid : Nat) (bs : List Byte) : TBank :=
  { rom := tid, tid := tid, st := .sealing
    written := (List.range 256).foldl (fun (m : SMap (BitVec 32)) e =>
      let w := BitVec.ofNat 32 (bytesAt bs (4 * e) 4)
      if w = romEntry tid e then m else m.put e w) [] }

/-- Resumes the slots that the switch-out stopped. -/
def State.wakeSwitched (s : State) (gs : Nat) : State :=
  match (s.slot gs).run with
  | .parked .switched => s.resume gs
  | _ => s.budgetReady gs

/-- The latch and the spill entries of a core block, as VALIDMAP names them: banks, then spill entries (R152, R399). -/
def State.loadLatch (s : State) (c base : Nat) (vm : List Byte) : State :=
  let map := bytesAt vm 0 8
  let holder := bytesAt vm 8 1
  if 16 ≤ holder then s
  else
    let label := fun (i : Nat) => (vm.drop (16 + 8 * i)).take 8
    let n := b2n (nbit map 0) + b2n (nbit map 1)
    let (s, b0) := if nbit map 0 then s.physRead (base + 0x1C000) 0x2400 else (s, [])
    let (s, b1) := if nbit map 1 then s.physRead (base + 0x20000) 0x2400 else (s, [])
    let (s, spill) := ((List.range 4).filter (fun e => nbit map (2 + e))).foldl
      (fun (acc : State × List (Nat × RingTile)) e =>
        let (s, bs) := acc.1.physRead (base + 0x24000 + 0x2400 * e) 0x2400
        (s, acc.2 ++ [(holder, tileOfBytes (label (n + e)) bs)])) (s, [])
    let k := s.core c
    s.setCore c { k with
      latch := { k.latch with holder := some holder, rstep := bytesAt vm 9 2, reserved := none
                              bank0 := if nbit map 0 then some (tileOfBytes (label 0) b0) else none
                              bank1 := if nbit map 1 then some (tileOfBytes (label (b2n (nbit map 0))) b1) else none }
      spill := spill ++ k.spill }

/-- A core of the incoming member: banks, spill entries, tiles and tables that VALIDMAP marks, then slots. A unit that it does
not mark, or of a core of which the member has saved nothing, starts as after wipe. -/
def State.loadCore (s : State) (m : SavedMember) (p i c : Nat) : State :=
  let mask := (s.part p).slotMask
  let base := s.coreBlock p i
  let (s, vm) := if m.valid.any (fun k => decide (k = c)) then s.physRead (base + 0x2E000) 128 else (s, List.replicate 8 0 ++ [255])
  let map := bytesAt vm 0 8
  let s := s.loadLatch c base vm
  let s := (s.groupTiles p).foldl (fun (s : State) t =>
    if nbit map (6 + t) then
      let (s, bs) := s.physRead (base + 0x14000 + 0x1000 * t) 0x1000
      s.setCore c ((s.core c).setTile t ((List.range 1024).map (fun e => BitVec.ofNat 32 (bytesAt bs (4 * e) 4))))
    else s.setCore c ((s.core c).clearTiles (2 ^ t))) s
  let s := ((List.range 4).filter (nbit (s.part p).tbanks)).foldl (fun (s : State) b =>
    if nbit map (14 + b) then
      let (s, bs) := s.physRead (base + 0x2D000 + 0x400 * b) 0x400
      let k := s.core c
      let s := s.setCore c { k with tb := k.tb.put b (tableOfBytes (bytesAt vm (64 + b) 1) bs) }
      { s with agenda := s.agenda ++ [Event.sealComplete c b] }
    else
      let k := s.core c
      s.setCore c { k with tb := k.tb.put b (TBank.reset b) }) s
  ((slotsIn mask).map (fun j => c * 16 + j)).foldl (fun (s : State) gs =>
    let flights := (s.slot gs).flights
    match m.slots.seek gs with
    | some x =>
      let (s, bs) := s.physRead (base + 0x1400 * (gs % 16)) areaBytes
      (s.setSlot gs { x.load gs bs with flights := flights, deferred := x.deferred, startAt := x.startAt }).rebar gs
        |>.wakeSwitched gs
    | none =>
      if (s.core c).slots.has (gs % 16) then s.setSlot gs { (s.core c).freshSlot with flights := flights } else s) s

/-- The switch-in of a member. -/
def State.switchIn (s : State) (p : Nat) : State :=
  match s.saved.seek p with
  | none => s
  | some m =>
    let s := { s with saved := s.saved.del p }
    (s.listed p).foldl (fun s e => s.loadCore m p e.1 e.2) s

/-! ## The switch (R379, R380) -/

/-- Whether the window of an AMO of a partition is open. -/
def State.anyAmoOpen (s : State) (p : Option Nat) : Bool :=
  s.slices.any (fun e => e.2.amo.any (fun r => decide (r.op = .reserve) && r.granted && decide (some (s.slot r.slot).part = p)))

/-- The end of the running allotment, or of the readiness of the member switched in. -/
def State.sliceEnd (s : State) : State :=
  match s.sched.member with
  | none => s
  | some r =>
    let c := s.sched
    let c := if s.memberReady r then c
      else { c with credit := c.credit.put r (min (s.part r).slice (c.allot - c.ran)) }
    let s := { s with sched := c }
    match s.nextReady r with
    | none => s
    | some n =>
      if n = r then { s with sched := { c with allot := (s.part r).slice, ran := 0 } }
      else
        let s := s.switchOut r
        { s with sched := { c with member := none, allot := (s.part n).slice + c.credit.val n 0, ran := 0
                                   credit := c.credit.put n 0, switching := some n }
                 agenda := s.agenda ++ [.tsSwitchComplete] }

/-- `TS_SLICE_END`: the windows of the member's AMOs complete first (R396). -/
def execTsSliceEnd (s : State) : Host.Outcome State Fault Refusal :=
  .next (if s.anyAmoOpen s.sched.member then { s with later := s.later ++ [.tsSliceEnd] } else s.sliceEnd)

/-- The loads of the incoming member are complete. -/
def State.switchDone (s : State) : State :=
  match s.sched.switching with
  | none => s
  | some n =>
    let s := s.switchIn n
    { s with sched := { s.sched with member := some n, switching := none } }

def execTsSwitchComplete (s : State) : Host.Outcome State Fault Refusal := .next s.switchDone

end Sys2Proof.Machine
end

