-- ==== Sys2Proof/Machine/Reset.lean ====
section
/-! DEFINITION. The reset of a partition, function-level resets, the conventional reset and power-on, the life-cycle
state and the thermal events (R386, R418, R421, R428, R429, R431). -/

namespace Sys2Proof.Machine

/-! ## The start of a partition's reset (R386 steps 1 and 2) -/

/-- The global slots of a partition: its slot set on every core of its list. -/
def State.slotsOf (s : State) (p : Nat) : List Nat :=
  (s.listed p).flatMap (fun e => (slotsIn (s.part p).slotMask).map (fun i => e.2 * 16 + i))

/-- Whether a slot stands for a partition now: it holds a task of it, or the partition owns its turn. -/
def State.standsFor (s : State) (p gs : Nat) : Bool :=
  if (s.slot gs).holds then decide ((s.slot gs).part = p) else !s.away p

/-- The member that follows in the group when `p` goes: the first other one that is ready, else the next one (R379). -/
def State.follower (s : State) (p : Nat) : Option Nat :=
  match s.nextReady p with
  | some n => if n = p then s.nextMember p else some n
  | none => s.nextMember p

/-- A member of the group that is switched in is switched out (R386 step 1), and another member follows it; with no other the
group has none switched in until the reset ends. DEDUCED (assumption 109). -/
def State.yieldGroup (s : State) (p : Nat) : State :=
  if s.sched.member = some p then
    let s := s.switchOut p
    let c := s.sched
    match s.follower p with
    | none => { s with sched := { c with member := none, allot := 0, ran := 0 } }
    | some n =>
      { s with sched := { c with member := none, allot := (s.part n).slice + c.credit.val n 0, ran := 0
                                 credit := c.credit.put n 0, switching := some n }
               agenda := s.agenda ++ [.tsSwitchComplete] }
  else s

/-- A member whose reset has ended is switched in again where it is the group's only one. -/
def State.regainGroup (s : State) (p : Nat) : State :=
  if s.away p && (s.part p).en && (s.part p).ts && s.sched.member.isNone && s.sched.switching.isNone then
    { s with sched := { s.sched with allot := (s.part p).slice, ran := 0, switching := some p }
             agenda := s.agenda ++ [.tsSwitchComplete] }
  else s

/-- A reset of a partition starts: nothing more is bound (`State.freeFor`), the slots park, a member switched in is switched out,
and the messages in flight go on. -/
def State.resetStart (s : State) (p : Nat) : State :=
  if s.hub.resetting.has p then s
  else
    let s := s.updHub (fun h => { h with resetting := h.resetting.put p 1 })
    let slots := (s.slotsOf p).filter (s.standsFor p)
    let s := slots.foldl (fun s gs => (s.drainEngine gs 4).parkSlot gs .reset) s
    let msgs := (s.slotsOf p).flatMap (fun gs =>
      ((s.slot gs).flights.filter (fun f => decide (f.part = p) && !f.plan && decide (f.pos = .sender))).map
        (fun _ => Event.messageArrival gs))
    let s := s.yieldGroup p
    { s with agenda := s.agenda ++ msgs ++ [.resetDrainEnd p] }

/-- `PARTITION_RESET`: the windows of the partition's AMOs complete before its slots stop (R396). -/
def execPartitionReset (part : Nat) (s : State) : Host.Outcome State Fault Refusal :=
  .next (if s.anyAmoOpen (some part) then { s with later := s.later ++ [.partitionReset part] } else s.resetStart part)

/-! ## The rest of the reset (R386 steps 3 to 8) -/

/-- A slot after its scrub: its TIN rises (R386 step 3). -/
def Slot.tinUp (x : Slot) : Slot := { x with tin := (x.tin + 1) % 65536 }

/-- Step 3 for a slot of the partition: what is outstanding is abandoned. -/
def State.resetSlot (s : State) (p gs : Nat) : State :=
  if s.standsFor p gs then
    let s := s.scrub gs 0
    let s := { s with traced := s.traced.filter (fun t => !decide (t.slot = gs))
                      slices := s.slices.map (fun (e : Nat × Slice) =>
                        (e.1, { e.2 with amo := e.2.amo.filter (fun r => !decide (r.slot = gs)) })) }
    s.setSlot gs (s.slot gs).tinUp
  else s

/-- Step 3 for a saved slot of a switched-out member; its save area shows the scrubbed context. Its
Carter commands end as by `CP.ABORT` (R127). -/
def State.resetSaved (s : State) (p gs : Nat) (x : Slot) : State :=
  let s := (s.bounceInbox gs x).enterReplay gs 0 x
  let s := x.cp.queue.foldl State.closeDebit s
  let y := { x.scrubbed with cp := x.cp.aborted }.tinUp
  let s := match s.swArea p gs with
    | some a => s.physWrite a (y.area gs p (s.core (gs / 16)).scan (s.part p).tbanks)
    | none => s
  match s.saved.seek p with
  | some m => { s with saved := s.saved.put p { m with slots := m.slots.put gs y } }
  | none => s

/-- The saved contexts of a member are discarded (R386 step 7, R389). -/
def State.discardSaved (s : State) (p : Nat) : State :=
  match s.saved.seek p with
  | none => s
  | some m =>
    let s := (s.slotsOf p).foldl (fun (s : State) gs =>
      s.resetSaved p gs (m.slots.val gs (s.core (gs / 16)).freshSlot)) s
    match s.saved.seek p with
    | some m => { s.dropReserved p with saved := s.saved.put p { m with valid := [] } }
    | none => s

/-- Step 4: resident places are written back and freed, launch entries close, and what the dispatchers hold ends. -/
def State.resetQueues (s : State) (p : Nat) : State :=
  let s := (s.residents.filter (fun r => decide (r.part = p))).foldl (fun s r => s.evictResident r) s
  { s with launches := s.launches.map (fun e => (e.1, if e.1 / 16 = p then { e.2 with isOpen := false } else e.2))
           lanes := s.lanes.filter (fun w => !decide (w.part = p))
           takings := s.takings.filter (fun t => !decide (t.part = p))
           marks := s.marks.filter (fun m => !decide (m.part = p)) }

/-- Step 5. -/
def State.resetGates (s : State) (p : Nat) : State := { s with gates := s.gates.map (fun e => (e.1, e.2.afterReset p)) }

/-- Step 6: a shoot-down of kind PART at `.dev`. -/
def State.resetTlb (s : State) (p : Nat) : State :=
  (List.range 64).foldl (fun s cl => s.shoot1 { cluster := cl, kind := 2, part := p, asn := 0, va := 0, bar := none }) s

/-- A slice drops a line without a write-back: its bytes and marks are again those that DRAM holds. -/
def State.dropLine (s : State) (n line : Nat) : State :=
  match (s.slice n).lines.seek line with
  | none => s
  | some l =>
    let x := s.slice n
    let s := s.setSlice n { x with lines := x.lines.del line, badData := x.badData.filter (fun b => !decide (b / 8 = line)) }
    if l.dirty = 0 then { s with poison := l.underBad.foldl (fun m e => m.put e.1 e.2) s.poison }
    else
      let mem := s.mem.filter (fun e => !decide (e.1 / 256 = line))
      let bad := s.poison.filter (fun e => !decide (e.1 / 8 = line))
      { s with mem := memPokes mem l.under, poison := l.underBad.foldl (fun m e => m.put e.1 e.2) bad }

/-- The events of the held pages of a partition are marked cancelled; one that is still to be posted is posted (R108). -/
def State.cancelEvents (s : State) (p n : Nat) : State :=
  let mine := (s.slice n).holding.filter (fun h => decide (h.part = p))
  let s := (mine.filter (fun h => !h.posted && !decide (h.held = 0))).foldl (fun s h => s.evictEvent n h) s
  let x := s.slice n
  s.setSlice n { x with cancelled := x.cancelled ++ (mine.filter (fun h => !decide (h.held = 0))).map (fun h => (h.part, h.asn, h.vpn)) }

/-- Step 7 at a home slice: the dirty lines that stand in the partition's AWAYS go to DRAM and stay, clean. -/
def State.cleanWays (s : State) (p n : Nat) : State :=
  let x := s.slice n
  s.setSlice n { x with lines := x.lines.map (fun (e : Nat × SliceLine) =>
    (e.1, if nbit (s.waysOf p n) e.2.way && !x.pinned.has e.1 then e.2.clean else e.2)) }

/-- Step 7 at a home slice (R111): nothing of reserved ways, frames, pins and held lines is written back; every line that stands
in a reserved way of the partition goes. -/
def State.resetSlice (s : State) (p n : Nat) : State :=
  let x := s.slice n
  let s := s.cancelEvents p n
  let ways := s.rways p n
  let pins := (x.pinned.filter (fun e => decide (e.2 % 16 = p))).map (·.1)
    ++ (x.lines.filter (fun e => nbit ways e.2.way && !x.pinned.has e.1)).map (·.1)
  let pages := (x.pages.filter (fun f => decide (f.part = p))).map (fun f => (f.asn, f.vpn))
    ++ (x.holding.filter (fun h => decide (h.part = p))).map (fun h => (h.asn, h.vpn))
  let drop := fun (s : State) (line : Nat) =>
    let key := line * 256
    let s := ((s.dirOf key).cores (s.homeDie key)).foldl (fun s o =>
      (sectorsOf key).foldl (fun s sec => s.dropL1 o sec) s) s
    s.setDir key .unc
  let s := pins.foldl (fun (s : State) line =>
    (drop s line).dropLine n line) s
  let s := pages.foldl (fun (s : State) g =>
    let key := unbackedKey n p g.1 g.2 0
    let s := (List.range 64).foldl (fun (s : State) i => drop s (key / 256 + i)) s
    (s.meetPage key 0).clearPage key) s
  let x := s.slice n
  s.setSlice n { x with
    pinned := x.pinned.filter (fun e => !decide (e.2 % 16 = p)), frames := x.frames.filter (fun f => !decide (f.2 = p))
    pages := x.pages.filter (fun f => !decide (f.part = p)), holding := x.holding.filter (fun h => !decide (h.part = p))
    noWays := insertNew p x.noWays }

/-- Step 7 at a core: dirty lines are written back, LM banks are wiped, tiles zeroed, decode table banks take their
contents after wipe. Tiles and banks that the time-sliced group shares are another member's while this one is switched
out. -/
def State.resetCore (s : State) (p c : Nat) : State :=
  let s := s.flushAll c
  let banks := (List.range 16).filter (nbit (s.part p).banks)
  let s := s.setCore c (banks.foldl (fun (k : Core) b => k.wipeBank b) (s.core c))
  if s.away p then s
  else
    let tb := (List.range 4).filter (nbit (s.part p).tbanks)
    s.setCore c (tb.foldl (fun (k : Core) b => { k with tb := k.tb.put b (TBank.reset b) }) ((s.core c).clearTiles (s.tilesOf p)))

/-- The end of the drain: steps 3 to 8. -/
def State.resetFinish (s : State) (p : Nat) : State :=
  let s := (s.slotsOf p).foldl (fun s gs => s.resetSlot p gs) s
  let s := (((s.discardSaved p).resetQueues p).resetGates p).resetTlb p
  let s := (s.listed p).foldl (fun s e => s.resetCore p e.2) s
  let s := (s.slices.map (·.1)).foldl (fun s n => (s.resetSlice p n).cleanWays p n) s
  (s.updHub (fun h => { h with resetting := h.resetting.del p })).regainGroup p

def execResetDrainEnd (part : Nat) (s : State) : Host.Outcome State Fault Refusal := .next (s.resetFinish part)

/-! ## Function-level resets (R418, R420, R421, R432) -/

/-- The client window of a function: staging slots and DBSTAT. -/
def Hub.clearWindow (h : Hub) (vf : Nat) : Hub :=
  { h with stageSlots := h.stageSlots.filter (fun e => !decide (e.1 / 8 = vf)), dbAccepted := h.dbAccepted.del vf, dbRes := h.dbRes.del vf }

/-- An FLR of VFn runs the reset of Pn, as its next step. -/
def execVfFlr (vf : Nat) (s : State) : Host.Outcome State Fault Refusal :=
  .next { s.updHub (fun h => h.clearWindow vf) with agenda := s.agenda ++ [.partitionReset vf] }

/-- An FLR of PF0 (R418): the specification gives it no effect on any state that it gives the part; configuration space is fixed
(`pcieCaps`). -/
def execPf0Flr (s : State) : Host.Outcome State Fault Refusal := .next s

/-! ## Reset, power-on, life cycle (R428, R429) -/

/-- Codes of the life-cycle states, in the order of the table of R429. -/
def LifeCycle.code : LifeCycle → Nat
  | .manufacture => 0
  | .provisioned => 1
  | .deployed => 2
  | .return_ => 3

/-- The next life-cycle state. -/
def LifeCycle.next : LifeCycle → Option LifeCycle
  | .manufacture => some .provisioned
  | .provisioned => some .deployed
  | .deployed => some .return_
  | .return_ => none

/-- `LCREQ_WRITE`: the next state takes effect at the next reset; any other request is dropped. -/
def State.lcreq (s : State) (w : Word) : State :=
  match s.hub.life.next with
  | some n => if w.toNat = n.code then s.updHub (fun h => { h with lifePending := some n }) else s
  | none => s

def execLcreqWrite (w : Word) (s : State) : Host.Outcome State Fault Refusal := .next (s.lcreq w)

/-- The part after a reset: every memory wiped, the requested life-cycle state in force. -/
def State.wiped (s : State) : State :=
  { State.reset with
    large := s.large, fresh := s.fresh
    hub := { Hub.reset with life := s.hub.lifePending.getD s.hub.life, out := s.hub.out } }

def execConventionalReset (s : State) : Host.Outcome State Fault Refusal := .next s.wiped

/-- The key hash that a life-cycle state names (R429). -/
def LifeCycle.keyHash : LifeCycle → BitVec 256
  | .manufacture | .return_ => Config.testKeyHash
  | .provisioned | .deployed => Config.ownerKeyHash

/-- Whether the state opens debug access (R429). -/
def LifeCycle.debugOpen : LifeCycle → Bool
  | .deployed => false
  | _ => true

/-- The check of step 2 (R428, R429): the image's key is the one that the state accepts, its digest is right, and so is its
signature, the 64 bytes r and s, over the digest. -/
def LifeCycle.acceptsImage (l : LifeCycle) : Bool :=
  decide (Config.sm3 Config.imageKey = l.keyHash) && decide (Config.sm3 Config.imageBody = Config.imageDigest)
  && decide (Config.imageSignature.length = 64) && Config.sm2Verify Config.imageKey Config.imageSignature Config.imageDigest

/-- The step that ends self-test (R428): the given one, or step 2 where the image is not accepted and step 1 has passed. -/
def LifeCycle.failing (l : LifeCycle) (failStep : Nat) : Nat := if failStep = 1 ∨ l.acceptsImage = true then failStep else 2

/-- Power-on: with no step failed (0) the part stands as after reset; with a failed step, 1 to 7, it enters the safe report
state, on whose entry the TSN ports send the safe frames (assumption 89). Firmware has passed its check from step 3 on. -/
def execPowerOnSelfTest (failStep detail : Nat) (s : State) : Host.Outcome State Fault Refusal :=
  let t := s.wiped
  let failStep := t.hub.life.failing failStep
  .next (if 1 ≤ failStep ∧ failStep ≤ 7 then
      { t.updHub (fun h => { h with safe := some (failStep, detail, decide (3 ≤ failStep)) }) with agenda := [.safeFrames] }
    else t)

/-! ## Temperature and power (R431) -/

/-- TWARN and TTRIP in 0.5 °C, and the power limit in 0.125 W (R468). -/
def tWarn : Int := 190
def tTrip : Int := 210
def powerLimit : Nat := 3840

/-- A die reports a temperature; from TWARN on it sets SVIRQ.THERM. -/
def State.thermal (s : State) (die : Nat) (temp : Int) : State :=
  let s := s.updHub (fun h => { h with temp := h.temp.put die temp })
  if tWarn ≤ temp then s.raiseIrq 4 else s

def execThermalWarn (die : Nat) (temp : Int) (s : State) : Host.Outcome State Fault Refusal := .next (s.thermal die temp)

/-- The compute dies' state is lost. -/
def State.loseCompute (s : State) : State :=
  { State.reset with large := s.large, now := s.now, fresh := s.fresh, parts := s.parts, gates := s.gates, wseq := s.wseq
                     fqHead := s.fqHead, fqTail := s.fqTail, hub := s.hub }

/-- A thermal trip: the safe report state, whose STAGE and DETAIL the specification does not give for it. Whether an image has passed
step 2 stands as it was. -/
def State.trip (s : State) (die : Nat) (temp : Int) : State :=
  let s := s.thermal die temp
  if tTrip ≤ temp then
    let t := s.loseCompute
    let image := match s.hub.safe with
      | some (_, _, passed) => passed
      | none => true
    { t with fresh := t.fresh + 2, agenda := [.safeFrames]
             hub := { t.hub with safe := some ((Config.freeWord t.fresh).toNat, (Config.freeWord (t.fresh + 1)).toNat, image) } }
  else s

def execThermalTrip (die : Nat) (temp : Int) (s : State) : Host.Outcome State Fault Refusal := .next (s.trip die temp)

/-- The package power of one more ms: the tenth in a row above the limit sets OVERPWR and SVIRQ.THERM. -/
def State.power (s : State) (pwr : Nat) : State :=
  let ms := if powerLimit < pwr then min 10 (s.hub.overMs + 1) else 0
  let s := s.updHub (fun h => { h with pwr := min 4095 pwr, overMs := ms })
  if ms = 10 ∧ s.hub.overpwr = false then (s.updHub (fun h => { h with overpwr := true })).raiseIrq 4 else s

def execOverpwr (pwr : Nat) (s : State) : Host.Outcome State Fault Refusal := .next (s.power pwr)

end Sys2Proof.Machine
end

