-- ==== Sys2Proof/Machine/Host.lean ====
section
/-! DEFINITION. What the host and the supervisor cores do to the part: windows, doorbells, interrupts, the slot command
block and the DOE mailboxes (R415, R416, R418 to R423, R429). -/

namespace Sys2Proof.Machine

/-! ## Windows (R419)

The windows of a function stand at model offsets: VFn's data window (BAR2) at 0, its client window (BAR0) at 2^28. For
function 0 the offsets are those of PF0 BAR0. -/

/-- Model offset of the client window. -/
def clientOff : Nat := 2 ^ 28

/-- Base and size of VFn's data window. -/
def State.hwin (s : State) (vf : Nat) : Nat × Nat :=
  let w := s.reg (hostBase + 8 * vf)
  (fld w 43 24 * 2 ^ 24, if fld w 47 44 = 0 then 0 else 2 ^ (fld w 47 44 - 1) * 2 ^ 24)

/-- `HWIN_WRITE`: refused with a size or range that R419 does not allow. -/
def State.hwinWrite (s : State) (vf : Nat) (w : Word) : State :=
  let base := fld w 43 24 * 2 ^ 24
  let size := if fld w 47 44 = 0 then 0 else 2 ^ (fld w 47 44 - 1) * 2 ^ 24
  let groups := (List.range 4).filter (fun g => decide (g * s.groupBytes < base + size ∧ base < (g + 1) * s.groupBytes))
  let ok := decide (fld w 47 44 ≤ 5) && (decide (size = 0) ||
    (decide (base % size = 0 ∧ base + size ≤ s.dramEnd) && groups.all (nbit (fld (s.part vf).w0 15 12))))
  if ok then s.setReg (hostBase + 8 * vf) (setFld w 23 0 0) else s.hubErr

def execHwinWrite (vf : Nat) (w : Word) (s : State) : Host.Outcome State Fault Refusal := .next (s.hwinWrite vf w)

/-- A host access outside a window's defined bytes: Unsupported Request, logged by AER. -/
def State.unsupported (s : State) (function : Nat) (write : Bool) : State :=
  s.updHub (fun h => { h with out := h.out ++ (if write then [] else [Output.hostRead function none]) ++ [.aer function] })

def execUnsupportedRequest (function _off : Nat) (write : Bool) (s : State) : Host.Outcome State Fault Refusal :=
  .next (s.unsupported function write)

/-! ## Doorbells (R420) -/

/-- A staging slot of a function. -/
def State.staging (s : State) (vf k : Nat) : List Byte := bytesOf 64 (s.hub.stageSlots.val (vf * 8 + k) 0).toNat

/-- The push of a doorbell's packet: the state and RES. -/
def State.doorbellPush (s : State) (vf : Nat) (w : Word) (p : List Byte) : State × Nat :=
  let asn := fld (s.reg (hostBase + 8 * vf)) 63 48
  let h := fld w 11 0
  if !(s.part vf).en then (s, 3)
  else match s.queueAt vf asn h with
    | none => (s, 2)
    | some d =>
      match s.appendPacket vf asn h d (nbits (s.peekNat d 8) 43 6 * 64) (nbits (s.peekNat (d + 16) 1) 4 0) p with
      | none => (s, 1)
      | some t => (t, 0)

/-- A doorbell with its packet: dropped while the function's reset runs (R421, R432). -/
def State.doorbellServe (s : State) (vf : Nat) (w : Word) (p : List Byte) : State :=
  if s.hub.resetting.has vf then s
  else
    let (t, res) := s.doorbellPush vf w p
    t.updHub (fun h => { h with
      dbRes := h.dbRes.put vf res
      dbAccepted := if res = 0 then h.dbAccepted.put vf ((h.dbAccepted.val vf 0 + 1) % 2 ^ 32) else h.dbAccepted })

/-- `DOORBELL`: the hub serves one with the packet that stands in its staging slot. -/
def State.doorbell (s : State) (vf : Nat) (w : Word) : State := s.doorbellServe vf w (s.staging vf (fld w 14 12))

def execDoorbell (vf : Nat) (w : Word) (s : State) : Host.Outcome State Fault Refusal := .next (s.doorbell vf w)

/-! ## Writes of the windows (R419, R420)

Bytes of the data window reach their home slice, and a doorbell is served, with the hub ranked after core 255 in the merge step
of the write (R116, R361), which is before the first step of the next cycle. -/

/-- A write of the client window: the staging slots, or a doorbell with the packet that stands in its slot then. -/
def State.clientWrite (s : State) (vf o : Nat) (bytes : List Byte) : State :=
  if o + bytes.length ≤ 0x200 then
    let new := putBytes ((List.range 8).flatMap (s.staging vf)) o bytes
    s.updHub (fun h => { h with stageSlots := (List.range 8).foldl (fun (m : SMap VWord) k =>
      m.put (vf * 8 + k) (BitVec.ofNat 512 (bytesAt new (64 * k) 64))) h.stageSlots })
  else if o = 0x200 ∧ bytes.length = 8 then
    let w := ofN (ofBytes bytes)
    { s with posts := s.posts ++ [.bell vf w (s.staging vf (fld w 14 12))] }
  else if 0x208 ≤ o ∧ o + bytes.length ≤ 0x210 then s
  else s.unsupported vf true

/-- The report mailbox (R428) and the capability list of PF0 BAR0. -/
def State.pf0Bytes (s : State) (off len : Nat) : Option (List Byte) :=
  let mail := match s.hub.safe with
    | some (stage, detail, _) => bytesOf 4 stage ++ bytesOf 4 0 ++ bytesOf 8 detail
    | none => List.replicate 16 0
  if off + len ≤ 16 then some ((mail.drop off).take len)
  else if 0x1000 ≤ off ∧ off + len ≤ 0x1800 then
    some (((wordBytes ((List.range 256).map s.capWord)).drop (off - 0x1000)).take len)
  else none

/-- The client window as it reads. -/
def State.clientBytes (s : State) (vf o len : Nat) : Option (List Byte) :=
  let all := (List.range 8).flatMap (s.staging vf) ++ bytesOf 8 0 ++ bytesOf 8 (s.hub.dbAccepted.val vf 0 * 2 ^ 32 + s.hub.dbRes.val vf 0)
  if o + len ≤ 0x210 then some ((all.drop o).take len) else none

/-- A host read answers with a value or with Unsupported Request. -/
def State.hostAnswer (s : State) (function : Nat) (a : Option (List Byte)) : State :=
  match a with
  | some bs => s.updHub (fun h => { h with out := h.out ++ [.hostRead function (some (ofBytes bs))] })
  | none => s.unsupported function false

/-- The answer to a read of a window: the bytes of a poisoned sector have no value that the specification gives. -/
def State.windowAnswer (s : State) (vf off len : Nat) : State :=
  if vf = 0 then s.hostAnswer 0 (s.pf0Bytes off len)
  else if s.hub.resetting.has vf then s.unsupported vf false
  else if clientOff ≤ off then s.hostAnswer vf (s.clientBytes vf (off - clientOff) len)
  else
    let w := s.hwin vf
    if off + len ≤ w.2 then
      let (s, bs) := s.physRead (w.1 + off) len
      if s.anyPoison (w.1 + off) len then
        ({ s with fresh := s.fresh + len } : State).hostAnswer vf (some (bs.zipIdx.map (fun e =>
          if s.isPoisoned (w.1 + off + e.2) then BitVec.ofNat 8 (Config.freeWord (s.fresh + e.2)).toNat else e.1)))
      else s.hostAnswer vf (some bs)
    else s.unsupported vf false

/-- What the hub does of these at the end of a merge step. -/
def State.applyPost (s : State) (p : Post) : State :=
  match p with
  | .write vf pa bytes => if s.hub.resetting.has vf then s else s.physWrite pa bytes
  | .bell vf w p => s.doorbellServe vf w p
  | .read vf off len => s.windowAnswer vf off len

/-- All of them, oldest first. -/
def State.applyPosts (s : State) : State := s.posts.foldl State.applyPost { s with posts := [] }

/-- `DATA_WINDOW_WRITE`: while the function's reset runs, writes are dropped (R421). A write of bytes of PF0 BAR0 that are read
only is ignored (R7). -/
def State.windowWrite (s : State) (vf off : Nat) (bytes : List Byte) : State :=
  if s.hub.resetting.has vf then s
  else if vf = 0 then if (s.pf0Bytes off bytes.length).isSome then s else s.unsupported 0 true
  else if clientOff ≤ off then s.clientWrite vf (off - clientOff) bytes
  else
    let w := s.hwin vf
    if off + bytes.length ≤ w.2 then { s with posts := s.posts ++ [.write vf (w.1 + off) bytes] } else s.unsupported vf true

def execDataWindowWrite (vf off : Nat) (bytes : List Byte) (s : State) : Host.Outcome State Fault Refusal :=
  .next (s.windowWrite vf off bytes)

/-- `DATA_WINDOW_READ`: it follows the earlier writes of its function that have not reached memory. -/
def State.windowRead (s : State) (vf off len : Nat) : State :=
  if s.posts.any (fun p => decide (p.function = vf)) then { s with posts := s.posts ++ [.read vf off len] }
  else s.windowAnswer vf off len

def execDataWindowRead (vf off len : Nat) (s : State) : Host.Outcome State Fault Refusal := .next (s.windowRead vf off len)

/-! ## HOSTIRQ (R421) -/

/-- `HOSTIRQ_WRITE`. -/
def State.hostirq (s : State) (w : Word) : State :=
  if fld w 5 0 = 0 then s.hubErr else s.fireMsix (fld w 9 6) (fld w 5 0)

def execHostirqWrite (w : Word) (s : State) : Host.Outcome State Fault Refusal := .next (s.hostirq w)

/-! ## The slot command block (R423) -/

/-- A command completes with a RESULT. -/
def State.scDone (s : State) (r : Word) : State := s.updHub (fun h => { h with scRes := r, scBusy := false })

/-- All ones: a refused command, or one that would raise a fault. -/
def scRefused : Word := BitVec.allOnes 64

def execSccmdPark (gslot : Nat) (s : State) : Host.Outcome State Fault Refusal :=
  .next (match s.parkOp gslot s.hub.scAsked with
    | (t, some r) => (t.updHub (fun h => { h with scAsked := false })).scDone r
    | (t, none) => { t.updHub (fun h => { h with scAsked := true }) with later := t.later ++ [.sccmdPark gslot] })

def execSccmdRun (gslot : Nat) (s : State) : Host.Outcome State Fault Refusal :=
  let (t, r) := s.runOp gslot
  .next (t.scDone r)

/-- RUN.NEW: the PC passes the checks of R217, or the result is all ones. -/
def execSccmdRunNew (gslot : Nat) (arg0 arg1 : Word) (s : State) : Host.Outcome State Fault Refusal :=
  .next (
    if (s.slot gslot).startable then
      if arg0.toNat % 2 = 0 ∧ arg0.toNat < 2 ^ 47 then (s.newThread gslot arg0.toNat arg1).scDone 0
      else s.scDone scRefused
    else s.scDone 3)

/-- Whether a physical save area is named as R423 asks. -/
def State.physArea (s : State) (a : Word) : Bool := decide (a.toNat % 256 = 0 ∧ a.toNat + areaBytes ≤ s.dramEnd)

def execSccmdSave (gslot : Nat) (arg0 : Word) (s : State) : Host.Outcome State Fault Refusal :=
  .next (
    if !s.physArea arg0 then s.scDone scRefused
    else if (s.slot gslot).parked then (s.physWrite arg0.toNat (s.saveArea gslot)).scDone 0
    else s.scDone 1)

def execSccmdLoad (gslot : Nat) (arg0 : Word) (s : State) : Host.Outcome State Fault Refusal :=
  .next (
    if !s.physArea arg0 then s.scDone scRefused
    else if (s.slot gslot).parked then
      let (t, bs) := s.physRead arg0.toNat areaBytes
      if t.anyPoison arg0.toNat areaBytes then s.scDone scRefused
      else match t.loadArea gslot bs with
        | some u => u.scDone 0
        | none => t.scDone 2
    else s.scDone 1)

def execSccmdScrub (gslot : Nat) (s : State) : Host.Outcome State Fault Refusal :=
  let (t, r) := s.scrubOp gslot
  .next (t.scDone r)

/-- SETSTACK. -/
def execSetstack (gslot : Nat) (arg0 : Word) (s : State) : Host.Outcome State Fault Refusal :=
  let x := s.slot gslot
  let lo := fld arg0 18 0
  let hi := fld arg0 50 32
  .next (
    if !x.parked then s.scDone 1
    else if lo % 8 = 0 ∧ hi % 8 = 0 ∧ lo < hi then (s.setSlot gslot { x with sbase := ofN lo, slim := ofN hi }).scDone 0
    else s.scDone 2)

/-- A write of SCCMD: a GO starts one command at a time. -/
def State.sccmd (s : State) (w : Word) : State :=
  if !bitOf w 63 then s
  else if s.hub.scBusy then s.hubErr
  else
    let gs := fld w 11 0
    let a0 := s.reg (scBase + 8)
    let a1 := s.reg (scBase + 0x10)
    let go := fun (e : Event) =>
      ({ s.updHub (fun h => { h with scBusy := true }) with agenda := s.agenda ++ [e] } : State)
    match fld w 55 52 with
    | 0 => go (.sccmdPark gs)
    | 1 => go (.sccmdRun gs)
    | 2 => go (.sccmdRunNew gs a0 a1)
    | 3 => go (.sccmdSave gs a0)
    | 4 => go (.sccmdLoad gs a0)
    | 5 => go (.sccmdScrub gs)
    | 6 => go (.setstack gs a0)
    | _ => s.scDone scRefused

/-! ## Manifests (R415) -/

/-- A section's digest. -/
def section_ (bs : List Byte) : List Byte := bytesOf 32 (Config.sm3 bs).toNat

/-- A manifest from its sections' digests. -/
def State.manifest (s : State) (part : Nat) (sections : List (List Byte)) : List Byte :=
  layout 32 [(0, bytesOf 2 0x4D46 ++ bytesOf 1 1 ++ bytesOf 1 part ++ bytesOf 1 sections.length), (8, bytesOf 4 s.hub.scan)]
  ++ sections.flatten

/-- Section 1 of the device: the firmware digests. -/
def firmwareBytes : List Byte := [1, 2, 3].flatMap (fun i => bytesOf 32 (Config.firmwareDigest i).toNat)

/-- The device's manifest. -/
def State.deviceManifest (s : State) : List Byte :=
  let elements := (List.range 256).flatMap (fun n =>
    wordBytes (s.lectl n :: (List.range 64).map (fun k => s.stageWord n k)))
  let exits := (List.range 16).flatMap (fun i => wordBytes [s.lxcfg i, s.lxdst i])
  let streams := (List.range 256).flatMap (fun e => wordBytes [s.escfg e, s.eshdr e 0, s.eshdr e 1])
  s.manifest 0 [section_ firmwareBytes, section_ (wordBytes [s.reg scancfgReg]), section_ (elements ++ exits ++ streams)]

/-- The cores of a partition in the order of their ordinals. -/
def State.ordinals (s : State) (p : Nat) : List Core := (s.coresOf p).map s.core

/-- The manifest of a partition. -/
def State.partManifest (s : State) (p : Nat) : List Byte :=
  let w := s.part p
  let tables := (s.ordinals p).flatMap (fun k => ((List.range 4).filter (nbit w.tbanks)).flatMap (fun b =>
    let t := k.bank b
    bytesOf 1 t.tid ++ bytesOf 1 (b2n (decide (t.st = .sealed)))
      ++ (List.range 256).flatMap (fun c => bytesOf 4 (t.entry c).toNat)))
  let launch := (List.range 16).flatMap (fun i =>
    let l := s.launch (p * 16 + i)
    bytesOf 1 (b2n l.isOpen) ++ layout 128 [(0, l.header)])
  let route := (s.ordinals p).flatMap (fun k => (List.range 5).flatMap (fun t =>
    ((List.range 64).filter (fun c => bitOf w.w3 c)).flatMap (fun c =>
      bytesOf 8 (match (k.routeSettle s.now).route.seek (t * 64 + c) with
        | some e => e.val.toNat
        | none => 0))))
  let trees := (s.ordinals p).flatMap (fun k => ((List.range 8).filter (nbit (fld w.w0 7 0))).flatMap (fun t =>
    bytesOf 8 (k.tree t).entry.toNat))
  let words := (List.range 15).flatMap (fun i => (List.range 256).flatMap (fun j =>
    match s.partWord p i j with
    | some v => bytesOf 8 v.toNat
    | none => []))
  s.manifest p (([tables, launch, route, trees, words]).map section_)

/-! ## DOE (R416, R418, R429) -/

/-- An answer of a function's mailbox. -/
def State.doeAnswer (s : State) (function : Nat) (a : DoeAnswer) : State :=
  s.updHub (fun h => { h with out := h.out ++ [.doe function a] })

/-- Whether the life-cycle state has an identity key. -/
def LifeCycle.hasKey : LifeCycle → Bool
  | .provisioned | .deployed => true
  | .manufacture | .return_ => false

/-- A signature with the identity key; none without a key. -/
def State.sign (s : State) (bs : List Byte) : List Byte := if s.hub.life.hasKey then Config.sm2Sign bs else []

/-- Discovery lists DOE discovery and SPDM. -/
def execDoeDiscovery (function index : Nat) (s : State) : Host.Outcome State Fault Refusal :=
  .next (s.doeAnswer function (.discovery (if index < 2 then some index else none) (if index = 0 then 1 else 0)))

def execSpdmGetVersion (function : Nat) (_request : List Byte) (s : State) : Host.Outcome State Fault Refusal :=
  .next (s.doeAnswer function .version)
def execSpdmGetCapabilities (function : Nat) (_request : List Byte) (s : State) : Host.Outcome State Fault Refusal :=
  .next (s.doeAnswer function .capabilities)
def execSpdmNegotiateAlgorithms (function : Nat) (_request : List Byte) (s : State) : Host.Outcome State Fault Refusal :=
  .next (s.doeAnswer function .algorithms)
def execSpdmGetDigests (function : Nat) (_request : List Byte) (s : State) : Host.Outcome State Fault Refusal :=
  .next (s.doeAnswer function .digests)
def execSpdmGetCertificate (function : Nat) (_request : List Byte) (s : State) : Host.Outcome State Fault Refusal :=
  .next (s.doeAnswer function .certificate)

/-- `CHALLENGE`: the answer is signed. -/
def execSpdmChallenge (function : Nat) (request : List Byte) (s : State) : Host.Outcome State Fault Refusal :=
  .next (s.doeAnswer function (.challenge (s.sign request)))

/-- The measurement block of an index as a function sees it. -/
def State.measurement (s : State) (function index : Nat) : Option (List Byte) :=
  if 1 ≤ index ∧ index ≤ 3 then some (bytesOf 32 (Config.firmwareDigest index).toNat)
  else if s.hub.safe.isSome then none
  else if index = 0x10 then some s.deviceManifest
  else if 0x10 < index ∧ index < 0x20 ∧ (function = 0 ∨ function = index - 0x10) then some (s.partManifest (index - 0x10))
  else none

/-- `GET_MEASUREMENTS`: the block, signed; an index that may not be seen is absent. -/
def execSpdmGetMeasurements (function index : Nat) (request : List Byte) (s : State) : Host.Outcome State Fault Refusal :=
  let block := s.measurement function index
  .next (s.doeAnswer function (.measurements index block (s.sign (request ++ block.getD []))))

def execSpdmUnsupportedRequest (function : Nat) (_request : List Byte) (s : State) : Host.Outcome State Fault Refusal :=
  .next (s.doeAnswer function .unsupportedRequest)

end Sys2Proof.Machine
end

