-- ==== Sys2Proof/Machine/Registers.lean ====
section
/-! DEFINITION. Writes of the hub window: which unit takes a 64-bit store to each address (R7, R58 to R62, R376, R381, R388,
R393, R404, R408, R419 to R431). -/

namespace Sys2Proof.Machine

/-- A store to sensor port `p`'s block (R60). SPSTRM.8 to 15 share offsets 0x80 to 0xBF with the read-only counters: a store there
writes the entry, and a read gives the counters, a DESIGN CHOICE (assumption 107). -/
def State.portStore (s : State) (p o : Nat) (w : Word) : State :=
  if o = 0 then s.spcfgWrite p w
  else if o = 8 then s.setReg (spBase p + 8) (ofN (fld w 15 0))
  else if 0x40 ≤ o ∧ o < 0xC0 then s.setReg (spBase p + o) (setFld w 62 16 0)
  else if o = 0x10 ∨ (0xC0 ≤ o ∧ o < 0xD4) then s
  else s.hubErr

/-- A store to the hub register block (R59). -/
def State.blockStore (s : State) (o : Nat) (w : Word) : State :=
  if o = 0 then s.pisplitWrite w
  else if o = 8 then s
  else if 0x100 ≤ o ∧ o < 0x900 then s.portStore ((o - 0x100) / 0x100) (o % 0x100) w
  else if 0x1000 ≤ o ∧ o < 0x3000 then
    if o % 16 = 0 then s.pibindWrite ((o - 0x1000) / 16) w else s
  else if 0x3000 ≤ o ∧ o < 0x3100 then
    let i := (o - 0x3000) / 16
    if o % 16 = 0 then s.lxcfgWrite i w else s.lxdstWrite i w
  else if 0x4000 ≤ o ∧ o < 0x6000 then
    let e := (o - 0x4000) / 32
    match o % 32 / 8 with
    | 0 => s.escfgWrite e w
    | 1 => s.eshdrWrite e 0 w
    | 2 => s.eshdrWrite e 1 w
    | _ => s
  else if o = 0xE000 then s.scancfgWrite w
  else if o = 0xE008 then s.scannumWrite w
  else if o = 0xE010 then s.scanstWrite w
  else s.hubErr

/-- A store to the reliability block (R404, R407, R408). -/
def State.relStore (s : State) (o : Nat) (w : Word) : State :=
  if o < 0x4000 then if o % 64 = 8 then s.lmfenceWrite (o / 64) w else s
  else if o = 0x4000 then s.replayCtl w
  else if (0x8000 ≤ o ∧ o < 0x9000) ∨ (0x10000 ≤ o ∧ o < 0x90000) then s
  else s.hubErr

/-- A store to the pair, host, life-cycle and slot command registers. -/
def State.hostStore (s : State) (pa : Nat) (w : Word) : State :=
  if pa = pairBase then s.pairWrite w
  else if pa = pairBase + 8 then s.pairStWrite w
  else if pa = mirrorReg then s.mirrorWrite w
  else if pa = mirlenReg then s.setReg pa (ofN (fld w 15 0))
  else if pa = pairBase + 0x20 then s
  else if hostBase + 8 ≤ pa ∧ pa < hostBase + 128 then s.hwinWrite ((pa - hostBase) / 8) w
  else if pa = hostBase + 0x80 then s.updHub (fun h => { h with svirq := clearBits h.svirq ((List.range 5).filter (bitOf w)) })
  else if pa = hostBase + 0x88 then s.hostirq w
  else if hostBase + 0x90 ≤ pa ∧ pa < hostBase + 0xB0 then s.svirqenWrite pa w
  else if pa = lifeBase then s.lcreq w
  else if lifeBase + 8 ≤ pa ∧ pa < lifeBase + 0x30 then s
  else if pa = lifeBase + 0x30 then s.updHub (fun h => { h with overpwr := h.overpwr && !bitOf w 12 })
  else if pa = scBase then s.sccmd w
  else if pa = scBase + 8 ∨ pa = scBase + 0x10 then s.setReg pa w
  else if pa = scBase + 0x18 then s
  else s.hubErr

/-- A store of a whole word at a hub address. Stores to the views that are read only, to the partition table's image and to
the payload rings are dropped and counted, as are stores where nothing stands. -/
def State.hubWrite (s : State) (pa : Nat) (w : Word) : State :=
  if regBase ≤ pa ∧ pa < lectlBase then s.blockStore (pa - regBase) w
  else if lectlBase ≤ pa ∧ pa < lectlBase + 2048 then s.lectlWrite ((pa - lectlBase) / 8) w
  else if stageBase ≤ pa ∧ pa < stageBase + 0x20000 then s.stageWrite ((pa - stageBase) / 512) (pa % 512 / 8) w
  else if gateBase ≤ pa ∧ pa < gateBase + 0x20000 then s.gateStore ((pa - gateBase) / 128) (pa % 128 / 8) w
  else if fqBase ≤ pa ∧ pa < fqBase + 256 then
    if pa % 16 = 8 then s.fqheadWrite ((pa - fqBase) / 16) w else s
  else if pa = remapReg then s.remapWrite w
  else if relBase ≤ pa ∧ pa < tsnBase then s.relStore (pa - relBase) w
  else if tsnBase ≤ pa ∧ pa < tsnBase + 0x100000 then s.tsnWrite (pa - tsnBase) w
  else if tsnBase + 0x100000 ≤ pa then s.hostStore pa w
  else s.hubErr

def execRegisterWrite (pa : Nat) (w : Word) (s : State) : Host.Outcome State Fault Refusal := .next (s.hubWrite pa w)

end Sys2Proof.Machine
end

