-- ==== Sys2Proof/Machine/Turns.lean ====
section
/-! DEFINITION. The issue turns of the barrel: who owns one, and to whom it passes (R116, R356). -/

namespace Sys2Proof.Machine

/-! ## Issue turns (R356) -/

/-- Whether a slot waits. -/
def Slot.waits (x : Slot) : Bool :=
  match x.run with
  | .waiting _ => true
  | _ => false

/-- Whether a slot issues when a turn comes to it: it is ready, or it waits and issues again. A counter wait is woken by
its slice or polls (R250), a `WAIT` by its conditions (R248), and a slot whose record waits at a full queue waits with it
(R393); one that has been asked to stop issues nothing more (R396) but the AMO whose window is open (R98). -/
def State.live (s : State) (gs : Nat) : Bool :=
  let x := s.slot gs
  let due := decide (x.startAt ≤ s.now) && !s.recordWaits gs && (x.stop.isNone || s.amoOpen gs)
  match x.run with
  | .ready => due
  | .waiting (.event ..) | .waiting (.conds ..) => false
  | .waiting _ => due
  | .parked _ => false

/-- The partition that a slot's turn belongs to. -/
def State.turnPart (s : State) (gs : Nat) : Option Nat :=
  if (s.slot gs).holds then some (s.slot gs).part else s.slotOwner (gs / 16) (gs % 16)

/-- The slot that position `k` of a core's turn offers: its owner at 0, then the slots to which the turn passes. -/
def State.turnSlot (s : State) (c k : Nat) : Nat := c * 16 + (s.now + k) % 16

/-- Whether a slot is that of a lane of an open figure-mode or tracing-mode launch (R350, R351) of a partition that is not
switched out (R356). -/
def State.isLane (s : State) (gs : Nat) : Bool :=
  s.launches.any (fun e =>
    let l := e.2
    let p := e.1 / 16
    l.isOpen && !decide (l.mode = 0) && !s.away p
    && (List.range (2 ^ l.ncb)).any (fun i => decide (s.clist p i = gs / 16))
    && (List.range (2 ^ l.nsb)).any (fun j => decide ((s.part p).slotList.getD j 0 = gs % 16)))

/-- Whether a slot's turns stay empty when it does not issue: it runs a figure-mode or tracing-mode task, its last task was
one and it is not bound again (R223), or it is the slot of a lane that is not bound (R351). -/
def State.keepsTurn (s : State) (gs : Nat) : Bool :=
  !decide ((s.slot gs).mode = 0) || (!(s.slot gs).holds && s.isLane gs)

/-- Whether a turn of core `c` may go to its position `k`: to the owner at position 0, or, when the owner's turns do not stay
empty, to a slot of the same partition that runs a free-mode task. -/
def State.mayTake (s : State) (c k : Nat) : Bool :=
  decide (k = 0) ||
    (let x := s.slot (s.turnSlot c k)
     let o := s.turnSlot c 0
     !s.keepsTurn o && x.holds && decide (x.mode = 0)
     && decide (s.turnPart o = some x.part))

/-- Whether position `k` of the turn of core `c` issues. -/
def State.offers (s : State) (c k : Nat) : Bool := s.live (s.turnSlot c k) && s.mayTake c k

/-- The next position, from the place that the cycle has reached, that issues: core × 16 + k. -/
def State.nextIssue (s : State) : Option Nat :=
  ((s.cores.map (·.1)).flatMap (fun c => (List.range 16).map (fun k => c * 16 + k))).find?
    (fun p => decide (s.turn ≤ p) && s.offers (p / 16) (p % 16))

/-- The place that the cycle reaches after an issue at `p`: the next core, or, when the slot waited and still waits, the
next position of the same core. -/
def State.afterIssue (s : State) (p : Nat) (waited : Bool) : State :=
  { s with turn := if waited && s.me.waits then p + 1 else (p / 16 + 1) * 16 }

end Sys2Proof.Machine
end

