-- ==== Sys2Proof/Machine/Due.lean ====
section
/-! DEFINITION. What is due in each ACLK cycle: the turns of the engines and Carters, arrivals, time-outs, the dispatchers,
the clocks and lists of the hub. A step that is due tests its own condition again when it comes. -/

namespace Sys2Proof.Machine

/-! ## Turns (R263, R356) -/

/-- Whether the walk that the engine stream of a slot waits for has been asked for (R78). -/
def State.engineAsked (s : State) (gs : Nat) : Bool :=
  (s.walks.val (clusterOf (gs / 16)) []).any (fun r => r.askers.any (fun a => decide (a = { slot := gs, kind := .engine })))

/-- Whether the engine stream of a slot can use an engine turn: to start, to fault, to ask for a walk, or to
store bytes of words that are free now (R98). -/
def State.engineUses (s : State) (gs : Nat) (m : M Unit) (t : State) : Bool :=
  match m t with
  | .error (.wait .walk _) => !s.engineAsked gs
  | .error (.wait (.stores ws) _) => !decide ((s.slot gs).late = some ws)
  | .error (.wait ..) => false
  | _ => true

/-- Whether the engine side of a slot has something to start on an engine turn (R263): the head of its queue, issued in an
earlier cycle (assumption 85), or its replay. A slot asked to stop starts nothing more (R396), and one whose record waits at
a full queue waits with it (R393). -/
def State.engineReady (s : State) (gs : Nat) : Bool :=
  let x := s.slot gs
  if x.stop.isSome || s.recordWaits gs then false else
  match x.run, x.engq with
  | .parked _, _ => false
  | _, [] => x.tr.active && s.engineUses gs replayOp (s.engineOf gs true)
  | _, e :: _ =>
    match startOf e.instr with
    | none => false
    | some start => decide (e.since < s.now) && s.engineUses gs (start e.srcs) ((s.engineOf gs false).withBanks (gs / 16) e.banks)

/-- The engine turn of a core in the running cycle: its owner's, or one that passes to a slot of the same partition. -/
def State.engineDue (s : State) (c : Nat) : List Event :=
  match (List.range 16).find? (fun k => s.engineReady (s.turnSlot c k) && s.mayTake c k) with
  | none => []
  | some k =>
    let gs := s.turnSlot c k
    [if (s.slot gs).engq.isEmpty then .treadleReplayIssue gs else .engineTurn gs]

/-- The Carter of a core serves its slots round-robin, one chunk per turn (R123); a slot whose record waits at a full queue
waits with it (R393). -/
def State.carterDue (s : State) (c : Nat) : List Event :=
  let k := s.core c
  match (List.range 16).find? (fun i => (k.slot ((k.cpLast + 1 + i) % 16)).carterRuns c
    && !s.recordWaits (c * 16 + (k.cpLast + 1 + i) % 16)) with
  | some i => [.carterChunk (c * 16 + (k.cpLast + 1 + i) % 16)]
  | none => []

/-! ## Cores -/

/-- Words of the route plan that have arrived on links (R137). Two that arrive in one cycle on different links are taken in the
order in which they were put on their links, by ascending core where that was one cycle: the specification gives no order, a
DESIGN CHOICE (assumption 105). -/
def State.pisteDue (s : State) (c : Nat) : List Event :=
  ((s.core c).piste.filter (fun w => decide (w.cycle ≤ s.now))).map (fun w => .pisteArrival c w.link)

/-- The injection of the frame cycle (R136). -/
def State.injectDue (s : State) (c : Nat) : List Event :=
  let e := ((s.core c).routeSettle s.now).route.val (s.now % 64) RteEntry.reset
  if bitOf e.val 63 && !decide (rteFwd e.val = 0) then [.pisteInject c] else []

/-- The messages of a slot (R143, R144). -/
def State.messagesDue (s : State) (gs : Nat) : List Event :=
  if (s.slot gs).flights.isEmpty then []
  else (if (s.timedOut gs).isSome then [.messageTimeout gs] else [])
    ++ (if (s.nextMessage gs).isSome then [.messageArrival gs] else [])
    ++ (if (s.nextBounce gs).isSome then [.bounceArrival gs] else [])

/-- Counter waits that poll (R250), and the poll's period in cycles. -/
def pollCycles : Nat := 1024
def State.pollDue (s : State) (gs : Nat) : List Event :=
  match (s.slot gs).run with
  | .waiting (.event _ _ false _) => if s.now % pollCycles = 0 then [.evtWaitPoll gs] else []
  | _ => []

/-- A core's heartbeat period (R409). -/
def heartCycles : Nat := 65536
def State.heartDue (s : State) (c : Nat) : List Event :=
  let h := (s.core c).health
  if h.en ∧ h.enSince < s.now ∧ (s.now - h.enSince) % heartCycles = 0 then [.heartbeatPost c, .heartbeatPeriodClose c] else []

/-- A ring tile that has reached its destination (R151). -/
def Core.tileDue (k : Core) (c : Nat) : List Event :=
  match k.latch.sending with
  | some x => if x.there then [.ringTileArrival x.dest c] else []
  | none => []

/-- A `WAIT` whose conditions are sampled in every cycle (R248). -/
def State.waitDue (s : State) (gs : Nat) : List Event :=
  match (s.slot gs).run with
  | .waiting (.conds ..) => [.waitWake gs]
  | _ => []

/-- What is due at a core at the start of a cycle: matrix results, ring tiles, injections, heartbeats. -/
def State.coreDue (s : State) (c : Nat) : List Event :=
  let k := s.core c
  (match k.matrix with
   | w :: _ => if w.done ≤ s.now then [.matrixStepComplete c] else []
   | [] => [])
  ++ k.tileDue c
  ++ s.injectDue c ++ s.heartDue c

/-- The arrivals of a core's slots (R145): messages in ascending order of the sender, then counter polls; and the timers of its
tree nodes, which are tested when the packets of the cycle have arrived (R445). -/
def State.arriveDue (s : State) (c : Nat) : List Event :=
  let k := s.core c
  let slots := k.slots.map (fun e => c * 16 + e.1)
  slots.flatMap s.messagesDue ++ slots.flatMap s.pollDue
    ++ (k.trees.filter (fun e => e.2.expired s.now)).map (fun e => .treeTimeout c e.1)

/-- The requests that the eight walkers of a cluster take in a cycle (R78, assumption 73). -/
def State.walkDue (s : State) (cl : Nat) : List Event :=
  ((s.walks.val cl []).take 8).map (fun r => .pageWalk cl r.part r.asn r.root (r.page * 16384))

/-- Shoot-downs that have not been debited (R84). -/
def State.shootDue (s : State) : List Event := (s.shoot.map (·.cluster)).eraseDups.map .shootdownDebit

/-- What is due at a home slice: grants, watched counters, and lines of pages that leave (R98, R106, R107, R250). -/
def State.sliceDue (s : State) (n : Nat) : List Event :=
  let x := s.slice n
  (if (grantable [] (inQueue 64 x.amo)).isSome then [.amoGrant n] else [])
  ++ (if x.watch.any (fun w => s.counterMet w.1 w.2.1) then [.evtWatchWake n] else [])
  ++ (if x.holding.any (fun h => !decide (h.waiting = 0)) && decide (x.heldLines < 64) then [.holdingBufferEntry n] else [])
  ++ (if x.holding.any (fun h => !decide (h.held = 0) && !h.posted) then [.unbackedEvict n] else [])

/-! ## The dispatchers (chapter 14) -/

/-- The act due at the head of a resident queue. -/
def State.headDue (s : State) (r : Resident) : List Event :=
  match s.pendingOn r.die r.part r.asn r.handle with
  | none => []
  | some _ =>
    let p := s.headPacket r
    match s.markOf r.part r.asn r.handle r.dhead with
    | none => [if pkStart p then .launchOpen r.die r.part r.asn r.handle else .packetTake r.die r.part r.asn r.handle]
    | some m => [if m.eligible then .packetTake r.die r.part r.asn r.handle else .packetEligible r.die r.part r.asn r.handle]

/-- The act due at the next packet of a queue on a die where it is not resident (R353): a miss, where a place is free for it, or
its passing. -/
def State.unreadDue (s : State) (die part asn h : Nat) : Option Event :=
  match s.unreadOn die part asn h with
  | none => none
  | some (num, p) =>
    if s.passesBy die part asn h num p then some (.packetTake die part asn h)
    else if s.missesOn die part asn h num p && (s.placeFor die part).isSome then some (.queueMiss die part asn h)
    else none

/-- The first such act, over the queues that have been pushed to and the dies of their partitions. -/
def State.missDue (s : State) : List Event :=
  ((s.pushed.flatMap (fun q => (s.diesOf q.1).map (fun d => (d, q)))).findSome? (fun e =>
    s.unreadDue e.1 e.2.1 e.2.2.1 e.2.2.2)).toList

/-- The lane heads of a partition that bind on a die (R355). -/
def State.laneBinds (s : State) (die p : Nat) : List Event := (s.lanesReady die p).map (fun _ => .taskBind die p)

/-- Bindings of lane heads on a die, decided in the cycle in which their slots are free (R355, R361). -/
def State.laneDue (s : State) (die : Nat) : List Event :=
  if s.lanes.isEmpty then [] else (List.range 16).flatMap (s.laneBinds die)

/-- The turn of a die's dispatcher: the next partition that can take a WID (R354, R355). -/
def State.bindDue (s : State) (die : Nat) : List Event :=
  if s.takings.isEmpty ∨ s.now < s.dieTurn.val die 0 then []
  else
    let from_ := s.lastPart.val die 0
    match ((List.range 16).map (fun i => (from_ + i) % 16)).find? (fun p => (s.chooseTaking die p).isSome) with
    | some p => s.laneBinds die p ++ [.taskBind die p]
    | none => []

/-- The sweep's period in cycles (R358). -/
def sweepCycles : Nat := 4096

/-- What is due at the dispatchers. -/
def State.dispatchDue (s : State) : List Event :=
  (List.range 4).flatMap s.bindDue ++ s.residents.flatMap s.headDue ++ s.missDue
  ++ (if s.now % sweepCycles = 0 && s.launches.any (fun e => e.2.isOpen) then [.launchSweep] else [])
  ++ (s.launches.filter (fun e => s.deferredDone e.1)).map (fun e => .deferredLaunchEnd (e.1 / 16) (e.1 % 16))

/-! ## The hub -/

/-- Ticks and beats (R362 to R366). -/
def State.clockDue (s : State) : List Event :=
  (match s.hub.nextTick with
   | some t => if t ≤ s.gptp 0 then [.scanTick] else []
   | none => [])
  ++ (match s.hub.coreTick with
      | some c => if c ≤ s.now then [.coreTick] else []
      | none => [])
  ++ (match s.beatCycle with
      | some c => if c ≤ s.now then [.beat] else []
      | none => [])

/-- Gate control lists, since the time `from_` (R62). -/
def State.listsDue (s : State) (from_ : Nat) : List Event :=
  let t1 := s.gptp 0
  let ends := fun (m : SMap ListPos) => (m.filter (fun e => e.2.running && decide (e.2.until_ ≤ t1))).map (·.1)
  ((s.hub.qbvPending.filter (fun e => e.2 && s.listDue (qbvOf e.1) from_ t1)).map (fun e => .qbvListActivate e.1))
  ++ ((s.hub.sgPending.filter (fun e => e.2 && s.listDue (sgOf e.1) from_ t1)).map (fun e => .streamGateListActivate e.1))
  ++ (ends s.hub.qbvPos).map .qbvGateIntervalEnd ++ (ends s.hub.sgPos).map .streamGateIntervalEnd

/-- Recovery time-outs, Sync frames and frames that can leave (R22, R57, R62). -/
def State.tsnDue (s : State) (from_ : Nat) : List Event :=
  let t1 := s.gptp 0
  let sync := fun (d : Nat) =>
    let log := sext 8 (fld (s.reg (domainReg d + 8)) 7 0)
    let edge := fun (t : Nat) => if 0 ≤ log then t / (1000000000 * 2 ^ log.toNat) else t * 2 ^ (-log).toNat / 1000000000
    s.isGm d && !decide (edge (s.gptp d) = edge (s.gptp d - (t1 - from_)))
  (s.hub.recov.filter (fun e =>
    let ms := fld (s.reg (recovReg e.1)) 15 0
    !decide (ms = 0) && decide (e.2.2.2 + ms * 1000000 ≤ s.localNs))).map (fun e => .recoveryResetTimeout e.1)
  ++ ((List.range 2).filter sync).map .gptpSyncTransmit
  ++ (List.range 4).flatMap (fun t => match s.nextFrame t with
      | some f => [.egressFrameSend f.stream]
      | none => [])

/-- What is due at a sensor port (R32 to R36): four fast lanes, one slow lane. A decode that ends in the cycle in which it
reaches SLOWMULT × mean ends in its fast lane (assumption 95). -/
def State.sensorDue (s : State) (p : Nat) : List Event :=
  let x := s.sensor p
  let lanes := (x.records.filter (·.inLane)).length
  (if x.fifo.isEmpty then [] else [.skeinRecordCheck p])
  ++ (if lanes < 4 ∧ x.records.any (fun r => r.started.isNone) then [.stagingAllocate p] else [])
  ++ x.records.flatMap (fun r =>
      if r.inLane ∧ r.cycles ≤ s.decodeTime r ∧ r.cycles ≤ r.slowMult * x.mean then [.decodeComplete p r.cycles]
      else if s.overdue p r then [.slowLaneMove p] else [])
  ++ (match x.slowq with
      | r :: _ => if r.cycles ≤ s.decodeTime r then [.slowDecodeEnd p] else []
      | [] => [])

/-- What is due at an exit: batches that wait to land, batches that have waited, rows whose metadata has come, and metadata
whose row has not come for 1 ms (R47, R48). -/
def State.exitDue (s : State) (i : Nat) : List Event :=
  let cfg := s.lxcfg i
  let x := s.exit i
  (if x.closed.isEmpty then [] else [.batchDeliver i])
  ++ if !lxEn cfg then []
  else
    (if !x.batch.isEmpty && decide (x.wait ≠ 0 ∧ x.batchSince + x.wait * 1000 ≤ s.localNs) then [.batchwaitExpiry i] else [])
    ++ (match s.hub.rowMeta.val (lxEntry cfg) [] with
        | m :: _ =>
          if x.whole then [.exitRowComplete i]
          else if m.since + 1000000 ≤ s.localNs then [.metadataTimeout i] else []
        | [] => [])

/-- One HCLK edge of the running elements (R39). -/
def State.loomDue (s : State) : List Event :=
  ((s.hub.regs.filter (fun e => decide (lectlBase ≤ e.1 ∧ e.1 < lectlBase + 2048) && bitOf e.2 63)).map (fun e =>
    .loomStage ((e.1 - lectlBase) / 8 / 16) ((e.1 - lectlBase) / 8 % 16)))

/-- Tokens that come due with one more cycle, and the buckets' clocks (R383, R461). -/
def State.ageGates (s : State) : State × List Event :=
  s.gates.foldl (fun (acc : State × List Event) e =>
    let g := e.2
    if !g.valid || decide (g.state = gsHeld) then acc
    else
      let full := fun (p : Nat) => bkPeriod (g.bucket p) * cyclesPerUs
      let due := (List.range 16).filter (fun p => !decide (full p = 0) && decide (full p ≤ g.elapsed.val p 0 + 1))
      let el := (List.range 16).foldl (fun (m : SMap Nat) p =>
        if full p = 0 then m.del p else m.put p (if full p ≤ m.val p 0 + 1 then 0 else m.val p 0 + 1)) g.elapsed
      (acc.1.setGate e.1 { g with elapsed := el }, acc.2 ++ due.map (fun p => .gateTokenRefill e.1 p))) (s, [])

/-- What is due at the hub, since the local time `from_` and the gPTP time `gfrom`. -/
def State.hubDue (s : State) (gfrom : Nat) : List Event :=
  s.clockDue ++ s.listsDue gfrom ++ s.tsnDue gfrom ++ (s.hub.sensors.map (·.1)).flatMap s.sensorDue

/-! ## The course of a cycle (R116, R120, R145) -/

/-- The rows on their way into the array at an HCLK edge, and the mirror copy, whose line takes 13 cycles of the link
(R424). -/
def State.streamOn (s : State) (edge : Bool) : State :=
  let s := if edge then (s.hub.feed.map (·.1)).foldl (fun s a => s.feedRow a) s else s
  if s.now % 13 = 0 then s.mirrorSend else s

/-- The LM bytes that an injection of the cycle after the next takes, as they stand after all accesses of this cycle
(R136). -/
def State.readAhead (s : State) : State :=
  let t := s.now + 2
  { s with cores := s.cores.map (fun c =>
      let k := c.2
      let e := (k.routeSettle t).route.val (t % 64) RteEntry.reset
      let old := k.ahead.filter (fun r => decide (s.now < r.1))
      let new := if bitOf e.val 63 && !decide (rteFwd e.val = 0) && decide (rteSkind e.val = 1) then
          [(t, k.lmBytes e.ptr 32, k.lmError e.ptr 32)]
        else []
      (c.1, { k with ahead := old ++ new })) }

/-- The next ACLK cycle, with what is due before its first issue: the hub, gates and schedule at each µs, slices, walkers and
cores in ascending number (R116), then the arrivals of the cycle (R145), the dispatchers, and the conditions of `WAIT`. -/
def State.nextCycle (s : State) : State :=
  let s := s.testBars.foldDue.readAhead
  let t0 := s.localNs
  let g0 := s.gptp 0
  let s := { s with now := s.now + 1, turn := 0, phase := .issue }
  let s := (s.pairEnd.applyPosts.streamOn (decide (t0 < s.localNs))).remoteSample
  let (s, tokens) := s.ageGates
  let credit := if s.now % cyclesPerUs = 0 ∧ s.members ≠ [] then [Event.tsCreditAccrue] else []
  let cores := s.cores.map (·.1)
  let slots := cores.flatMap (fun c => (s.core c).slots.map (fun e => c * 16 + e.1))
  { s with
    later := []
    agenda := s.hubDue g0 ++ tokens ++ credit ++ (s.slices.map (·.1)).flatMap s.sliceDue
      ++ (s.walks.map (·.1)).flatMap s.walkDue ++ s.shootDue ++ cores.flatMap s.coreDue ++ s.later
      ++ cores.flatMap s.arriveDue ++ s.dispatchDue ++ slots.flatMap s.waitDue }

/-- The engine turns of the cycle (R120, R263). -/
def State.enginePhase (s : State) : State :=
  { s with phase := .engine, agenda := (s.cores.map (·.1)).flatMap s.engineDue }

/-- The shared ports of the cycle (R120): Piste deposits first, then the Carters and the Loom; then the words that have
arrived on the Piste, whose queue deposits are read from the next cycle on (R131), and the lane heads whose slots are free (R355). The Loom and its exits move once an HCLK
cycle, of which six pass in five ACLK cycles. -/
def State.sharedPhase (s : State) : State :=
  let cores := s.cores.map (·.1)
  let s := cores.foldl State.landAll { s with phase := .shared }
  let edge := decide ((s.now - 1) * 5 / 6 < s.localNs)
  { s with agenda := cores.flatMap s.carterDue ++ (List.range 16).flatMap s.exitDue ++ (if edge then s.loomDue else [])
                       ++ cores.flatMap s.pisteDue ++ (List.range 4).flatMap s.laneDue }

/-- What follows when nothing is due: the engine turns, the shared ports, and the next cycle. -/
def State.nextPhase (s : State) : State :=
  match s.phase with
  | .issue => s.enginePhase
  | .engine => s.sharedPhase
  | .shared => s.nextCycle

end Sys2Proof.Machine
end

