-- ==== Sys2Proof/Machine/Schedule.lean ====
section
/-! DEFINITION. The steps of the agents other than the slots. -/

namespace Sys2Proof.Machine

/-- The step of another agent. -/
def runEvent (e : Event) (s : State) : Host.Outcome State Fault Refusal :=
  match e with
  | .powerOnSelfTest failStep detail => execPowerOnSelfTest failStep detail s
  | .lcreqWrite w => execLcreqWrite w s
  | .thermalWarn die temp => execThermalWarn die temp s
  | .thermalTrip die temp => execThermalTrip die temp s
  | .overpwr pwr => execOverpwr pwr s
  | .registerWrite pa w => execRegisterWrite pa w s
  | .scanTick => execScanTick s
  | .coreTick => execCoreTick s
  | .beat => execBeat s
  | .scancfgWrite w => execScancfgWrite w s
  | .scannumWrite w => execScannumWrite w s
  | .holdover => execHoldover s
  | .slew err => execSlew err s
  | .tsnFrameReceive port frame fcsOk => execTsnFrameReceive port frame fcsOk s
  | .qbvChange port w => execQbvChange port w s
  | .qbvListActivate port => execQbvListActivate port s
  | .qbvGateIntervalEnd port => execQbvGateIntervalEnd port s
  | .streamGateChange gate w => execStreamGateChange gate w s
  | .streamGateListActivate gate => execStreamGateListActivate gate s
  | .gptpTimeLatch domain => execGptpTimeLatch domain s
  | .egressFrameSend stream => execEgressFrameSend stream s
  | .pisplitWrite w => execPisplitWrite w s
  | .pibindWrite filter w => execPibindWrite filter w s
  | .escfgWrite stream w => execEscfgWrite stream w s
  | .eshdrWrite stream word w => execEshdrWrite stream word w s
  | .resultViewWrite off bytes => execResultViewWrite off bytes s
  | .sensorFrameReceive port frame fcsOk => execSensorFrameReceive port frame fcsOk s
  | .spcfgWrite port w => execSpcfgWrite port w s
  | .spcfgClr port => execSpcfgClr port s
  | .skeinRecordCheck port => execSkeinRecordCheck port s
  | .stagingAllocate port => execStagingAllocate port s
  | .decodeComplete port elapsed => execDecodeComplete port elapsed s
  | .slowLaneMove port => execSlowLaneMove port s
  | .slowDecodeEnd port => execSlowDecodeEnd port s
  | .loomStage row col => execLoomStage row col s
  | .lectlWrite row col w => execLectlWrite row col w s
  | .stageWordWrite row col k w => execStageWordWrite row col k w s
  | .lxcfgWrite exit w => execLxcfgWrite exit w s
  | .lxdstWrite exit w => execLxdstWrite exit w s
  | .exitRowComplete exit => execExitRowComplete exit s
  | .batchwaitExpiry exit => execBatchwaitExpiry exit s
  | .metadataTimeout exit => execMetadataTimeout exit s
  | .batchDeliver exit => execBatchDeliver exit s
  | .swcfgWrite core win w => execSwcfgWrite core win w s
  | .swrelWrite core slot win w => execSwrelWrite core slot win w s
  | .freeCountUpdate exit => execFreeCountUpdate exit s
  | .dramReadReturn channel addr outcome => execDramReadReturn channel addr outcome s
  | .dramWrite channel addr sectors poison other => execDramWrite channel addr sectors poison other s
  | .dramPatrol channel addr outcome => execDramPatrol channel addr outcome s
  | .sramPatrol unit index struct place outcome => execSramPatrol unit index struct place outcome s
  | .pageWalk cluster part asn root va => execPageWalk cluster part asn root va s
  | .shootdownDebit cluster => execShootdownDebit cluster s
  | .sliceRead core key => execSliceRead core key s
  | .sliceStoreRequest core key => execSliceStoreRequest core key s
  | .sliceWriteBack core key => execSliceWriteBack core key s
  | .crossDieRead core key => execCrossDieRead core key s
  | .crossDieWrite core key bytes => execCrossDieWrite core key bytes s
  | .attr1Access core key width write => execAttr1Access core key width write s
  | .recallResponse core key => execRecallResponse core key s
  | .sectorFill core key => execSectorFill core key s
  | .redApply gslot op w32 etol key v => execRedApply gslot op w32 etol key v s
  | .hgathServe gslot v key sel etol => execHgathServe gslot v key sel etol s
  | .amoReserve gslot key => execAmoReserve gslot key s
  | .amoGrant slice => execAmoGrant slice s
  | .amoRelease gslot key width v => execAmoRelease gslot key width v s
  | .amoWithdraw gslot => execAmoWithdraw gslot s
  | .lateAttach slice part asn vpn => execLateAttach slice part asn vpn s
  | .holdingBufferEntry slice => execHoldingBufferEntry slice s
  | .unbackedEvict slice => execUnbackedEvict slice s
  | .sliceRetire slice => execSliceRetire slice s
  | .lmWipeDone core bank => execLmWipeDone core bank s
  | .carterChunk gslot => execCarterChunk gslot s
  | .pisteInject core => execPisteInject core s
  | .pisteArrival core link => execPisteArrival core link s
  | .messageArrival gslot => execMessageArrival gslot s
  | .messageTimeout gslot => execMessageTimeout gslot s
  | .bounceArrival gslot => execBounceArrival gslot s
  | .treePacketArrival core p => execTreePacketArrival core p s
  | .treeTimeout core tree => execTreeTimeout core tree s
  | .ringTileArrival core src => execRingTileArrival core src s
  | .sealComplete core bank => execSealComplete core bank s
  | .engineTurn gslot => execEngineTurn gslot s
  | .matrixStepComplete core => execMatrixStepComplete core s
  | .treadleReplayIssue gslot => execTreadleReplayIssue gslot s
  | .launchOpen die part asn handle => execLaunchOpen die part asn handle s
  | .packetTake die part asn handle => execPacketTake die part asn handle s
  | .packetEligible die part asn handle => execPacketEligible die part asn handle s
  | .taskBind die part => execTaskBind die part s
  | .queueMiss die part asn handle => execQueueMiss die part asn handle s
  | .launchSweep => execLaunchSweep s
  | .deferredLaunchEnd part entry => execDeferredLaunchEnd part entry s
  | .budgetEnd gslot => execBudgetEnd gslot s
  | .watchdog gslot => execWatchdog gslot s
  | .preemptRequest gslot => execPreemptRequest gslot s
  | .faultRecordWrite queue => execFaultRecordWrite queue s
  | .deferredFault gslot => execDeferredFault gslot s
  | .fqheadWrite part w => execFqheadWrite part w s
  | .tsCreditAccrue => execTsCreditAccrue s
  | .tsSliceEnd => execTsSliceEnd s
  | .tsSwitchComplete => execTsSwitchComplete s
  | .partitionReset part => execPartitionReset part s
  | .resetDrainEnd part => execResetDrainEnd part s
  | .gateTableWrite gate word w => execGateTableWrite gate word w s
  | .gateTokenRefill gate part => execGateTokenRefill gate part s
  | .bridgedGateOp m => execBridgedGateOp m s
  | .remapWrite w => execRemapWrite w s
  | .remapDone => execRemapDone s
  | .lmfenceWrite core w => execLmfenceWrite core w s
  | .rebind gslot mode => execRebind gslot mode s
  | .replayComplete gslot => execReplayComplete gslot s
  | .replayDrop gslot => execReplayDrop gslot s
  | .heartbeatPost core => execHeartbeatPost core s
  | .heartbeatPeriodClose core => execHeartbeatPeriodClose core s
  | .offlineComplete core => execOfflineComplete core s
  | .spdmGetVersion function request => execSpdmGetVersion function request s
  | .spdmGetCapabilities function request => execSpdmGetCapabilities function request s
  | .spdmNegotiateAlgorithms function request => execSpdmNegotiateAlgorithms function request s
  | .spdmGetDigests function request => execSpdmGetDigests function request s
  | .spdmGetCertificate function request => execSpdmGetCertificate function request s
  | .spdmChallenge function request => execSpdmChallenge function request s
  | .spdmGetMeasurements function index request => execSpdmGetMeasurements function index request s
  | .spdmUnsupportedRequest function request => execSpdmUnsupportedRequest function request s
  | .dataWindowWrite vf off bytes => execDataWindowWrite vf off bytes s
  | .dataWindowRead vf off len => execDataWindowRead vf off len s
  | .unsupportedRequest function off write => execUnsupportedRequest function off write s
  | .hwinWrite vf w => execHwinWrite vf w s
  | .doorbell vf w => execDoorbell vf w s
  | .hostirqWrite w => execHostirqWrite w s
  | .vfFlr vf => execVfFlr vf s
  | .sccmdPark gslot => execSccmdPark gslot s
  | .sccmdRun gslot => execSccmdRun gslot s
  | .sccmdRunNew gslot arg0 arg1 => execSccmdRunNew gslot arg0 arg1 s
  | .sccmdSave gslot arg0 => execSccmdSave gslot arg0 s
  | .sccmdLoad gslot arg0 => execSccmdLoad gslot arg0 s
  | .sccmdScrub gslot => execSccmdScrub gslot s
  | .setstack gslot arg0 => execSetstack gslot arg0 s
  | .syncLinkDown => execSyncLinkDown s
  | .syncLinkUp => execSyncLinkUp s
  | .pairFrameSend => execPairFrameSend s
  | .pairFrameReceive scan digest => execPairFrameReceive scan digest s
  | .mirrorLineLand pa bytes last scan => execMirrorLineLand pa bytes last scan s
  | .evtWatchWake slice => execEvtWatchWake slice s
  | .evtWaitPoll gslot => execEvtWaitPoll gslot s
  | .waitWake gslot => execWaitWake gslot s
  | .conventionalReset => execConventionalReset s
  | .pf0Flr => execPf0Flr s
  | .doeDiscovery function index => execDoeDiscovery function index s
  | .illegalOpcode prefixFault => execIllegalOpcode prefixFault s
  | .instructionFetchFault code addr cause => execInstructionFetchFault code addr cause s
  | .recoveryResetTimeout stream => execRecoveryResetTimeout stream s
  | .streamGateIntervalEnd gate => execStreamGateIntervalEnd gate s
  | .gptpSyncTransmit domain => execGptpSyncTransmit domain s
  | .safeFrames => execSafeFrames s

end Sys2Proof.Machine
end

