-- ==== Sys2Proof/Machine/Dispatch.lean ====
section
/-! DEFINITION. One arm per constructor of `Instr`: the meaning of each instruction and of each step of the other agents. -/

namespace Sys2Proof.Machine

def exec (i : Instr) (s : State) : Host.Outcome State Fault Refusal :=
  match i with
  | .add d a b => Sys2Proof.Machine.execAdd d a b s
  | .sub d a b => Sys2Proof.Machine.execSub d a b s
  | .and d a b => Sys2Proof.Machine.execAnd d a b s
  | .or d a b => Sys2Proof.Machine.execOr d a b s
  | .xor d a b => Sys2Proof.Machine.execXor d a b s
  | .andn d a b => Sys2Proof.Machine.execAndn d a b s
  | .shl d a b => Sys2Proof.Machine.execShl d a b s
  | .shr d a b => Sys2Proof.Machine.execShr d a b s
  | .sar d a b => Sys2Proof.Machine.execSar d a b s
  | .mul d a b => Sys2Proof.Machine.execMul d a b s
  | .min d a b => Sys2Proof.Machine.execMin d a b s
  | .max d a b => Sys2Proof.Machine.execMax d a b s
  | .mov d a => Sys2Proof.Machine.execMov d a s
  | .jmpi a => Sys2Proof.Machine.execJmpi a s
  | .calli a => Sys2Proof.Machine.execCalli a s
  | .ret => Sys2Proof.Machine.execRet s
  | .nop => Sys2Proof.Machine.execNop s
  | .tend => Sys2Proof.Machine.execTend s
  | .addi d a imm => Sys2Proof.Machine.execAddi d a imm s
  | .movi d imm => Sys2Proof.Machine.execMovi d imm s
  | .ldZ8 d a imm => Sys2Proof.Machine.execLdZ8 d a imm s
  | .ldZ16 d a imm => Sys2Proof.Machine.execLdZ16 d a imm s
  | .ldZ32 d a imm => Sys2Proof.Machine.execLdZ32 d a imm s
  | .ldZ64 d a imm => Sys2Proof.Machine.execLdZ64 d a imm s
  | .ldS8 d a imm => Sys2Proof.Machine.execLdS8 d a imm s
  | .ldS16 d a imm => Sys2Proof.Machine.execLdS16 d a imm s
  | .ldS32 d a imm => Sys2Proof.Machine.execLdS32 d a imm s
  | .stZ8 d a imm => Sys2Proof.Machine.execStZ8 d a imm s
  | .stZ16 d a imm => Sys2Proof.Machine.execStZ16 d a imm s
  | .stZ32 d a imm => Sys2Proof.Machine.execStZ32 d a imm s
  | .stZ64 d a imm => Sys2Proof.Machine.execStZ64 d a imm s
  | .ldLZ64 d a imm => Sys2Proof.Machine.execLdLZ64 d a imm s
  | .stLZ64 d a imm => Sys2Proof.Machine.execStLZ64 d a imm s
  | .br c sense off => Sys2Proof.Machine.execBr c sense off s
  | .jmp off => Sys2Proof.Machine.execJmp off s
  | .call off => Sys2Proof.Machine.execCall off s
  | .sig imm => Sys2Proof.Machine.execSig imm s
  | .loop g off => Sys2Proof.Machine.execLoop g off s
  | .mulh d a b => Sys2Proof.Machine.execMulh d a b s
  | .mulhz d a b => Sys2Proof.Machine.execMulhz d a b s
  | .div d a b => Sys2Proof.Machine.execDiv d a b s
  | .divz d a b => Sys2Proof.Machine.execDivz d a b s
  | .rem d a b => Sys2Proof.Machine.execRem d a b s
  | .remz d a b => Sys2Proof.Machine.execRemz d a b s
  | .minz d a b => Sys2Proof.Machine.execMinz d a b s
  | .maxz d a b => Sys2Proof.Machine.execMaxz d a b s
  | .rol d a b => Sys2Proof.Machine.execRol d a b s
  | .clz d a => Sys2Proof.Machine.execClz d a s
  | .ctz d a => Sys2Proof.Machine.execCtz d a s
  | .popc d a => Sys2Proof.Machine.execPopc d a s
  | .brev d a => Sys2Proof.Machine.execBrev d a s
  | .bswap d a => Sys2Proof.Machine.execBswap d a s
  | .sext t d a => Sys2Proof.Machine.execSext t d a s
  | .zext t d a => Sys2Proof.Machine.execZext t d a s
  | .shli d a imm => Sys2Proof.Machine.execShli d a imm s
  | .shri d a imm => Sys2Proof.Machine.execShri d a imm s
  | .sari d a imm => Sys2Proof.Machine.execSari d a imm s
  | .roli d a imm => Sys2Proof.Machine.execRoli d a imm s
  | .bfx d a imm => Sys2Proof.Machine.execBfx d a imm s
  | .bfi d a imm => Sys2Proof.Machine.execBfi d a imm s
  | .cmp rel d a b => Sys2Proof.Machine.execCmp rel d a b s
  | .cmpi rel d a imm => Sys2Proof.Machine.execCmpi rel d a imm s
  | .sel c d a b => Sys2Proof.Machine.execSel c d a b s
  | .lea sh d a b => Sys2Proof.Machine.execLea sh d a b s
  | .pand d x y => Sys2Proof.Machine.execPand d x y s
  | .por d x y => Sys2Proof.Machine.execPor d x y s
  | .pxor d x y => Sys2Proof.Machine.execPxor d x y s
  | .pnot d x => Sys2Proof.Machine.execPnot d x s
  | .pmov d x => Sys2Proof.Machine.execPmov d x s
  | .ldL t d a imm => Sys2Proof.Machine.execLdL t d a imm s
  | .stL t d a imm => Sys2Proof.Machine.execStL t d a imm s
  | .ldt scanOnly d a b => Sys2Proof.Machine.execLdt scanOnly d a b s
  | .stt a b => Sys2Proof.Machine.execStt a b s
  | .vld lm v a => Sys2Proof.Machine.execVld lm v a s
  | .vst lm v a => Sys2Proof.Machine.execVst lm v a s
  | .vlds lm t v a b => Sys2Proof.Machine.execVlds lm t v a b s
  | .vgath lm t v a x => Sys2Proof.Machine.execVgath lm t v a x s
  | .vscat lm t v a x => Sys2Proof.Machine.execVscat lm t v a x s
  | .pref home a => Sys2Proof.Machine.execPref home a s
  | .amoSwap o sc w32 d a b => Sys2Proof.Machine.execAmoSwap o sc w32 d a b s
  | .amoCas o sc w32 d a b => Sys2Proof.Machine.execAmoCas o sc w32 d a b s
  | .amoFadd o sc w32 d a b => Sys2Proof.Machine.execAmoFadd o sc w32 d a b s
  | .amoFand o sc w32 d a b => Sys2Proof.Machine.execAmoFand o sc w32 d a b s
  | .amoFor o sc w32 d a b => Sys2Proof.Machine.execAmoFor o sc w32 d a b s
  | .amoFxor o sc w32 d a b => Sys2Proof.Machine.execAmoFxor o sc w32 d a b s
  | .amoFmin o sc w32 d a b => Sys2Proof.Machine.execAmoFmin o sc w32 d a b s
  | .amoFmax o sc w32 d a b => Sys2Proof.Machine.execAmoFmax o sc w32 d a b s
  | .amoFminz o sc w32 d a b => Sys2Proof.Machine.execAmoFminz o sc w32 d a b s
  | .amoFmaxz o sc w32 d a b => Sys2Proof.Machine.execAmoFmaxz o sc w32 d a b s
  | .hgath v a b => Sys2Proof.Machine.execHgath v a b s
  | .ldZ8Ordered o sc d a imm => Sys2Proof.Machine.execLdZ8Ordered o sc d a imm s
  | .ldZ16Ordered o sc d a imm => Sys2Proof.Machine.execLdZ16Ordered o sc d a imm s
  | .ldZ32Ordered o sc d a imm => Sys2Proof.Machine.execLdZ32Ordered o sc d a imm s
  | .ldZ64Ordered o sc d a imm => Sys2Proof.Machine.execLdZ64Ordered o sc d a imm s
  | .ldS8Ordered o sc d a imm => Sys2Proof.Machine.execLdS8Ordered o sc d a imm s
  | .ldS16Ordered o sc d a imm => Sys2Proof.Machine.execLdS16Ordered o sc d a imm s
  | .ldS32Ordered o sc d a imm => Sys2Proof.Machine.execLdS32Ordered o sc d a imm s
  | .stZ8Ordered o sc d a imm => Sys2Proof.Machine.execStZ8Ordered o sc d a imm s
  | .stZ16Ordered o sc d a imm => Sys2Proof.Machine.execStZ16Ordered o sc d a imm s
  | .stZ32Ordered o sc d a imm => Sys2Proof.Machine.execStZ32Ordered o sc d a imm s
  | .stZ64Ordered o sc d a imm => Sys2Proof.Machine.execStZ64Ordered o sc d a imm s
  | .redAdd o sc w32 a b => Sys2Proof.Machine.execRedAdd o sc w32 a b s
  | .redAnd o sc w32 a b => Sys2Proof.Machine.execRedAnd o sc w32 a b s
  | .redOr o sc w32 a b => Sys2Proof.Machine.execRedOr o sc w32 a b s
  | .redXor o sc w32 a b => Sys2Proof.Machine.execRedXor o sc w32 a b s
  | .redMin o sc w32 a b => Sys2Proof.Machine.execRedMin o sc w32 a b s
  | .redMax o sc w32 a b => Sys2Proof.Machine.execRedMax o sc w32 a b s
  | .redMinz o sc w32 a b => Sys2Proof.Machine.execRedMinz o sc w32 a b s
  | .redMaxz o sc w32 a b => Sys2Proof.Machine.execRedMaxz o sc w32 a b s
  | .redFadd o sc a b => Sys2Proof.Machine.execRedFadd o sc a b s
  | .barArr d a => Sys2Proof.Machine.execBarArr d a s
  | .barWait a b => Sys2Proof.Machine.execBarWait a b s
  | .barAw d a => Sys2Proof.Machine.execBarAw d a s
  | .barExp dereg d a => Sys2Proof.Machine.execBarExp dereg d a s
  | .barInit sc a b c => Sys2Proof.Machine.execBarInit sc a b c s
  | .fence o sc => Sys2Proof.Machine.execFence o sc s
  | .evtAdd sc a b => Sys2Proof.Machine.execEvtAdd sc a b s
  | .evtWait sc a b => Sys2Proof.Machine.execEvtWait sc a b s
  | .wait all d a b => Sys2Proof.Machine.execWait all d a b s
  | .realign beat d => Sys2Proof.Machine.execRealign beat d s
  | .qstat tree d a => Sys2Proof.Machine.execQstat tree d a s
  | .msgSend o sc a b => Sys2Proof.Machine.execMsgSend o sc a b s
  | .msgInfo d => Sys2Proof.Machine.execMsgInfo d s
  | .redPkt v a b => Sys2Proof.Machine.execRedPkt v a b s
  | .redRecv miss v d a => Sys2Proof.Machine.execRedRecv miss v d a s
  | .rteSet a b => Sys2Proof.Machine.execRteSet a b s
  | .treeSet a b => Sys2Proof.Machine.execTreeSet a b s
  | .vAdd sat t d a b => Sys2Proof.Machine.execVAdd sat t d a b s
  | .vSub sat t d a b => Sys2Proof.Machine.execVSub sat t d a b s
  | .vMul t d a b => Sys2Proof.Machine.execVMul t d a b s
  | .vFma d a b => Sys2Proof.Machine.execVFma d a b s
  | .vFms d a b => Sys2Proof.Machine.execVFms d a b s
  | .vMin t d a b => Sys2Proof.Machine.execVMin t d a b s
  | .vMax t d a b => Sys2Proof.Machine.execVMax t d a b s
  | .vAbs sat t d a => Sys2Proof.Machine.execVAbs sat t d a s
  | .vNeg sat t d a => Sys2Proof.Machine.execVNeg sat t d a s
  | .vRcp d a => Sys2Proof.Machine.execVRcp d a s
  | .vRsq d a => Sys2Proof.Machine.execVRsq d a s
  | .vSqrt d a => Sys2Proof.Machine.execVSqrt d a s
  | .vExp2 d a => Sys2Proof.Machine.execVExp2 d a s
  | .vLog2 d a => Sys2Proof.Machine.execVLog2 d a s
  | .vAnd d a b => Sys2Proof.Machine.execVAnd d a b s
  | .vOr d a b => Sys2Proof.Machine.execVOr d a b s
  | .vXor d a b => Sys2Proof.Machine.execVXor d a b s
  | .vAndn d a b => Sys2Proof.Machine.execVAndn d a b s
  | .vShl t d a b => Sys2Proof.Machine.execVShl t d a b s
  | .vShr t d a b => Sys2Proof.Machine.execVShr t d a b s
  | .vSar t d a b => Sys2Proof.Machine.execVSar t d a b s
  | .vCmp rel t d a b => Sys2Proof.Machine.execVCmp rel t d a b s
  | .vSel d a b => Sys2Proof.Machine.execVSel d a b s
  | .vRedAdd t d a => Sys2Proof.Machine.execVRedAdd t d a s
  | .vRedMin t d a => Sys2Proof.Machine.execVRedMin t d a s
  | .vRedMax t d a => Sys2Proof.Machine.execVRedMax t d a s
  | .vBcast t d a => Sys2Proof.Machine.execVBcast t d a s
  | .vExt t d a b => Sys2Proof.Machine.execVExt t d a b s
  | .vIns t d a b => Sys2Proof.Machine.execVIns t d a b s
  | .vPerm d a b => Sys2Proof.Machine.execVPerm d a b s
  | .vCvt dst src d a => Sys2Proof.Machine.execVCvt dst src d a s
  | .vScl inv d a b => Sys2Proof.Machine.execVScl inv d a b s
  | .vPack dst src d a b => Sys2Proof.Machine.execVPack dst src d a b s
  | .vUnpk dst src d a h => Sys2Proof.Machine.execVUnpk dst src d a h s
  | .vDec8 d a h => Sys2Proof.Machine.execVDec8 d a h s
  | .vEnc8 d a h => Sys2Proof.Machine.execVEnc8 d a h s
  | .vDec4 d a h => Sys2Proof.Machine.execVDec4 d a h s
  | .vEnc4 d a h => Sys2Proof.Machine.execVEnc4 d a h s
  | .mClr m => Sys2Proof.Machine.execMClr m s
  | .mLatch a b => Sys2Proof.Machine.execMLatch a b s
  | .mStep disp m a b => Sys2Proof.Machine.execMStep disp m a b s
  | .mLocal m a b => Sys2Proof.Machine.execMLocal m a b s
  | .mPass => Sys2Proof.Machine.execMPass s
  | .mRd v m b => Sys2Proof.Machine.execMRd v m b s
  | .mWr m v b => Sys2Proof.Machine.execMWr m v b s
  | .mRing leave d a b => Sys2Proof.Machine.execMRing leave d a b s
  | .mStat d => Sys2Proof.Machine.execMStat d s
  | .mSync => Sys2Proof.Machine.execMSync s
  | .trDef imm => Sys2Proof.Machine.execTrDef imm s
  | .trGo a imm => Sys2Proof.Machine.execTrGo a imm s
  | .trWait d => Sys2Proof.Machine.execTrWait d s
  | .trStop d => Sys2Proof.Machine.execTrStop d s
  | .cpG2L a b c => Sys2Proof.Machine.execCpG2L a b c s
  | .cpL2G a b c => Sys2Proof.Machine.execCpL2G a b c s
  | .cpL2L a b c => Sys2Proof.Machine.execCpL2L a b c s
  | .cpG2G a b c => Sys2Proof.Machine.execCpG2G a b c s
  | .cpFill a b c => Sys2Proof.Machine.execCpFill a b c s
  | .cp2D a b c => Sys2Proof.Machine.execCp2D a b c s
  | .cpStat d => Sys2Proof.Machine.execCpStat d s
  | .cpAbort => Sys2Proof.Machine.execCpAbort s
  | .tqPush d a b => Sys2Proof.Machine.execTqPush d a b s
  | .tqSpawn d a b => Sys2Proof.Machine.execTqSpawn d a b s
  | .tqPin unpin d a => Sys2Proof.Machine.execTqPin unpin d a s
  | .tqStat d a => Sys2Proof.Machine.execTqStat d a s
  | .tstat d => Sys2Proof.Machine.execTstat d s
  | .gtPost d v a => Sys2Proof.Machine.execGtPost d v a s
  | .gtWait d v a => Sys2Proof.Machine.execGtWait d v a s
  | .gtTry d v a => Sys2Proof.Machine.execGtTry d v a s
  | .gtArrive d a => Sys2Proof.Machine.execGtArrive d a s
  | .gtStat d a => Sys2Proof.Machine.execGtStat d a s
  | .gtOpen a => Sys2Proof.Machine.execGtOpen a s
  | .gtClose a => Sys2Proof.Machine.execGtClose a s
  | .gtHold rel a => Sys2Proof.Machine.execGtHold rel a s
  | .clWb sc a b => Sys2Proof.Machine.execClWb sc a b s
  | .clInv sc a b => Sys2Proof.Machine.execClInv sc a b s
  | .clDisc a b => Sys2Proof.Machine.execClDisc a b s
  | .hrPin d a => Sys2Proof.Machine.execHrPin d a s
  | .hrUnpin d a => Sys2Proof.Machine.execHrUnpin d a s
  | .pgProbe d a => Sys2Proof.Machine.execPgProbe d a s
  | .tlbInv kind sc a b c => Sys2Proof.Machine.execTlbInv kind sc a b c s
  | .ubRsv d a b => Sys2Proof.Machine.execUbRsv d a b s
  | .ubRel d a b => Sys2Proof.Machine.execUbRel d a b s
  | .ubMig d a b => Sys2Proof.Machine.execUbMig d a b s
  | .sysRd d n => Sys2Proof.Machine.execSysRd d n s
  | .sysWr a n => Sys2Proof.Machine.execSysWr a n s
  | .tblWr rom a b => Sys2Proof.Machine.execTblWr rom a b s
  | .tblSeal d a => Sys2Proof.Machine.execTblSeal d a s
  | .capRd d a => Sys2Proof.Machine.execCapRd d a s
  | .partSet d a b => Sys2Proof.Machine.execPartSet d a b s
  | .slotPark d a => Sys2Proof.Machine.execSlotPark d a s
  | .slotRun new d a b => Sys2Proof.Machine.execSlotRun new d a b s
  | .ctxSave d a b => Sys2Proof.Machine.execCtxSave d a b s
  | .ctxLoad d a b => Sys2Proof.Machine.execCtxLoad d a b s
  | .eret => Sys2Proof.Machine.execEret s
  | .brk => Sys2Proof.Machine.execBrk s
  | .wfe => Sys2Proof.Machine.execWfe s
  | .trap imm => Sys2Proof.Machine.execTrap imm s
  | .slotScrub d a => Sys2Proof.Machine.execSlotScrub d a s
  | .hbCtlEnable a b => Sys2Proof.Machine.execHbCtlEnable a b s
  | .hbCtlDisable a b => Sys2Proof.Machine.execHbCtlDisable a b s
  | .hbCtlClear a b => Sys2Proof.Machine.execHbCtlClear a b s
  | .hbCtlOffline a b => Sys2Proof.Machine.execHbCtlOffline a b s
  | .hbCtlOnline a b => Sys2Proof.Machine.execHbCtlOnline a b s
  | .hbStat d a => Sys2Proof.Machine.execHbStat d a s
  | .powerOnSelfTest failStep detail => Sys2Proof.Machine.execPowerOnSelfTest failStep detail s
  | .lcreqWrite w => Sys2Proof.Machine.execLcreqWrite w s
  | .thermalWarn die temp => Sys2Proof.Machine.execThermalWarn die temp s
  | .thermalTrip die temp => Sys2Proof.Machine.execThermalTrip die temp s
  | .overpwr pwr => Sys2Proof.Machine.execOverpwr pwr s
  | .registerWrite pa w => Sys2Proof.Machine.execRegisterWrite pa w s
  | .scanTick => Sys2Proof.Machine.execScanTick s
  | .coreTick => Sys2Proof.Machine.execCoreTick s
  | .beat => Sys2Proof.Machine.execBeat s
  | .scancfgWrite w => Sys2Proof.Machine.execScancfgWrite w s
  | .scannumWrite w => Sys2Proof.Machine.execScannumWrite w s
  | .holdover => Sys2Proof.Machine.execHoldover s
  | .slew err => Sys2Proof.Machine.execSlew err s
  | .tsnFrameReceive port frame fcsOk => Sys2Proof.Machine.execTsnFrameReceive port frame fcsOk s
  | .qbvChange port w => Sys2Proof.Machine.execQbvChange port w s
  | .qbvListActivate port => Sys2Proof.Machine.execQbvListActivate port s
  | .qbvGateIntervalEnd port => Sys2Proof.Machine.execQbvGateIntervalEnd port s
  | .streamGateChange gate w => Sys2Proof.Machine.execStreamGateChange gate w s
  | .streamGateListActivate gate => Sys2Proof.Machine.execStreamGateListActivate gate s
  | .gptpTimeLatch domain => Sys2Proof.Machine.execGptpTimeLatch domain s
  | .egressFrameSend stream => Sys2Proof.Machine.execEgressFrameSend stream s
  | .pisplitWrite w => Sys2Proof.Machine.execPisplitWrite w s
  | .pibindWrite filter w => Sys2Proof.Machine.execPibindWrite filter w s
  | .escfgWrite stream w => Sys2Proof.Machine.execEscfgWrite stream w s
  | .eshdrWrite stream word w => Sys2Proof.Machine.execEshdrWrite stream word w s
  | .resultViewWrite off bytes => Sys2Proof.Machine.execResultViewWrite off bytes s
  | .sensorFrameReceive port frame fcsOk => Sys2Proof.Machine.execSensorFrameReceive port frame fcsOk s
  | .spcfgWrite port w => Sys2Proof.Machine.execSpcfgWrite port w s
  | .spcfgClr port => Sys2Proof.Machine.execSpcfgClr port s
  | .skeinRecordCheck port => Sys2Proof.Machine.execSkeinRecordCheck port s
  | .stagingAllocate port => Sys2Proof.Machine.execStagingAllocate port s
  | .decodeComplete port elapsed => Sys2Proof.Machine.execDecodeComplete port elapsed s
  | .slowLaneMove port => Sys2Proof.Machine.execSlowLaneMove port s
  | .slowDecodeEnd port => Sys2Proof.Machine.execSlowDecodeEnd port s
  | .loomStage row col => Sys2Proof.Machine.execLoomStage row col s
  | .lectlWrite row col w => Sys2Proof.Machine.execLectlWrite row col w s
  | .stageWordWrite row col k w => Sys2Proof.Machine.execStageWordWrite row col k w s
  | .lxcfgWrite exit w => Sys2Proof.Machine.execLxcfgWrite exit w s
  | .lxdstWrite exit w => Sys2Proof.Machine.execLxdstWrite exit w s
  | .exitRowComplete exit => Sys2Proof.Machine.execExitRowComplete exit s
  | .batchwaitExpiry exit => Sys2Proof.Machine.execBatchwaitExpiry exit s
  | .metadataTimeout exit => Sys2Proof.Machine.execMetadataTimeout exit s
  | .batchDeliver exit => Sys2Proof.Machine.execBatchDeliver exit s
  | .swcfgWrite core win w => Sys2Proof.Machine.execSwcfgWrite core win w s
  | .swrelWrite core slot win w => Sys2Proof.Machine.execSwrelWrite core slot win w s
  | .freeCountUpdate exit => Sys2Proof.Machine.execFreeCountUpdate exit s
  | .dramReadReturn channel addr outcome => Sys2Proof.Machine.execDramReadReturn channel addr outcome s
  | .dramWrite channel addr sectors poison other => Sys2Proof.Machine.execDramWrite channel addr sectors poison other s
  | .dramPatrol channel addr outcome => Sys2Proof.Machine.execDramPatrol channel addr outcome s
  | .sramPatrol unit index struct place outcome => Sys2Proof.Machine.execSramPatrol unit index struct place outcome s
  | .pageWalk cluster part asn root va => Sys2Proof.Machine.execPageWalk cluster part asn root va s
  | .shootdownDebit cluster => Sys2Proof.Machine.execShootdownDebit cluster s
  | .sliceRead core key => Sys2Proof.Machine.execSliceRead core key s
  | .sliceStoreRequest core key => Sys2Proof.Machine.execSliceStoreRequest core key s
  | .sliceWriteBack core key => Sys2Proof.Machine.execSliceWriteBack core key s
  | .crossDieRead core key => Sys2Proof.Machine.execCrossDieRead core key s
  | .crossDieWrite core key bytes => Sys2Proof.Machine.execCrossDieWrite core key bytes s
  | .attr1Access core key width write => Sys2Proof.Machine.execAttr1Access core key width write s
  | .recallResponse core key => Sys2Proof.Machine.execRecallResponse core key s
  | .sectorFill core key => Sys2Proof.Machine.execSectorFill core key s
  | .redApply gslot op w32 etol key v => Sys2Proof.Machine.execRedApply gslot op w32 etol key v s
  | .hgathServe gslot v key sel etol => Sys2Proof.Machine.execHgathServe gslot v key sel etol s
  | .amoReserve gslot key => Sys2Proof.Machine.execAmoReserve gslot key s
  | .amoGrant slice => Sys2Proof.Machine.execAmoGrant slice s
  | .amoRelease gslot key width v => Sys2Proof.Machine.execAmoRelease gslot key width v s
  | .amoWithdraw gslot => Sys2Proof.Machine.execAmoWithdraw gslot s
  | .lateAttach slice part asn vpn => Sys2Proof.Machine.execLateAttach slice part asn vpn s
  | .holdingBufferEntry slice => Sys2Proof.Machine.execHoldingBufferEntry slice s
  | .unbackedEvict slice => Sys2Proof.Machine.execUnbackedEvict slice s
  | .sliceRetire slice => Sys2Proof.Machine.execSliceRetire slice s
  | .lmWipeDone core bank => Sys2Proof.Machine.execLmWipeDone core bank s
  | .carterChunk gslot => Sys2Proof.Machine.execCarterChunk gslot s
  | .pisteInject core => Sys2Proof.Machine.execPisteInject core s
  | .pisteArrival core link => Sys2Proof.Machine.execPisteArrival core link s
  | .messageArrival gslot => Sys2Proof.Machine.execMessageArrival gslot s
  | .messageTimeout gslot => Sys2Proof.Machine.execMessageTimeout gslot s
  | .bounceArrival gslot => Sys2Proof.Machine.execBounceArrival gslot s
  | .treePacketArrival core p => Sys2Proof.Machine.execTreePacketArrival core p s
  | .treeTimeout core tree => Sys2Proof.Machine.execTreeTimeout core tree s
  | .ringTileArrival core src => Sys2Proof.Machine.execRingTileArrival core src s
  | .sealComplete core bank => Sys2Proof.Machine.execSealComplete core bank s
  | .engineTurn gslot => Sys2Proof.Machine.execEngineTurn gslot s
  | .matrixStepComplete core => Sys2Proof.Machine.execMatrixStepComplete core s
  | .treadleReplayIssue gslot => Sys2Proof.Machine.execTreadleReplayIssue gslot s
  | .launchOpen die part asn handle => Sys2Proof.Machine.execLaunchOpen die part asn handle s
  | .packetTake die part asn handle => Sys2Proof.Machine.execPacketTake die part asn handle s
  | .packetEligible die part asn handle => Sys2Proof.Machine.execPacketEligible die part asn handle s
  | .taskBind die part => Sys2Proof.Machine.execTaskBind die part s
  | .queueMiss die part asn handle => Sys2Proof.Machine.execQueueMiss die part asn handle s
  | .launchSweep => Sys2Proof.Machine.execLaunchSweep s
  | .deferredLaunchEnd part entry => Sys2Proof.Machine.execDeferredLaunchEnd part entry s
  | .budgetEnd gslot => Sys2Proof.Machine.execBudgetEnd gslot s
  | .watchdog gslot => Sys2Proof.Machine.execWatchdog gslot s
  | .preemptRequest gslot => Sys2Proof.Machine.execPreemptRequest gslot s
  | .faultRecordWrite queue => Sys2Proof.Machine.execFaultRecordWrite queue s
  | .deferredFault gslot => Sys2Proof.Machine.execDeferredFault gslot s
  | .fqheadWrite part w => Sys2Proof.Machine.execFqheadWrite part w s
  | .tsCreditAccrue => Sys2Proof.Machine.execTsCreditAccrue s
  | .tsSliceEnd => Sys2Proof.Machine.execTsSliceEnd s
  | .tsSwitchComplete => Sys2Proof.Machine.execTsSwitchComplete s
  | .partitionReset part => Sys2Proof.Machine.execPartitionReset part s
  | .resetDrainEnd part => Sys2Proof.Machine.execResetDrainEnd part s
  | .gateTableWrite gate word w => Sys2Proof.Machine.execGateTableWrite gate word w s
  | .gateTokenRefill gate part => Sys2Proof.Machine.execGateTokenRefill gate part s
  | .bridgedGateOp m => Sys2Proof.Machine.execBridgedGateOp m s
  | .remapWrite w => Sys2Proof.Machine.execRemapWrite w s
  | .remapDone => Sys2Proof.Machine.execRemapDone s
  | .lmfenceWrite core w => Sys2Proof.Machine.execLmfenceWrite core w s
  | .rebind gslot mode => Sys2Proof.Machine.execRebind gslot mode s
  | .replayComplete gslot => Sys2Proof.Machine.execReplayComplete gslot s
  | .replayDrop gslot => Sys2Proof.Machine.execReplayDrop gslot s
  | .heartbeatPost core => Sys2Proof.Machine.execHeartbeatPost core s
  | .heartbeatPeriodClose core => Sys2Proof.Machine.execHeartbeatPeriodClose core s
  | .offlineComplete core => Sys2Proof.Machine.execOfflineComplete core s
  | .spdmGetVersion function request => Sys2Proof.Machine.execSpdmGetVersion function request s
  | .spdmGetCapabilities function request => Sys2Proof.Machine.execSpdmGetCapabilities function request s
  | .spdmNegotiateAlgorithms function request => Sys2Proof.Machine.execSpdmNegotiateAlgorithms function request s
  | .spdmGetDigests function request => Sys2Proof.Machine.execSpdmGetDigests function request s
  | .spdmGetCertificate function request => Sys2Proof.Machine.execSpdmGetCertificate function request s
  | .spdmChallenge function request => Sys2Proof.Machine.execSpdmChallenge function request s
  | .spdmGetMeasurements function index request => Sys2Proof.Machine.execSpdmGetMeasurements function index request s
  | .spdmUnsupportedRequest function request => Sys2Proof.Machine.execSpdmUnsupportedRequest function request s
  | .dataWindowWrite vf off bytes => Sys2Proof.Machine.execDataWindowWrite vf off bytes s
  | .dataWindowRead vf off len => Sys2Proof.Machine.execDataWindowRead vf off len s
  | .unsupportedRequest function off write => Sys2Proof.Machine.execUnsupportedRequest function off write s
  | .hwinWrite vf w => Sys2Proof.Machine.execHwinWrite vf w s
  | .doorbell vf w => Sys2Proof.Machine.execDoorbell vf w s
  | .hostirqWrite w => Sys2Proof.Machine.execHostirqWrite w s
  | .vfFlr vf => Sys2Proof.Machine.execVfFlr vf s
  | .sccmdPark gslot => Sys2Proof.Machine.execSccmdPark gslot s
  | .sccmdRun gslot => Sys2Proof.Machine.execSccmdRun gslot s
  | .sccmdRunNew gslot arg0 arg1 => Sys2Proof.Machine.execSccmdRunNew gslot arg0 arg1 s
  | .sccmdSave gslot arg0 => Sys2Proof.Machine.execSccmdSave gslot arg0 s
  | .sccmdLoad gslot arg0 => Sys2Proof.Machine.execSccmdLoad gslot arg0 s
  | .sccmdScrub gslot => Sys2Proof.Machine.execSccmdScrub gslot s
  | .setstack gslot arg0 => Sys2Proof.Machine.execSetstack gslot arg0 s
  | .syncLinkDown => Sys2Proof.Machine.execSyncLinkDown s
  | .syncLinkUp => Sys2Proof.Machine.execSyncLinkUp s
  | .pairFrameSend => Sys2Proof.Machine.execPairFrameSend s
  | .pairFrameReceive scan digest => Sys2Proof.Machine.execPairFrameReceive scan digest s
  | .mirrorLineLand pa bytes last scan => Sys2Proof.Machine.execMirrorLineLand pa bytes last scan s
  | .evtWatchWake slice => Sys2Proof.Machine.execEvtWatchWake slice s
  | .evtWaitPoll gslot => Sys2Proof.Machine.execEvtWaitPoll gslot s
  | .waitWake gslot => Sys2Proof.Machine.execWaitWake gslot s
  | .conventionalReset => Sys2Proof.Machine.execConventionalReset s
  | .pf0Flr => Sys2Proof.Machine.execPf0Flr s
  | .doeDiscovery function index => Sys2Proof.Machine.execDoeDiscovery function index s
  | .illegalOpcode prefixFault => Sys2Proof.Machine.execIllegalOpcode prefixFault s
  | .instructionFetchFault code addr cause => Sys2Proof.Machine.execInstructionFetchFault code addr cause s
  | .recoveryResetTimeout stream => Sys2Proof.Machine.execRecoveryResetTimeout stream s
  | .streamGateIntervalEnd gate => Sys2Proof.Machine.execStreamGateIntervalEnd gate s
  | .gptpSyncTransmit domain => Sys2Proof.Machine.execGptpSyncTransmit domain s
  | .safeFrames => Sys2Proof.Machine.execSafeFrames s

end Sys2Proof.Machine
end

