-- ==== Sys2Proof/Machine/Fetch.lean ====
section
/-! DEFINITION. Fetching a chain through translation and the L1I (R76, R117, R191), and the issue of the chain: the
checks of R191 steps 5 and 6, the signature check, the guard and the capture by the Treadle. -/

namespace Sys2Proof.Machine

/-! ## Fetch -/

/-- A sector of code: from the core's L1D where it holds the sector dirty, else from the home slice (R117). -/
def State.codeSector (s : State) (c sec : Nat) : State × BitVec 256 × Bool :=
  match s.l1 c sec with
  | some l => s.readSector s.me.part c sec (!decide (l.dirty = 0))
  | none => s.readSector s.me.part c sec false

/-- Puts a line into the L1I of 4 ways by 256 sets, in place of the least recently used one of its set (R117, assumption
69). -/
def Core.putCode (k : Core) (line : Nat) (d : BitVec 512) : Core :=
  let w := (lruWay (fun w => (k.l1iAt w (line % 256)).map (·.2.used)) [0, 1, 2, 3]).getD 0
  let (l1i, bad) := match k.l1iAt w (line % 256) with
    | some e => (k.l1i.del e.1, k.l1iBad.filter (fun b => !decide (b = e.1)))
    | none => (k.l1i, k.l1iBad)
  { k with l1i := l1i.put line { data := d, way := w, used := k.uses }, l1iBad := bad, uses := k.uses + 1 }

/-- A fetch meets an uncorrectable L1I line: it is dropped, to be fetched again, and the event counts (R117). -/
def State.meetCode (s : State) (c line : Nat) : State :=
  let k := s.core c
  if k.l1iBad.any (fun b => decide (b = line)) then
    let way := match k.l1i.seek line with
      | some l => l.way
      | none => 0
    s.setCore c { k with
      l1i := k.l1i.del line, l1iBad := k.l1iBad.filter (fun b => !decide (b = line))
      health := { k.health with uecnt := k.health.uecnt + 1, lastue := ofN (4 * 2 ^ 56 + (line % 256 * 16 + way)) } }
  else s

/-- The L1I line of a home key, filled when the core does not hold it; tells whether the fill is poisoned. A poisoned
line is not kept. -/
def State.codeLine (s : State) (c key : Nat) : State × BitVec 512 × Bool :=
  let line := key / 64
  let s := s.meetCode c line
  let k := s.core c
  match k.l1i.seek line with
  | some l => (s.setCore c { k with l1i := k.l1i.put line { l with used := k.uses }, uses := k.uses + 1 }, l.data, false)
  | none =>
    let (s, lo, bad) := s.codeSector c (line * 2)
    let (s, hi, worse) := s.codeSector c (line * 2 + 1)
    let d : BitVec 512 := BitVec.ofNat 512 (lo.toNat + hi.toNat * 2 ^ 256)
    if bad || worse then (s, d, true) else (s.setCore c ((s.core c).putCode line d), d, false)

/-- What a fetch gives. -/
inductive Fetched
  /-- the access stalls at a full holding buffer (R106), or waits for the walk of an address (R78) -/
  | stall
  | walk (va : Nat)
  /-- translation refuses the page, or the line is poisoned -/
  | fault (code cause : Nat)
  /-- the words of a chain as far as its decoding needs them, with the outcome -/
  | words (ws : List Half) (r : Except DecodeError Chain)

/-- The instruction word at an address, for the slot that issues; none in `Except.ok` never occurs. -/
def State.fetchHalf (s : State) (pc : Nat) : State × Except Fetched Half :=
  match s.access { slot := s.cur, kind := .fetch } s.me.ptroot .x false pc with
  | (t, .error (.fault code cause)) => (t, .error (.fault code cause))
  | (t, .error .walk) => (t, .error (.walk pc))
  | (t, .ok l) =>
    if t.holdingStall t.me.part l then (t, .error .stall)
    else
      match t.codeLine t.myCore l.key with
      | (u, _, true) => (u, .error (.fault fcPoison 0))
      | (u, d, false) => (u, .ok (BitVec.ofNat 16 (d.toNat / 2 ^ (8 * (l.key % 64)))))

/-- Whether a word is a prefix word: OP 31 (R186). -/
def isPrefix (h : Half) : Bool := decide (h.toNat / 2048 = 31)

/-- The words of the chain at `pc`, all of which are fetched before any is checked (R76, R191): prefix words up to the first
word that is none. -/
def State.fetchChain (s : State) (pc : Nat) (ws : List Half) : Nat → State × Fetched
  | 0 => (s, .words ws (decodeWords ws))
  | n + 1 =>
    match s.fetchHalf (pc + 2 * ws.length) with
    | (t, .error e) => (t, e)
    | (t, .ok h) =>
      if isPrefix h then t.fetchChain pc (ws ++ [h]) n
      else (t, .words (ws ++ [h]) (decodeWords (ws ++ [h])))

/-- The fetch of the issuing slot's next chain; a chain has at most five words (R185). -/
def State.fetch (s : State) : State × Fetched := s.fetchChain s.me.pc [] 5

/-! ## Issue -/

/-- The latch of an issue: nothing of the chain has taken effect. An instruction that has issued and waits is not charged
again (R367). -/
def State.latch (s : State) (words : List Half) (ender : Bool) (sig : SigState) : State :=
  { s with iss := { len := 2 * words.length, npc := s.me.pc + 2 * words.length, words := words, sig := sig
                    ender := ender && bitOf s.me.sw 9, xfer := false, charge := !s.me.paid } }

/-- Whether the guard of a chain lets the instruction run (R192). -/
def guardRuns (x : Slot) (g : Option Guard) : Bool :=
  match g with
  | none => true
  | some g => x.cond g.cond.val != g.inv

/-- What the issue of a decoded chain turns into. -/
inductive Issued
  /-- refused by R191 step 5 or 6 -/
  | fault (code : Nat)
  /-- the signature differs (R205) -/
  | signature
  /-- captured by the Treadle (R288) -/
  | capture (sig : SigState)
  /-- skipped by its guard (R192) -/
  | skip (sig : SigState)
  /-- executed -/
  | run (sig : SigState)
  deriving DecidableEq, Repr

/-- Whether every queue operand is used in the direction that its stream allows: an instruction that the Treadle captures
is one of the Treadle stream (R156, R288). -/
def Slot.directions (x : Slot) (i : Instr) : Bool :=
  if x.tr.capture = 0 then (scalarReads i).all scalarReadable && (scalarWrites i).all scalarWritable
  else (scalarReads i).all treadleReadable && (scalarWrites i).all treadleWritable

/-- A capture in progress is abandoned with the buffer empty (R288). -/
def State.abandonCapture (s : State) : State :=
  if s.me.tr.capture = 0 then s else s.setMe { s.me with tr := { s.me.tr with buf := [], capture := 0 } }

/-- The checks at the issue of a chain, in their order (R191, R205, R288, R192). -/
def Slot.issues (x : Slot) (c : Chain) : Issued :=
  if !x.directions c.instr then .fault fcIllegalOpcode
  else if isSupervisor c.instr && !x.priv then .fault fcPrivilege
  else if decide (c.instr = .eret) && decide (x.tr.capture = 0) && guardRuns x c.fold.guard && !x.handler then
    .fault fcIllegalOpcode
  else match sigCheck x c.instr c.fold with
    | none => .signature
    | some sig =>
      if x.tr.capture ≠ 0 then .capture sig
      else if guardRuns x c.fold.guard then .run sig else .skip sig

end Sys2Proof.Machine
end

