-- ==== Sys2Proof/Machine/Issue.lean ====
section
/-! DEFINITION. The issue of a slot's next chain, and the issue at a turn (R116, R191, R192, R205, R356). -/

namespace Sys2Proof.Machine

/-- A fault of class P, or of class K for `SIGNATURE`, that the issue itself raises. -/
def issueFault (code : Nat) : FaultInfo := { signatureFault with code := code }

/-- Whether the slot `s.cur` reads an uncorrectable word among these register words (R401). -/
def State.unitsBad (s : State) (l : List Nat) : Bool := (s.core s.myCore).unitsBad (s.cur % 16) l

/-- After the issue of an instruction that has completed, the register words that it wrote hold no error. -/
def State.unitsWritten (s : State) (i : Instr) : State :=
  if s.me.run = .ready then s.setCore s.myCore ((s.core s.myCore).unitsWritten (s.cur % 16) (wroteUnits i)) else s

/-- The execution of an instruction at its issue. -/
def execIssued (i : Instr) (s : State) : Host.Outcome State Fault Refusal :=
  if (s.core s.myCore).regBad.isEmpty then exec i s
  else match exec i s with
    | .next t => .next (if (startOf i).isSome then t else ({ t with cur := s.cur } : State).unitsWritten i)
    | r => r

/-- The issue of a decoded chain by the slot `s.cur`. A chain that the decode checks refuse ends a capture (R288). A slot that
reads an uncorrectable register word is killed with `SIGNATURE` (R401). -/
def issueChain (ws : List Half) (c : Chain) (s : State) : Host.Outcome State Fault Refusal :=
  let ender := isBlockEnder c.instr
  let guard := condUnits (c.fold.guard.toList.map (·.cond))
  let killed := Host.Outcome.next ((s.latch ws ender s.me.sig).takeFault signatureFault)
  match s.me.issues c with
  | .fault code => .next ((s.abandonCapture.latch ws ender s.me.sig).takeFault (issueFault code))
  | .signature => .next ((s.latch ws ender s.me.sig).takeFault signatureFault)
  | .capture sig => runI (captureOp c.instr c.fold.guard.isSome) (s.latch ws ender sig)
  | .skip sig => if s.unitsBad guard then killed else .next (s.latch ws ender sig).commit
  | .run sig =>
    if s.unitsBad (guard ++ issueUnits c.instr) then killed else execIssued c.instr (s.latch ws ender sig)

/-- A fetch that waits: a slot that already waits goes on with what it waits for, and issues again. -/
def State.fetchWaits (s : State) (w : WaitFor) : State := if s.me.waits then s else s.waiting w

/-- The issue of the slot `s.cur`: fetch, decode, and the chain. -/
def issue (s : State) : Host.Outcome State Fault Refusal :=
  match s.fetch with
  | (t, .stall) => .next ((t.latch [] false t.me.sig).fetchWaits .retry)
  | (t, .walk va) =>
    .next (((t.latch [] false t.me.sig).askWalk { slot := t.cur, kind := .fetch } t.me.ptroot va).fetchWaits .walk)
  | (t, .fault code cause) => execInstructionFetchFault code (ofN t.me.pc) cause (t.latch [] false t.me.sig)
  | (t, .words ws (.error e)) => execIllegalOpcode (decide (e = .illegalPrefix)) (t.abandonCapture.latch ws false t.me.sig)
  | (t, .words ws (.ok c)) => issueChain ws c t

/-! ## The issue of a turn (R356) -/

/-- The issue at position `p`. A slot that was asked to stop, and has completed its AMO, parks. -/
def issueAt (p : Nat) (s : State) : Host.Outcome State Fault Refusal :=
  let gs := s.turnSlot (p / 16) (p % 16)
  match issue { s with cur := gs } with
  | .next t => .next ((t.stopNow gs).afterIssue p (s.slot gs).waits)
  | r => r

end Sys2Proof.Machine
end

