-- ==== Sys2Proof/Machine/Place.lean ====
section
/-! DEFINITION. How a program comes to run: supervisor firmware puts its code and page tables into memory and starts a
thread with `SLOT.RUN.new` (R321, R423); this file places one instruction so. -/

namespace Sys2Proof.Machine

/-- The address of the code, of the top translation table, and PTROOT with that table, P0 and ASN 0. -/
def placeCode : Nat := 0x10000
def placeTable : Nat := 0x40000000
def placeRoot : Word := ofN (placeTable + 1)

/-- A leaf of the top level that maps the first 64 GiB onto themselves with rights R, W and X (R71, R73). -/
def placeLeaf : Nat := 0x1F

/-- The bytes of an instruction: the table's words from the highest bits down, then zero words up to the longest
instruction. -/
def placeBytes (nbits w : Nat) : List Byte :=
  ((List.range (nbits / 16)).map (fun k => w / 2 ^ (16 * (nbits / 16 - 1 - k)) % 65536)).flatMap (bytesOf 2)
  ++ List.replicate 10 0

/-- That leaf as a walk brings it into the ITLB and the DTLB (R77). -/
def placeEntry : TlbEntry := { part := 0, asn := 0, level := 2, vpn := 0, leaf := ofN placeLeaf, leafPa := placeTable }

/-- Code and table in memory, nothing stale in the caches of core 0, the translation in its TLBs, and a thread in the slot of
core 0 that owns the running issue turn. -/
def State.placeWord (s : State) (nbits w : Nat) : State :=
  let gs := s.now % 16
  let s := s.physWrite placeCode (placeBytes nbits w)
  let s := s.physWrite placeTable (bytesOf 8 placeLeaf)
  let k := s.core 0
  let s := { s.setCore 0 { k with l1i := [], itlb := [placeEntry], dtlb := [placeEntry] } with
    tlb := s.tlb.del (clusterOf 0), agenda := [], turn := 0, phase := .issue, hub := { s.hub with safe := none } }
  let s := s.newThread gs placeCode placeRoot
  s.setSlot gs { s.slot gs with sw := ofN 256, startAt := 0, run := .ready }

end Sys2Proof.Machine
end

