-- ==== Sys2Proof/Machine/Step.lean ====
section
/-! DEFINITION. One step of the whole part. -/

namespace Sys2Proof.Machine

/-- A cycle of the safe report state: the compute dies stay in reset, so nothing of theirs acts (R428). -/
def State.safeCycle (s : State) : State := { s with now := s.now + 1 }

/-- One step: the oldest step that is due of an agent other than the slots; with none due, the next issue of this
cycle; with none left, the engine turns, the shared ports, and the next cycle (R116, R120, R145, R356). -/
def step (s : State) : Host.Outcome State Fault Refusal :=
  match s.agenda with
  | e :: es => runEvent e { s with agenda := es }
  | [] =>
    if s.hub.safe.isSome then .next s.safeCycle
    else match (if s.phase = .issue then s.nextIssue else none) with
      | some p => issueAt p s
      | none => .next s.nextPhase

/-- The state with the instruction `w` of `nbits` bits, numbered as the opcode table numbers them, where the next step
fetches: at the PC of a thread of P0 that owns the running issue turn of core 0 (assumption 3). -/
def State.withFetchWord (s : State) (nbits w : Nat) : State := s.placeWord nbits w

end Sys2Proof.Machine
end

