-- ==== Sys2Proof/Safety.lean ====
section
/-! DEFINITION. What counts as a safe run, and the vocabulary of the claims: what an operation answers when it neither
waits nor faults, an instruction's operands as read, its place in memory, and a byte of memory as a core reads it. -/

namespace Sys2Proof.Safety

open Sys2Proof.Machine

/-- A run of `n` steps that does not stop. The specification gives the part no stop: in the safe report state too, time
goes on (R428). -/
def SafeRun (n : Nat) (s : State) : Prop := ∃ t, core.run n s = .next t

/-- Memory in its canonical form. -/
def Canonical (s : State) : Prop := Memory.wf s.mem = true

/-! ## Operations that neither wait nor fault -/

/-- What an operation answers and the state that it leaves; none when it waits or faults. -/
def done (m : M α) (s : State) : Option (α × State) :=
  match m s with
  | .ok r => some r
  | .error _ => none

/-- The scalar operands `rs`, read in order once the issue condition of R156 and R263 holds for them and for the
destinations `ws`. -/
def operands (rs ws : List Nat) : M (List Word) := do
  ready rs ws
  rs.mapM readS

/-- An instruction that reads `rs` and writes `ws` may issue in `s`; the operands read are `vs` and leave `t`. -/
def Takes (s : State) (rs ws : List Nat) (vs : List Word) (t : State) : Prop := done (operands rs ws) s = some (vs, t)

/-- The same for an instruction that acts at a scope, which R327 may narrow before the operands are read. -/
def TakesAt (s : State) (sc : Scope) (rs ws : List Nat) (got : Scope) (vs : List Word) (t : State) : Prop :=
  done (do
    ready rs ws
    let a ← scopeFor .part sc
    let l ← rs.mapM readS
    pure (a, l)) s = some ((got, vs), t)

/-- No engine instruction that touches memory, queued or in an active replay, stands before the executing slot's next one
(R238, R290). -/
def MemoryFree (s : State) : Prop := (done memoryTurn s).isSome = true

/-- No queued engine instruction that touches memory stands before the executing slot's next one (R238). -/
def QueueFree (s : State) : Prop := ∀ e ∈ s.me.engq, isEngineMemory e.instr = false

/-- Nothing stands in the executing slot's engine queue and no replay is active (R263, R290). -/
def EngineFree (s : State) : Prop := s.me.engq = [] ∧ s.me.tr.active = false

/-! ## Engine instructions -/

/-- The state after the issue of an engine instruction that has read `vs`: it stands last in the slot's engine queue
(R263 step 2). -/
def entered (i : Instr) (vs : List Word) (t : State) : State :=
  (t.setMe { t.me with engq := t.me.engq ++
    [{ instr := i, words := t.iss.words, pc := t.me.pc, srcs := vs, banks := [], since := t.now }] }).commit

/-- The state in which the slot's engine turn starts that instruction. -/
def onTurn (i : Instr) (vs : List Word) (t : State) : State :=
  ((entered i vs t).engineOf t.cur false).withBanks t.myCore []

/-- The state after the engine turn of the slot `s.cur` at which an instruction has started, whose effect leaves `u`: it
leaves the queue, it has written its registers anew, and its start is charged (R263 step 3, R367, R401). -/
def turned (i : Instr) (s u : State) : State :=
  let t : State := { u.setCore s.myCore ({ u.core s.myCore with tb := (s.core s.myCore).tb }.unitsWritten (s.cur % 16)
                       (wroteUnits i)) with cur := s.cur, iss := s.iss }
  (t.setSlot s.cur { t.slot s.cur with
    engq := (t.slot s.cur).engq.tail
    walked := (t.slot s.cur).walked.filter (fun w => !decide (w.kind = .engine)) }).charge s.cur

/-- The engine instruction `i` completes: in `s`, with the operands `vs` read and `t` left, it enters the engine queue, and the
slot's engine turn starts it with the effect `u`. -/
def Performs (s t : State) (i : Instr) (vs : List Word) (u : State) : Prop :=
  exec i s = .next (entered i vs t) ∧ exec (.engineTurn s.cur) (entered i vs t) = .next (turned i (entered i vs t) u)

/-- An engine instruction that reads `vs` finds the port free, and no register word that it reads is in error (R263, R290,
R401). -/
def EngineTakes (s : State) (i : Instr) (vs : List Word) (t : State) : Prop :=
  EngineFree s ∧ Takes s (scalarReads i) (scalarWrites i) vs t ∧
  (s.core s.myCore).unitsBad (s.cur % 16) (startUnits i) = false

/-- An address translates with the rights needed to the place `l`, and the access leaves `t` (R76, R103). -/
def Finds (s : State) (need : Need) (dev : Bool) (va : Word) (l : Loc) (t : State) : Prop :=
  done (locate need dev va) s = some (l, t)

/-- Scalar operand `n` written: a general register, or a word pushed (R155, R156). -/
def puts (s : State) (n : Nat) (w : Word) : State := s.setMe (s.me.writeS n w)

/-- Predicate `n` written (R157). -/
def putsP (s : State) (n : Nat) (b : Bool) : State := s.setMe (s.me.setPred n b)

/-- A transfer to `t` taken by the instruction that completes (R217). -/
def goes (s : State) (t : Nat) : State := { s with iss := { s.iss with npc := t, xfer := true } }

/-- A transfer target that passes the checks of R217. -/
def GoodTarget (t : Int) : Prop := t % 2 = 0 ∧ 0 ≤ t ∧ t < 2 ^ 47

/-! ## Local memory -/

/-- `n` bytes of LM from `o` that the executing slot may use now: inside the LM, in banks of its partition, and in no bank
whose wipe is in progress (R118). -/
def LmOpen (s : State) (o n : Nat) : Prop :=
  o + n ≤ 2 ^ 19 ∧ lmOwned (s.part s.me.part).banks o n = true ∧ (s.core s.myCore).lmWiping o n = false

/-- No LM word that a read of `n` bytes at `o` touches holds an uncorrectable error (R119). -/
def LmSound (s : State) (o n : Nat) : Prop := (s.core s.myCore).lmError o n = none

/-- No LM word that a store of `n` bytes at `o` covers in part holds an uncorrectable error (R119). -/
def LmWritable (s : State) (o n : Nat) : Prop := (s.core s.myCore).lmStoreError o n = none

/-- LM bytes of the executing slot's core written. -/
def lmPut (s : State) (o : Nat) (bs : List Byte) : State := s.setCore s.myCore ((s.core s.myCore).lmStore o bs)

/-! ## Global memory -/

/-- A read of `n` bytes at a place, none of them poisoned: the hub register or view for ATTR 2, else the sector that holds
them, through the core's L1D for ATTR 0 (R9, R58, R73). -/
def Loads (s : State) (l : Loc) (n v : Nat) (t : State) : Prop :=
  (l.attr = 2 ∧ s.hubPoison l.key = false ∧ s.hubRead l.key n = (t, v)) ∨
  (l.attr ≠ 2 ∧ l.key % 32 + n ≤ 32 ∧ ∃ d, s.readSector s.me.part s.myCore (l.key / 32) (decide (l.attr = 0))
      (touched l.key n (l.key / 32)) (l.leafPa, l.leaf) = (t, d, false) ∧
    v = d.toNat / 2 ^ (8 * (l.key % 32)) % 2 ^ (8 * n))

/-- The state after a store of bytes at a place: a step at the hub for ATTR 2, else the bytes in the core's L1D or at the
home (R93, R114, R234). -/
def stored (s : State) (l : Loc) (bs : List Byte) : State :=
  if l.attr = 2 then s.hubStore l.key bs else s.storeBytes s.me.part s.myCore l.key (decide (l.attr = 0)) bs (l.leafPa, l.leaf)

/-- Whether a store of bytes may take its place now: no AMO holds a word that it touches, and no bytes of an engine store of the
slot wait (R98); at the hub, it changes no RWS field at task privilege (R7). -/
def MayStore (s : State) (l : Loc) (bs : List Byte) : Prop :=
  (l.attr = 2 → s.me.priv = true ∨ s.hubForbids l.key bs = false) ∧
  (l.attr ≠ 2 → s.anyReserved l.key bs.length = false ∧ s.me.late = none)

/-- Whether the release step of an ordering may act now: no word that it writes back is reserved (R98, R232). -/
def MayRelease (s : State) (o : Ord) (sc : Scope) : Prop := relOf o = true → s.releaseHeld s.myCore sc = false

/-- What a load does before its access when it acquires at `.part` or `.dev`: the core's untracked copy goes (R328). -/
def beforeAcquire (s : State) (o : Ord) (sc : Scope) (l : Loc) : State :=
  if acqOf o && wide sc then runE (dropOwnU l) s else s

/-- The acquire step, when the ordering has one (R232). -/
def acquired (s : State) (o : Ord) (sc : Scope) : State := if acqOf o then s.acquire s.myCore sc else s

/-- The release step, when the ordering has one (R232). -/
def released (s : State) (o : Ord) (sc : Scope) : State := if relOf o then s.release s.myCore sc else s

/-- The dirty bytes of the core's own untracked copy written through after a wide release (R328). -/
def through (s : State) (o : Ord) (sc : Scope) (l : Loc) : State :=
  if relOf o && wide sc then runE (throughU l) s else s

/-- The core's own untracked copy of a sector written back and dropped (R96, R98). -/
def dropped (s : State) (l : Loc) : State := runE (dropOwnU l) s

/-- The sector of a word gathered at its home for an AMO, a RED or a counter: the core's own untracked copy is written back,
and the dirty bytes of an exclusive owner are recalled (R96, R98). -/
def gathered (s : State) (l : Loc) : State := ((dropped s l).atHome (dropped s l).me.part l.key).recallSector l.key

/-! ## Vectors -/

/-- Vector register `d` written. -/
def vputs (s : State) (d : VReg) (r : VWord) : State := s.setMe { s.me with v := s.me.v.setIfInBounds d.val r }

/-- The engine port stands free for a vector instruction, and none of the vector registers `vs` is in error (R263, R290,
R401). -/
def VectorFree (s : State) (vs : List VReg) : Prop :=
  EngineFree s ∧ (s.core s.myCore).unitsBad (s.cur % 16) (vs.map unitV) = false

/-- Flags raised in SW (R164). -/
def flagged (s : State) (fl : FlagSet) : State := if fl = 0 then s else s.setMe (s.me.orFlags fl)

/-- What a vector instruction leaves that writes `r` to `d` and raises `fl`. -/
def vends (s : State) (d : VReg) (r : VWord) (fl : FlagSet) : State := flagged (vputs s d r) fl

/-- A vector instruction that has read `vs` completes with `r` in `d` and the flags `fl` raised. -/
def PerformsV (s t : State) (i : Instr) (vs : List Word) (d : VReg) (r : VWord) (fl : FlagSet) : Prop :=
  Performs s t i vs (vends (onTurn i vs t) d r fl)

/-- The end of an engine store none of whose bytes wait (R98). -/
def storeEnds (s : State) : State := s.setMe { s.me with late := none }

/-- Lane `i` of vector register `a` of the executing slot, read in a type. -/
def lanesAt (s : State) (w : Nat) (a : VReg) (i : Nat) : Nat := lane w (s.me.v[a.val]!) i

/-- The same as an integer in the signedness of the type (R172). -/
def intAt (s : State) (t : ElemTy) (a : VReg) (i : Nat) : Int := intLane t (lanesAt s (elemBits t) a i)

/-- SW.RM of the executing slot (R174). -/
def roundingOf (s : State) : Rm := rmOf (fld s.me.sw 3 2)

/-! ## Gates -/

/-- Whether this part's own table serves gate `n`: the entry is not valid, is not bridged, or is the master of a pair
(R385). -/
def servedHere (s : State) (n : Nat) : Prop :=
  (s.gate n).valid = false ∨ (s.gate n).bridge = false ∨ ((s.gate n).master = true ∧ s.paired n (s.gate n) = true)

/-! ## Carter commands -/

/-- A Carter command as its instruction names it, before anything of it has landed (R258). -/
def command (x : Slot) (kind : CpKind) (rows : Nat) (a b c0 c1 c2 c3 : Word) (bar : Loc) : CpCmd :=
  { kind := kind, a := a, b := b, c0 := c0, c1 := c1, c2 := c2, c3 := c3, rows := rows, idx := x.cp.accepted % 16
    priv := x.priv, ptroot := x.ptroot, barKey := bar.key, row := 0, col := 0, landed := 0, held := false
    barVia := bar.via x.ptroot }

/-- The conditions of R125, R258 and R259 under which a slot with a free queue place has a command accepted: the operands
and the block are read, the fields are legal, the barrier object may be used, the ranges lie where the slot may go, and the
credit fits. `u` is the state with the credit made. -/
def Accepts (s : State) (kind : CpKind) (twoD : Bool) (a b c : Reg) (cmd : CpCmd) (u : State) : Prop :=
  ∃ (t q : State) (x y : Word) (bar : Loc) (rows : Nat),
    cpBlockOk c.val = true ∧ s.me.cp.queue.length < 16 ∧
    done (do
      ready [a.val, b.val, c.val, c.val + 1, c.val + 2, c.val + 3] []
      let x ← readS a.val
      let y ← readS b.val
      pure (x, y)) s = some ((x, y), t) ∧
    rows = (if twoD then fld s.me.g[c.val + 3]! 15 0 + 1 else 1) ∧
    fld s.me.g[c.val]! 63 28 = 0 ∧ (twoD = true ∨ fld s.me.g[c.val + 3]! 15 0 = 0) ∧ fld s.me.g[c.val]! 23 0 ≠ 0 ∧
    (bitOf s.me.g[c.val]! 25 = false ∨ kind.dstGlobal = false) ∧
    done (do
      let l ← barLoc s.me.g[c.val + 1]!
      let _ ← barValid l.key s.me.part s.me.g[c.val + 1]!
      pure l) t = some (bar, q) ∧
    cmd = command s.me kind rows x y s.me.g[c.val]! s.me.g[c.val + 1]! s.me.g[c.val + 2]! s.me.g[c.val + 3]! bar ∧
    (s.me.priv = true ∨ (cmd.srcSpace q.myCore ≠ .element ∧ cmd.dstSpace q.myCore ≠ .element)) ∧
    cmd.lmFieldBad = none ∧ (kind = .l2l → q.inCoreSet s.me.part (fld x 26 19) = true) ∧
    cmd.lmBad (q.part s.me.part).banks q.myCore = none ∧ cmd.elementBad q.myCore = false ∧
    (if cmd.credited then q.barCredit bar.key cmd.total = some u else u = q)

/-! ## Fetches -/

/-- Successive instruction fetches of the executing slot from `pc`, the `k`-th word on, give these words and leave the state
`t` (R191). -/
def Fetches (s : State) (pc : Nat) : Nat → List Half → State → Prop
  | _, [], t => t = s
  | k, h :: hs, t => ∃ u, s.fetchHalf (pc + 2 * k) = (u, .ok h) ∧ Fetches u pc (k + 1) hs t

/-! ## Frames -/

/-- The scalar destination of an instruction that computes a general register from registers alone (R206 to R216). -/
def scalarDest : Instr → Option Reg
  | .add d _ _ | .sub d _ _ | .and d _ _ | .or d _ _ | .xor d _ _ | .andn d _ _ | .shl d _ _ | .shr d _ _ | .sar d _ _
  | .mul d _ _ | .min d _ _ | .max d _ _ | .mulh d _ _ | .mulhz d _ _ | .div d _ _ | .divz d _ _ | .rem d _ _
  | .remz d _ _ | .minz d _ _ | .maxz d _ _ | .rol d _ _ | .mov d _ | .addi d _ _ | .movi d _ | .clz d _ | .ctz d _
  | .popc d _ | .brev d _ | .bswap d _ | .sext _ d _ | .zext _ d _ | .shli d _ _ | .shri d _ _ | .sari d _ _
  | .roli d _ _ | .bfx d _ _ | .bfi d _ _ | .sel _ d _ _ | .lea _ d _ _ => some d
  | _ => none

/-- The predicate that a compare or a predicate instruction writes (R214, R215). -/
def predDest : Instr → Option PReg
  | .cmp _ d _ _ | .cmpi _ d _ _ | .pand d _ _ | .por d _ _ | .pxor d _ _ | .pnot d _ | .pmov d _ => some d
  | _ => none

/-- The byte at a home key as the executing slot's core has it: in its L1D, but for bytes not fetched yet, else at the home
(R93, R114). -/
def byteSeen (s : State) (key : Nat) : Byte :=
  match s.l1 s.myCore (key / 32) with
  | some l => if l.unfetched.getLsbD (key % 32) then memByte s.mem key else sectorByte l.data (key % 32)
  | none => memByte s.mem key

/-! ## Encoding -/

/-- Whether a constructor is a machine instruction whose words name it. The five actions of `HB.CTL` share one word, and its
operand b tells them apart (R324): the decoder gives the first. -/
def ownWords : Instr → Bool
  | .hbCtlDisable _ _ | .hbCtlClear _ _ | .hbCtlOffline _ _ | .hbCtlOnline _ _ => false
  | i => (toFold i).isSome

end Sys2Proof.Safety
end

