-- ==== Sys2Proof/Certificates/Slice0/Obligations.lean ====
section
/-! DEFINITION. The statements about the model. Each docstring names the rule of the specification that it formalises
or the model's choice that it rests on. -/

open Sys2Proof Sys2Proof.Machine Sys2Proof.Safety
/-! ## Scalar instructions -/

/-- R206, R208, R209: each two-source instruction writes its result to d and nothing else, whatever its operands. -/
def Obligations.TwoSourceResults : Prop :=
  ∀ (s t : State) (d a b : Reg) (x y : Word), Takes s [a.val, b.val] [d.val] [x, y] t →
    exec (.add d a b) s = .next (puts t d.val (BitVec.ofInt 64 (x.toInt + y.toInt))).commit ∧
    exec (.sub d a b) s = .next (puts t d.val (BitVec.ofInt 64 (x.toInt - y.toInt))).commit ∧
    exec (.and d a b) s = .next (puts t d.val (x &&& y)).commit ∧
    exec (.or d a b) s = .next (puts t d.val (x ||| y)).commit ∧
    exec (.xor d a b) s = .next (puts t d.val (x ^^^ y)).commit ∧
    exec (.andn d a b) s = .next (puts t d.val (x &&& ~~~y)).commit ∧
    exec (.shl d a b) s = .next (puts t d.val (BitVec.ofNat 64 (x.toNat * 2 ^ y.toNat))).commit ∧
    exec (.shr d a b) s = .next (puts t d.val (BitVec.ofNat 64 (x.toNat / 2 ^ y.toNat))).commit ∧
    exec (.sar d a b) s = .next (puts t d.val (BitVec.ofInt 64 (x.toInt / 2 ^ y.toNat))).commit ∧
    exec (.mul d a b) s = .next (puts t d.val (BitVec.ofInt 64 (x.toInt * y.toInt))).commit ∧
    exec (.min d a b) s = .next (puts t d.val (BitVec.ofInt 64 (min x.toInt y.toInt))).commit ∧
    exec (.max d a b) s = .next (puts t d.val (BitVec.ofInt 64 (max x.toInt y.toInt))).commit ∧
    exec (.mulh d a b) s = .next (puts t d.val (BitVec.ofInt 64 (x.toInt * y.toInt / 2 ^ 64))).commit ∧
    exec (.mulhz d a b) s = .next (puts t d.val (BitVec.ofNat 64 (x.toNat * y.toNat / 2 ^ 64))).commit ∧
    exec (.minz d a b) s = .next (puts t d.val (BitVec.ofNat 64 (min x.toNat y.toNat))).commit ∧
    exec (.maxz d a b) s = .next (puts t d.val (BitVec.ofNat 64 (max x.toNat y.toNat))).commit ∧
    exec (.rol d a b) s = .next (puts t d.val (x.rotateLeft (y.toNat % 64))).commit

/-- R209: a quotient q and a remainder r of x by y, division truncating toward zero; all ones and x for a divisor of
zero. -/
def Obligations.DivisionResults : Prop :=
  ∀ (s t : State) (d a b : Reg) (x y : Word), Takes s [a.val, b.val] [d.val] [x, y] t →
    (∃ q r : Int,
      exec (.div d a b) s = .next (puts t d.val (BitVec.ofInt 64 q)).commit ∧
      exec (.rem d a b) s = .next (puts t d.val (BitVec.ofInt 64 r)).commit ∧
      (y = 0 → q = -1 ∧ r = x.toInt) ∧
      (y ≠ 0 → x.toInt = q * y.toInt + r ∧ r.natAbs < y.toInt.natAbs ∧ (0 ≤ x.toInt → 0 ≤ r) ∧ (x.toInt ≤ 0 → r ≤ 0))) ∧
    (∃ q r : Word,
      exec (.divz d a b) s = .next (puts t d.val q).commit ∧
      exec (.remz d a b) s = .next (puts t d.val r).commit ∧
      (y = 0 → q = BitVec.allOnes 64 ∧ r = x) ∧
      (y ≠ 0 → x.toNat = q.toNat * y.toNat + r.toNat ∧ r.toNat < y.toNat))

/-- R210, R213: `ADDI`, `SHLI`, `SHRI`, `SARI` and `ROLI` combine a with the immediate, `MOV` copies a, `MOVI` writes the
immediate, and `LEA` adds b shifted left by sh. -/
def Sys2Proof.Claims.ImmediateResults : Prop :=
  (∀ (s t : State) (d a : Reg) (x : Word) (imm : Int) (n : Nat), Takes s [a.val] [d.val] [x] t →
    exec (.mov d a) s = .next (puts t d.val x).commit ∧
    exec (.addi d a imm) s = .next (puts t d.val (BitVec.ofInt 64 (x.toInt + imm))).commit ∧
    (n < 64 → exec (.shli d a n) s = .next (puts t d.val (BitVec.ofNat 64 (x.toNat * 2 ^ n))).commit) ∧
    (n < 64 → exec (.shri d a n) s = .next (puts t d.val (BitVec.ofNat 64 (x.toNat / 2 ^ n))).commit) ∧
    (n < 64 → exec (.sari d a n) s = .next (puts t d.val (BitVec.ofInt 64 (x.toInt / 2 ^ n))).commit) ∧
    (n < 64 → exec (.roli d a n) s = .next (puts t d.val (x.rotateLeft n)).commit)) ∧
  (∀ (s t : State) (d : Reg) (imm : Int), Takes s [] [d.val] [] t →
    exec (.movi d imm) s = .next (puts t d.val (BitVec.ofInt 64 imm)).commit) ∧
  (∀ (s t : State) (d a b : Reg) (sh : Fin 4) (x y : Word), Takes s [a.val, b.val] [d.val] [x, y] t →
    exec (.lea sh d a b) s = .next (puts t d.val (BitVec.ofNat 64 (x.toNat + y.toNat * 2 ^ sh.val))).commit)

/-- R211: counts of leading and trailing zeros and of ones, reversal of bits and of bytes, and extensions, said bit by bit. -/
def Sys2Proof.Claims.OneSourceResults : Prop :=
  ∀ (s t : State) (d a : Reg) (x : Word), Takes s [a.val] [d.val] [x] t →
    (∃ n : Nat, exec (.clz d a) s = .next (puts t d.val (BitVec.ofNat 64 n)).commit ∧ n ≤ 64 ∧
      (∀ i, i < n → x.getLsbD (63 - i) = false) ∧ (n < 64 → x.getLsbD (63 - n) = true)) ∧
    (∃ n : Nat, exec (.ctz d a) s = .next (puts t d.val (BitVec.ofNat 64 n)).commit ∧ n ≤ 64 ∧
      (∀ i, i < n → x.getLsbD i = false) ∧ (n < 64 → x.getLsbD n = true)) ∧
    (exec (.popc d a) s =
      .next (puts t d.val (BitVec.ofNat 64 ((List.range 64).countP (fun i => x.getLsbD i)))).commit) ∧
    (∃ r : Word, exec (.brev d a) s = .next (puts t d.val r).commit ∧ ∀ i, i < 64 → r.getLsbD i = x.getLsbD (63 - i)) ∧
    (∃ r : Word, exec (.bswap d a) s = .next (puts t d.val r).commit ∧
      ∀ i, i < 8 → r.extractLsb' (8 * i) 8 = x.extractLsb' (8 * (7 - i)) 8) ∧
    exec (.sext .s8 d a) s = .next (puts t d.val ((x.setWidth 8).signExtend 64)).commit ∧
    exec (.sext .s16 d a) s = .next (puts t d.val ((x.setWidth 16).signExtend 64)).commit ∧
    exec (.sext .s32 d a) s = .next (puts t d.val ((x.setWidth 32).signExtend 64)).commit ∧
    exec (.zext .z8 d a) s = .next (puts t d.val ((x.setWidth 8).setWidth 64)).commit ∧
    exec (.zext .z16 d a) s = .next (puts t d.val ((x.setWidth 16).setWidth 64)).commit ∧
    exec (.zext .z32 d a) s = .next (puts t d.val ((x.setWidth 32).setWidth 64)).commit

/-- R212: with POS `pos` and length `len`, `BFX` writes the field of a extended to 64 bits, and `BFI` replaces the field
of d and keeps its other bits. -/
def Sys2Proof.Claims.BitFieldResults : Prop :=
  ∀ (pos len : Nat), 1 ≤ len → pos + len ≤ 64 →
    (∀ (s t : State) (d a : Reg) (x : Word), Takes s [a.val] [d.val] [x] t →
      exec (.bfx d a ((len - 1) * 64 + pos)) s =
        .next (puts t d.val ((x.extractLsb' pos len).setWidth 64)).commit ∧
      exec (.bfx d a (4096 + (len - 1) * 64 + pos)) s =
        .next (puts t d.val ((x.extractLsb' pos len).signExtend 64)).commit) ∧
    (∀ (s t : State) (d a : Reg) (x y : Word), Takes s [d.val, a.val] [d.val] [x, y] t →
      ∃ r : Word, exec (.bfi d a ((len - 1) * 64 + pos)) s = .next (puts t d.val r).commit ∧
        ∀ i, i < 64 → r.getLsbD i = if pos ≤ i ∧ i < pos + len then y.getLsbD (i - pos) else x.getLsbD i)

/-- Results of the immediate, one-source and bit-field instructions: `ImmediateResults`, `OneSourceResults` and
`BitFieldResults` together. -/
def Obligations.ScalarResults : Prop := Claims.ImmediateResults ∧ Claims.OneSourceResults ∧ Claims.BitFieldResults

/-- R157, R214 to R216: `SEL` writes the operand that the condition picks, both having been read; compares and predicate
instructions write the relation or the combination of the conditions sampled at issue. -/
def Obligations.SelectAndPredicates : Prop :=
  (∀ (s t : State) (c : Cond) (d a b : Reg) (x y : Word), Takes s [a.val, b.val] [d.val] [x, y] t →
    exec (.sel c d a b) s = .next (puts t d.val (if s.me.cond c.val then x else y)).commit) ∧
  (∀ (s t : State) (d : PReg) (a b : Reg) (x y : Word), Takes s [a.val, b.val] [] [x, y] t →
    exec (.cmp .eq d a b) s = .next (putsP t d.val (decide (x = y))).commit ∧
    exec (.cmp .ne d a b) s = .next (putsP t d.val (decide (x ≠ y))).commit ∧
    exec (.cmp .lt d a b) s = .next (putsP t d.val (x.slt y)).commit ∧
    exec (.cmp .le d a b) s = .next (putsP t d.val (x.sle y)).commit ∧
    exec (.cmp .gt d a b) s = .next (putsP t d.val (y.slt x)).commit ∧
    exec (.cmp .ge d a b) s = .next (putsP t d.val (y.sle x)).commit ∧
    exec (.cmp .ltz d a b) s = .next (putsP t d.val (x.ult y)).commit ∧
    exec (.cmp .lez d a b) s = .next (putsP t d.val (x.ule y)).commit ∧
    exec (.cmp .gtz d a b) s = .next (putsP t d.val (y.ult x)).commit ∧
    exec (.cmp .gez d a b) s = .next (putsP t d.val (y.ule x)).commit) ∧
  (∀ (s t : State) (r : Rel) (d : PReg) (a : Reg) (x : Word) (imm : Int), Takes s [a.val] [] [x] t →
    exec (.cmpi r d a imm) s = .next (putsP t d.val (relHolds r x (BitVec.ofInt 64 imm))).commit) ∧
  (∀ (s : State) (d : PReg) (x y : Cond),
    exec (.pand d x y) s = .next (putsP s d.val (s.me.cond x.val && s.me.cond y.val)).commit ∧
    exec (.por d x y) s = .next (putsP s d.val (s.me.cond x.val || s.me.cond y.val)).commit ∧
    exec (.pxor d x y) s = .next (putsP s d.val (s.me.cond x.val ^^ s.me.cond y.val)).commit ∧
    exec (.pnot d x) s = .next (putsP s d.val (!s.me.cond x.val)).commit ∧
    exec (.pmov d x) s = .next (putsP s d.val (s.me.cond x.val)).commit)

/-- R217 to R220, R222: a transfer that passes the target checks goes to its target, a branch not taken and a `LOOP`
whose counter reaches zero fall through, and `NOP` and `SIG` change only the PC. -/
def Sys2Proof.Claims.Transfers : Prop :=
  (∀ (s : State) (c : Cond) (sense : Bool) (off : Int),
    (s.me.cond c.val ≠ sense → exec (.br c sense off) s = .next s.commit) ∧
    (s.me.cond c.val = sense → GoodTarget (s.me.pc + 2 * off) →
      exec (.br c sense off) s = .next (goes s (s.me.pc + 2 * off).toNat).commit) ∧
    (GoodTarget (s.me.pc + 2 * off) → exec (.jmp off) s = .next (goes s (s.me.pc + 2 * off).toNat).commit)) ∧
  (∀ (s t : State) (a : Reg) (x : Word), Takes s [a.val] [] [x] t → GoodTarget (x.toNat : Int) →
    exec (.jmpi a) s = .next (goes t x.toNat).commit) ∧
  (∀ (s t : State) (g : Reg) (x : Word) (off : Int), Takes s [g.val] [g.val] [x] t →
    (x = 1 → exec (.loop g off) s = .next (puts t g.val 0).commit) ∧
    (x ≠ 1 → GoodTarget ((puts t g.val (x - 1)).me.pc + 2 * off) →
      exec (.loop g off) s =
        .next (goes (puts t g.val (x - 1)) ((puts t g.val (x - 1)).me.pc + 2 * off).toNat).commit)) ∧
  (∀ (s : State) (imm : Nat), exec .nop s = .next s.commit ∧ exec (.sig imm) s = .next s.commit)

/-- R217: a `JMP` whose target has bit 0 set takes `ALIGN`, and one whose target lies outside 47 bits takes `PAGE_ABSENT`,
with the target as TRAPADDR, and nothing else changes. -/
def Sys2Proof.Claims.BadTargets : Prop :=
  ∀ (s : State) (off : Int),
    ((s.me.pc + 2 * off) % 2 ≠ 0 →
      exec (.jmp off) s = .next (s.takeFault
        { code := 4, addr := BitVec.ofInt 64 (s.me.pc + 2 * off), loc := true, kind := 0, cause := 0, extra := [] })) ∧
    ((s.me.pc + 2 * off) % 2 = 0 → ¬ (0 ≤ s.me.pc + 2 * off ∧ s.me.pc + 2 * off < 2 ^ 47) →
      exec (.jmp off) s = .next (s.takeFault
        { code := 6, addr := BitVec.ofInt 64 (s.me.pc + 2 * off), loc := false, kind := 0, cause := 0, extra := [] }))

/-- Transfers of control and their bad targets: `Transfers` and `BadTargets` together. -/
def Obligations.TransferResults : Prop := Claims.Transfers ∧ Claims.BadTargets

/-! ## Calls, traps and the end of an instruction -/

/-- R221: a call that passes its checks stores the return address in the LM word below the stack pointer, lowers g23 by 8
and goes to its target; a return loads the target, raises g23 by 8 and goes there. -/
def Sys2Proof.Claims.CallsAndReturns : Prop :=
  (∀ (s : State) (off : Int), MemoryFree s → 23 ∉ s.me.owed → GoodTarget (s.me.pc + 2 * off) →
    (s.me.g[23]!).toNat % 8 = 0 → s.me.sbase.toNat + 8 ≤ (s.me.g[23]!).toNat → (s.me.g[23]!).toNat ≤ s.me.slim.toNat →
    LmOpen s ((s.me.g[23]!).toNat - 8) 8 → LmWritable s ((s.me.g[23]!).toNat - 8) 8 →
    exec (.call off) s = .next (goes (puts (lmPut s ((s.me.g[23]!).toNat - 8) (bytesOf 8 s.iss.npc)) 23
      (BitVec.ofNat 64 ((s.me.g[23]!).toNat - 8))) (s.me.pc + 2 * off).toNat).commit) ∧
  (∀ (s t : State) (a : Reg) (x : Word), Takes s [a.val] [] [x] t → MemoryFree t → 23 ∉ t.me.owed →
    GoodTarget (x.toNat : Int) →
    (t.me.g[23]!).toNat % 8 = 0 → t.me.sbase.toNat + 8 ≤ (t.me.g[23]!).toNat → (t.me.g[23]!).toNat ≤ t.me.slim.toNat →
    LmOpen t ((t.me.g[23]!).toNat - 8) 8 → LmWritable t ((t.me.g[23]!).toNat - 8) 8 →
    exec (.calli a) s = .next (goes (puts (lmPut t ((t.me.g[23]!).toNat - 8) (bytesOf 8 t.iss.npc)) 23
      (BitVec.ofNat 64 ((t.me.g[23]!).toNat - 8))) x.toNat).commit) ∧
  (∀ (s : State) (v : Nat), MemoryFree s → 23 ∉ s.me.owed → (s.me.g[23]!).toNat % 8 = 0 →
    s.me.sbase.toNat ≤ (s.me.g[23]!).toNat → (s.me.g[23]!).toNat + 8 ≤ s.me.slim.toNat →
    LmOpen s (s.me.g[23]!).toNat 8 → LmSound s (s.me.g[23]!).toNat 8 →
    v = ofBytes ((s.core s.myCore).lmBytes (s.me.g[23]!).toNat 8) → GoodTarget (v : Int) →
    exec .ret s = .next (goes (puts s 23 (BitVec.ofNat 64 ((s.me.g[23]!).toNat + 8))) v).commit)

/-- R221, R391, R392: a `CALL` whose stack would leave [SBASE, SLIM] takes `STACK_LIMIT` with the stack pointer as TRAPADDR
and stores nothing. -/
def Sys2Proof.Claims.CallStackLimit : Prop :=
  ∀ (s : State) (off : Int), MemoryFree s → 23 ∉ s.me.owed → GoodTarget (s.me.pc + 2 * off) →
    (s.me.g[23]!).toNat % 8 = 0 →
    ((s.me.g[23]!).toNat < s.me.sbase.toNat + 8 ∨ s.me.slim.toNat < (s.me.g[23]!).toNat) →
    exec (.call off) s = .next (s.takeFault
      { code := 5, addr := s.me.g[23]!, loc := true, kind := 0, cause := 0, extra := [] })

/-- Calls, returns and the limits of the stack: `CallsAndReturns` and `CallStackLimit` together. -/
def Obligations.CallStack : Prop := Claims.CallsAndReturns ∧ Claims.CallStackLimit

/-- R225, R391: a `TRAP` whose slot has TRAPV.EN set and is in no handler is taken locally: PC, code and TRAPADDR (the
immediate and the length) are saved, the signature state is set aside, the handler flag is set and the PC is TRAPV.HANDLER;
the registers, predicates, vectors and memory stay. -/
def Sys2Proof.Claims.TrapTakenLocally : Prop :=
  ∀ (s : State) (imm : Nat), imm < 2 ^ 32 → s.iss.len < 16 → bitOf s.me.trapv 0 = true → s.me.handler = false →
    ∃ t, exec (.trap imm) s = .next t ∧
      t.me.trappc = BitVec.ofNat 64 s.me.pc ∧ t.me.trapcode = 24 ∧
      t.me.trapaddr = BitVec.ofNat 64 (imm + s.iss.len * 2 ^ 32) ∧
      t.me.handler = true ∧ t.me.pc = fld s.me.trapv 47 1 * 2 ∧
      t.me.sigAside = (if s.iss.ender then { s.iss.sig with lastXfer := true } else s.iss.sig) ∧ t.me.sig.armed = false ∧ t.me.sig.lastXfer = true ∧
      t.me.g = s.me.g ∧ t.me.p = s.me.p ∧ t.me.v = s.me.v ∧ t.me.sw = s.me.sw ∧ t.me.run = .ready ∧
      t.mem = s.mem ∧ t.fqWait = s.fqWait ∧ ∀ gs, gs ≠ s.cur → t.slot gs = s.slot gs

/-- R225, R227, R392 to R394: a `TRAP` that is not taken locally, and every `BRK`, parks the slot at the next instruction,
keeps its registers (a `TRAP` writes TRAPADDR) and posts one record to the partition's fault queue, or to P0's when the partition has none. -/
def Sys2Proof.Claims.TrapsReported : Prop :=
  ∀ (s : State) (imm : Nat), imm < 2 ^ 32 → s.amoOf s.cur = none →
    ((bitOf s.me.trapv 0 = false ∨ s.me.handler = true) →
      ∃ t r, exec (.trap imm) s = .next t ∧ t.me.run = .parked .fault ∧ t.me.pc = s.me.pc + s.iss.len ∧
        t.me.handler = s.me.handler ∧ t.me.trapaddr = BitVec.ofNat 64 (imm + s.iss.len * 2 ^ 32) ∧
        t.me.g = s.me.g ∧ t.mem = s.mem ∧
        t.fqWait = s.fqWait ++ [r] ∧ r.code = 24 ∧ r.slot = some s.cur ∧
        r.queue = (if s.fqLog2 s.me.part = 0 then 0 else s.me.part) ∧
        ofBytes (r.bytes.take 8) = 24 * 2 ^ 56 + s.me.part * 2 ^ 52 + s.me.pc % 2 ^ 48 ∧
        (r.bytes.drop 16).take 8 = bytesOf 8 (BitVec.ofNat 64 (imm + s.iss.len * 2 ^ 32)).toNat) ∧
    (∃ t r, exec .brk s = .next t ∧ t.me.run = .parked .fault ∧ t.me.pc = s.me.pc + s.iss.len ∧
        t.me.handler = s.me.handler ∧ t.me.g = s.me.g ∧ t.mem = s.mem ∧
        t.fqWait = s.fqWait ++ [r] ∧ r.code = 25 ∧ r.slot = some s.cur ∧
        ofBytes (r.bytes.take 8) = 25 * 2 ^ 56 + s.me.part * 2 ^ 52 + s.me.pc % 2 ^ 48)

/-- Local and reported traps: `TrapTakenLocally` and `TrapsReported` together. -/
def Obligations.TrapEntry : Prop := Claims.TrapTakenLocally ∧ Claims.TrapsReported

/-- R226: with the handler flag set, `ERET` clears it, restores the signature state set aside and goes to TRAPPC; without
it, `ERET` takes `ILLEGAL_OPCODE`. -/
def Obligations.ReturnFromTrap : Prop :=
  ∀ s : State,
    (s.me.handler = true → ∃ t, exec .eret s = .next t ∧ t.me.handler = false ∧ t.me.sig = s.me.sigAside ∧
      t.me.pc = fld s.me.trappc 47 1 * 2 ∧ t.me.g = s.me.g ∧ t.me.p = s.me.p ∧ t.me.v = s.me.v ∧ t.me.sw = s.me.sw ∧
      t.mem = s.mem ∧ ∀ gs, gs ≠ s.cur → t.slot gs = s.slot gs) ∧
    (s.me.handler = false → exec .eret s = .next (s.takeFault
      { code := 1, addr := 0, loc := false, kind := 0, cause := 0, extra := [] }))

/-- R228: a `WFE` completes when an event came in its issue cycle, or when one has come while it waits; otherwise the slot
waits with its PC unchanged. R223: a `TEND` whose slot has no Carter command, engine instruction, replay or tile under
way leaves the slot without a task and parked, with its registers as they stand and its inbox empty. Readings of the
model's own: log entry 63. -/
def Sys2Proof.Claims.WaitForEventAndTaskEnd : Prop :=
  (∀ s : State, (∀ n g, s.me.run ≠ .waiting (.wfe n g)) → s.me.event = s.now + 1 → exec .wfe s = .next s.commit) ∧
  (∀ (s : State) (n : Nat) (g : SigState), s.me.run = .waiting (.wfe n g) →
    (s.me.event ≠ 0 → exec .wfe s = .next (s.setMe { s.me with wokeAt := s.now + 1 }).commit) ∧
    (s.me.event = 0 → ∃ t, exec .wfe s = .next t ∧
      t.me.run = .waiting (.wfe s.iss.npc (s.iss.ended s.iss.xfer)) ∧ t.me.pc = s.me.pc)) ∧
  (∀ s : State, (∀ n g, s.me.run ≠ .waiting (.wfe n g)) → s.me.event ≠ s.now + 1 →
    ∃ t, exec .wfe s = .next t ∧ t.me.run = .waiting (.wfe s.iss.npc (s.iss.ended s.iss.xfer)) ∧ t.me.event = 0 ∧
      t.me.pc = s.me.pc) ∧
  (∀ s : State, s.me.cp.queue = [] → s.me.engq = [] → s.me.tr.active = false →
    ((s.core s.myCore).latch.holder ≠ some (s.cur % 16) ∨ (s.core s.myCore).latch.sending = none) →
    s.endStalls s.cur = false →
    ∃ t, exec .tend s = .next t ∧ t.me.task = none ∧ t.me.run = .parked .noThread ∧ t.me.inbox = [] ∧
      t.me.handler = false ∧ t.me.g = s.me.g ∧ t.me.p = s.me.p ∧ t.me.v = s.me.v ∧ t.me.inq = s.me.inq ∧
      t.me.q5 = s.me.q5)

/-- R367: completion moves the PC, sets the slot ready and, for a slot with a limit, lowers LEFT by 1, with a budget end due
when LEFT reaches zero; g, p, v, SW and the outbound queues of the slot, every other slot and memory stay. Readings of
the model's own: log entry 39. -/
def Sys2Proof.Claims.CompletionCharges : Prop :=
  ∀ s : State, s.iss.charge = true →
    s.commit.me.pc = s.iss.npc ∧ s.commit.me.run = .ready ∧
    s.commit.me.left = (if s.me.limit = 0 then s.me.left else signed32 (s.me.left - 1)) ∧
    s.commit.me.g = s.me.g ∧ s.commit.me.p = s.me.p ∧ s.commit.me.v = s.me.v ∧ s.commit.me.sw = s.me.sw ∧
    s.commit.me.outq = s.me.outq ∧ s.commit.me.outbox = s.me.outbox ∧
    s.commit.mem = s.mem ∧ (∀ gs, gs ≠ s.cur → s.commit.slot gs = s.slot gs) ∧
    (s.me.limit ≠ 0 → s.me.left = 1 → .budgetEnd s.cur ∈ s.commit.agenda)

/-- Waiting for an event, the end of a task, and completion: `WaitForEventAndTaskEnd` and `CompletionCharges` together. -/
def Obligations.WaitsAndCompletion : Prop := Claims.WaitForEventAndTaskEnd ∧ Claims.CompletionCharges

/-! ## Loads and stores -/

/-- R231, R234: an aligned load (`LD.Z8` to `LD.Z64`, `LD.S8` to `LD.S32`) whose page it may read and whose sector is not
poisoned writes the bytes at a + imm to d, zero-extended or sign-extended. Readings of the model's own: log entries 7,
14 and 69. -/
def Sys2Proof.Claims.LoadResults : Prop :=
  ∀ (s t u w : State) (d a : Reg) (imm : Int) (x : Word) (l : Loc) (v : Nat),
    MemoryFree s → Takes s [a.val] [d.val] [x] t → Finds t .r true (x + BitVec.ofInt 64 imm) l u →
    (Loads u l 1 v w →
      exec (.ldZ8 d a imm) s = .next (puts w d.val (BitVec.ofNat 64 v)).commit ∧
      exec (.ldS8 d a imm) s = .next (puts w d.val ((BitVec.ofNat 8 v).signExtend 64)).commit) ∧
    ((x + BitVec.ofInt 64 imm).toNat % 2 = 0 → Loads u l 2 v w →
      exec (.ldZ16 d a imm) s = .next (puts w d.val (BitVec.ofNat 64 v)).commit ∧
      exec (.ldS16 d a imm) s = .next (puts w d.val ((BitVec.ofNat 16 v).signExtend 64)).commit) ∧
    ((x + BitVec.ofInt 64 imm).toNat % 4 = 0 → Loads u l 4 v w →
      exec (.ldZ32 d a imm) s = .next (puts w d.val (BitVec.ofNat 64 v)).commit ∧
      exec (.ldS32 d a imm) s = .next (puts w d.val ((BitVec.ofNat 32 v).signExtend 64)).commit) ∧
    ((x + BitVec.ofInt 64 imm).toNat % 8 = 0 → Loads u l 8 v w →
      exec (.ldZ64 d a imm) s = .next (puts w d.val (BitVec.ofNat 64 v)).commit)

/-- R232, R234, R328: the ordered loads (`LD.Z8` to `LD.Z64`, `LD.S8` to `LD.S32` with an ordering); `.acq` drops the core's
untracked copy before a wide access and acquires after it. Readings of the model's own: log entry 7. -/
def Sys2Proof.Claims.OrderedLoadResults : Prop :=
  ∀ (s t u w : State) (o : Ord) (sc got : Scope) (d a : Reg) (imm : Int) (x : Word) (l : Loc) (v : Nat),
    MemoryFree s → TakesAt s sc [a.val] [d.val] got [x] t → Finds t .r true (x + BitVec.ofInt 64 imm) l u →
    (Loads (beforeAcquire u o got l) l 1 v w →
      exec (.ldZ8Ordered o sc d a imm) s = .next (puts (acquired w o got) d.val (BitVec.ofNat 64 v)).commit ∧
      exec (.ldS8Ordered o sc d a imm) s =
        .next (puts (acquired w o got) d.val ((BitVec.ofNat 8 v).signExtend 64)).commit) ∧
    ((x + BitVec.ofInt 64 imm).toNat % 2 = 0 → Loads (beforeAcquire u o got l) l 2 v w →
      exec (.ldZ16Ordered o sc d a imm) s = .next (puts (acquired w o got) d.val (BitVec.ofNat 64 v)).commit ∧
      exec (.ldS16Ordered o sc d a imm) s =
        .next (puts (acquired w o got) d.val ((BitVec.ofNat 16 v).signExtend 64)).commit) ∧
    ((x + BitVec.ofInt 64 imm).toNat % 4 = 0 → Loads (beforeAcquire u o got l) l 4 v w →
      exec (.ldZ32Ordered o sc d a imm) s = .next (puts (acquired w o got) d.val (BitVec.ofNat 64 v)).commit ∧
      exec (.ldS32Ordered o sc d a imm) s =
        .next (puts (acquired w o got) d.val ((BitVec.ofNat 32 v).signExtend 64)).commit) ∧
    ((x + BitVec.ofInt 64 imm).toNat % 8 = 0 → Loads (beforeAcquire u o got l) l 8 v w →
      exec (.ldZ64Ordered o sc d a imm) s = .next (puts (acquired w o got) d.val (BitVec.ofNat 64 v)).commit)

/-- R231, R232, R234, R328: an aligned store (`ST.Z8` to `ST.Z64`, plain and ordered) whose page it may write stores the low
bytes of d at a + imm, when no AMO has reserved a word that it touches and, at task privilege, no RWS field of a hub
register would change; `.rel` releases before it and, at `.part` or `.dev`, writes the bytes through. Readings of the
model's own: log entry 7. -/
def Sys2Proof.Claims.StoreResults : Prop :=
  (∀ (s t u : State) (d a : Reg) (imm : Int) (y x : Word) (l : Loc),
    MemoryFree s → Takes s [d.val, a.val] [] [y, x] t → Finds t .w true (x + BitVec.ofInt 64 imm) l u →
    (MayStore u l (bytesOf 1 y.toNat) →
      exec (.stZ8 d a imm) s = .next (stored u l (bytesOf 1 y.toNat)).commit) ∧
    ((x + BitVec.ofInt 64 imm).toNat % 2 = 0 → MayStore u l (bytesOf 2 y.toNat) →
      exec (.stZ16 d a imm) s = .next (stored u l (bytesOf 2 y.toNat)).commit) ∧
    ((x + BitVec.ofInt 64 imm).toNat % 4 = 0 → MayStore u l (bytesOf 4 y.toNat) →
      exec (.stZ32 d a imm) s = .next (stored u l (bytesOf 4 y.toNat)).commit) ∧
    ((x + BitVec.ofInt 64 imm).toNat % 8 = 0 → MayStore u l (bytesOf 8 y.toNat) →
      exec (.stZ64 d a imm) s = .next (stored u l (bytesOf 8 y.toNat)).commit)) ∧
  (∀ (s t u : State) (o : Ord) (sc got : Scope) (d a : Reg) (imm : Int) (y x : Word) (l : Loc),
    MemoryFree s → TakesAt s sc [d.val, a.val] [] got [y, x] t → Finds t .w true (x + BitVec.ofInt 64 imm) l u →
    MayRelease u o got →
    (MayStore (released u o got) l (bytesOf 1 y.toNat) → exec (.stZ8Ordered o sc d a imm) s =
      .next (through (stored (released u o got) l (bytesOf 1 y.toNat)) o got l).commit) ∧
    ((x + BitVec.ofInt 64 imm).toNat % 2 = 0 → MayStore (released u o got) l (bytesOf 2 y.toNat) →
      exec (.stZ16Ordered o sc d a imm) s =
        .next (through (stored (released u o got) l (bytesOf 2 y.toNat)) o got l).commit) ∧
    ((x + BitVec.ofInt 64 imm).toNat % 4 = 0 → MayStore (released u o got) l (bytesOf 4 y.toNat) →
      exec (.stZ32Ordered o sc d a imm) s =
        .next (through (stored (released u o got) l (bytesOf 4 y.toNat)) o got l).commit) ∧
    ((x + BitVec.ofInt 64 imm).toNat % 8 = 0 → MayStore (released u o got) l (bytesOf 8 y.toNat) →
      exec (.stZ64Ordered o sc d a imm) s =
        .next (through (stored (released u o got) l (bytesOf 8 y.toNat)) o got l).commit))

/-- Loads and stores of global memory: `LoadResults`, `OrderedLoadResults` and `StoreResults` together. -/
def Obligations.LoadsAndStores : Prop := Claims.LoadResults ∧ Claims.OrderedLoadResults ∧ Claims.StoreResults

/-- R231: a 64-bit load or store that is not aligned to 8 takes `ALIGN`, with the address as TRAPADDR, and nothing else
changes. -/
def Sys2Proof.Claims.MisalignedAccess : Prop :=
  ∀ (s t : State) (d a : Reg) (imm : Int) (x y : Word), MemoryFree s →
    (Takes s [a.val] [d.val] [x] t → (x + BitVec.ofInt 64 imm).toNat % 8 ≠ 0 →
      exec (.ldZ64 d a imm) s = .next (s.takeFault
        { code := 4, addr := x + BitVec.ofInt 64 imm, loc := true, kind := 0, cause := 0, extra := [] })) ∧
    (Takes s [d.val, a.val] [] [y, x] t → (x + BitVec.ofInt 64 imm).toNat % 8 ≠ 0 →
      exec (.stZ64 d a imm) s = .next (s.takeFault
        { code := 4, addr := x + BitVec.ofInt 64 imm, loc := true, kind := 0, cause := 0, extra := [] }))

/-- R233: a load of a poisoned sector reads it as zero and raises SUBCNT by 1 on a page with ETOL, and otherwise takes
`POISON` and writes nothing. Readings of the model's own: log entry 20. -/
def Sys2Proof.Claims.PoisonedLoad : Prop :=
  ∀ (s t u w : State) (d a : Reg) (imm : Int) (x : Word) (l : Loc) (data : BitVec 256),
    MemoryFree s → Takes s [a.val] [d.val] [x] t → (x + BitVec.ofInt 64 imm).toNat % 8 = 0 →
    Finds t .r true (x + BitVec.ofInt 64 imm) l u → l.attr ≠ 2 → l.key % 32 + 8 ≤ 32 →
    u.readSector u.me.part u.myCore (l.key / 32) (decide (l.attr = 0)) (touched l.key 8 (l.key / 32)) (l.leafPa, l.leaf) =
      (w, data, true) →
    (l.etol = true → exec (.ldZ64 d a imm) s =
      .next (puts (w.setMe { w.me with subcnt := w.me.subcnt + 1 }) d.val 0).commit) ∧
    (l.etol = false → exec (.ldZ64 d a imm) s = .next (s.takeFault
      { code := 8, addr := BitVec.ofNat 64 l.va, loc := false, kind := 0, cause := 0, extra := [] }))

/-- R118, R119, R231, R235 to R237: the LM forms: loads, stores, the tag store, and `LDT` when the tag and its age pass. -/
def Obligations.LocalMemoryResults : Prop :=
  (∀ (s t : State) (d a : Reg) (imm : Int) (x : Word) (o : Nat), MemoryFree s → Takes s [a.val] [d.val] [x] t →
    x.toInt + imm = o →
    (∀ (e : ElemTy) (n : Nat), (e = .z8 ∧ n = 1 ∨ e = .z16 ∧ n = 2 ∨ e = .z32 ∧ n = 4 ∨ e = .z64 ∧ n = 8) →
      LmOpen t o n → o % n = 0 → LmSound t o n →
      exec (.ldL e d a imm) s = .next (puts t d.val (BitVec.ofNat 64 (ofBytes ((t.core t.myCore).lmBytes o n)))).commit) ∧
    (∀ (e : ElemTy) (n : Nat), (e = .s8 ∧ n = 1 ∨ e = .s16 ∧ n = 2 ∨ e = .s32 ∧ n = 4) →
      LmOpen t o n → o % n = 0 → LmSound t o n →
      exec (.ldL e d a imm) s =
        .next (puts t d.val ((BitVec.ofNat (8 * n) (ofBytes ((t.core t.myCore).lmBytes o n))).signExtend 64)).commit) ∧
    (LmOpen t o 8 → o % 8 = 0 → LmSound t o 8 →
      exec (.ldLZ64 d a imm) s = .next (puts t d.val (BitVec.ofNat 64 (ofBytes ((t.core t.myCore).lmBytes o 8)))).commit)) ∧
  (∀ (s t : State) (d a : Reg) (imm : Int) (y x : Word) (o : Nat), MemoryFree s → Takes s [d.val, a.val] [] [y, x] t →
    x.toInt + imm = o →
    (∀ (e : ElemTy) (n : Nat), (e = .z8 ∧ n = 1 ∨ e = .z16 ∧ n = 2 ∨ e = .z32 ∧ n = 4 ∨ e = .z64 ∧ n = 8) →
      LmOpen t o n → o % n = 0 → LmWritable t o n →
      exec (.stL e d a imm) s = .next (lmPut t o (bytesOf n y.toNat)).commit) ∧
    (LmOpen t o 8 → o % 8 = 0 → LmWritable t o 8 →
      exec (.stLZ64 d a imm) s = .next (lmPut t o (bytesOf 8 y.toNat)).commit)) ∧
  (∀ (s t : State) (a b : Reg) (x y : Word), MemoryFree s → Takes s [a.val, b.val] [] [x, y] t → LmOpen t x.toNat 1 →
    (∀ k ∈ lmBanksOf x.toNat 1, (t.core t.myCore).fenced k = false) →
    exec (.stt a b) s =
      .next (t.setCore t.myCore ((t.core t.myCore).setTag (x.toNat / 256) (y.setWidth 48))).commit) ∧
  (∀ (s t : State) (d a b : Reg) (x y : Word) (only : Bool), MemoryFree s → Takes s [a.val, b.val] [d.val] [x, y] t →
    LmOpen t x.toNat 8 → x.toNat % 8 = 0 → LmSound t x.toNat 8 → x.toNat / 256 ∉ (t.core t.myCore).tagBad →
    (((t.core t.myCore).tag (x.toNat / 256)).extractLsb' 16 32 = y.extractLsb' 16 32 ∧
      (only = true ∨ ((t.core t.myCore).tag (x.toNat / 256)).extractLsb' 0 16 = y.extractLsb' 0 16)) →
    ((t.core t.myCore).scan + 2 ^ 32 - fld y 47 16) % 2 ^ 32 ≤ fld (t.part t.me.part).w9 7 0 →
    exec (.ldt only d a b) s =
      .next (puts t d.val (BitVec.ofNat 64 (ofBytes ((t.core t.myCore).lmBytes x.toNat 8)))).commit)

/-- R236, R371: an `LDT` that compares the whole tag and finds another takes `SCHEDULE_TAG`; one whose tag is older than the partition's limit
takes the substitute word and counts it, or takes `STALE_DATA`. -/
def Sys2Proof.Claims.TileTagFaults : Prop :=
  ∀ (s t : State) (d a b : Reg) (x y : Word), MemoryFree s → Takes s [a.val, b.val] [d.val] [x, y] t →
    LmOpen t x.toNat 8 → x.toNat % 8 = 0 → LmSound t x.toNat 8 → x.toNat / 256 ∉ (t.core t.myCore).tagBad →
    ((t.core t.myCore).tag (x.toNat / 256) ≠ y.setWidth 48 →
      exec (.ldt false d a b) s = .next (s.takeFault
        { code := 10, addr := x, loc := true, kind := 0, cause := 0, extra := [] })) ∧
    ((t.core t.myCore).tag (x.toNat / 256) = y.setWidth 48 →
      fld (t.part t.me.part).w9 7 0 < ((t.core t.myCore).scan + 2 ^ 32 - fld y 47 16) % 2 ^ 32 →
      (bitOf (t.part t.me.part).w9 8 = true →
        exec (.ldt false d a b) s = .next (puts (t.setPart t.me.part { t.part t.me.part with
          staleSub := (t.part t.me.part).staleSub + 1 }) d.val (t.part t.me.part).w10).commit) ∧
      (bitOf (t.part t.me.part).w9 8 = false →
        exec (.ldt false d a b) s = .next (s.takeFault
          { code := 11, addr := x, loc := true, kind := 0, cause := 0, extra := [] })))

/-- Misaligned, poisoned and stale accesses: `MisalignedAccess`, `PoisonedLoad` and `TileTagFaults` together. -/
def Obligations.AccessFaults : Prop := Claims.MisalignedAccess ∧ Claims.PoisonedLoad ∧ Claims.TileTagFaults

/-! ## Atomics, fences and vector memory -/

/-- R98, R239: an AMO in free mode on an aligned word whose page it may read and write, that no AMO has reserved, with room
at its slice, and that is not poisoned once copies are recalled, writes the new word at its home and the old one to d;
`.rel` releases before it and `.acq` acquires after it. Readings of the model's own: log entries 7, 8 and 75. -/
def Sys2Proof.Claims.AmoResults : Prop :=
  ∀ (s t u q : State) (o : Ord) (sc got : Scope) (w32 : Bool) (d a b : Reg) (x y : Word) (l : Loc) (w old : Nat),
    MemoryFree s → TakesAt s sc [a.val, b.val] [d.val] got [x, y] t → t.me.mode = 0 →
    w = (if w32 then 32 else 64) → x.toNat % (w / 8) = 0 → Finds t .rw false x l u →
    s.amoOf s.cur = none → u.amoOf u.cur = none → MayRelease u o got →
    (dropped (released u o got) l).reserved l.key = false →
    ((dropped (released u o got) l).slice ((dropped (released u o got) l).homeSlice l.key)).reservations < 64 →
    (gathered (released u o got) l).isPoisoned l.key = false →
    (gathered (released u o got) l).takeWord l.key w32 = (q, old) →
    let z := y.toNat % 2 ^ w
    let ends := fun (new : Nat) => Host.Outcome.next (φ := Fault) (ρ := Refusal)
      (puts (acquired (q.putWord l.key w32 new) o got) d.val (BitVec.ofNat 64 old)).commit
    let endsSigned := fun (new : Nat) => Host.Outcome.next (φ := Fault) (ρ := Refusal)
      (puts (acquired (q.putWord l.key w32 new) o got) d.val
        (if w32 then (BitVec.ofNat 32 old).signExtend 64 else BitVec.ofNat 64 old)).commit
    exec (.amoSwap o sc w32 d a b) s = ends z ∧
    exec (.amoFadd o sc w32 d a b) s = ends ((old + z) % 2 ^ w) ∧
    exec (.amoFand o sc w32 d a b) s = ends (old &&& z) ∧
    exec (.amoFor o sc w32 d a b) s = ends (old ||| z) ∧
    exec (.amoFxor o sc w32 d a b) s = ends (old ^^^ z) ∧
    exec (.amoFmin o sc w32 d a b) s =
      endsSigned (if (BitVec.ofNat w old).toInt ≤ (BitVec.ofNat w z).toInt then old else z) ∧
    exec (.amoFmax o sc w32 d a b) s =
      endsSigned (if (BitVec.ofNat w old).toInt ≤ (BitVec.ofNat w z).toInt then z else old) ∧
    exec (.amoFminz o sc w32 d a b) s = ends (min old z) ∧
    exec (.amoFmaxz o sc w32 d a b) s = ends (max old z)

/-- R239: `AMO.CAS` in free mode writes the operand only when the old word equals the low bits of d, and gives d the old
word either way. -/
def Sys2Proof.Claims.CompareAndSwap : Prop :=
  ∀ (s t u q : State) (o : Ord) (sc got : Scope) (w32 : Bool) (d a b : Reg) (c x y : Word) (l : Loc) (w old : Nat),
    MemoryFree s → TakesAt s sc [d.val, a.val, b.val] [d.val] got [c, x, y] t → t.me.mode = 0 →
    w = (if w32 then 32 else 64) → x.toNat % (w / 8) = 0 → Finds t .rw false x l u →
    s.amoOf s.cur = none → u.amoOf u.cur = none → MayRelease u o got →
    (dropped (released u o got) l).reserved l.key = false →
    ((dropped (released u o got) l).slice ((dropped (released u o got) l).homeSlice l.key)).reservations < 64 →
    (gathered (released u o got) l).isPoisoned l.key = false →
    (gathered (released u o got) l).takeWord l.key w32 = (q, old) →
    (old = c.toNat % 2 ^ w → exec (.amoCas o sc w32 d a b) s =
      .next (puts (acquired (q.putWord l.key w32 (y.toNat % 2 ^ w)) o got) d.val (BitVec.ofNat 64 old)).commit) ∧
    (old ≠ c.toNat % 2 ^ w → exec (.amoCas o sc w32 d a b) s =
      .next (puts (acquired q o got) d.val (BitVec.ofNat 64 old)).commit)

/-- R242: every AMO takes `ATOMIC_ORDER` in figure mode, `AMO.CAS` also in tracing mode, and `RED.FADD` outside free mode.
-/
def Sys2Proof.Claims.AtomicOrderFaults : Prop :=
  (∀ (s t : State) (o : Ord) (sc got : Scope) (w32 : Bool) (d a b : Reg) (x y : Word),
    MemoryFree s → TakesAt s sc [a.val, b.val] [d.val] got [x, y] t → t.me.mode = 1 →
    let stops := Host.Outcome.next (φ := Fault) (ρ := Refusal) (s.takeFault
      { code := 16, addr := 0, loc := false, kind := 0, cause := 0, extra := [] })
    exec (.amoSwap o sc w32 d a b) s = stops ∧ exec (.amoFadd o sc w32 d a b) s = stops ∧
    exec (.amoFand o sc w32 d a b) s = stops ∧ exec (.amoFor o sc w32 d a b) s = stops ∧
    exec (.amoFxor o sc w32 d a b) s = stops ∧ exec (.amoFmin o sc w32 d a b) s = stops ∧
    exec (.amoFmax o sc w32 d a b) s = stops ∧ exec (.amoFminz o sc w32 d a b) s = stops ∧
    exec (.amoFmaxz o sc w32 d a b) s = stops) ∧
  (∀ (s t : State) (o : Ord) (sc got : Scope) (w32 : Bool) (d a b : Reg) (c x y : Word),
    MemoryFree s → TakesAt s sc [d.val, a.val, b.val] [d.val] got [c, x, y] t → (t.me.mode = 1 ∨ t.me.mode = 2) →
    exec (.amoCas o sc w32 d a b) s = .next (s.takeFault
      { code := 16, addr := 0, loc := false, kind := 0, cause := 0, extra := [] })) ∧
  (∀ (s t : State) (o : Ord) (sc got : Scope) (a b : Reg) (x y : Word),
    MemoryFree s → TakesAt s sc [a.val, b.val] [] got [x, y] t → t.me.mode ≠ 0 →
    exec (.redFadd o sc a b) s = .next (s.takeFault
      { code := 16, addr := 0, loc := false, kind := 0, cause := 0, extra := [] }))

/-- Atomic operations at the home: `AmoResults`, `CompareAndSwap` and `AtomicOrderFaults` together. -/
def Obligations.AtomicOperations : Prop := Claims.AmoResults ∧ Claims.CompareAndSwap ∧ Claims.AtomicOrderFaults

/-- R96, R240: a RED on an aligned word whose page it may write and that no AMO holds leaves the combined word at its home
and writes no register. Readings of the model's own: log entries 7 and 8. -/
def Sys2Proof.Claims.RedResults : Prop :=
  ∀ (s t u q : State) (o : Ord) (sc got : Scope) (w32 : Bool) (a b : Reg) (x y : Word) (l : Loc) (w old : Nat),
    MemoryFree s → TakesAt s sc [a.val, b.val] [] got [x, y] t →
    w = (if w32 then 32 else 64) → x.toNat % (w / 8) = 0 → Finds t .w false x l u →
    MayRelease u o got →
    (dropped (released u o got) l).reserved l.key = false →
    (gathered (released u o got) l).isPoisoned l.key = false →
    (gathered (released u o got) l).takeWord l.key w32 = (q, old) →
    let z := y.toNat % 2 ^ w
    let ends := fun (new : Nat) => Host.Outcome.next (φ := Fault) (ρ := Refusal) (q.putWord l.key w32 new).commit
    exec (.redAdd o sc w32 a b) s = ends ((old + z) % 2 ^ w) ∧
    exec (.redAnd o sc w32 a b) s = ends (old &&& z) ∧
    exec (.redOr o sc w32 a b) s = ends (old ||| z) ∧
    exec (.redXor o sc w32 a b) s = ends (old ^^^ z) ∧
    exec (.redMin o sc w32 a b) s =
      ends (if (BitVec.ofNat w old).toInt ≤ (BitVec.ofNat w z).toInt then old else z) ∧
    exec (.redMax o sc w32 a b) s =
      ends (if (BitVec.ofNat w old).toInt ≤ (BitVec.ofNat w z).toInt then z else old) ∧
    exec (.redMinz o sc w32 a b) s = ends (min old z) ∧
    exec (.redMaxz o sc w32 a b) s = ends (max old z) ∧
    (w32 = true → t.me.mode = 0 → exec (.redFadd o sc a b) s = ends (f32Add .rne old z).1)

/-- R232, R241, R243, R252: `FENCE` performs the steps of its ordering at its scope; `PREF` completes and changes nothing of
its slot; `HGATH` fills v with the selected words of its line, zero where bit 7 of the selector is set. Readings of the
model's own: log entries 7, 74 and 100. -/
def Sys2Proof.Claims.FencePrefetchGather : Prop :=
  (∀ (s t : State) (o : Ord) (sc got : Scope), MemoryFree s → done (scopeFor .part sc) s = some (got, t) → MayRelease t o got →
    exec (.fence o sc) s = .next (acquired (released t o got) o got).commit) ∧
  (∀ (s t : State) (home : Bool) (a : Reg) (x : Word), Takes s [a.val] [] [x] t →
    ∃ u : State, exec (.pref home a) s = .next u.commit ∧ u.me = t.me ∧ u.cur = t.cur) ∧
  (∀ (s t u : State) (v : VReg) (a b : Reg) (x y : Word) (l : Loc), MemoryFree s → EngineFree s →
    Takes s [a.val, b.val] [] [x, y] t → x.toNat % 256 = 0 → Finds t .r false x l u →
    let g := u.lineAtHome u.me.part l.key
    let h := g.refreshU g.myCore l.key
    (∀ i, i < 32 → g.isPoisoned (l.key + 8 * i) = false) →
    ∃ r : VWord, exec (.hgath v a b) s = .next (vputs h v r).commit ∧
      ∀ i, i < 8 → lane 64 r i =
        (if y.getLsbD (8 * i + 7) then 0 else (g.homeWord (l.key + 8 * (y.toNat / 2 ^ (8 * i) % 32))).toNat))

/-- Reductions, fences, prefetch and gather: `RedResults` and `FencePrefetchGather` together. -/
def Obligations.ReductionsAndFences : Prop := Claims.RedResults ∧ Claims.FencePrefetchGather

/-- R238, R263, R401: with nothing before it on the engine port and no register word that it reads in error, a vector memory
form enters the engine queue, and on the slot's engine turn it is performed, in global memory or in LM: every element is
checked before any is accessed; lane i of a load is element i, and a scatter stores its lanes in ascending order.
Readings of the model's own: log entries 7 and 20. -/
def Obligations.VectorMemoryResults : Prop :=
  (∀ (s t u u1 u2 : State) (v : VReg) (a : Reg) (x : Word) (l : Loc) (d0 d1 : BitVec 256),
    let i : Instr := .vld false v a
    EngineTakes s i [x] t → x.toNat % 64 = 0 → Finds (onTurn i [x] t) .r false x l u → l.attr ≠ 2 → l.key % 32 = 0 →
    u.readSector u.me.part u.myCore (l.key / 32) (decide (l.attr = 0)) (touched l.key 64 (l.key / 32))
      (l.leafPa, l.leaf) = (u1, d0, false) →
    u1.readSector u1.me.part u1.myCore (l.key / 32 + 1) (decide (l.attr = 0)) (touched l.key 64 (l.key / 32 + 1))
      (l.leafPa, l.leaf) = (u2, d1, false) →
    Performs s t i [x] (vputs u2 v (d1 ++ d0))) ∧
  (∀ (s t u : State) (v : VReg) (a : Reg) (x : Word) (l : Loc),
    let i : Instr := .vst false v a
    EngineTakes s i [x] t → x.toNat % 64 = 0 → Finds (onTurn i [x] t) .w false x l u → l.attr ≠ 2 →
    MayStore u l (bytesOf 64 (u.me.v[v.val]!).toNat) →
    Performs s t i [x] (storeEnds (stored u l (bytesOf 64 (u.me.v[v.val]!).toNat)))) ∧
  (∀ (s t : State) (v : VReg) (a : Reg) (x : Word) (o : Nat), x.toInt = o → LmOpen t o 64 → o % 64 = 0 →
    (EngineTakes s (.vld true v a) [x] t → LmSound t o 64 → Performs s t (.vld true v a) [x]
      (vputs (onTurn (.vld true v a) [x] t) v (BitVec.ofNat 512 (ofBytes ((t.core t.myCore).lmBytes o 64))))) ∧
    (EngineTakes s (.vst true v a) [x] t → LmWritable t o 64 → Performs s t (.vst true v a) [x]
      (storeEnds (lmPut (onTurn (.vst true v a) [x] t) o (bytesOf 64 (t.me.v[v.val]!).toNat))))) ∧
  (∀ (s t u q : State) (lm : Bool) (e : ElemTy) (v : VReg) (a b : Reg) (x y : Word) (ls : List Loc) (vals : List Nat),
    let i : Instr := .vlds lm e v a b
    EngineTakes s i [x, y] t →
    done (((List.range (512 / elemBits e)).map (fun (i : Nat) => (i : Int) * y.toInt)).mapM
      (elemPlace lm .r (elemBits e / 8) x)) (onTurn i [x, y] t) = some (ls, u) →
    done (elemLoads lm (elemBits e / 8) ls []) u = some (vals, q) →
    Performs s t i [x, y] (vputs q v (ofLanes (elemBits e) vals))) ∧
  (∀ (s t u q : State) (lm : Bool) (e : ElemTy) (v k : VReg) (a : Reg) (x : Word) (ls : List Loc) (vals : List Nat),
    let i : Instr := .vgath lm e v a k
    EngineTakes s i [x] t →
    done ((indexLanes (elemBits e) (t.me.v[k.val]!)).mapM (elemPlace lm .r (elemBits e / 8) x)) (onTurn i [x] t) =
      some (ls, u) →
    done (elemLoads lm (elemBits e / 8) ls []) u = some (vals, q) →
    Performs s t i [x] (vputs q v (ofLanes (elemBits e) vals))) ∧
  (∀ (s t u q : State) (lm : Bool) (e : ElemTy) (v k : VReg) (a : Reg) (x : Word) (ls : List Loc),
    let i : Instr := .vscat lm e v a k
    EngineTakes s i [x] t →
    done ((indexLanes (elemBits e) (t.me.v[k.val]!)).mapM (elemPlace lm .w (elemBits e / 8) x)) (onTurn i [x] t) =
      some (ls, u) →
    done ((ls.zip (lanesOf (elemBits e) (t.me.v[v.val]!))).forM (fun p => elemStore lm (elemBits e / 8) p.1 p.2)) u =
      some ((), q) → q.iss.held = [] →
    Performs s t i [x] (storeEnds q))

/-! ## Barriers, counters and waiting -/

/-- R244: an arrival that EXPECT admits is counted, answers the phase it fell in and leaves the object to be tested at the
end of the cycle; one that EXPECT does not allow is refused and changes neither. The test of a complete phase with
nothing pending raises PHASE and clears ARRIVED; any other object stays. Readings of the model's own: log entry 24. -/
def Sys2Proof.Claims.BarrierArrivals : Prop :=
  ∀ (s : State) (key : Nat) (b : Bar), key % 32 = 0 → s.traced = [] → (s.barAt key).2 = b →
    (b.arrived + 1 ≤ b.expect →
      ∃ u, s.barArrive key = (u, some b.phase) ∧ (u.barAt key).2.arrived = b.arrived + 1 ∧
        (u.barAt key).2.phase = b.phase ∧ (u.barAt key).2.pending = b.pending ∧ key ∈ u.barTouched) ∧
    (b.expect ≤ b.arrived →
      ∃ u, s.barArrive key = (u, none) ∧ (u.barAt key).2.arrived = b.arrived ∧ (u.barAt key).2.phase = b.phase) ∧
    (b.arrived = b.expect → b.pending = 0 →
      ((s.testBar key).barAt key).2.arrived = 0 ∧ ((s.testBar key).barAt key).2.phase = (b.phase + 1) % 2 ^ 16 ∧
      ((s.testBar key).barAt key).2.expect = b.expect) ∧
    (b.arrived ≠ b.expect ∨ b.pending ≠ 0 → ((s.testBar key).barAt key).2 = b)

/-- R245 to R247: `BAR.ARR` releases at the object's scope, arrives and gives d the phase; a member of a combiner that does
not complete it only joins the members arrived; `BAR.WAIT` completes once the phase differs from its token, and
acquires; `BAR.AW` does both: it arrives, keeps the phase it arrived in while that phase stands, and completes with it
after. Readings of the model's own: log entry 24. -/
def Sys2Proof.Claims.BarrierInstructions : Prop :=
  (∀ (s t u : State) (d a : Reg) (key ph : Nat) (b : Bar), MemoryFree s → done (ready [a.val] [d.val]) s = some ((), s) →
    done (barNamed a) s = some ((key, b), t) →
    t.releaseHeld t.myCore (scopeOf b.scope) = false →
    (t.release t.myCore (scopeOf b.scope)).combinerFor key = none →
    (t.release t.myCore (scopeOf b.scope)).barArrive key = (u, some ph) →
    exec (.barArr d a) s = .next (puts u d.val (BitVec.ofNat 64 ph)).commit ∧
    (t.me.awPhase = none → (u.barAt key).2.phase = ph →
      ∃ w, exec (.barAw d a) s = .next w ∧ w.me.run = .waiting .sync ∧ w.me.awPhase = some ph ∧ w.me.pc = u.me.pc)) ∧
  (∀ (s t : State) (d a : Reg) (key : Nat) (b : Bar) (c : Combiner), MemoryFree s →
    done (ready [a.val] [d.val]) s = some ((), s) → done (barNamed a) s = some ((key, b), t) →
    t.releaseHeld t.myCore (scopeOf b.scope) = false →
    let r := t.release t.myCore (scopeOf b.scope)
    r.combinerFor key = some c → r.cur % 16 ∈ c.members → r.cur % 16 ∉ c.arrived →
    ({ c with arrived := c.arrived ++ [r.cur % 16] } : Combiner).full = false →
    exec (.barArr d a) s = .next (puts (r.putCombiner { c with arrived := c.arrived ++ [r.cur % 16] }) d.val
      (BitVec.ofNat 64 (r.barAt key).2.phase)).commit) ∧
  (∀ (s t u : State) (a b : Reg) (key : Nat) (o : Bar) (y : Word), MemoryFree s →
    done (ready [a.val, b.val] []) s = some ((), s) → done (barNamed a) s = some ((key, o), t) →
    done (readS b.val) t = some (y, u) →
    (o.phase ≠ y.toNat % 2 ^ 16 →
      exec (.barWait a b) s = .next (u.acquire u.myCore (scopeOf o.scope)).commit) ∧
    (o.phase = y.toNat % 2 ^ 16 → exec (.barWait a b) s = .next (s.waiting .sync))) ∧
  (∀ (s t : State) (d a : Reg) (key ph : Nat) (b : Bar), MemoryFree s → done (ready [a.val] [d.val]) s = some ((), s) →
    done (barNamed a) s = some ((key, b), t) → t.me.awPhase = some ph → b.phase ≠ ph →
    exec (.barAw d a) s = .next (puts ((t.acquire t.myCore (scopeOf b.scope)).setMe
      { (t.acquire t.myCore (scopeOf b.scope)).me with awPhase := none }) d.val (BitVec.ofNat 64 ph)).commit)

/-- R246, R247: `BAR.EXP` registers the slot with a combiner of its core and gives 1, or gives 0 when eight combiners stand;
with DEREG it takes a member out and gives 1, and gives 0 to a slot that is none. `BAR.INIT` leaves an object with the
operands' EXPECT and LEVEL, its scope and partition, and a raised phase. Readings of the model's own: log entry 24. -/
def Sys2Proof.Claims.BarrierSetUp : Prop :=
  (∀ (s t : State) (d a : Reg) (key : Nat) (b : Bar), MemoryFree s → done (ready [a.val] [d.val]) s = some ((), s) →
    done (barNamed a) s = some ((key, b), t) → t.combinerFor key = none →
    exec (.barExp true d a) s = .next (puts t d.val 0).commit ∧
    (8 ≤ (t.core t.myCore).combiners.length → exec (.barExp false d a) s = .next (puts t d.val 0).commit) ∧
    ((t.core t.myCore).combiners.length < 8 → exec (.barExp false d a) s =
      .next (puts (t.setCombiners t.myCore ((t.core t.myCore).combiners ++
        [{ key := key, part := t.me.part, members := [t.cur % 16], arrived := [] }])) d.val 1).commit)) ∧
  (∀ (s t : State) (d a : Reg) (key : Nat) (b : Bar) (c : Combiner), MemoryFree s →
    done (ready [a.val] [d.val]) s = some ((), s) → done (barNamed a) s = some ((key, b), t) → t.combinerFor key = some c →
    (c.arrived = [] → exec (.barExp false d a) s =
      .next (puts (t.putCombiner { c with members := insertNew (t.cur % 16) c.members }) d.val 1).commit) ∧
    (t.cur % 16 ∈ c.members →
      exec (.barExp true d a) s = .next (puts (t.leaveCombiner t.myCore (t.cur % 16) c) d.val 1).commit) ∧
    (t.cur % 16 ∉ c.members → exec (.barExp true d a) s = .next (puts t d.val 0).commit)) ∧
  (∀ (s t u q : State) (sc got : Scope) (a b c : Reg) (va e l : Word) (key : Nat) (o : Bar), MemoryFree s →
    TakesAt s sc [a.val, b.val, c.val] [] got [va, e, l] t → e.toNat < 2 ^ 20 → l.toNat < 7 →
    done (barPlace va) t = some (key, u) → u.barAt key = (q, o) →
    (bitOf o.w0 0 = false ∨ fld o.w2 3 0 = q.me.part) →
    exec (.barInit sc a b c) s = .next ((q.setBar key (o.init (scopeCode got) e.toNat l.toNat q.me.part)).afterTest key o
      (o.init (scopeCode got) e.toNat l.toNat q.me.part)).commit ∧
    (o.init (scopeCode got) e.toNat l.toNat q.me.part).expect = e.toNat ∧
    (o.init (scopeCode got) e.toNat l.toNat q.me.part).arrived = 0 ∧
    (o.init (scopeCode got) e.toNat l.toNat q.me.part).phase = (o.phase + 1) % 2 ^ 16 ∧
    (o.init (scopeCode got) e.toNat l.toNat q.me.part).pending = o.pending)

/-- Barrier objects and their instructions: `BarrierArrivals`, `BarrierSetUp` and `BarrierInstructions` together. -/
def Obligations.BarrierObjects : Prop := Claims.BarrierArrivals ∧ Claims.BarrierSetUp ∧ Claims.BarrierInstructions

/-- R250: `EVT.ADD` releases at its scope and adds to the counter's word; an `EVT.WAIT` whose counter has reached its
threshold gives up its watch and acquires, and one whose counter has not leaves the slot waiting for that counter.
Readings of the model's own: log entries 9 and 19. -/
def Sys2Proof.Claims.EventCounters : Prop :=
  (∀ (s t u q : State) (sc got : Scope) (a b : Reg) (x y : Word) (l : Loc) (old : Nat), MemoryFree s →
    TakesAt s sc [a.val, b.val] [] got [x, y] t → x.toNat % 8 = 0 → Finds t .rw false x l u →
    u.releaseHeld u.myCore got = false → (dropped (u.release u.myCore got) l).reserved l.key = false →
    (gathered (u.release u.myCore got) l).isPoisoned l.key = false →
    (gathered (u.release u.myCore got) l).takeWord l.key false = (q, old) →
    exec (.evtAdd sc a b) s = .next (q.putWord l.key false ((old + y.toNat) % 2 ^ 64)).commit) ∧
  (∀ (s t u q : State) (sc got : Scope) (a b : Reg) (x y : Word) (l : Loc) (v : Nat), MemoryFree s →
    TakesAt s sc [a.val, b.val] [] got [x, y] t → x.toNat % 8 = 0 → Finds t .rw false x l u →
    (dropped u l).takeWord l.key false = (q, v) → q.isPoisoned l.key = false →
    (y.toNat ≤ v → exec (.evtWait sc a b) s =
      .next ((q.dropWaits q.cur).acquire (q.dropWaits q.cur).myCore got).commit) ∧
    (v < y.toNat → ∃ w k, exec (.evtWait sc a b) s = .next w ∧
      w.me.run = .waiting (.event l.key y.toNat k (l.via t.me.ptroot)) ∧
      w.me.pc = s.me.pc ∧ w.me.g = s.me.g))

/-- R248, R249: a `WAIT` completes at once when a masked condition holds, or all of them for the all form, and gives d the
conditions; when its time is up it also sets bit 32; otherwise the slot waits, and one that has been woken gives d what
was sampled at its wake. `REALIGN` waits at its issue for the next tick or beat, and completes with the scan and beat
once one has come since. Readings of the model's own: log entries 9 and 19. -/
def Sys2Proof.Claims.WaitAndRealign : Prop :=
  (∀ (s t : State) (all : Bool) (d a b : Reg) (m n : Word), Takes s [a.val, b.val] [d.val] [m, n] t →
    let mask := m.toNat % 2 ^ 32
    let conds := t.me.condMask
    let met := mask = 0 ∨ (all = true ∧ mask &&& conds = mask) ∨ (all = false ∧ mask &&& conds ≠ 0)
    (∀ (c : Nat) (e : Bool), t.me.run = .waiting (.woken c e) → exec (.wait all d a b) s =
      .next (puts (t.setMe { t.me with waitLeft := none }) d.val (BitVec.ofNat 64 (c + if e then 2 ^ 32 else 0))).commit) ∧
    ((∀ c e, t.me.run ≠ .waiting (.woken c e)) →
    (met → exec (.wait all d a b) s =
      .next (puts (t.setMe { t.me with waitLeft := none }) d.val (BitVec.ofNat 64 conds)).commit) ∧
    (¬ met → (∃ c, t.me.waitLeft = some c ∧ c ≤ t.now) → exec (.wait all d a b) s =
      .next (puts (t.setMe { t.me with waitLeft := none }) d.val (BitVec.ofNat 64 (conds + 2 ^ 32))).commit) ∧
    (¬ met → t.me.waitLeft = none → ∃ w, exec (.wait all d a b) s = .next w ∧ w.me.run = .waiting (.conds mask all) ∧
      w.me.pc = s.me.pc ∧ w.me.g = s.me.g ∧ w.me.inq = s.me.inq ∧
      w.me.waitLeft = (if n.toNat % 2 ^ 32 = 0 then none else some (t.now + n.toNat % 2 ^ 32))))) ∧
  (∀ (s : State) (d : Reg) (n b : Nat), done (ready [] [d.val]) s = some ((), s) →
    let k := s.core s.myCore
    (s.me.run = .waiting (.tick n) → k.scan ≠ n →
      exec (.realign false d) s = .next (puts s d.val (BitVec.ofNat 64 (k.scan * 16 + k.beat))).commit) ∧
    (s.me.run = .waiting (.beat n b) → ¬ (k.scan = n ∧ k.beat = b) →
      exec (.realign true d) s = .next (puts s d.val (BitVec.ofNat 64 (k.scan * 16 + k.beat))).commit) ∧
    (s.me.run = .waiting (.tick n) → k.scan = n → exec (.realign false d) s = .next (s.waiting (.tick n))) ∧
    (s.me.run = .waiting (.beat n b) → k.scan = n → k.beat = b →
      exec (.realign true d) s = .next (s.waiting (.beat n b))) ∧
    ((∀ m, s.me.run ≠ .waiting (.tick m)) → (∀ m c, s.me.run ≠ .waiting (.beat m c)) →
      exec (.realign false d) s = .next (s.waiting (.tick k.scan)) ∧
      exec (.realign true d) s = .next (s.waiting (.beat k.scan k.beat))))

/-- Event counters, WAIT and REALIGN: `EventCounters` and `WaitAndRealign` together. -/
def Obligations.CountersAndWaits : Prop := Claims.EventCounters ∧ Claims.WaitAndRealign

/-! ## Vector instructions -/

/-- R264, R266, R267: integer lanes of the arithmetic instructions wrap; with `.sat` they are clamped to the type's range,
and for `V.ADD` and `V.SUB` SW.OF is raised exactly when some lane lay outside it. -/
def Sys2Proof.Claims.VectorIntegerResults : Prop :=
  ∀ (s : State) (t : ElemTy) (d a b : VReg), VectorFree s [a, b] → t ∈ ElemTy.intTypes →
    let w := elemBits t
    let x := intAt s t a
    let y := intAt s t b
    (∃ r, PerformsV s s (.vAdd false t d a b) [] d r 0 ∧ ∀ i, i < 512 / w → lane w r i = toBits w (x i + y i)) ∧
    (∃ r, PerformsV s s (.vSub false t d a b) [] d r 0 ∧ ∀ i, i < 512 / w → lane w r i = toBits w (x i - y i)) ∧
    (∃ r, PerformsV s s (.vMul t d a b) [] d r 0 ∧ ∀ i, i < 512 / w → lane w r i = toBits w (x i * y i)) ∧
    (∃ r, PerformsV s s (.vMin t d a b) [] d r 0 ∧ ∀ i, i < 512 / w → lane w r i = toBits w (min (x i) (y i))) ∧
    (∃ r, PerformsV s s (.vMax t d a b) [] d r 0 ∧ ∀ i, i < 512 / w → lane w r i = toBits w (max (x i) (y i))) ∧
    (∃ r, PerformsV s s (.vAbs false t d a) [] d r 0 ∧ ∀ i, i < 512 / w → lane w r i = toBits w ((x i).natAbs : Int)) ∧
    (∃ r, PerformsV s s (.vNeg false t d a) [] d r 0 ∧ ∀ i, i < 512 / w → lane w r i = toBits w (-(x i))) ∧
    (∃ r fl, PerformsV s s (.vAbs true t d a) [] d r fl ∧
      ∀ i, i < 512 / w → lane w r i = toBits w (min (intHi t) ((x i).natAbs : Int))) ∧
    (∃ r fl, PerformsV s s (.vNeg true t d a) [] d r fl ∧
      ∀ i, i < 512 / w → lane w r i = toBits w (max (intLo t) (min (intHi t) (-(x i))))) ∧
    (∃ r fl, PerformsV s s (.vAdd true t d a b) [] d r fl ∧
      (∀ i, i < 512 / w → lane w r i = toBits w (max (intLo t) (min (intHi t) (x i + y i)))) ∧
      ((∃ i, i < 512 / w ∧ (x i + y i < intLo t ∨ intHi t < x i + y i)) → fl = 4) ∧
      ((∀ i, i < 512 / w → intLo t ≤ x i + y i ∧ x i + y i ≤ intHi t) → fl = 0)) ∧
    (∃ r fl, PerformsV s s (.vSub true t d a b) [] d r fl ∧
      (∀ i, i < 512 / w → lane w r i = toBits w (max (intLo t) (min (intHi t) (x i - y i)))) ∧
      ((∃ i, i < 512 / w ∧ (x i - y i < intLo t ∨ intHi t < x i - y i)) → fl = 4) ∧
      ((∀ i, i < 512 / w → intLo t ≤ x i - y i ∧ x i - y i ≤ intHi t) → fl = 0))

/-- R265 to R268: the FP32 lanes of the arithmetic and transcendental instructions, each rounded once under SW.RM, with
the flags of all lanes raised together. -/
def Sys2Proof.Claims.VectorFloatResults : Prop :=
  ∀ (s : State) (d a b : VReg), VectorFree s [d, a, b] →
    let x := lanesAt s 32 a
    let y := lanesAt s 32 b
    let z := lanesAt s 32 d
    let rm := roundingOf s
    let holds := fun (i : Instr) (f : Nat → Nat × FlagSet) => ∃ r,
        PerformsV s s i [] d r ((List.range 16).foldl (fun acc k => acc ||| (f k).2) 0) ∧
      ∀ k, k < 16 → lane 32 r k = (f k).1 % 2 ^ 32
    holds (.vAdd false .f32 d a b) (fun k => f32Add rm (x k) (y k)) ∧
    holds (.vSub false .f32 d a b) (fun k => f32Sub rm (x k) (y k)) ∧
    holds (.vMul .f32 d a b) (fun k => f32Mul rm (x k) (y k)) ∧
    holds (.vFma d a b) (fun k => f32Fma rm (x k) (y k) (z k)) ∧
    holds (.vFms d a b) (fun k => f32Fms rm (x k) (y k) (z k)) ∧
    holds (.vMin .f32 d a b) (fun k => f32MinMax false (x k) (y k)) ∧
    holds (.vMax .f32 d a b) (fun k => f32MinMax true (x k) (y k)) ∧
    holds (.vAbs false .f32 d a) (fun k => (if (fp32.decode (x k)).isNan then 0x7FC00000 else x k % 2 ^ 31, 0)) ∧
    holds (.vNeg false .f32 d a) (fun k => (if (fp32.decode (x k)).isNan then 0x7FC00000 else x k ^^^ 2 ^ 31, 0)) ∧
    holds (.vRcp d a) (fun k => f32Rcp rm (x k)) ∧
    holds (.vRsq d a) (fun k => f32Rsq rm (x k)) ∧
    holds (.vSqrt d a) (fun k => f32Sqrt rm (x k)) ∧
    holds (.vExp2 d a) (fun k => f32Exp2 rm (x k)) ∧
    holds (.vLog2 d a) (fun k => f32Log2 rm (x k))

/-- R169, R174: a value that a format holds rounds to its own pattern under every mode and raises no flag. -/
def Sys2Proof.Claims.RoundingKeepsValues : Prop :=
  ∀ (f : FpFmt) (rm : Rm) (x : Nat), f ∈ [fp32, bf16, fp16, e8m10] → x < 2 ^ (1 + f.eb + f.fb) →
    (f.decode x).isNan = false → f.roundV rm (f.decode x) = (x, 0)

/-- Floating-point lanes and rounding: `VectorFloatResults` and `RoundingKeepsValues` together. -/
def Obligations.VectorFloatAndRounding : Prop := Claims.VectorFloatResults ∧ Claims.RoundingKeepsValues

/-- R269, R270: logic on all 512 bits, shifts by the whole lane of b, compares that fill a lane with ones or zeros (FP32
lanes by value, where a NaN meets no relation but NE), and the bitwise select. -/
def Sys2Proof.Claims.VectorLogicResults : Prop :=
  (∀ (s : State) (d a b : VReg), VectorFree s [d, a, b] →
    let x := s.me.v[a.val]!
    let y := s.me.v[b.val]!
    PerformsV s s (.vAnd d a b) [] d (x &&& y) 0 ∧
    PerformsV s s (.vOr d a b) [] d (x ||| y) 0 ∧
    PerformsV s s (.vXor d a b) [] d (x ^^^ y) 0 ∧
    PerformsV s s (.vAndn d a b) [] d (x &&& ~~~y) 0 ∧
    (∃ r, PerformsV s s (.vSel d a b) [] d r 0 ∧
      ∀ i, i < 512 → r.getLsbD i = if (s.me.v[d.val]!).getLsbD i then x.getLsbD i else y.getLsbD i)) ∧
  (∀ (s : State) (t : ElemTy) (d a b : VReg), VectorFree s [a, b] → t ∈ ElemTy.intTypes →
    let w := elemBits t
    let x := lanesAt s w a
    let n := lanesAt s w b
    (∃ r, PerformsV s s (.vShl t d a b) [] d r 0 ∧ ∀ i, i < 512 / w → lane w r i = x i * 2 ^ n i % 2 ^ w) ∧
    (∃ r, PerformsV s s (.vShr t d a b) [] d r 0 ∧ ∀ i, i < 512 / w → lane w r i = x i / 2 ^ n i) ∧
    (∃ r, PerformsV s s (.vSar t d a b) [] d r 0 ∧
      ∀ i, i < 512 / w → lane w r i = ((BitVec.ofNat w (x i)).sshiftRight (n i)).toNat)) ∧
  (∀ (s : State) (rel : Rel) (t : ElemTy) (d a b : VReg), VectorFree s [a, b] → t ∈ ElemTy.intTypes →
    let w := elemBits t
    let x := intAt s t a
    let y := intAt s t b
    let ones := fun (c : Int → Int → Prop) (r : VWord) =>
      ∀ i, i < 512 / w → (c (x i) (y i) → lane w r i = 2 ^ w - 1) ∧ (¬ c (x i) (y i) → lane w r i = 0)
    ∃ r, PerformsV s s (.vCmp rel t d a b) [] d r 0 ∧
      (rel = .eq → ones (fun p q => p = q) r) ∧ (rel = .ne → ones (fun p q => p ≠ q) r) ∧
      (rel = .lt ∨ rel = .ltz → ones (fun p q => p < q) r) ∧ (rel = .le ∨ rel = .lez → ones (fun p q => p ≤ q) r) ∧
      (rel = .gt ∨ rel = .gtz → ones (fun p q => q < p) r) ∧ (rel = .ge ∨ rel = .gez → ones (fun p q => q ≤ p) r)) ∧
  (∀ (s : State) (rel : Rel) (d a b : VReg), VectorFree s [a, b] →
    ∃ r fl, PerformsV s s (.vCmp rel .f32 d a b) [] d r fl ∧ ∀ i, i < 16 →
      let x := fp32.decode (lanesAt s 32 a i)
      let y := fp32.decode (lanesAt s 32 b i)
      (x.isNan = true ∨ y.isNan = true → lane 32 r i = if rel = .ne then 2 ^ 32 - 1 else 0) ∧
      (x.isNan = false → y.isNan = false →
        lane 32 r i = if relOfCompare rel (fpCompare x y) = true then 2 ^ 32 - 1 else 0))

/-- Integer and logic lanes of the vector instructions: `VectorIntegerResults` and `VectorLogicResults` together. -/
def Obligations.VectorIntegerAndLogic : Prop := Claims.VectorIntegerResults ∧ Claims.VectorLogicResults

/-- R182, R271, R272: reductions of integer lanes, and of FP32 lanes by the tree of four levels, into lane 0 with every other
lane zero; broadcast, extract and insert. -/
def Sys2Proof.Claims.VectorReduceAndMove : Prop :=
  (∀ (s : State) (t : ElemTy) (d a : VReg), VectorFree s [a] → t ∈ ElemTy.intTypes →
    let w := elemBits t
    let x := intAt s t a
    let alone := fun (r : VWord) => ∀ i, 0 < i → i < 512 / w → lane w r i = 0
    (∃ r, PerformsV s s (.vRedAdd t d a) [] d r 0 ∧ alone r ∧
      lane w r 0 = toBits w ((List.range (512 / w)).map x).sum) ∧
    (∃ r k, PerformsV s s (.vRedMin t d a) [] d r 0 ∧ alone r ∧ k < 512 / w ∧ lane w r 0 = toBits w (x k) ∧
      ∀ i, i < 512 / w → x k ≤ x i) ∧
    (∃ r k, PerformsV s s (.vRedMax t d a) [] d r 0 ∧ alone r ∧ k < 512 / w ∧ lane w r 0 = toBits w (x k) ∧
      ∀ i, i < 512 / w → x i ≤ x k)) ∧
  (∀ (s : State) (d a : VReg), VectorFree s [a] →
    let tree := fun (f : Nat → Nat → Nat × FlagSet) => treeReduce f 4 ((List.range 16).map (lanesAt s 32 a)) 0
    let ends := fun (i : Instr) (r : Nat × FlagSet) => PerformsV s s i [] d (BitVec.ofNat 512 r.1) r.2
    ends (.vRedAdd .f32 d a) (tree (f32Add (roundingOf s))) ∧ ends (.vRedMin .f32 d a) (tree (f32MinMax false)) ∧
    ends (.vRedMax .f32 d a) (tree (f32MinMax true))) ∧
  (∀ (s t : State) (e : ElemTy) (d : VReg) (a : Reg) (x : Word), EngineTakes s (.vBcast e d a) [x] t →
    ∃ r, PerformsV s t (.vBcast e d a) [x] d r 0 ∧
      ∀ i, i < 512 / elemBits e → lane (elemBits e) r i = x.toNat % 2 ^ elemBits e) ∧
  (∀ (s t : State) (e : ElemTy) (d : Reg) (a : VReg) (b : Reg) (n : Word), let i : Instr := .vExt e d a b
    EngineTakes s i [n] t → Performs s t i [n] (puts (onTurn i [n] t) d.val (if elemSigned e
      then (BitVec.ofNat (elemBits e) (lanesAt t (elemBits e) a (n.toNat % (512 / elemBits e)))).signExtend 64
      else BitVec.ofNat 64 (lanesAt t (elemBits e) a (n.toNat % (512 / elemBits e)))))) ∧
  (∀ (s t : State) (e : ElemTy) (d : VReg) (a b : Reg) (x n : Word), EngineTakes s (.vIns e d a b) [x, n] t →
    ∃ r, PerformsV s t (.vIns e d a b) [x, n] d r 0 ∧ ∀ i, i < 512 / elemBits e →
      lane (elemBits e) r i = if i = n.toNat % (512 / elemBits e) then x.toNat % 2 ^ elemBits e
        else lanesAt t (elemBits e) d i)

/-- R273: byte i of `V.PERM`'s result is 0 where bit 7 of byte i of b is set, and otherwise the byte of a that its low six
bits name, both sources as they stood; a chain that decodes to `V.PERM` has MOD5 zero. -/
def Obligations.BytePermute : Prop :=
  (∀ (s : State) (d a b : VReg), VectorFree s [a, b] → ∃ r, PerformsV s s (.vPerm d a b) [] d r 0 ∧ ∀ i, i < 64 →
    lane 8 r i = if 128 ≤ lanesAt s 8 b i then 0 else lanesAt s 8 a (lanesAt s 8 b i % 64)) ∧
  (∀ (ws : List Half) (c : Chain) (d a b : VReg), decodeWords ws = .ok c → c.instr = .vPerm d a b → c.fold.mod5 = 0)

/-- R274 to R276: conversion, pack and unpack write the converted lanes of their sources in order, and `V.SCL` multiplies
each lane by the power of two of its scale, or writes NaN with NV for a scale of 0xFF; the flags of all lanes are raised
together. -/
def Sys2Proof.Claims.VectorConversions : Prop :=
  (∀ (s : State) (dst src : ElemTy) (d a b : VReg) (h : Fin 8), VectorFree s [a, b] →
    let rm := roundingOf s
    let part := fun (v : VReg) (o n : Nat) => (List.range n).map (fun i => convertLane dst src rm (lanesAt s (elemBits src) v (o + i)))
    let writes := fun (i : Instr) (l : List (Nat × FlagSet)) => PerformsV s s i [] d (ofLanes (elemBits dst) (l.map (·.1)))
      (l.foldl (fun acc e => acc ||| e.2) 0)
    writes (.vCvt dst src d a) (part a 0 (512 / max (elemBits src) (elemBits dst))) ∧
    writes (.vPack dst src d a b) (part a 0 (512 / elemBits src) ++ part b 0 (512 / elemBits src)) ∧
    writes (.vUnpk dst src d a h) (part a (h.val * (512 / elemBits dst)) (512 / elemBits dst))) ∧
  (∀ (s t : State) (inv : Bool) (d a : VReg) (b : Reg) (x : Word), EngineTakes s (.vScl inv d a b) [x] t →
    (x.toNat % 256 = 255 → PerformsV s t (.vScl inv d a b) [x] d (ofLanes 32 (List.replicate 16 0x7FC00000)) 16) ∧
    (x.toNat % 256 ≠ 255 →
      let k : Int := if inv then 127 - (x.toNat % 256 : Nat) else (x.toNat % 256 : Nat) - 127
      let l := (List.range 16).map (fun i => scaleLane (roundingOf t) k (lanesAt t 32 a i))
      PerformsV s t (.vScl inv d a b) [x] d (ofLanes 32 (l.map (·.1))) (l.foldl (fun acc e => acc ||| e.2) 0)))

/-- Vector reductions, moves and conversions: `VectorReduceAndMove` and `VectorConversions` together. -/
def Obligations.VectorMovesAndConversions : Prop := Claims.VectorReduceAndMove ∧ Claims.VectorConversions

/-- R177, R277: with a sealed bank of the partition selected, `V.DEC8` and `V.DEC4` write the decoded values of 16 codes as
FP32 lanes and `V.ENC8` and `V.ENC4` replace 16 codes by the encodings of the lanes and keep the others; with an
unsealed bank or one of another partition a `V.DEC8` issues, and stays in the engine queue on its engine turn, and no
vector register changes. Readings of the model's own: log entries 29 and 31. -/
def Obligations.VectorCodes : Prop :=
  ∀ (s : State) (d a : VReg) (h : Fin 8), VectorFree s [d, a] →
    let k := (s.core s.myCore).bank s.me.vbank
    let mine := nbit (s.part s.me.part).tbanks s.me.vbank = true
    let decoded := fun (w : Nat) (i : Instr) => ∃ r, PerformsV s s i [] d r 0 ∧
      ∀ j, j < 16 → lane 32 r j = k.decode s.me.nxm (lanesAt s w a (16 * h.val + j)) * 2 ^ 13 % 2 ^ 32
    let encoded := fun (w : Nat) (i : Instr) => ∃ r fl, PerformsV s s i [] d r fl ∧
      ∀ j, j < 512 / w → lane w r j = if 16 * h.val ≤ j ∧ j < 16 * h.val + 16
        then (k.encode (2 ^ w) s.me.nxm (lanesAt s 32 a (j - 16 * h.val))).1 % 2 ^ w else lanesAt s w d j
    (mine → k.st = .sealed → decoded 8 (.vDec8 d a h) ∧ decoded 4 (.vDec4 d a h) ∧ encoded 8 (.vEnc8 d a h) ∧
      ((k.view 16).isEmpty = false → encoded 4 (.vEnc4 d a h))) ∧
    ((¬ mine ∨ k.st ≠ .sealed) → let i : Instr := .vDec8 d a h
      exec i s = .next (entered i [] s) ∧ ∃ t, exec (.engineTurn s.cur) (entered i [] s) = .next t ∧ t.me.v = s.me.v ∧
        t.me.engq.map (·.instr) = [i])


/-- R158: lane i of width w is bits [w × (i + 1) − 1 : w × i] of a vector register; a register has 16, 32, 64, 8 or 128 lanes
by its type; in each byte the lower `.c4` lane is bits [3:0]. -/
def Obligations.VectorLanes : Prop :=
  (∀ (v : VWord) (w i : Nat), 0 < w → w * (i + 1) ≤ 512 → lane w v i = (v.extractLsb (w * (i + 1) - 1) (w * i)).toNat) ∧
  (∀ v : VWord,
    (∀ t : ElemTy, t = .f32 ∨ t = .s32 ∨ t = .z32 → (lanesOf (elemBits t) v).length = 16) ∧
    (∀ t : ElemTy, t = .bf16 ∨ t = .f16 ∨ t = .s16 ∨ t = .z16 → (lanesOf (elemBits t) v).length = 32) ∧
    (∀ t : ElemTy, t = .s8 ∨ t = .z8 ∨ t = .c8 → (lanesOf (elemBits t) v).length = 64) ∧
    (∀ t : ElemTy, t = .s64 ∨ t = .z64 → (lanesOf (elemBits t) v).length = 8) ∧
    (lanesOf (elemBits .c4) v).length = 128 ∧
    (∀ k, k < 64 → lane (elemBits .c4) v (2 * k) = lane 8 v k % 16 ∧ lane (elemBits .c4) v (2 * k + 1) = lane 8 v k / 16))

/-! ## Matrix, Treadle and Carter -/

/-- R159, R285: `M.CLR` zeroes every element of its tile, `M.RD` reads 16 elements into a vector and `M.WR` writes them from
one; the other tiles stay. -/
def Sys2Proof.Claims.TileMoves : Prop :=
  (∀ (s : State) (m : Acc), let i : Instr := .mClr m
    EngineTakes s i [] s → nbit (s.accMask s.me.part (s.cur % 16)) m.val = true →
    (∀ w ∈ (s.core s.myCore).matrix, w.acc ≠ m.val) →
    let q := onTurn i [] s
    ∃ k, Performs s s i [] (q.setCore q.myCore k) ∧ k.tile m.val = List.replicate 1024 0 ∧
      k.slots = (q.core q.myCore).slots ∧ k.lm = (s.core s.myCore).lm ∧
      ∀ n, n ≠ m.val → k.tile n = (s.core s.myCore).tile n) ∧
  (∀ (s t : State) (v : VReg) (m : Acc) (b : Reg) (x : Word),
    nbit (t.accMask t.me.part (t.cur % 16)) m.val = true → (∀ w ∈ (t.core t.myCore).matrix, w.acc ≠ m.val) →
    (EngineTakes s (.mRd v m b) [x] t → ∃ r, PerformsV s t (.mRd v m b) [x] v r 0 ∧
      ∀ j, j < 16 → lane 32 r j = (((t.core t.myCore).tile m.val).getD (x.toNat % 64 * 16 + j) 0).toNat) ∧
    (EngineTakes s (.mWr m v b) [x] t → let q := onTurn (.mWr m v b) [x] t
      ∃ k, Performs s t (.mWr m v b) [x] (q.setCore q.myCore k) ∧
      (∀ i, i < 1024 → (k.tile m.val).getD i 0 =
        if x.toNat % 64 * 16 ≤ i ∧ i < x.toNat % 64 * 16 + 16
        then BitVec.ofNat 32 (lanesAt t 32 v (i - x.toNat % 64 * 16)) else ((t.core t.myCore).tile m.val).getD i 0) ∧
      ∀ n, n ≠ m.val → k.tile n = (t.core t.myCore).tile n))

/-- R280 to R284, R287: a step whose operands, tile and unit are ready enters the matrix unit with the sums of its blocks as
the tile's coming elements, written 20 cycles after the unit frees, and disposes of the head tile; `M.LOCAL` takes B
from LM, and `M.PASS` sends the head tile with STEP + 1. Readings of the model's own: log entry 29. -/
def Obligations.MatrixSteps : Prop :=
  (∀ (s t : State) (disp : Disp) (m : Acc) (a b : Reg) (x y : Word) (second : Bool) (tile : RingTile),
    let i : Instr := .mStep disp m a b
    let q := onTurn i [x, y] t
    EngineTakes s i [x, y] t → (q.core q.myCore).latch.holder = some (q.cur % 16) →
    let k := opK y
    let o := aOperand q.me (fld x 18 0) k (opQ0 y)
    let c := (q.core q.myCore).fillBanks
    done (bothDescs q.me k m) q = some ((), q) → done (operandChecks [o]) q = some ((), q) →
    c.latch.head = some (second, tile) → (∀ w ∈ c.matrix, w.free ≤ q.now) → (disp = .send → c.latch.sending = none) →
    tile.k = k → tile.nxm = q.me.nxm → tile.fmt = tileFormat q.me.fb c → tile.scaled = descScaled q.me.fb →
    ∃ u, Performs s t i [x, y] u ∧
      (u.core u.myCore).matrix = c.matrix ++ [{
        slot := q.cur % 16, acc := m.val, free := q.now + stepCycles (descElem q.me.fa) (descElem q.me.fb) k
        done := q.now + stepCycles (descElem q.me.fa) (descElem q.me.fb) k + 20
        elems := stepTile (c.tileNow m.val) (aRows q.me c o k) (bCols q.me c tile.elem tile.data k) k
          (scaleAt (descScaled q.me.fa) (o.scales c)) (scaleAt tile.scaled tile.scales) }] ∧
      (disp = .keep → (u.core u.myCore).latch = c.latch) ∧
      (disp = .drop → (u.core u.myCore).latch = (c.latch.empty second).next) ∧
      (disp = .send → (u.core u.myCore).latch.rstep = (c.latch.rstep + 1) % 65536 ∧
        (u.core u.myCore).latch.sending =
          some { dest := q.me.mringSucc, tile := { tile with step := (tile.step + 1) % 65536, src := q.myCore }
                 plan := !decide (q.me.mode = 0), put := 0, got := 0 })) ∧
  (∀ (s t : State) (m : Acc) (a b : Reg) (x y : Word), let i : Instr := .mLocal m a b
    let q := onTurn i [x, y] t
    EngineTakes s i [x, y] t →
    let k := opK y
    let o := aOperand q.me (fld x 18 0) k (opQ0 y)
    let p := bOperand q.me (fld x 50 32) k (opQ0 y)
    let c := q.core q.myCore
    done (bothDescs q.me k m) q = some ((), q) → done (operandChecks [o, p]) q = some ((), q) →
    (∀ w ∈ c.matrix, w.free ≤ q.now) →
    Performs s t i [x, y] (q.setCore q.myCore { c with matrix := c.matrix ++ [{
        slot := q.cur % 16, acc := m.val, free := q.now + stepCycles (descElem q.me.fa) (descElem q.me.fb) k
        done := q.now + stepCycles (descElem q.me.fa) (descElem q.me.fb) k + 20
        elems := stepTile (c.tileNow m.val) (aRows q.me c o k) (bCols q.me c (descElem q.me.fb) (p.bytes c) k) k
          (scaleAt (descScaled q.me.fa) (o.scales c)) (scaleAt (descScaled q.me.fb) (p.scales c)) }] })) ∧
  (∀ (s : State) (second : Bool) (tile : RingTile), let q := onTurn .mPass [] s
    EngineTakes s .mPass [] s → (q.core q.myCore).latch.holder = some (q.cur % 16) →
    let c := (q.core q.myCore).fillBanks
    c.latch.head = some (second, tile) → c.latch.sending = none →
    ∃ u, Performs s s .mPass [] u ∧ (u.core u.myCore).latch.rstep = (c.latch.rstep + 1) % 65536 ∧
      (u.core u.myCore).latch.sending =
        some { dest := q.me.mringSucc, tile := { tile with step := (tile.step + 1) % 65536, src := q.myCore }
               plan := !decide (q.me.mode = 0), put := 0, got := 0 } ∧
      (u.core u.myCore).matrix = c.matrix)

/-- R278, R279, R281, R286: `M.LATCH` puts the B tile that it reads from LM into an empty bank; `M.RING` takes a free latch
and answers 1, answers 0 while another slot holds it, and on leaving frees it; `M.STAT` reads the status word and
`M.SYNC` ends once the slot's matrix work is done. Readings of the model's own: log entry 28. -/
def Sys2Proof.Claims.MatrixRing : Prop :=
  (∀ (s t : State) (a b : Reg) (x y : Word), let i : Instr := .mLatch a b
    let q := onTurn i [x, y] t
    EngineTakes s i [x, y] t → (q.core q.myCore).latch.holder = some (q.cur % 16) → descElem q.me.fb ≠ 0 →
    let k := opK y
    let o := bOperand q.me (fld x 18 0) k (opQ0 y)
    let c := (q.core q.myCore).fillBanks
    done (descCheck q.me.fb) q = some ((), q) → done (kCheck k [descElem q.me.fb]) q = some ((), q) →
    done (operandChecks [o]) q = some ((), q) → c.latch.bank0 = none →
    (∀ u, c.latch.bank1 = some u → u.step ≠ fld y 63 48) →
    Performs s t i [x, y] (q.setCore q.myCore { c with latch := { c.latch with bank0 := some {
      k := k, elem := descElem q.me.fb, data := o.bytes c, scales := o.scales c, fmt := tileFormat q.me.fb c
      scaled := descScaled q.me.fb, nxm := q.me.nxm, step := fld y 63 48, src := q.myCore } } })) ∧
  (∀ (s t : State) (d a b : Reg) (p v : Word), let i : Instr := .mRing false d a b
    let q := onTurn i [p, v] t
    EngineTakes s i [p, v] t →
    q.inCoreSet q.me.part (fld p 7 0) = true → q.inCoreSet q.me.part (fld v 7 0) = true →
    ((q.core q.myCore).latch.taken q.me.part (q.cur % 16) = true → Performs s t i [p, v] (puts q d.val 0)) ∧
    ((q.core q.myCore).latch.taken q.me.part (q.cur % 16) = false →
      ∃ u : State, Performs s t i [p, v] (puts u d.val 1) ∧ u.me.g = t.me.g ∧ u.cur = t.cur ∧
        u.me.mringPred = fld p 7 0 ∧ u.me.mringSucc = fld v 7 0 ∧
        (u.core u.myCore).latch.holder = some (t.cur % 16) ∧ (u.core u.myCore).latch.bank0 = none ∧
        (u.core u.myCore).latch.bank1 = none ∧ (u.core u.myCore).latch.rstep = 0)) ∧
  (∀ (s t : State) (d a b : Reg) (p v : Word), let i : Instr := .mRing true d a b
    let q := onTurn i [p, v] t
    EngineTakes s i [p, v] t → (∀ w ∈ (q.core q.myCore).matrix, w.slot ≠ q.cur % 16) →
    ((q.core q.myCore).latch.holder = some (q.cur % 16) → (q.core q.myCore).latch.outstanding = 0 →
      ∃ u : State, Performs s t i [p, v] (puts u d.val 1) ∧ (u.core u.myCore).latch.holder = none ∧
        u.me.g = t.me.g ∧ u.cur = t.cur) ∧
    ((q.core q.myCore).latch.holder ≠ some (q.cur % 16) → Performs s t i [p, v] (puts q d.val 0))) ∧
  (∀ (s t : State) (d : Reg), let q := onTurn (.mStat d) [] t
    EngineTakes s (.mStat d) [] t → Performs s t (.mStat d) [] (puts q d.val (q.mStat q.cur))) ∧
  (∀ s : State, let q := onTurn .mSync [] s
    EngineTakes s .mSync [] s → (∀ w ∈ (q.core q.myCore).matrix, w.slot ≠ q.cur % 16) →
    ((q.core q.myCore).latch.holder ≠ some (q.cur % 16) ∨ (q.core q.myCore).latch.outstanding = 0) →
    Performs s s .mSync [] q)

/-- Tile moves, the latch and the ring: `TileMoves` and `MatrixRing` together. -/
def Obligations.TilesAndRing : Prop := Claims.TileMoves ∧ Claims.MatrixRing

/-- R288 to R291: `TR.DEF` empties the buffer and starts a capture; `TR.GO` starts a replay of a buffer that is not empty,
or does nothing for a count of zero; `TR.WAIT` ends with the passes once no replay is active; `TR.STOP` ends the replay,
and gives its passes once no matrix step of the slot is under way. Readings of the model's own: log entry 30. -/
def Sys2Proof.Claims.TreadleInstructions : Prop :=
  (∀ (s : State) (n a0 a1 : Nat), 1 ≤ n → n ≤ 16 → (a0 < 24 ∨ a0 = 31) → (a1 < 24 ∨ a1 = 31) → (a0 = a1 → a0 = 31) → s.me.tr.active = false →
    exec (.trDef (a1 * 512 + a0 * 16 + (n - 1))) s = .next (s.setMe { s.me with tr :=
      { s.me.tr with buf := [], capture := n, areg0 := a0, areg1 := a1 } }).commit) ∧
  (∀ (s t : State) (a : Reg) (x : Word) (count stride : Nat), count < 2 ^ 16 → stride < 16 → s.me.tr.buf ≠ [] →
    s.me.tr.active = false →
    done (ready ([a.val] ++ [s.me.tr.areg0, s.me.tr.areg1].filter (fun n => decide (n < 24))) []) s = some ((), s) →
    done (readS a.val) s = some (x, t) →
    (count = 0 → exec (.trGo a (stride * 2 ^ 16 + count)) s = .next t.commit) ∧
    (count ≠ 0 → ∃ u : State, exec (.trGo a (stride * 2 ^ 16 + count)) s = .next u.commit ∧ u.me.tr.active = true ∧
      u.me.tr.p = 0 ∧ u.me.tr.j = 0 ∧ u.me.tr.count = count ∧ u.me.tr.stride = stride ∧ u.me.tr.buf = s.me.tr.buf ∧
      u.me.tr.inc0 = x.toNat % 2 ^ 32 ∧ u.me.tr.inc1 = x.toNat / 2 ^ 32 ∧ u.me.g = t.me.g ∧
      (s.me.tr.areg0 < 24 → u.me.tr.c0 = t.me.g[s.me.tr.areg0]!) ∧
      (s.me.tr.areg1 < 24 → u.me.tr.c1 = t.me.g[s.me.tr.areg1]!))) ∧
  (∀ (s t : State) (d : Reg), Takes s [] [d.val] [] t →
    (s.me.tr.active = false → exec (.trWait d) s = .next (puts s d.val (BitVec.ofNat 64 s.me.tr.passes)).commit) ∧
    (s.me.tr.active = true → exec (.trWait d) s = .next (s.waiting .retry)) ∧
    ((∀ w ∈ (s.core s.myCore).matrix, w.slot ≠ s.cur % 16) ∨ (s.me.tr.active = false ∧ s.me.tr.stopping = false) →
      exec (.trStop d) s = .next (puts (s.setMe { s.me with tr := { s.me.tr with active := false, stopping := false } }) d.val
        (BitVec.ofNat 64 s.me.tr.passes)).commit) ∧
    (s.me.tr.active = true → (∃ w ∈ (s.core s.myCore).matrix, w.slot = s.cur % 16) →
      ∃ w, exec (.trStop d) s = .next w ∧ w.me.run = .waiting .retry ∧ w.me.tr.active = false ∧ w.me.g = s.me.g ∧
        w.me.pc = s.me.pc))

/-- R123, R125, R258 to R260: a command that passes the checks of its acceptance joins the slot's Carter queue with its
credit made; `CP.STAT` reads the status and clears CPERR; `CP.ABORT` empties the queue with code 7. Readings of the
model's own: log entry 22. -/
def Sys2Proof.Claims.CarterInstructions : Prop :=
  (∀ (s u : State) (a b c : Reg) (cmd : CpCmd), MemoryFree s →
    let field := fld s.me.g[c.val]! 27 26
    let queued := Host.Outcome.next (φ := Fault) (ρ := Refusal) (u.setMe { u.me with cp :=
      { u.me.cp with queue := u.me.cp.queue ++ [cmd], accepted := u.me.cp.accepted + 1 } }).commit
    (field = 0 → Accepts s .g2l false a b c cmd u → exec (.cpG2L a b c) s = queued) ∧
    (field = 0 → Accepts s .l2g false a b c cmd u → exec (.cpL2G a b c) s = queued) ∧
    (field = 0 → Accepts s .l2l false a b c cmd u → exec (.cpL2L a b c) s = queued) ∧
    (field = 0 → Accepts s .g2g false a b c cmd u → exec (.cpG2G a b c) s = queued) ∧
    (field = 0 → Accepts s .fillG false a b c cmd u → exec (.cpFill a b c) s = queued) ∧
    (field = 1 → Accepts s .fillL false a b c cmd u → exec (.cpFill a b c) s = queued) ∧
    (field = 0 → Accepts s .g2l true a b c cmd u → exec (.cp2D a b c) s = queued) ∧
    (field = 1 → Accepts s .l2g true a b c cmd u → exec (.cp2D a b c) s = queued) ∧
    (field = 2 → Accepts s .l2l true a b c cmd u → exec (.cp2D a b c) s = queued) ∧
    (field = 3 → Accepts s .g2g true a b c cmd u → exec (.cp2D a b c) s = queued)) ∧
  (∀ (s t : State) (d : Reg), Takes s [] [d.val] [] t →
    exec (.cpStat d) s = .next (puts (s.setMe { s.me with cp := { s.me.cp with cperr := false } }) d.val
      s.me.cp.status).commit) ∧
  (∀ s : State, ∃ u : State, exec .cpAbort s = .next u.commit ∧ u.me.cp.queue = [] ∧
    (s.me.cp.queue ≠ [] → u.me.cp.code = 7 ∧ u.me.cp.cperr = true) ∧ u.me.g = s.me.g)

/-- Treadle and Carter instructions: `TreadleInstructions` and `CarterInstructions` together. -/
def Obligations.TreadleAndCarterInstructions : Prop := Claims.TreadleInstructions ∧ Claims.CarterInstructions

/-! ## Messages, trees and route plans -/

/-- R296: with an outbox that is not empty, operands whose reserved bits are zero and fewer than four messages in flight,
`MSG.SEND` performs its ordering's release, once no engine memory instruction stands before it, and moves the whole outbox into one message on its way; it acquires nothing. -/
def Sys2Proof.Claims.MessageSend : Prop :=
  ∀ (s t : State) (o : Ord) (sc got : Scope) (a b : Reg) (dest w : Word),
    (relOf o = true → MemoryFree s) → done (ready [a.val, b.val] []) s = some ((), s) →
    done (do
      let sc ← scopeFor .part sc
      let x ← readS a.val
      let y ← readS b.val
      pure (sc, x, y)) s = some ((got, dest, w), t) →
    fld dest 35 0 = 0 → fld w 63 20 = 0 → fld w 19 16 ≠ 6 → fld w 19 16 ≠ 7 → t.me.outbox ≠ [] → t.me.inFlight < 4 →
    MayRelease t o got →
    ∃ (u : State) (f : Flight), exec (.msgSend o sc a b) s = .next u.commit ∧ u.cur = t.cur ∧
      u.me.outbox = [] ∧ u.me.flights = (released t o got).me.flights ++ [f] ∧
      f.msg.words = t.me.outbox ∧ f.msg.fmt = fld w 19 16 ∧ f.msg.utag = fld w 15 0 ∧ f.msg.tin = fld dest 51 36 ∧
      f.msg.reason = 0 ∧ f.msg.nxm = t.me.nxm ∧ f.dstCore = fld dest 63 56 ∧ f.dstSlot = fld dest 55 52 ∧
      f.fromTin = t.me.tin ∧ f.part = t.me.part ∧ f.pos = .sender ∧ f.plan = !decide (t.me.mode = 0) ∧
      u.me.g = t.me.g ∧ u.me.p = t.me.p ∧ u.me.v = t.me.v ∧ u.mem = (released t o got).mem

/-- R297, R298: `MSG.INFO` gives d the info word of the head of the inbox and removes nothing, and waits while the inbox is
empty; `QSTAT` gives the queue status word, whose fields are the counts of the queues, and `QSTAT.tree` the status of
the tree entry that a names. Readings of the model's own: log entry 9. -/
def Sys2Proof.Claims.MessageStatus : Prop :=
  (∀ (s t : State) (d : Reg), Takes s [] [d.val] [] t →
    (∀ (m : Message) (ms : List Message), s.me.inbox = m :: ms →
      exec (.msgInfo d) s = .next (puts s d.val (BitVec.ofNat 64 (m.core * 2 ^ 56 + m.slot * 2 ^ 52 + m.tin * 2 ^ 36
        + (m.words.length - 1) * 2 ^ 33 + m.reason * 2 ^ 30 + (if m.nxm then 2 ^ 29 else 0) + m.fmt * 2 ^ 25
        + m.utag))).commit) ∧
    (s.me.inbox = [] → exec (.msgInfo d) s = .next (s.waiting .retry)) ∧
    (∀ a : Reg, ∃ w : Word, exec (.qstat false d a) s = .next (puts s d.val w).commit ∧
      (s.me.inFlight < 8 → s.me.inbox.length < 16 → s.me.outbox.length < 16 → s.me.q5.length < 32 →
        s.me.q6.length < 16 → s.me.q7.length < 16 → (∀ i, i < 4 → s.me.inq[i]!.length < 8 ∧ s.me.outq[i]!.length < 8) →
        fld w 47 45 = s.me.inFlight ∧ fld w 44 41 = s.me.inbox.length ∧ fld w 40 37 = s.me.outbox.length ∧
        fld w 36 32 = s.me.q5.length ∧ fld w 31 28 = s.me.q6.length ∧ fld w 27 24 = s.me.q7.length ∧
        fld w 23 21 = s.me.outq[3]!.length ∧ fld w 20 18 = s.me.outq[2]!.length ∧ fld w 17 15 = s.me.outq[1]!.length ∧
        fld w 14 12 = s.me.outq[0]!.length ∧ fld w 11 9 = s.me.inq[3]!.length ∧ fld w 8 6 = s.me.inq[2]!.length ∧
        fld w 5 3 = s.me.inq[1]!.length ∧ fld w 2 0 = s.me.inq[0]!.length))) ∧
  (∀ (s t : State) (d a : Reg) (x : Word), Takes s [a.val] [d.val] [x] t →
    exec (.qstat true d a) s =
      .next (puts t d.val ((t.core t.myCore).tree (x.toNat % 8)).status).commit)

/-- Message and queue status instructions: `MessageSend` and `MessageStatus` together. -/
def Obligations.MessageInstructions : Prop := Claims.MessageSend ∧ Claims.MessageStatus

/-- R299, R300: `RED.PKT` gives its slot's node of an enabled tree its local part, the first lanes of v and the register
after it, and the node settles; `RED.RECV` gives the result of the root's buffer and its status and frees the buffer,
and `.miss` gives the mask of the missing members and keeps it. Readings of the model's own: log entries 27 and 103. -/
def Sys2Proof.Claims.TreePackets : Prop :=
  (∀ (s t : State) (v : VReg) (a b : Reg) (x y : Word), let i : Instr := .redPkt v a b
    EngineTakes s i [x, y] t → v.val % 2 = 0 →
    let q := onTurn i [x, y] t
    let tree := x.toNat % 8
    let n := (q.core q.myCore).tree tree
    let lanes := fld y 5 0
    let w := treeWidth n.entry
    bitOf n.entry 63 = true → bitOf n.entry 59 = true → fld n.entry 34 31 = q.cur % 16 → 1 ≤ lanes → lanes ≤ 1024 / w →
    n.loc = none → n.frozen = false →
    ∃ p : RedPacket, Performs s t i [x, y] ((q.setTree q.myCore tree (n.place 2 p q.now)).treeSettle q.myCore tree
        (n.early.length + 2)) ∧
      p.lanes = lanes ∧ p.epoch = n.epoch ∧ p.src = q.myCore ∧ p.incomplete = false ∧ p.present = 2 ^ fld n.entry 30 23 ∧
      p.data.length = lanes ∧
      ∀ j, j < lanes → p.data[j]? = some (if j < 512 / w then lanesAt t w v j else lanesAt t w (shiftReg 1 v) (j - 512 / w))) ∧
  (∀ (s t : State) (miss : Bool) (v : VReg) (d a : Reg) (x : Word) (r : TreeResult), let i : Instr := .redRecv miss v d a
    EngineTakes s i [x] t → v.val % 2 = 0 →
    let q := onTurn i [x] t
    let tree := x.toNat % 8
    let n := (q.core q.myCore).tree tree
    let w := r.width
    bitOf n.entry 63 = true → bitOf n.entry 62 = true → fld n.entry 34 31 = q.cur % 16 → n.result = some r →
    Performs s t i [x] (puts (if miss then vputs q v (BitVec.ofNat 512 r.missing)
      else (vputs (vputs q v (ofLanes w (r.data.take (512 / w)))) (shiftReg 1 v) (ofLanes w (r.data.drop (512 / w)))).freeResult
        q.myCore tree) d.val r.word))

/-- R301, R302: a route entry that its checks pass takes effect two cycles after its issue; `TREE.SET` leaves the entry as
written, at epoch 0, with no part of an epoch, counts what it held as late, and gives the children their credits back;
the checks take the faults that the rules name. Readings of the model's own: log entries 26 and 27. -/
def Sys2Proof.Claims.PlanAndTreeSetUp : Prop :=
  (∀ (s t : State) (a b : Reg) (x w : Word), Takes s [a.val, b.val] [] [x, w] t → fld x 2 0 < 5 → fld x 7 3 = 0 →
    fld x 63 14 = 0 →
    (t.routeFault t.myCore t.me.part t.me.priv (fld x 2 0) (fld x 13 8) w = none →
      ∃ e : RteEntry, exec (.rteSet a b) s = .next (t.setCore t.myCore { t.core t.myCore with
          routePending := (t.core t.myCore).routePending ++ [(t.now + 2, fld x 2 0 * 64 + fld x 13 8, e)] }).commit ∧
        e.val = (if w.getLsbD 63 then w else 0) ∧ e.ptr = fld w 51 33 ∧ e.hole = false) ∧
    (∀ f, t.routeFault t.myCore t.me.part t.me.priv (fld x 2 0) (fld x 13 8) w = some f →
      exec (.rteSet a b) s = .next (s.takeFault { code := f, addr := 0, loc := false, kind := 0, cause := 0, extra := [] }))) ∧
  (∀ (s t : State) (a b : Reg) (x w : Word), Takes s [a.val, b.val] [] [x, w] t → x.toNat < 8 →
    (t.me.priv = true ∨ (fld (t.part t.me.part).w0 7 0).testBit x.toNat = true) →
    (w = 0 ∨ (w.getLsbD 63 = true ∧ t.treeFault t.me.part w = none)) →
    ∃ u : State, exec (.treeSet a b) s = .next u.commit ∧ u.me = t.me ∧ u.mem = t.mem ∧
      let n := (t.core t.myCore).tree x.toNat
      let m := (u.core u.myCore).tree x.toNat
      m.entry = w ∧ m.epoch = 0 ∧ m.left = none ∧ m.right = none ∧ m.loc = none ∧ m.early = [] ∧ m.timer = none ∧
      m.treebad = n.treebad ∧ m.result = n.result ∧
      u.later = t.later ++ n.children.map (fun c => .treeTimeout c x.toNat) ∧
      m.latered = min 65535 (n.latered + n.left.toList.length + n.right.toList.length + n.loc.toList.length
        + n.early.length) ∧ ∀ i, i < 8 → i ≠ x.toNat → (u.core u.myCore).tree i = (t.core t.myCore).tree i) ∧
  (∀ (s t : State) (a b : Reg) (x w : Word), Takes s [a.val, b.val] [] [x, w] t → x.toNat < 8 → t.me.priv = false →
    (fld (t.part t.me.part).w0 7 0).testBit x.toNat = false →
    exec (.treeSet a b) s = .next (s.takeFault
      { code := 3, addr := 0, loc := false, kind := 0, cause := 0, extra := [] }))

/-- Reduction trees and route plans: `TreePackets` and `PlanAndTreeSetUp` together. -/
def Obligations.TreeAndPlanInstructions : Prop := Claims.TreePackets ∧ Claims.PlanAndTreeSetUp

/-! ## Task queues and gates -/

/-- R303, R304, R352, R358: a push or a spawn to a resident queue with room releases at `.part`, puts its packet at the
tail, counts in SENT and RECV of the task's launch and gives d zero; to a full queue it queues nothing and gives 1. A
spawn by a task without a packet takes `ILLEGAL_OPCODE`. Readings of the model's own: log entries 35 and 36. -/
def Sys2Proof.Claims.TaskQueuePushes : Prop :=
  (∀ (s t u q w : State) (d a b : Reg) (h va : Word) (l : Loc) (desc v : Nat) (r : Resident), MemoryFree s →
    Takes s [a.val, b.val] [d.val] [h, va] t → va.toNat % 64 = 0 → Finds t .r false va l u →
    done (queueFor (h.toNat % 2 ^ 12)) u = some ((desc, r), q) → q.releaseHeld q.myCore .part = false →
    done (loadAt l 64) (q.release q.myCore .part) = some (v, w) →
    (w.queueDepth r.part r.asn r.handle desc = 2 ^ r.log2n →
      exec (.tqPush d a b) s = .next (puts w d.val 1).commit) ∧
    (w.queueDepth r.part r.asn r.handle desc ≠ 2 ^ r.log2n →
      ∃ x : State, w.appendPacket r.part r.asn r.handle desc r.ring r.log2n (bytesOf 64 v) = some x ∧
        exec (.tqPush d a b) s =
          .next (puts ((x.addSent (w.launchOf w.cur)).addRecv (w.launchOf w.cur)) d.val 0).commit)) ∧
  (∀ (s t q : State) (d a b : Reg) (h wid : Word) (tk : Task) (launch compl entry desc : Nat) (r : Resident),
    MemoryFree s → Takes s [a.val, b.val] [d.val] [h, wid] t → t.me.task = some tk →
    tk.packet = some (launch, compl, entry) → fld h 15 12 = 0 → h.getLsbD 16 = false →
    done (queueFor (h.toNat % 2 ^ 12)) t = some ((desc, r), q) → q.releaseHeld q.myCore .part = false →
    let w := q.release q.myCore .part
    let packet := ({ t.me with wid := wid } : Slot).replayPacket launch compl (fld h 63 16)
    (w.queueDepth r.part r.asn r.handle desc = 2 ^ r.log2n →
      exec (.tqSpawn d a b) s = .next (puts w d.val 1).commit) ∧
    (w.queueDepth r.part r.asn r.handle desc ≠ 2 ^ r.log2n →
      ∃ x : State, w.appendPacket r.part r.asn r.handle desc r.ring r.log2n packet = some x ∧
        exec (.tqSpawn d a b) s = .next (puts (((x.addSent (w.launchOf w.cur)).addRecv (w.launchOf w.cur)).raiseEnd
          (tk.part * 16 + launch)) d.val 0).commit)) ∧
  (∀ (s t : State) (d a b : Reg) (h wid : Word), MemoryFree s → Takes s [a.val, b.val] [d.val] [h, wid] t →
    t.me.task.bind (fun k => k.packet) = none →
    exec (.tqSpawn d a b) s = .next (s.takeFault
      { code := 1, addr := 0, loc := false, kind := 0, cause := 0, extra := [] }))

/-- R305 to R307, R352: a pin that finds a place on every die of the partition gives 1, and one that finds none gives 0 and
changes nothing; an unpin of a queue that an open launch uses gives 0; the status of a present handle, where one that is
not resident on the issuing die counts a queue miss first (R353); an absent handle takes `PAGE_ABSENT` with the handle
as TRAPADDR; `TSTAT` gives the scan, beat, mode, partition and lane. Readings of the model's own: log entries 35 and 81. -/
def Sys2Proof.Claims.TaskQueueStatus : Prop :=
  (∀ (s t : State) (d a : Reg) (w : Word), Takes s [a.val] [d.val] [w] t →
    let h := w.toNat % 2 ^ 12
    let part := t.me.part
    let asn := fld t.me.ptroot 63 48
    (t.queueAt part asn h = none →
      let absent := Host.Outcome.next (φ := Fault) (ρ := Refusal) (s.takeFault
        { code := 6, addr := BitVec.ofNat 64 h, loc := false, kind := 0, cause := 0, extra := [] })
      exec (.tqPin false d a) s = absent ∧ exec (.tqPin true d a) s = absent ∧ exec (.tqStat d a) s = absent) ∧
    (∀ desc, t.queueAt part asn h = some desc →
      (t.queueInUse part asn h = true → exec (.tqPin true d a) s = .next (puts t d.val 0).commit) ∧
      (t.queueInUse part asn h = false →
        exec (.tqPin true d a) s = .next (puts (t.setPinned part asn h desc false) d.val 1).commit) ∧
      ((∃ die ∈ t.diesOf part, t.residentOn die part asn h = none ∧ t.placeFor die part = none) →
        exec (.tqPin false d a) s = .next (puts t d.val 0).commit) ∧
      ((∀ die ∈ t.diesOf part, t.residentOn die part asn h ≠ none ∨ t.placeFor die part ≠ none) →
        exec (.tqPin false d a) s = .next (puts (((t.diesOf part).foldl (fun s die =>
          if die = dieOfCore t.myCore then s.serveMiss die part asn h else s.makeResident die part asn h) t).setPinned
          part asn h desc true) d.val 1).commit) ∧
      (let here := t.residentOn (dieOfCore t.myCore) part asn h
       let u := if here = none then t.countMiss (dieOfCore t.myCore) part desc else t
       (∀ r ∈ here, r.prio < 4) →
        ∃ x : Word, exec (.tqStat d a) s = .next (puts u d.val x).commit ∧
        fld x 63 48 = min 65535 (u.queueDepth part asn h desc) ∧ x.getLsbD 45 = here.isSome ∧
        x.getLsbD 44 = (u.peekNat (desc + 17) 1).testBit 2 ∧ fld x 31 16 = u.peekNat (desc + 18) 2 % 2 ^ 16 ∧
        fld x 11 0 = h))) ∧
  (∀ (s t : State) (d : Reg), Takes s [] [d.val] [] t →
    (s.core s.myCore).scan < 2 ^ 32 → (s.core s.myCore).beat < 16 → s.me.mode < 4 → s.me.part < 16 →
    (∀ k ∈ s.me.task, k.lane < 2 ^ 16) →
    ∃ x : Word, exec (.tstat d) s = .next (puts s d.val x).commit ∧ fld x 63 32 = (s.core s.myCore).scan ∧
      fld x 31 28 = (s.core s.myCore).beat ∧ fld x 27 26 = s.me.mode ∧ fld x 23 20 = s.me.part ∧
      fld x 15 0 = (match s.me.task with
        | some k => k.lane
        | none => 0xFFFF))

/-- Task queues: `TaskQueuePushes` and `TaskQueueStatus` together. -/
def Obligations.TaskQueueInstructions : Prop := Claims.TaskQueuePushes ∧ Claims.TaskQueueStatus

/-- R308 to R314: the gate instructions on a gate that this table serves. An operation that the gate answers leaves the gate
as the answer says and gives d its word; a wait that finds its post, and a try that does, also fill v and acquire; a
wait or an arrival that must wait waits at the gate; a try that the gate refuses takes the fault. `GT.STAT` gives the
status word, or takes `GATE_RIGHTS`, and on a bridged gate that is no pair `GATE_CLOSED` (R385); `GT.OPEN`, `GT.CLOSE`,
`GT.HOLD` and its release set the state, the first two once no hold stands. Readings of the model's own: log entries 34
and 91. -/
def Obligations.GateInstructions : Prop :=
  (∀ (s t u : State) (d a : Reg) (v : VReg) (w x : Word) (g : Gate), MemoryFree s → EngineFree s →
    Takes s [a.val] [d.val] [w] t → t.releaseHeld t.myCore .part = false → u = t.release t.myCore .part → servedHere u (w.toNat % 2 ^ 10) →
    (u.gate (w.toNat % 2 ^ 10)).apply 0 u.me.part u.cur (u.me.wseq.getD u.wseq) 0 (t.me.v[v.val]!) = .done g x none →
    exec (.gtPost d v a) s = .next (puts ((u.setGate (w.toNat % 2 ^ 10) g).dropSeq) d.val x).commit) ∧
  (∀ (s t : State) (d a : Reg) (v : VReg) (n w : Word), MemoryFree s → EngineFree s →
    Takes s [d.val, a.val] [d.val] [n, w] t → servedHere t (w.toNat % 2 ^ 10) →
    let id := w.toNat % 2 ^ 10
    (∀ g x r, (t.gate id).apply 1 t.me.part t.cur (t.me.wseq.getD t.wseq) n 0 = .done g x (some r) →
      exec (.gtWait d v a) s = .next (puts ((vputs ((t.setGate id g).dropSeq) v r).acquire t.myCore .part) d.val x).commit) ∧
    (∀ g, (t.gate id).apply 1 t.me.part t.cur (t.me.wseq.getD t.wseq) n 0 = .waits g →
      exec (.gtWait d v a) s = .next ((s.gateWait 1 id g).waiting .sync)) ∧
    (∀ g x r, (t.gate id).apply 2 t.me.part t.cur (t.me.wseq.getD t.wseq) n 0 = .done g x (some r) →
      exec (.gtTry d v a) s = .next (puts ((vputs ((t.setGate id g).dropSeq) v r).acquire t.myCore .part) d.val x).commit) ∧
    (∀ g x, (t.gate id).apply 2 t.me.part t.cur (t.me.wseq.getD t.wseq) n 0 = .done g x none →
      exec (.gtTry d v a) s = .next (puts ((t.setGate id g).dropSeq) d.val x).commit) ∧
    (∀ g c, (t.gate id).apply 2 t.me.part t.cur (t.me.wseq.getD t.wseq) n 0 = .fault c g →
      exec (.gtTry d v a) s = .next ((s.setGate id g).dropSeq.takeFault
        { code := c, addr := 0, loc := decide (c = 18 ∨ c = 19 ∨ c = 20), kind := 0, cause := 0, extra := [] }))) ∧
  (∀ (s t u : State) (d a : Reg) (w x : Word) (g : Gate) (r : Option VWord), MemoryFree s → Takes s [a.val] [d.val] [w] t →
    (s.me.wseq = none → t.releaseHeld t.myCore .part = false) →
    u = (if s.me.wseq = none then t.release t.myCore .part else t) → servedHere u (w.toNat % 2 ^ 10) →
    let id := w.toNat % 2 ^ 10
    ((u.gate id).apply 3 u.me.part u.cur (u.me.wseq.getD u.wseq) 0 0 = .done g x r →
      exec (.gtArrive d a) s = .next (puts (((u.setGate id g).dropSeq).acquire u.myCore .part) d.val x).commit) ∧
    ((u.gate id).apply 3 u.me.part u.cur (u.me.wseq.getD u.wseq) 0 0 = .waits g →
      exec (.gtArrive d a) s = .next ((s.gateWait 3 id g).waiting .sync))) ∧
  (∀ (s t : State) (d a : Reg) (w : Word), Takes s [a.val] [d.val] [w] t →
    let id := w.toNat % 2 ^ 10
    let g := t.gate id
    (servedHere t id → (g.rightsOf t.me.part).testBit 0 = true →
      exec (.gtStat d a) s = .next (puts (t.setGate id g).dropSeq d.val (g.status t.me.part)).commit) ∧
    (servedHere t id → (g.rightsOf t.me.part).testBit 0 = false →
      exec (.gtStat d a) s = .next ((s.setGate id g).dropSeq.takeFault
        { code := 17, addr := 0, loc := false, kind := 0, cause := 0, extra := [] })) ∧
    ((g.rightsOf t.me.part).testBit 0 = true → t.paired id g = false →
      exec (.gtStat d a) s = .next (s.dropSeq.takeFault
        { code := 19, addr := 0, loc := true, kind := 0, cause := 0, extra := [] }))) ∧
  (∀ (s t : State) (a : Reg) (w : Word), Takes s [a.val] [] [w] t →
    let id := w.toNat % 2 ^ 10
    let g := t.gate id
    servedHere t id → g.valid = true →
    ((t.me.part = 0 ∨ g.owner = t.me.part) → g.state = gsHeld →
      exec (.gtOpen a) s = .next ((s.setGate id g).waiting .sync) ∧
      exec (.gtClose a) s = .next ((s.setGate id g).waiting .sync)) ∧
    ((t.me.part = 0 ∨ g.owner = t.me.part) → g.state ≠ gsHeld →
      (∃ h : Gate, exec (.gtOpen a) s = .next (t.setGate id h).dropSeq.commit ∧ h.state = gsOpen ∧ h.rights = g.rights ∧
        h.arrMask = (if g.state = gsPeerReset then 0 else g.arrMask)) ∧
      (∃ h : Gate, exec (.gtClose a) s = .next (t.setGate id h).dropSeq.commit ∧ h.state = gsClosed ∧ h.rights = g.rights ∧
        h.postcnt = g.postcnt ∧ h.arrMask = g.arrMask)) ∧
    (s.me.priv = true → g.state ≠ gsHeld →
      (∃ h : Gate, exec (.gtHold false a) s = .next (t.setGate id h).dropSeq.commit ∧ h.state = gsHeld ∧
        h.prior = g.state) ∧
      exec (.gtHold true a) s = .next (t.setGate id g).dropSeq.commit) ∧
    (s.me.priv = true → g.state = gsHeld →
      (∃ h : Gate, exec (.gtHold true a) s = .next (t.setGate id h).dropSeq.commit ∧ h.state = g.prior ∧
        h.rights = g.rights ∧ h.postcnt = g.postcnt ∧ h.relClear = 0 ∧ h.arrMask = nandBits g.arrMask g.relClear) ∧
      exec (.gtHold false a) s = .next (t.setGate id g).dropSeq.commit))

/-- R308 to R312: what a gate answers. A waiter that has been woken completes once none is before it, and one whose gate has
closed or gone raises its fault. A missing right is `GATE_RIGHTS`, before the state; a closed gate, a gate in peer reset
and a held gate decide each operation; in an open gate a post of P0 takes the next number and its place in the ring and
wakes the waiters whose target it reaches, a wait whose target is reached gets the count and its payload, and an arrival
below EXPECT is noted and waits, while the one that fills EXPECT ends the round. Readings of the model's own: log
entries 34 and 91. -/
def Obligations.GateRules : Prop :=
  ∀ (g : Gate) (p slot wseq : Nat) (x : Word) (v : VWord), p < 16 →
    (∀ w d r, g.waiter wseq = some w → w.answer = some (.done d r) → g.behind wseq = false →
      g.apply 1 p slot wseq x v = .done (g.forget wseq) d (some r) ∧
      g.apply 3 p slot wseq x v = .done (g.forget wseq) d (some r)) ∧
    (∀ w c, g.waiter wseq = some w → w.answer = some (.fault c) →
      g.apply 1 p slot wseq x v = .fault c (g.forget wseq) ∧ g.apply 3 p slot wseq x v = .fault c (g.forget wseq)) ∧
    (g.waiter wseq = none → ∀ op, op < 4 →
      (g.rightsOf p).testBit (if op = 0 then 3 else if op = 3 then 1 else 2) = false →
      ∃ h, g.apply op p slot wseq x v = .fault 17 h ∧ h.w0 = g.w0 ∧ h.postcnt = g.postcnt) ∧
    (g.waiter wseq = none → ∀ op, op < 3 → (g.rightsOf p).testBit (if op = 0 then 3 else 2) = true →
      (g.state = 1 → ∃ h, g.apply op p slot wseq x v = .fault 19 h ∧ h.w0 = g.w0) ∧
      (g.state = 2 → ∃ h, g.apply op p slot wseq x v = .waits h ∧ h.w0 = g.w0 ∧ h.postcnt = g.postcnt) ∧
      (g.state = 3 → ∃ h, g.apply op p slot wseq x v = .fault 20 h ∧ h.w0 = g.w0)) ∧
    (g.valid = true → g.state = 0 → ∃ h, g.apply 0 0 slot wseq x v = .done h (g.postcnt + 1) none ∧
      h.postcnt = g.postcnt + 1 ∧ h.ring.val ((g.postcnt + 1).toNat % 8) 0 = v ∧ h.w0 = g.w0 ∧
      (∀ w ∈ g.waiters, ∀ n, w.target = some n → w.answer = none → w.parked = false → n ≤ (g.postcnt + 1).toNat →
        g.hasRight 1 w.part = true → ∃ r, { w with answer := some (.done (g.postcnt + 1) r) } ∈ h.waiters) ∧
      (∀ w ∈ g.waiters, (∀ n, w.target = some n → (g.postcnt + 1).toNat < n) → w ∈ h.waiters)) ∧
    (g.waiter wseq = none → (g.rightsOf p).testBit 2 = true → g.state = 0 →
      (x.toNat ≤ g.postcnt.toNat → ∀ op, (op = 1 ∨ op = 2) → ∃ h r, g.apply op p slot wseq x v = .done h g.postcnt (some r) ∧
        (1 ≤ x.toNat → g.postcnt.toNat < x.toNat + 8 → r = g.ring.val (x.toNat % 8) 0)) ∧
      (g.postcnt.toNat < x.toNat → g.apply 2 p slot wseq x v = .done g g.postcnt none ∧
        ∃ h, g.apply 1 p slot wseq x v = .waits h ∧ h.w0 = g.w0 ∧ ∃ w ∈ h.waiters, w.wseq = wseq)) ∧
    (g.waiter wseq = none → (g.rightsOf p).testBit 1 = true → g.state = 0 → g.arrMask.testBit p = false →
      (g.expect ≤ pop16 (g.arrMask + 2 ^ p) → ∃ h, g.apply 3 p slot wseq x v = .done h (BitVec.ofNat 64 g.round) none ∧
        h.arrMask = 0 ∧ h.round = (g.round + 1) % 2 ^ 32 ∧ h.state = 0) ∧
      (pop16 (g.arrMask + 2 ^ p) < g.expect → ∃ h, g.apply 3 p slot wseq x v = .waits h ∧
        h.arrMask = g.arrMask + 2 ^ p ∧ h.round = g.round ∧ h.state = 0 ∧ ∃ w ∈ h.waiters, w.wseq = wseq ∧ w.part = p))


/-! ## Caches, translation and frames -/

/-- R109, R251: a cache-range instruction of length zero does nothing. Over a range inside one page whose slices do not
stall and whose homes have acknowledged every byte: `CL.WB` leaves no dirty byte of the range in an L1D of its scope and
no dirty line of it at a slice; `CL.INV` leaves no sector of the range in an L1D or L1I of its scope; `CL.DISC` leaves
no byte of the range other than zero, and no poison there. One that goes on after a wait counts nothing more in
CLAMPCNT. Readings of the model's own: log entries 17, 70 and 100. -/
def Sys2Proof.Claims.CacheRanges : Prop :=
  ∀ (s t : State) (sc got : Scope) (a b : Reg) (x y : Word), MemoryFree s →
    done (ready [a.val, b.val] []) s = some ((), s) →
    let len := y.toNat % 2 ^ 32
    let read := fun (base : M Scope) => done (do
      let sc ← base
      if s.me.clPos.isSome then updMe (fun z => { z with clampcnt := s.me.clampcnt }) else pure ()
      let x ← readS a.val
      let y ← readS b.val
      pure (sc, x, y)) s = some ((got, x, y), t)
    (len = 0 →
      (read (scopeFor .core sc) →
        exec (.clWb sc a b) s = .next (t.setMe { t.me with clPos := none }).commit ∧
        exec (.clInv sc a b) s = .next (t.setMe { t.me with clPos := none }).commit) ∧
      (read (pure .die) → exec (.clDisc a b) s = .next (t.setMe { t.me with clPos := none }).commit)) ∧
    (∀ (u : State) (l : Loc), 0 < len → x.toNat % 16384 + len ≤ 16384 → t.me.clPos = none → l.attr ≠ 2 →
      u.rangeStalls u.me.part l.key len = false →
      (read (scopeFor .core sc) → t.xlate t.asker t.me.ptroot .r true x.toNat = (u, .ok l) →
        (u.rangeFlushU got l.key len).rangeLate l.key len = false →
        (∃ w : State, exec (.clWb sc a b) s = .next w.commit ∧ w.me.g = t.me.g ∧ w.me.clPos = none ∧
          (∀ c, u.scopeCores got c = true → ∀ sec k, w.l1 c sec = some k → l.key < sec * 32 + 32 → sec * 32 < l.key + len →
            k.dirty = 0) ∧
          ∀ sl, ∀ e ∈ (w.slice sl).lines, l.key < e.1 * 256 + 256 → e.1 * 256 < l.key + len → e.2.dirty = 0) ∧
        (∃ w : State, exec (.clInv sc a b) s = .next w.commit ∧ w.me.g = t.me.g ∧ w.me.clPos = none ∧
          ∀ c, u.scopeCores got c = true →
            (w.core c).sectorsIn l.key len = [] ∧
            ∀ e ∈ (w.core c).l1i, ¬ (l.key < e.1 * 64 + 64 ∧ e.1 * 64 < l.key + len))) ∧
      (read (pure .die) → t.xlate t.asker t.me.ptroot .w true x.toNat = (u, .ok l) →
        x.toNat % 256 = 0 → len % 256 = 0 → l.key % 256 = 0 →
        ∃ w : State, exec (.clDisc a b) s = .next w.commit ∧ w.me.g = t.me.g ∧ w.me.clPos = none ∧
          (∀ e ∈ w.mem, ¬ (l.key ≤ e.1 ∧ e.1 < l.key + len)) ∧
          (∀ e ∈ w.poison, ¬ (l.key ≤ e.1 * 32 ∧ e.1 * 32 < l.key + len))))

/-- R99, R253, R254: `HR.PIN` moves a line to a place that is free, pins it there and gives 1, gives 1 for a line that the
partition has pinned, and 0 otherwise; `HR.UNPIN` frees the partition's own pin and moves the line to a way of its AWAYS
that is nobody's reserved way (R91) and holds no line; both give 1 for a line of an unbacked page. `PG.PROBE` gives the
leaf, with FRAME and HOME zero at task privilege, and 0 where the translation fails. Readings of the model's own: log
entries 15, 18 and 77. -/
def Obligations.PinsAndProbes : Prop :=
  (∀ (s t u : State) (d a : Reg) (x : Word) (l : Loc), QueueFree s → Takes s [a.val] [d.val] [x] t →
    t.xlate t.asker t.me.ptroot .r false x.toNat = (u, .ok l) → u.holdingStall u.me.part l = false →
    let n := u.homeSlice l.key
    let pins := (u.slice n).pinned
    (isUnbacked l.key = true →
      exec (.hrPin d a) s = .next (puts u d.val 1).commit ∧ exec (.hrUnpin d a) s = .next (puts u d.val 1).commit) ∧
    (isUnbacked l.key = false →
      (∀ v, pins.seek (l.key / 256) = some v →
        exec (.hrPin d a) s = .next (puts u d.val (if v % 16 = u.me.part then 1 else 0)).commit ∧
        (v % 16 = u.me.part → ∃ q : State, exec (.hrUnpin d a) s = .next (puts q d.val 1).commit ∧ q.me = u.me ∧
          q.mem = u.mem ∧ (q.slice n).pinned = pins.del (l.key / 256) ∧
          (∀ w, (waysIn (nbits (u.waysOf u.me.part n) 15 0)).find? (fun w =>
              !u.wayReserved n w && (u.lineAt n w (u.lineSet l.key)).isNone) = some w →
            ((q.slice n).lines.seek (l.key / 256)).map (·.way) = some w)) ∧
        (v % 16 ≠ u.me.part → exec (.hrUnpin d a) s = .next (puts u d.val 0).commit)) ∧
      (pins.seek (l.key / 256) = none →
        exec (.hrUnpin d a) s = .next (puts u d.val 0).commit ∧
        ((u.slice n).retired = true → exec (.hrPin d a) s = .next (puts u d.val 0).commit) ∧
        (u.pinPlace u.me.part n (u.lineSet l.key) = none → exec (.hrPin d a) s = .next (puts u d.val 0).commit) ∧
        (∀ w, (u.slice n).retired = false → u.pinPlace u.me.part n (u.lineSet l.key) = some w →
          ∃ q : State, exec (.hrPin d a) s = .next (puts q d.val 1).commit ∧ q.me = u.me ∧
            (q.slice n).pinned = pins.put (l.key / 256) (u.me.part + 16 * w) ∧
            ((q.slice n).lines.seek (l.key / 256)).map (·.way) = some w)))) ∧
  (∀ (s t : State) (d a : Reg) (x : Word), QueueFree s → Takes s [a.val] [d.val] [x] t →
    (∀ u code cause, t.leafFor t.asker t.me.ptroot x.toNat false = (u, .error (.fault code cause)) →
      exec (.pgProbe d a) s = .next (puts u d.val 0).commit) ∧
    (∀ u lv leaf pa, t.leafFor t.asker t.me.ptroot x.toNat false = (u, .ok (lv, leaf, pa)) →
      ∃ w : Word, exec (.pgProbe d a) s = .next (puts u d.val w).commit ∧
        (u.me.priv = true → w = leaf) ∧
        (u.me.priv = false → fld w 43 14 = 0 ∧ fld w 57 52 = 0 ∧ fld w 13 0 = fld leaf 13 0 ∧
          fld w 51 44 = fld leaf 51 44 ∧ fld w 63 58 = fld leaf 63 58)))

/-- R83, R84, R101, R102, R110, R255 to R257: `TLB.INV` credits its barrier once for each cluster of its scope and sends
each of them a shoot-down, which removes the entries it names from the TLBs and the walker cache of its cluster and,
once every access through one of them is performed, debits the barrier. `UB.RSV` makes the first free blocks frames and
`UB.REL` frees min(n, FRAMES - USED) frames that hold no page, highest first, and both give the reservation word.
`UB.MIG` binds a free frame of the target to the page, with the target in its leaf, and unbinds the old one, and gives
the target's word; a page that is not bound, a target on its die, a retired target or one without a free frame, and any
other move that fails give all ones. Readings of the model's own: log entries 15, 16, 73 and 101. -/
def Sys2Proof.Claims.FramesAndShootDowns : Prop :=
  (∀ (s t q u : State) (kind : TlbKind) (sc got : Scope) (a b c : Reg) (va bar w : Word) (key : Nat),
    MemoryFree s → s.me.priv = true →
    done (do
      ready [a.val, b.val, c.val] []
      let sc ← scopeFor .dev sc
      let x ← readS a.val
      let y ← readS b.val
      let z ← readS c.val
      pure (sc, x, y, z)) s = some ((got, va, bar, w), t) →
    done (do
      let key ← barPlace bar
      let _ ← barValid key 0 bar
      pure key) t = some (key, q) →
    q.releaseHeld q.myCore .dev = false →
    let r := q.release q.myCore .dev
    let cls := r.scopeClusters got (fld w 19 16)
    r.barCredit key cls.length = some u →
    ∃ v : State, exec (.tlbInv kind sc a b c) s = .next v.commit ∧ v.agenda = u.agenda ++ cls.map Event.shootdownDebit ∧
      v.tlb = u.tlb ∧ v.me = u.me ∧ v.mem = u.mem ∧
      v.shoot = u.shoot ++ cls.map (fun cl => { cluster := cl, kind := tlbKindCode kind, part := fld w 19 16
                                                asn := fld w 15 0, va := va.toNat, bar := some key })) ∧
  (∀ (s : State) (cl : Nat) (d : Shootdown), s.shoot.find? (fun e => decide (e.cluster = cl)) = some d →
    (d.removed = none → ∃ t : State, t.mem = s.mem ∧
      t.tlb.val cl [] = (s.tlb.val cl []).filter (fun e => !d.hits e) ∧
      t.wcache.val cl [] = (s.wcache.val cl []).filter (fun e => !d.hitsTable e) ∧
      (∀ c, clusterOf c = cl → (t.core c).itlb = (s.core c).itlb.filter (fun e => !d.hits e) ∧
        (t.core c).dtlb = (s.core c).dtlb.filter (fun e => !d.hits e)) ∧
      (s.unperformed d = [] → t.shoot = s.shoot.erase d ∧
        exec (.shootdownDebit cl) s = .next (match d.bar with
          | some key => (t.barDebit key 1).1
          | none => t)) ∧
      (s.unperformed d ≠ [] → { d with removed := some (s.unperformed d) } ∈ t.shoot ∧
        exec (.shootdownDebit cl) s = .next t)) ∧
    (∀ pend, d.removed = some pend → (∀ gs ∈ pend, gs ∉ s.unperformed d) →
      exec (.shootdownDebit cl) s = .next (let t : State := { s with shoot := s.shoot.erase d }
        match d.bar with
        | some key => (t.barDebit key 1).1
        | none => t))) ∧
  (∀ (s t : State) (d a b : Reg) (x k : Word), QueueFree s → Takes s [a.val, b.val] [d.val] [x, k] t → k.toNat ≤ 192 →
    let n := x.toNat % 64
    let p := t.me.part
    let frames := (t.slice n).frames
    let paged := fun (f : Nat) => (t.slice n).pages.any (fun q => decide (q.place = f))
    let empty := (((t.slice n).framesOf p).filter (fun f => !paged f)).reverse
    (∃ u : State, exec (.ubRsv d a b) s = .next (puts u d.val (u.resWord p n)).commit ∧ u.me = t.me ∧
      ((t.slice n).retired = true → u = t) ∧
      ((t.slice n).retired = false → ∀ f, (u.slice n).frames.seek f =
        if f ∈ (t.freeBlocks p n).take k.toNat then some p else frames.seek f)) ∧
    (∃ u : State, exec (.ubRel d a b) s = .next (puts u d.val (u.resWord p n)).commit ∧ u.me = t.me ∧ u.mem = t.mem ∧
      (u.slice n).pages = (t.slice n).pages ∧
      (∀ f, (u.slice n).frames.seek f = if f ∈ empty.take k.toNat then none else frames.seek f) ∧
      (empty.take k.toNat).length =
        min k.toNat (((t.slice n).framesOf p).length - (((t.slice n).framesOf p).filter paged).length) ∧
      (frames.Pairwise (fun e f => e.1 < f.1) → ∀ f ∈ empty.take k.toNat, ∀ g ∈ empty, f < g → g ∈ empty.take k.toNat))) ∧
  (∀ (s t : State) (d a b : Reg) (va w : Word), QueueFree s → s.me.priv = true → Takes s [a.val, b.val] [d.val] [va, w] t →
    fld w 23 20 = 0 → fld w 63 30 = 0 →
    let part := fld w 19 16
    let asn := fld w 15 0
    let vpn := fld va 46 14
    let target := fld w 29 24
    let fails := exec (.ubMig d a b) s = .next (puts t d.val (BitVec.allOnes 64)).commit
    (t.findPage part asn vpn = none → fails) ∧
    (∀ old pa leaf m, t.findPage part asn vpn = some (old, pa, leaf, m) →
      old / 16 = target / 16 ∨ (t.slice target).retired = true ∨ (t.slice target).freeFrame part = none → fails) ∧
    (t.migrate part asn vpn target = none → fails) ∧
    (∀ u, t.migrate part asn vpn target = some u →
      exec (.ubMig d a b) s = .next (puts u d.val (u.resWord part target)).commit ∧
      ∃ old pa leaf m, t.findPage part asn vpn = some (old, pa, leaf, m) ∧ old / 16 ≠ target / 16 ∧
        (∀ q ∈ (u.slice old).pages, q.names part asn vpn = false) ∧
        ∃ q ∈ (u.slice target).pages, q.names part asn vpn = true ∧ q.leaf = setFld leaf 57 52 target ∧
          (t.slice target).freeFrame part = some q.place))

/-- Cache ranges, shoot-downs and frames: `CacheRanges` and `FramesAndShootDowns` together. -/
def Obligations.CacheAndFrameInstructions : Prop := Claims.CacheRanges ∧ Claims.FramesAndShootDowns

/-! ## System registers, decode tables and the partition table -/

/-- R8, R165, R315, R318: `SYS.RD` gives d the register with the number, and of a descriptor no reserved field; a number that is not listed takes `ILLEGAL_OPCODE`;
`CAP.RD` gives the capability word that its operand's low 8 bits name. -/
def Sys2Proof.Claims.SystemRegisterReads : Prop :=
  (∀ (s : State) (d : Reg), Takes s [] [d.val] [] s →
    let gives := fun (n : Nat) (w : Word) => exec (.sysRd d n) s = .next (puts s d.val w).commit
    (EngineFree s → gives 0x000 s.me.sw) ∧ gives 0x001 s.me.sbase ∧ gives 0x002 s.me.slim ∧ gives 0x003 s.me.trapv ∧
    gives 0x004 s.me.trappc ∧ gives 0x005 s.me.trapcode ∧ gives 0x006 s.me.trapaddr ∧ gives 0x008 s.me.subcnt ∧
    gives 0x009 s.me.clampcnt ∧ gives 0x00A (BitVec.ofNat 64 s.me.mringPred) ∧ gives 0x00B (BitVec.ofNat 64 s.me.mringSucc) ∧
    (EngineFree s → gives 0x00C (BitVec.ofNat 64 (fld (s.part s.me.part).w0 11 8 * 16 + s.me.vbank))) ∧
    gives 0x010 (s.me.fa &&& 0x0007FFFF00008C0F#64) ∧ gives 0x011 (s.me.fb &&& 0x0007FFFF00008C0F#64) ∧
    gives 0x012 (s.me.fc &&& 0x0007FFFF00008C0F#64) ∧ gives 0x013 s.me.sa ∧ gives 0x014 s.me.sb ∧
    gives 0x015 s.me.sc ∧ gives 0x016 s.me.wid ∧ gives 0x017 (BitVec.ofNat 64 s.me.tin) ∧ gives 0x018 s.me.cstamp ∧
    gives 0x020 s.me.ptroot ∧ gives 0x040 (BitVec.ofNat 64 (s.myCore * 256 + s.cur % 16 * 16 + s.me.part)) ∧
    gives 0x041 (BitVec.ofNat 64 (fld (s.part s.me.part).w0 31 16)) ∧
    gives 0x00D (BitVec.ofNat 64 (s.accMask s.me.part (s.cur % 16))) ∧
    gives 0x019 (BitVec.ofNat 64 (toBits 32 s.me.left * 2 ^ 32 + s.me.limit)) ∧
    gives 0x328 ((s.core s.myCore).pistat) ∧
    (∀ i, i < 8 → gives (0x300 + i) (s.window s.myCore i).cfg ∧ gives (0x308 + i) 0 ∧
      gives (0x310 + i) ((s.window s.myCore i).status (s.windowSeq s.myCore i))) ∧
    (∀ i, i < 8 → gives (0x320 + i) (s.me.ptag[i]!)) ∧ (∀ i, i < 256 → gives (0xE00 + i) (s.capWord i)) ∧
    (∀ n, n ∈ [0x007, 0x00E, 0x00F, 0x01A, 0x021, 0x042, 0x2FF, 0x318, 0x31F, 0x329, 0xDFF, 0xF00, 0xFFF] →
      exec (.sysRd d n) s = .next (s.takeFault
        { code := 1, addr := 0, loc := false, kind := 0, cause := 0, extra := [] }))) ∧
  (∀ (s t : State) (d a : Reg) (x : Word), Takes s [a.val] [d.val] [x] t →
    exec (.capRd d a) s = .next (puts t d.val (t.capWord (x.toNat % 256))).commit)

/-- R163, R164, R166, R315: a write that the privilege admits changes the register's writable bits; at task privilege a
write that would change a bit marked RWS takes `PRIVILEGE` and changes nothing; a write of a shadow register or of a
capability word changes nothing; SBASE and SLIM stay as they are where the write would leave them out of order. Readings
of the model's own: log entry 32. -/
def Sys2Proof.Claims.SystemRegisterWrites : Prop :=
  ∀ (s t : State) (a : Reg) (w : Word), Takes s [a.val] [] [w] t →
    let ends := fun (n : Nat) (x : Slot) => exec (.sysWr a n) s = .next (t.setMe x).commit
    let refused := fun (n : Nat) => exec (.sysWr a n) s = .next (s.takeFault
      { code := 3, addr := 0, loc := false, kind := 0, cause := 0, extra := [] })
    (EngineFree s → fld w 26 23 ≠ 6 → fld w 26 23 ≠ 7 → fld w 22 19 ≠ 6 → fld w 22 19 ≠ 7 →
      ((s.me.priv = true ∨ w.getLsbD 9 = s.me.sw.getLsbD 9) →
        ends 0x000 { t.me with sw := (w &&& 0xFFF8060D#64) ||| (t.me.sw &&& ~~~0xFFF8060D#64) }) ∧
      (s.me.priv = false → w.getLsbD 9 ≠ s.me.sw.getLsbD 9 → refused 0x000)) ∧
    (s.me.priv = true → w.toNat % 2 ^ 19 % 8 = 0 → t.me.slim.toNat % 8 = 0 → w.toNat % 2 ^ 19 < t.me.slim.toNat →
      ends 0x001 { t.me with sbase := BitVec.ofNat 64 (w.toNat % 2 ^ 19) }) ∧
    (s.me.priv = true → t.me.slim.toNat ≤ w.toNat % 2 ^ 19 → ends 0x001 t.me) ∧
    (s.me.priv = true → w.toNat % 2 ^ 19 % 8 = 0 → t.me.sbase.toNat % 8 = 0 → t.me.sbase.toNat < w.toNat % 2 ^ 19 →
      ends 0x002 { t.me with slim := BitVec.ofNat 64 (w.toNat % 2 ^ 19) }) ∧
    ends 0x003 { t.me with trapv := BitVec.ofNat 64 (w.toNat % 2 ^ 48) } ∧
    ends 0x004 { t.me with trappc := BitVec.ofNat 64 (w.toNat % 2 ^ 48 / 2 * 2) } ∧
    (s.me.priv = true → ends 0x008 { t.me with subcnt := w } ∧ ends 0x009 { t.me with clampcnt := w }) ∧
    (s.me.priv = false → (w ≠ s.me.subcnt → refused 0x008) ∧ (w ≠ s.me.clampcnt → refused 0x009)) ∧
    ends 0x00A { t.me with mringPred := w.toNat % 256 } ∧ ends 0x00B { t.me with mringSucc := w.toNat % 256 } ∧
    (EngineFree s → ends 0x00C { t.me with vbank := w.toNat % 4 }) ∧
    (s.me.priv = true → ∃ r : Word, ends 0x020 { t.me with ptroot := r } ∧ fld r 63 48 = fld w 63 48 ∧
      fld r 43 14 = fld w 43 14 ∧ fld r 47 44 = fld t.me.ptroot 47 44 ∧ r.getLsbD 0 = w.getLsbD 0) ∧
    (∀ i, i < 8 → ends (0x320 + i) { t.me with ptag := t.me.ptag.setIfInBounds i (BitVec.ofNat 64 (w.toNat % 2 ^ 48)) }) ∧
    (∀ n, n ∈ [0x005, 0x006, 0x00D, 0x010, 0x011, 0x012, 0x013, 0x014, 0x015, 0x016, 0x017, 0x018, 0x019, 0x040, 0x041,
        0x328, 0xE00, 0xE03, 0xEFF] → exec (.sysWr a n) s = .next t.commit)

/-- Reads and writes of system registers: `SystemRegisterReads` and `SystemRegisterWrites` together. -/
def Obligations.SystemRegisters : Prop := Claims.SystemRegisterReads ∧ Claims.SystemRegisterWrites

/-- R177, R179, R316, R317: `TBL.WR` writes an entry of an owned bank, which becomes unsealed with TID 7, and `.rom` loads a
whole table; a bank the partition does not own takes `PRIVILEGE`; `TBL.SEAL` gives the first failing entry and its
reason, and a bank with none begins to seal and is sealed when its views are built. Readings of the model's own: log
entry 29. -/
def Sys2Proof.Claims.DecodeTables : Prop :=
  (∀ (s t : State) (a b : Reg) (x y : Word), Takes s [a.val, b.val] [] [x, y] t → fld x 7 2 = 0 → fld x 63 16 = 0 →
    let bank := x.toNat % 4
    let k := t.core t.myCore
    ((t.part t.me.part).tbanks.testBit bank = true → (k.bank bank).st ≠ .sealing →
      (∃ u : State, exec (.tblWr false a b) s = .next u.commit ∧ ((u.core t.myCore).bank bank).tid = 7 ∧
        ((u.core t.myCore).bank bank).st = .unsealed ∧
        (∀ c, c < 256 → ((u.core t.myCore).bank bank).entry c =
          if c = fld x 15 8 then y.setWidth 32 else (k.bank bank).entry c) ∧
        ∀ o, o ≠ bank → (u.core t.myCore).bank o = k.bank o) ∧
      (fld x 15 8 = 0 → y.toNat % 8 ≠ 7 → ∃ u : State, exec (.tblWr true a b) s = .next u.commit ∧
        ((u.core t.myCore).bank bank).tid = y.toNat % 8 ∧ ((u.core t.myCore).bank bank).st = .unsealed ∧
        ((u.core t.myCore).bank bank).rom = y.toNat % 8 ∧ ((u.core t.myCore).bank bank).written = [])) ∧
    ((t.part t.me.part).tbanks.testBit bank = false → exec (.tblWr false a b) s = .next (s.takeFault
      { code := 3, addr := 0, loc := false, kind := 0, cause := 0, extra := [] }))) ∧
  (∀ (s t : State) (d a : Reg) (x : Word), Takes s [a.val] [d.val] [x] t → x.toNat < 4 →
    (t.part t.me.part).tbanks.testBit x.toNat = true →
    let k := t.core t.myCore
    let bank := k.bank x.toNat
    bank.st ≠ .sealing →
    ((∀ c, c < 256 → entryBad (bank.entry c) = 0) → (∃ c, c < 256 ∧ entryClass (bank.entry c) = 0) →
      ∃ u : State, exec (.tblSeal d a) s = .next (puts u d.val 0).commit ∧ (u.core t.myCore).bank x.toNat =
          { bank with st := .sealing } ∧ u.agenda = t.agenda ++ [.sealComplete t.myCore x.toNat]) ∧
    (∀ c, c < 256 → entryBad (bank.entry c) ≠ 0 → (∀ e, e < c → entryBad (bank.entry e) = 0) →
      exec (.tblSeal d a) s = .next (puts t d.val (BitVec.ofNat 64 (c * 256 + entryBad (bank.entry c)))).commit)) ∧
  (∀ (s : State) (c b : Nat), ((s.core c).bank b).st = .sealing →
    ∃ t : State, exec (.sealComplete c b) s = .next t ∧ (t.core c).bank b = { (s.core c).bank b with st := .sealed })

/-- R319, R378: `PART.SET` at supervisor privilege gives d zero for an accepted word and stores it, and gives the refusal
code and changes nothing for a refused one. The accepted case is stated where no decode table bank that the word gives
away has a use that issued earlier (R177). A word or index that is not listed takes `ILLEGAL_OPCODE`. Readings of the
model's own: log entry 33. -/
def Sys2Proof.Claims.PartitionTable : Prop :=
  ∀ (s t : State) (d a b : Reg) (sel v : Word), s.me.priv = true → Takes s [a.val, b.val] [d.val] [sel, v] t →
    let p := fld sel 3 0
    let word := fld sel 11 4
    let i := fld sel 19 12
    (fld sel 63 20 = 0 → partIndexOk word i = true →
      (t.partCode (t.putPartWord p word i v) p word v ≠ 0 →
        exec (.partSet d a b) s =
          .next (puts t d.val (BitVec.ofNat 64 (t.partCode (t.putPartWord p word i v) p word v))).commit) ∧
      (t.partCode (t.putPartWord p word i v) p word v = 0 →
        (word ≤ 2 → (t.putPartWord p word i v).tableHeld p = false ∧ t.tableLost (t.putPartWord p word i v) p = false) →
        ∃ u : State, exec (.partSet d a b) s = .next (puts u d.val 0).commit ∧
          (word = 0 → (u.part p).w0 = v) ∧ (word = 1 → (u.part p).clist.val i 0 = v.toNat) ∧
          (word = 2 → (u.part p).acc.val i 0 = v.toNat) ∧ (word = 3 → (u.part p).w3 = v) ∧
          (word = 4 → (u.part p).ways.val i 0 = v.toNat) ∧ (word = 5 → (u.part p).l1ways.val i 0 = v.toNat) ∧
          (word = 6 → (u.part p).w6 = v) ∧ (word = 7 → (u.part p).w7 = v) ∧ (word = 8 → (u.part p).w8 = v) ∧
          (word = 9 → (u.part p).w9 = v) ∧ (word = 10 → (u.part p).w10 = v) ∧ (word = 11 → (u.part p).w11 = v) ∧
          (word = 12 → (u.part p).w12 = v) ∧ (word = 13 → (u.part p).w13 = v) ∧ (word = 14 → (u.part p).w14 = v))) ∧
    (word = 15 ∨ fld sel 63 20 ≠ 0 → exec (.partSet d a b) s = .next (s.takeFault
      { code := 1, addr := 0, loc := false, kind := 0, cause := 0, extra := [] }))

/-- Decode tables and the partition table: `DecodeTables` and `PartitionTable` together. -/
def Obligations.DecodeAndPartitionTables : Prop := Claims.DecodeTables ∧ Claims.PartitionTable

/-! ## Slots, contexts, heartbeats and privilege -/

/-- R320, R321, R325: `SLOT.PARK` of a slot that stands parked, or that no engine instruction, matrix step or AMO window
delays, leaves it parked and gives the PC at which it resumes, whether it holds a task and whether it was parked before;
it waits for a matrix step of the slot that is running and for its open AMO window; `SLOT.RUN` resumes a parked thread,
wakes a `WFE`, gives 1 too where an arrival of this cycle has woken it, and does nothing to another slot; `.new` starts
a thread in a slot that holds none, with its registers zero, TIN raised and PTROOT copied. Naming the issuing slot takes
`ILLEGAL_OPCODE`. Readings of the model's own: log entry 37. -/
def Sys2Proof.Claims.SlotControl : Prop :=
  (∀ (s t : State) (d a : Reg) (w : Word), s.me.priv = true → Takes s [a.val] [d.val] [w] t →
    let gs := w.toNat % 2 ^ 12
    (gs = t.cur → exec (.slotPark d a) s = .next (s.takeFault
      { code := 1, addr := 0, loc := false, kind := 0, cause := 0, extra := [] })) ∧
    (gs ≠ t.cur → ((t.slot gs).parked = true ∨ ((t.slot gs).stop = none ∧ (t.slot gs).engq = [] ∧ t.amoOpen gs = false ∧
        ∀ m, m ∈ (t.core (gs / 16)).matrix → m.slot ≠ gs % 16)) →
      ∃ (u : State) (r : Word), exec (.slotPark d a) s = .next (puts u d.val r).commit ∧
      (u.slot gs).parked = true ∧
      ((u.slot gs).pc < 2 ^ 48 → fld r 47 0 = (u.slot gs).pc ∧ fld r 61 48 = 0 ∧ r.getLsbD 62 = (u.slot gs).holds ∧
        r.getLsbD 63 = ((t.slot gs).parked && decide (s.me.run ≠ .waiting .parking))) ∧
      ((t.slot gs).parked = true → ¬ ((t.slot gs).run = .parked .budget ∧ (t.slot gs).parkedAt = t.now + 1) → u = t)) ∧
    (gs ≠ t.cur → (t.slot gs).parked = false → (t.slot gs).stop = none → (t.slot gs).engq = [] →
      ((∃ m ∈ (t.core (gs / 16)).matrix, m.slot = gs % 16) ∨ t.amoOpen gs = true) → ∃ u : State, exec (.slotPark d a) s = .next (u.waiting .parking) ∧
        (u.slot gs).stop = some .stopped ∧ (u.slot gs).parked = false)) ∧
  (∀ (s t : State) (d a b : Reg) (w pc : Word), s.me.priv = true → Takes s [a.val, b.val] [d.val] [w, pc] t →
    let gs := w.toNat % 2 ^ 12
    gs ≠ t.cur →
    (∀ why, (t.slot gs).run = .parked why → (t.slot gs).holds = true →
      ((t.slot gs).limit = 0 ∨ 0 < (t.slot gs).left) →
      ∃ u : State, exec (.slotRun false d a b) s = .next (puts u d.val 0).commit ∧ (u.slot gs).run = .ready ∧
        (u.slot gs).pc = (t.slot gs).pc ∧ (u.slot gs).g = (t.slot gs).g) ∧
    (∀ n sig, (t.slot gs).run = .waiting (.wfe n sig) →
      ∃ u : State, exec (.slotRun false d a b) s = .next (puts u d.val 1).commit ∧
        (u.slot gs).event = max (t.slot gs).event (t.now + 1)) ∧
    ((t.slot gs).run = .ready → exec (.slotRun false d a b) s =
      .next (puts t d.val (if (t.slot gs).wokeAt = t.now + 1 ∧ (t.slot gs).event = t.now + 1 then 1 else 2)).commit) ∧
    ((t.slot gs).parked = true → (t.slot gs).holds = false →
      exec (.slotRun false d a b) s = .next (puts t d.val 3).commit ∧
      (GoodTarget (pc.toNat : Int) → ∃ u : State, exec (.slotRun true d a b) s = .next (puts u d.val 0).commit ∧
        let x := u.slot gs
        x.run = .ready ∧ x.pc = pc.toNat ∧ x.ptroot = t.me.ptroot &&& 0xFFFFFFFFFFFFC001#64 ∧ x.tin = ((t.slot gs).tin + 1) % 65536 ∧
        x.sbase = (t.slot gs).sbase ∧ x.slim = (t.slot gs).slim ∧ (∀ i, i < 23 → x.g[i]! = 0) ∧ x.g[23]! = x.slim ∧
        x.p = 0 ∧ x.inbox = [] ∧ x.outbox = [] ∧ x.wid = 0 ∧ x.fa = 0 ∧ x.limit = 0 ∧ x.handler = false)) ∧
    ((t.slot gs).holds = true → exec (.slotRun true d a b) s = .next (puts t d.val 3).commit))

/-- R323: `SLOT.SCRUB` of a parked slot empties its registers and queues, leaves it parked without a task and keeps its TIN;
of a slot that is not parked it changes nothing and gives 1. -/
def Sys2Proof.Claims.SlotScrub : Prop :=
  ∀ (s t : State) (d a : Reg) (w : Word), s.me.priv = true → Takes s [a.val] [d.val] [w] t →
    let gs := w.toNat % 2 ^ 12
    ((t.slot gs).parked = false → exec (.slotScrub d a) s = .next (puts t d.val 1).commit) ∧
    ((t.slot gs).parked = true → ∃ u : State, exec (.slotScrub d a) s = .next (puts u d.val 0).commit ∧
      let x := u.slot gs
      x.tin = (t.slot gs).tin ∧ x.sbase = (t.slot gs).sbase ∧ x.slim = (t.slot gs).slim ∧ x.task = none ∧
      x.run = .parked .noThread ∧ (∀ i, i < 24 → x.g[i]! = 0) ∧ x.p = 0 ∧ (∀ i, i < 16 → x.v[i]! = 0) ∧ x.sw = 0 ∧
      x.inbox = [] ∧ x.outbox = [] ∧ x.q5 = [] ∧ x.q6 = [] ∧ x.q7 = [] ∧ x.handler = false ∧ x.engq = [] ∧
      ∀ gs', gs' ≠ gs → (u.slot gs').g = (t.slot gs').g ∧ (u.slot gs').pc = (t.slot gs').pc)

/-- Slot control and scrub: `SlotControl` and `SlotScrub` together. -/
def Obligations.SlotInstructions : Prop := Claims.SlotControl ∧ Claims.SlotScrub

/-- R322, R397, R398: a save of a parked slot to an area within one page, no word of which and none of the core's dirty
words an AMO holds, writes its 5,120 bytes and gives zero; a load from such an area whose header is refused gives 2, and
one that is accepted gives zero with the slot parked at the area's PC and the area's general registers; both give 1 for
a slot that is not parked. Readings of the model's own: log entry 42. -/
def Sys2Proof.Claims.Contexts : Prop :=
  ∀ (s t u : State) (d a b : Reg) (w va : Word) (l m : Loc), MemoryFree s → s.me.priv = true →
    Takes s [a.val, b.val] [d.val] [w, va] t →
    let gs := w.toNat % 2 ^ 12
    l.key % 32 = 0 →
    (done (areaPlaces .w va) t = some ((l, m), u) →
      ((u.slot gs).parked = false → exec (.ctxSave d a b) s = .next (puts u d.val 1).commit) ∧
      ((u.slot gs).parked = true → va.toNat % 16384 + 5120 ≤ 16384 → (u.saveArea gs).length = 5120 →
        u.anyReserved l.key 5120 = false →
        (u.storeBytes u.me.part u.myCore l.key (decide (l.attr = 0)) (u.saveArea gs)).releaseHeld u.myCore .dev = false →
        exec (.ctxSave d a b) s = .next (puts ((u.storeBytes u.me.part u.myCore l.key (decide (l.attr = 0))
          (u.saveArea gs)).release u.myCore .dev) d.val 0).commit)) ∧
    (done (areaPlaces .r va) t = some ((l, m), u) →
      ((u.slot gs).parked = false → exec (.ctxLoad d a b) s = .next (puts u d.val 1).commit) ∧
      (∀ (q : State) (bs : List (BitVec 256)), (u.slot gs).parked = true → va.toNat % 16384 + 5120 ≤ 16384 →
        done ((sectorKeys l.key 5120).mapM (fun sec => loadSector l 5120 sec (decide (l.attr = 0)))) u = some (bs, q) →
        let area := bs.flatMap (fun x => bytesOf 32 x.toNat)
        (areaRefused area (q.slotPart gs) = true → exec (.ctxLoad d a b) s = .next (puts q d.val 2).commit) ∧
        (areaRefused area (q.slotPart gs) = false →
          exec (.ctxLoad d a b) s =
            .next (puts (((q.setSlot gs ((q.slot gs).load gs area)).tracedTo gs).rebar gs) d.val 0).commit ∧
          ((q.slot gs).load gs area).parked = true ∧ ((q.slot gs).load gs area).pc = bytesAt area 0x100 6 / 2 * 2 ∧
          ∀ i, i < 24 → ((q.slot gs).load gs area).g[i]! = BitVec.ofNat 64 (bytesAt area (0x40 + 8 * i) 8))))

/-- R324, R410: the actions of `HB.CTL`: enable, disable, clear, offline, which starts the core's leaving and is refused for
the issuing core, and online, which is refused for a core that is not offline and wipes one that is; `HB.STAT` gives the
health entry of a core of the partition and takes `PAGE_RIGHTS` for another. Readings of the model's own: log entry 12. -/
def Sys2Proof.Claims.Heartbeats : Prop :=
  (∀ (s t : State) (a b : Reg) (x y : Word), s.me.priv = true → Takes s [a.val, b.val] [] [x, y] t →
    let c := x.toNat % 256
    let action := y.toNat % 8
    let h := (t.core c).health
    let illegal := Host.Outcome.next (φ := Fault) (ρ := Refusal) (s.takeFault
      { code := 1, addr := 0, loc := false, kind := 0, cause := 0, extra := [] })
    let all := fun (r : Host.Outcome State Fault Refusal) => exec (.hbCtlEnable a b) s = r ∧
      exec (.hbCtlDisable a b) s = r ∧ exec (.hbCtlClear a b) s = r ∧ exec (.hbCtlOffline a b) s = r ∧
      exec (.hbCtlOnline a b) s = r
    (action = 0 → ∃ u : State, all (.next u.commit) ∧ (u.core c).health.en = true ∧
      (u.core c).health.beats = h.beats ∧ (u.core c).health.misses = h.misses) ∧
    (action = 1 → all (.next (t.updHealth c (fun h => { h with en := false })).commit)) ∧
    (action = 2 → all (.next (t.updHealth c (fun h => { h with misses := 0, suspect := false })).commit)) ∧
    (action = 3 → c ≠ t.myCore → ∃ u : State, all (.next u.commit) ∧ (u.core c).health.leaving = true ∧
      u.agenda = t.agenda ++ [.offlineComplete c]) ∧
    (action = 3 → c = t.myCore → all illegal) ∧
    (action = 4 → h.offline = true → ∃ u : State, all (.next u.commit) ∧ (u.core c).health.offline = false ∧
      (u.core c).lm = [] ∧ (u.core c).l1d = [] ∧ (u.core c).l1i = [] ∧ (u.core c).health.suspect = false) ∧
    (action = 4 → h.offline = false → all illegal) ∧
    (5 ≤ action → all illegal)) ∧
  (∀ (s t : State) (d a : Reg) (x : Word), Takes s [a.val] [d.val] [x] t →
    let h := (t.core (x.toNat % 256)).health
    ((t.me.priv = true ∨ t.inCoreSet t.me.part (x.toNat % 256) = true) → h.beats < 2 ^ 32 → h.misses < 256 →
      ∃ w : Word, exec (.hbStat d a) s = .next (puts t d.val w).commit ∧ fld w 63 32 = h.beats ∧ fld w 15 8 = h.misses ∧
        w.getLsbD 3 = h.spare ∧ w.getLsbD 2 = h.offline ∧ w.getLsbD 1 = h.suspect ∧ w.getLsbD 0 = h.en) ∧
    (t.me.priv = false → t.inCoreSet t.me.part (x.toNat % 256) = false → exec (.hbStat d a) s = .next (s.takeFault
      { code := 7, addr := 0, loc := false, kind := 0, cause := 0, extra := [] })))

/-- Contexts and heartbeats: `Contexts` and `Heartbeats` together. -/
def Obligations.ContextsAndHeartbeats : Prop := Claims.Contexts ∧ Claims.Heartbeats

/-- R191: an instruction marked (S) takes `PRIVILEGE` at task privilege before it reads its operands, and changes nothing
else. -/
def Obligations.SupervisorOnly : Prop :=
  ∀ (s : State) (d a b c : Reg) (new rel : Bool) (k : TlbKind) (sc : Scope), s.me.priv = false →
    scalarReadable a.val = true → scalarReadable b.val = true → scalarReadable c.val = true → scalarWritable d.val = true →
    let refused := Host.Outcome.next (φ := Fault) (ρ := Refusal) (s.takeFault
      { code := 3, addr := 0, loc := false, kind := 0, cause := 0, extra := [] })
    exec (.partSet d a b) s = refused ∧ exec (.slotPark d a) s = refused ∧ exec (.slotRun new d a b) s = refused ∧
    exec (.ctxSave d a b) s = refused ∧ exec (.ctxLoad d a b) s = refused ∧ exec (.slotScrub d a) s = refused ∧
    exec (.hbCtlEnable a b) s = refused ∧ exec (.hbCtlDisable a b) s = refused ∧ exec (.hbCtlClear a b) s = refused ∧
    exec (.hbCtlOffline a b) s = refused ∧ exec (.hbCtlOnline a b) s = refused ∧ exec (.gtHold rel a) s = refused ∧
    exec (.tlbInv k sc a b c) s = refused ∧ exec (.ubMig d a b) s = refused


/-! ## Steps of home slices, walkers and memories -/

/-- R93, R94, R114, R90: a request whose home is on another die is no die-local read or store request, and one whose home is
on the core's die no cross-die read: such a step changes nothing. Where the core may take a copy and an L1D way of the
set is empty, a die-local read leaves the core a clean shared copy of what the home holds, a cross-die read an untracked
one, and a fill the same; a fill of a line that the core holds leaves no byte unfetched and keeps its dirty bytes and
its state; a store request leaves the core the owner. The owner's write-back leaves the line with no copy and a recall
leaves it shared; another core's write-back leaves its own copy clean. A write of bytes of one backed sector, none of
them in a reserved word, leaves them at the home; an uncached read leaves every general register. Readings of the
model's own: log entries 14, 69 and 71. -/
def Sys2Proof.Claims.HomeRequests : Prop :=
  ∀ (s : State) (core key : Nat), key % 32 = 0 → core < 256 →
    let own := s.homeDie key = dieOfCore core
    let sec := key / 32
    let may := (s.atHome 0 key).mayCache 0 core key = true
    let room := ∃ w, w ∈ waysIn (s.l1ways 0 core % 4096) ∧ (s.core core).l1At w (sec % 4096) = none
    (¬ own → exec (.sliceRead core key) s = .next s ∧ exec (.sliceStoreRequest core key) s = .next s) ∧
    (own → exec (.crossDieRead core key) s = .next s) ∧
    (s.l1 core sec = none → may → room → ∃ (t : State) (l : L1Line),
      (own → exec (.sliceRead core key) s = .next t ∧ l.st = .s) ∧
      (¬ own → exec (.crossDieRead core key) s = .next t ∧ l.st = .u) ∧ exec (.sectorFill core key) s = .next t ∧
      t.l1 core sec = some l ∧ l.data = t.homeSector sec ∧ l.dirty = 0 ∧ l.unfetched = 0 ∧ l.poison = t.isPoisoned key) ∧
    (∀ l, s.l1 core sec = some l → ∃ (t : State) (m : L1Line), exec (.sectorFill core key) s = .next t ∧
      t.l1 core sec = some m ∧ m.unfetched = 0 ∧ m.dirty = l.dirty ∧ m.st = l.st) ∧
    (own → may → (room ∨ (s.l1 core sec).isSome = true) → ∃ (t : State) (l : L1Line),
      exec (.sliceStoreRequest core key) s = .next t ∧ t.l1 core sec = some l ∧ l.st = .e ∧ t.dirOf key = .exc (core % 64)) ∧
    (own → s.dirOf key = .exc (core % 64) →
      (∃ t : State, exec (.sliceWriteBack core key) s = .next t ∧ t.dirOf key = .unc ∧ t.l1 core sec = none) ∧
      (∃ t : State, exec (.recallResponse core key) s = .next t ∧ t.dirOf key = .shd [core % 64])) ∧
    (¬ (own ∧ s.dirOf key = .exc (core % 64)) → exec (.recallResponse core key) s = .next s ∧
      ∃ t : State, exec (.sliceWriteBack core key) s = .next t ∧ ∀ l, t.l1 core sec = some l → l.dirty = 0) ∧
    (∀ (bs : List Byte) (o : Nat), 0 < bs.length → o + bs.length ≤ 32 → key < 2 ^ 44 →
      s.anyReserved (key + o) bs.length = false →
      (∃ t : State, exec (.crossDieWrite core (key + o) bs) s = .next t ∧ t.homeBytes (key + o) bs.length = bs) ∧
      (∀ v : Word, bs = bytesOf bs.length v.toNat →
        ∃ t : State, exec (.attr1Access core (key + o) bs.length (some v)) s = .next t ∧
          t.homeBytes (key + o) bs.length = bs)) ∧
    (∀ w, ∃ t : State, exec (.attr1Access core key w none) s = .next t ∧ ∀ gs, (t.slot gs).g = (s.slot gs).g)

/-- R96 to R98, R369, R403: a RED behind a reservation joins the queue of its word, and otherwise leaves the combined word,
in a poisoned sector that it tolerates over zeros; a gather of a sound line fills its register. A slot with no
reservation enters the queue of the slice, and one with a reservation changes nothing; the first entry, when it is a
reservation that is not granted, is granted; a granted reservation leaves the queue with its release, which writes the
value, and a withdrawal takes a reservation out, after which the next reservation that waits for the word is granted.
Readings of the model's own: log entry 8. -/
def Sys2Proof.Claims.ReservationSteps : Prop :=
  (∀ (s q : State) (gs key old : Nat) (op : RedOp) (w32 etol : Bool) (v : Word),
    let p := (s.slot gs).part
    let g := (s.atHome p key).recallSector key
    (s.reserved key = true → exec (.redApply gs op w32 etol key v) s = .next (s.setAmo (s.homeSlice key)
      ((s.slice (s.homeSlice key)).amo ++
        [{ key := key, core := gs / 16, slot := gs, granted := false, op := .red op w32 etol v, via := { part := p } }]))) ∧
    (s.reserved key = false → (if g.isPoisoned key && etol then g.zeroSector gs key else g).takeWord key w32 p = (q, old) →
      exec (.redApply gs op w32 etol key v) s = .next (q.putWord key w32
        (redVal op (if w32 then 32 else 64) old (v.toNat % 2 ^ (if w32 then 32 else 64)))))) ∧
  (∀ (s : State) (gs key : Nat) (v : VReg) (sel : Word) (etol : Bool),
    let g := (s.lineAtHome (s.slot gs).part key).refreshU (gs / 16) key
    (∀ i, i < 32 → g.isPoisoned (key + 8 * i) = false) →
    ∃ r : VWord, exec (.hgathServe gs v key sel etol) s =
        .next (g.setSlot gs { g.slot gs with v := (g.slot gs).v.setIfInBounds v.val r }) ∧
      ∀ i, i < 8 → lane 64 r i =
        if sel.getLsbD (8 * i + 7) then 0 else (g.homeWord (key + 8 * (sel.toNat / 2 ^ (8 * i) % 32))).toNat) ∧
  (∀ (s : State) (gs key : Nat), s.l1 (gs / 16) (key / 32) = none →
    (s.amoOf gs = none → exec (.amoReserve gs key) s = .next (s.setAmo (s.homeSlice key)
      ((s.slice (s.homeSlice key)).amo ++ [{ key := key, core := gs / 16, slot := gs, granted := false }]))) ∧
    ((s.amoOf gs).isSome = true → exec (.amoReserve gs key) s = .next s)) ∧
  (∀ (s : State) (n : Nat) (r : AmoRes) (rest : List AmoRes), (s.slice n).amo = r :: rest → r.op = .reserve →
    r.granted = false →
    ∃ t : State, exec (.amoGrant n) s = .next t ∧ ∃ rest', (t.slice n).amo = { r with granted := true } :: rest') ∧
  (∀ (s : State) (gs key n : Nat) (r : AmoRes), s.amoOf gs = some (n, r) →
    let left := (s.slice n).amo.erase r
    (r.granted = false → ∀ v, exec (.amoRelease gs key 8 v) s = .next s) ∧
    (r.key / 8 ≠ key / 8 → ∀ v, exec (.amoRelease gs key 8 v) s = .next s) ∧
    ((∀ q, q ∈ left → q.key / 8 ≠ r.key / 8) →
      exec (.amoWithdraw gs) s = .next (s.setAmo n left) ∧
      (r.granted = true → r.key / 8 = key / 8 → exec (.amoRelease gs key 8 none) s = .next (s.setAmo n left) ∧
        ∀ w : Word, key % 8 = 0 → ∃ t : State, exec (.amoRelease gs key 8 (some w)) s = .next t ∧ (t.slice n).amo = left ∧
          t.homeBytes key 8 = bytesOf 8 w.toNat)) ∧
    (∀ q, r.granted = true → left.find? (fun e => decide (e.key / 8 = r.key / 8)) = some q → q.op = .reserve →
      q.granted = false → ∃ t : State, exec (.amoWithdraw gs) s = .next t ∧
        (t.slice n).amo = left.map (fun e => if e.op = .reserve ∧ e.slot = q.slot then { e with granted := true } else e))) ∧
  (∀ (s : State) (gs : Nat), s.amoOf gs = none →
    exec (.amoWithdraw gs) s = .next s ∧ ∀ key w v, exec (.amoRelease gs key w v) s = .next s)

/-- Requests and reservations at a home slice: `HomeRequests` and `ReservationSteps` together. -/
def Obligations.HomeSteps : Prop := Claims.HomeRequests ∧ Claims.ReservationSteps

/-- R74, R77, R78, R106, R248, R250: a walk of a page that no one asked for, and that finds a leaf, installs the leaf in the
second-level TLB of the cluster; one that finds none installs nothing, and one that stalls waits; a walk that one asker
waits for gives that asker its answer. A slice wakes the waiters whose counter has reached their threshold and keeps
none of them; a waiter without an entry polls; a `WAIT` whose conditions hold, or whose time is up, issues again with
the conditions as sampled. Readings of the model's own: log entries 14, 61 and 73. -/
def Sys2Proof.Claims.WalksAndWakes : Prop :=
  (∀ (s : State) (cl part asn root va : Nat),
    (2 ^ 47 ≤ va → exec (.pageWalk cl part asn root va) s = .next s) ∧
    (va < 2 ^ 47 → part < 16 → asn < 2 ^ 16 → root % 16384 = 0 → root < 2 ^ 44 →
      (∀ r, r ∈ s.walks.val cl [] → r.covers part asn va = false) →
      (∀ u lv e pa, s.walk cl part asn root (va / 16384 * 16384) = (u, .leaf lv e pa) →
        exec (.pageWalk cl part asn root va) s = .next (u.install2 cl (va / 16384 * 16384)
          { part := part, asn := asn, level := lv, vpn := va / 16384 * 16384 / leafBytes lv, leaf := e, leafPa := pa })) ∧
      (∀ u r, s.walk cl part asn root (va / 16384 * 16384) = (u, r) → (∀ lv e pa, r ≠ .leaf lv e pa) → r ≠ .stall →
        exec (.pageWalk cl part asn root va) s = .next u) ∧
      (∀ u, s.walk cl part asn root (va / 16384 * 16384) = (u, .stall) →
        exec (.pageWalk cl part asn root va) s = .next { u with walks := u.walks.put cl (u.walks.val cl [] ++
          [{ part := part, asn := asn, root := root, page := va / 16384, askers := [] }]) })) ∧
    (∀ r a u res, va < 2 ^ 47 → (s.walks.val cl []).find? (fun r => r.covers part asn va) = some r → r.askers = [a] →
      ({ s with walks := s.walks.put cl ((s.walks.val cl []).erase r) } : State).walk cl r.part r.asn r.root (r.page * 16384) =
        (u, res) → res ≠ .stall →
      ∃ t : State, exec (.pageWalk cl part asn root va) s = .next t ∧ (t.slot a.slot).answer a.kind part asn va = some res)) ∧
  (∀ (s : State) (n : Nat), ∃ t : State, exec (.evtWatchWake n) s = .next t ∧
    (∀ w ∈ (t.slice n).watch, w ∈ (s.slice n).watch ∧ s.counterMet w.1 w.2.1 = false) ∧
    (∀ w ∈ (s.slice n).watch, s.counterMet w.1 w.2.1 = true → ∀ f, (s.slot w.2.2).run = .waiting f →
      (t.slot w.2.2).run = .ready)) ∧
  (∀ (s : State) (gs key thr : Nat) (via : Via), (s.slot gs).run = .waiting (.event key thr false via) →
    (s.counterMet key thr = true → exec (.evtWaitPoll gs) s = .next (s.setSlot gs { s.slot gs with run := .ready })) ∧
    (s.counterMet key thr = false → exec (.evtWaitPoll gs) s = .next s)) ∧
  (∀ (s : State) (gs mask : Nat) (all : Bool), (s.slot gs).run = .waiting (.conds mask all) →
    let x := s.slot gs
    let c := x.condMask
    (wakes mask c all = true → exec (.waitWake gs) s = .next (s.setSlot gs { x with run := .waiting (.woken c false) })) ∧
    (∀ e, wakes mask c all = false → x.waitLeft = some e → e ≤ s.now →
      exec (.waitWake gs) s = .next (s.setSlot gs { x with run := .waiting (.woken c true) })) ∧
    (∀ e, wakes mask c all = false → x.waitLeft = some e → s.now < e → exec (.waitWake gs) s = .next s) ∧
    (wakes mask c all = false → x.waitLeft = none → exec (.waitWake gs) s = .next s))

/-- R104 to R108, R111: a page without LATE that leaves its frame is bound no more; the buffer of a slice that holds at most
64 lines never comes to hold more; the event of a held page is posted to P0's queue; a retired slice holds no line and
has no pin, no frame and no directory state. Readings of the model's own: log entries 41, 64, 70, 72 and 77. -/
def Sys2Proof.Claims.UnbackedPages : Prop :=
  (∀ (s : State) (n part asn vpn : Nat), s.findPage part asn vpn = none →
    exec (.lateAttach n part asn vpn) s = .next s) ∧
  (∀ (s : State) (n part asn vpn m pa : Nat) (leaf : Word) (d : BitVec 64), s.findPage part asn vpn = some (m, pa, leaf, d) →
    leaf.getLsbD 61 = false → (∀ h ∈ (s.slice n).holding, ¬ (h.part = part ∧ h.asn = asn ∧ h.vpn = vpn)) →
    ∃ t : State, exec (.lateAttach n part asn vpn) s = .next t ∧
      ∀ f ∈ (t.slice n).pages, ¬ (f.part = part ∧ f.asn = asn ∧ f.vpn = vpn)) ∧
  (∀ (s : State) (n : Nat), (s.slice n).heldLines ≤ 64 →
    ∃ t : State, exec (.holdingBufferEntry n) s = .next t ∧ (t.slice n).heldLines ≤ 64 ∧
      (t.slice n).pages = (s.slice n).pages ∧ (t.slice n).holding.length = (s.slice n).holding.length) ∧
  (∀ (s : State) (n : Nat) (h : HeldPage),
    (s.slice n).holding.find? (fun h => !decide (h.held = 0) && !h.posted) = some h →
    ∃ (t : State) (r : WaitingRecord), exec (.unbackedEvict n) s = .next t ∧ t.fqWait = s.fqWait ++ [r] ∧ r.code = 65 ∧
      r.queue = 0 ∧ ∀ g ∈ (t.slice n).holding, g.part = h.part → g.asn = h.asn → g.vpn = h.vpn → g.held = h.held →
        g.waiting = h.waiting → g.leafPa = h.leafPa → g.leaf = h.leaf → g.cause = h.cause → g.frame = h.frame → g.posted = true) ∧
  (∀ (s : State) (n : Nat), ∃ t : State, exec (.sliceRetire n) s = .next t ∧ (t.slice n).retired = true ∧
    (t.slice n).pinned = [] ∧ (t.slice n).frames = [] ∧ (t.slice n).lines = [] ∧ (t.slice n).dir = [])

/-- Walks, wakes and unbacked pages: `WalksAndWakes` and `UnbackedPages` together. -/
def Obligations.WalkAndFrameSteps : Prop := Claims.WalksAndWakes ∧ Claims.UnbackedPages

/-- R69, R70, R402, R404: what a DRAM read, a DRAM write and a patrol of the arrays count and mark; the marks are stated for
a line that its slice does not hold. Readings of the model's own: log entries 45, 65 and 90. -/
def Sys2Proof.Claims.MemoryErrors : Prop :=
  (∀ (s : State) (ch a : Nat) (e : Instr), (e = .dramReadReturn ch a .clean ∨ e = .dramPatrol ch a .clean) →
    exec e s = .next s) ∧
  (∀ (s : State) (ch a : Nat) (e : Instr), (e = .dramReadReturn ch a .corrected ∨ e = .dramPatrol ch a .corrected) →
    ∃ t : State, exec e s = .next t ∧ (t.channel ch).ce = (s.channel ch).ce + 1 ∧ (t.channel ch).ue = (s.channel ch).ue ∧
      t.poison = s.poison ∧ t.mem = s.mem) ∧
  (∀ (s : State) (ch a : Nat) (e : Instr), (e = .dramReadReturn ch a .uncorrectable ∨ e = .dramPatrol ch a .uncorrectable) →
    let pa := s.physOf ch (a / 64 * 64)
    ∃ (t : State) (r : WaitingRecord), exec e s = .next t ∧ (t.channel ch).ue = (s.channel ch).ue + 1 ∧
      (t.channel ch).lastUe = a ∧ t.fqWait = s.fqWait ++ [r] ∧ r.code = 67 ∧ r.queue = 0 ∧ t.mem = s.mem ∧
      (pa % 64 = 0 → pa < 2 ^ 44 → s.holdsLine pa = false → t.isPoisoned pa = true ∧ t.isPoisoned (pa + 32) = true)) ∧
  (∀ (s : State) (ch a sectors bits : Nat) (other : MemOutcome),
    let pa := s.physOf ch (a / 64 * 64)
    ∃ t : State, exec (.dramWrite ch a sectors bits other) s = .next t ∧ t.mem = s.mem ∧
      (pa % 64 = 0 → s.holdsLine pa = false → other ≠ .uncorrectable →
        t.poison.has (pa / 32) = (if sectors.testBit 0 then bits.testBit 0 else s.poison.has (pa / 32)) ∧
        t.poison.has (pa / 32 + 1) = (if sectors.testBit 1 then bits.testBit 1 else s.poison.has (pa / 32 + 1))) ∧
      (pa % 64 = 0 → s.holdsLine pa = false → other = .uncorrectable → (sectors % 4 = 1 → t.poison.has (pa / 32 + 1) = true) ∧
        (sectors % 4 = 2 → t.poison.has (pa / 32) = true)) ∧
      (t.channel ch).ce = (s.channel ch).ce + (if other = .corrected ∧ (sectors % 4 = 1 ∨ sectors % 4 = 2) then 1 else 0)) ∧
  (∀ (s : State) (i array place : Nat) (u : SramUnit), exec (.sramPatrol u i array place .clean) s = .next s) ∧
  (∀ (s : State) (i array place : Nat),
    (∃ t : State, exec (.sramPatrol .core i array place .corrected) s = .next t ∧
      (t.core i).health.cecnt = (s.core i).health.cecnt + 1 ∧ (t.core i).lmBad = (s.core i).lmBad) ∧
    (∃ t : State, exec (.sramPatrol .core i 1 place .uncorrectable) s = .next t ∧ place / 8 ∈ (t.core i).lmBad) ∧
    (∃ t : State, exec (.sramPatrol .core i 2 place .uncorrectable) s = .next t ∧ place / 256 ∈ (t.core i).tagBad) ∧
    (∃ t : State, exec (.sramPatrol .slice i array place .corrected) s = .next t ∧
      (t.slice i).cecnt = (s.slice i).cecnt + 1) ∧
    (∃ t : State, exec (.sramPatrol .slice i array place .uncorrectable) s = .next t ∧
      (t.slice i).uecnt = (s.slice i).uecnt + 1) ∧
    (∃ t : State, exec (.sramPatrol .hub i array place .corrected) s = .next t ∧ t.hub.cecnt = s.hub.cecnt + 1) ∧
    (∃ t : State, exec (.sramPatrol .hub i array place .uncorrectable) s = .next t ∧ t.hub.uecnt = s.hub.uecnt + 1))


/-! ## Faults, budgets and the fault queues -/

/-- R390 to R395, R404, R406: what taking a fault does. A fault of class L of a slot that has TRAPV.EN set and runs no
handler is a local trap; any other but `SIGNATURE` parks the slot at the faulting instruction with its registers as they
were and posts one record, to P0's queue for a code from 64 on or a partition without a queue; `SIGNATURE` kills the
thread. Memory stays as it was where the slot has no reservation to withdraw (R369). A chain that does not decode and a
refused fetch take their faults so. Readings of the model's own: log entries 13 and 39. -/
def Sys2Proof.Claims.FaultsTaken : Prop :=
  (∀ (s : State) (f : FaultInfo), f.loc = true → bitOf s.me.trapv 0 = true → s.me.handler = false →
    let t := s.takeFault f
    t.me.trappc = BitVec.ofNat 64 s.me.pc ∧ t.me.trapcode = BitVec.ofNat 64 f.code ∧ t.me.trapaddr = f.addr ∧
    t.me.handler = true ∧ t.me.pc = fld s.me.trapv 47 1 * 2 ∧ t.me.sigAside = s.me.sig ∧ t.me.sig.armed = false ∧
    t.me.g = s.me.g ∧ t.me.p = s.me.p ∧ t.me.v = s.me.v ∧ t.me.sw = s.me.sw ∧ t.fqWait = s.fqWait ∧
    (s.amoOf s.cur = none → t.mem = s.mem)) ∧
  (∀ (s : State) (f : FaultInfo), (f.loc = false ∨ bitOf s.me.trapv 0 = false ∨ s.me.handler = true) → f.code ≠ 21 →
    f.code < 128 → f.kind < 16 →
    let t := s.takeFault f
    ∃ r : WaitingRecord, t.fqWait = s.fqWait ++ [r] ∧ t.me.run = .parked .fault ∧ t.me.pc = s.me.pc ∧ t.me.again = true ∧
      t.me.g = s.me.g ∧ t.me.p = s.me.p ∧ t.me.v = s.me.v ∧ t.me.sw = s.me.sw ∧
      (s.amoOf s.cur = none → t.mem = s.mem) ∧ r.code = f.code ∧ r.slot = some s.cur ∧
      r.queue = (if 64 ≤ f.code ∨ s.fqLog2 s.me.part = 0 then 0 else s.me.part) ∧
      ofBytes (r.bytes.take 8) = f.code * 2 ^ 56 + s.me.part * 2 ^ 52 + f.kind * 2 ^ 48 + s.me.pc % 2 ^ 48 ∧
      (r.bytes.drop 16).take 8 = bytesOf 8 f.addr.toNat) ∧
  (∀ (s : State) (f : FaultInfo), f.loc = false → f.code = 21 →
    let t := s.takeFault f
    t.me.task = none ∧ t.me.run = .parked .noThread ∧ (t.core t.myCore).health.sigcnt = (s.core s.myCore).health.sigcnt + 1 ∧
    ∃ r more, t.fqWait = s.fqWait ++ r :: more ∧ r.code = 21 ∧ r.slot = some s.cur) ∧
  (∀ (s : State) (bad : Bool) (code cause : Nat) (addr : Word),
    exec (.illegalOpcode bad) s = .next (s.takeFault
      { code := if bad then 2 else 1, addr := 0, loc := false, kind := 0, cause := 0, extra := [] }) ∧
    exec (.instructionFetchFault code addr cause) s = .next (s.takeFault
      { code := code, addr := addr, loc := false, kind := 0, cause := cause, extra := [] }))

/-- R367 to R369, R373, R390, R393, R396: the oldest record of a queue is written when the queue has room, and TAIL rises; a
write of FQHEAD that would pass TAIL is ignored; a deferred fault parks its slot and posts a record; a slot with no
budget left, and a slot that runs and gets a pre-emption request, parks where no engine instruction, matrix step or AMO
window delays it, and stays asked to stop while one does; a request that meets the budget end of its cycle makes one
stop with it (R373); the watchdog kills a thread with a record. An open AMO window completes before a deferred fault and
before the watchdog's kill. Readings of the model's own: log entries 39 and 40. -/
def Sys2Proof.Claims.FaultDelivery : Prop :=
  (∀ (s : State) (q : Nat), takeWaiting q s.fqWait = none → exec (.faultRecordWrite q) s = .next s) ∧
  (∀ (s : State) (q : Nat) (r : WaitingRecord) (rest : List WaitingRecord), takeWaiting q s.fqWait = some (r, rest) →
    let p := if s.fqLog2 q = 0 then 0 else q
    (s.fqRoom p = false → exec (.faultRecordWrite q) s = .next s) ∧
    (s.fqRoom p = true → ∃ t : State, exec (.faultRecordWrite q) s = .next t ∧ t.fqWait = rest ∧
      t.fqTail.val p 0 = (s.fqTail.val p 0 + 1) % 2 ^ 32 ∧ t.fqHead = s.fqHead ∧
      ∃ l, t.hub.out = l ++ [.msix p 0])) ∧
  (∀ (s : State) (p : Nat) (w : Word),
    let ahead := fun (n : Nat) => (s.fqTail.val p 0 + 2 ^ 32 - n) % 2 ^ 32
    (ahead (w.toNat % 2 ^ 32) ≤ ahead (s.fqHead.val p 0) → ∃ t : State, exec (.fqheadWrite p w) s = .next t ∧
      t.fqHead.val p 0 = w.toNat % 2 ^ 32 ∧ t.fqTail = s.fqTail ∧ t.fqWait = s.fqWait) ∧
    (ahead (s.fqHead.val p 0) < ahead (w.toNat % 2 ^ 32) → exec (.fqheadWrite p w) s = .next s)) ∧
  (∀ (s : State) (gs : Nat), s.amoOpen gs = true →
    exec (.deferredFault gs) s = .next { s with later := s.later ++ [.deferredFault gs] } ∧
    exec (.watchdog gs) s = .next { s with later := s.later ++ [.watchdog gs] }) ∧
  (∀ (s : State) (gs : Nat), s.amoOpen gs = false → (s.slot gs).deferred = [] → exec (.deferredFault gs) s = .next s) ∧
  (∀ (s : State) (gs : Nat) (f : FaultInfo) (fs : List FaultInfo), s.amoOpen gs = false → (s.slot gs).deferred = f :: fs →
    ∃ (t : State) (r : WaitingRecord), exec (.deferredFault gs) s = .next t ∧ (t.slot gs).run = .parked .fault ∧
      (t.slot gs).deferred = fs ∧ (t.slot gs).g = (s.slot gs).g ∧ t.fqWait = s.fqWait ++ [r] ∧ r.code = f.code ∧
      r.slot = some gs) ∧
  (∀ (s : State) (gs : Nat), (s.slot gs).parked = false → (s.slot gs).stop = none → (s.slot gs).engq = [] →
    let running := (∃ m, m ∈ (s.core (gs / 16)).matrix ∧ m.slot = gs % 16) ∨ s.amoOpen gs = true
    ((s.slot gs).holds = true → (s.slot gs).limit ≠ 0 → (s.slot gs).left ≤ 0 →
      ∃ t : State, exec (.budgetEnd gs) s = .next t ∧
        (t.budgetParked.val (gs / 16 * 16 + (s.slot gs).part) 0).testBit (gs % 16) = true ∧
        (¬ running → (t.slot gs).parked = true) ∧
        (running → (t.slot gs).parked = false ∧ (t.slot gs).stop = some .budget)) ∧
    (∃ t : State, exec (.preemptRequest gs) s = .next t ∧ (¬ running → (t.slot gs).parked = true) ∧
      (running → (t.slot gs).parked = false ∧ (t.slot gs).stop = some .stopped))) ∧
  (∀ (s : State) (gs : Nat), ((s.slot gs).parked = true ∨ (s.slot gs).limit = 0 ∨ 0 < (s.slot gs).left) →
    exec (.budgetEnd gs) s = .next s) ∧
  (∀ (s : State) (gs : Nat), (s.slot gs).parked = true →
    let both := (s.slot gs).run = .parked .budget ∧ (s.slot gs).parkedAt = s.now + 1
    (¬ both → exec (.preemptRequest gs) s = .next s) ∧
    (both → exec (.preemptRequest gs) s = .next (s.setSlot gs { s.slot gs with run := .parked .stopped }))) ∧
  (∀ (s : State) (gs : Nat), s.amoOpen gs = false → ((s.slot gs).holds = false → exec (.watchdog gs) s = .next s) ∧
    ((s.slot gs).holds = true → ∃ (t : State) (r : WaitingRecord) (more : List WaitingRecord),
      exec (.watchdog gs) s = .next t ∧ (t.slot gs).task = none ∧ (t.slot gs).run = .parked .noThread ∧
      t.fqWait = s.fqWait ++ r :: more ∧ r.code = 22 ∧ r.slot = some gs))

/-- Taking a fault and delivering its record: `FaultsTaken` and `FaultDelivery` together. -/
def Obligations.FaultRecords : Prop := Claims.FaultsTaken ∧ Claims.FaultDelivery

/-! ## The host, the supervisor cores and the DOE mailboxes -/

/-- R423: the slot command block acts as the slot instructions do and ends its command with their result; an argument that
it refuses gives all ones; PARK waits for a matrix step of the slot that is running and for its open AMO window;
SETSTACK sets SBASE and SLIM of a parked slot. Readings of the model's own: log entry 60. -/
def Sys2Proof.Claims.SlotCommands : Prop :=
  ∀ (s : State) (gs : Nat),
    let ends := fun (i : Instr) (u : State) (r : Word) => exec i s = .next { u with hub := { u.hub with scRes := r, scBusy := false } }
    ((s.slot gs).parked = true → ¬ ((s.slot gs).run = .parked .budget ∧ (s.slot gs).parkedAt = s.now + 1) →
      ends (.sccmdPark gs) { s with hub := { s.hub with scAsked := false } }
      (BitVec.ofNat 64 ((if s.hub.scAsked then 0 else 2 ^ 63) + (if (s.slot gs).holds then 2 ^ 62 else 0) + (s.slot gs).pc))) ∧
    ((s.slot gs).parked = false → (s.slot gs).stop = none → (s.slot gs).engq = [] →
      (s.amoOpen gs = false → (∀ m, m ∈ (s.core (gs / 16)).matrix → m.slot ≠ gs % 16) →
        ∃ (u : State) (r : Word), ends (.sccmdPark gs) u r ∧ (u.slot gs).parked = true) ∧
      ((s.amoOpen gs = true ∨ ∃ m ∈ (s.core (gs / 16)).matrix, m.slot = gs % 16) → ∃ t : State, exec (.sccmdPark gs) s = .next t ∧
        t.later = s.later ++ [.sccmdPark gs] ∧ t.hub.scAsked = true ∧ (t.slot gs).parked = false)) ∧
    (∀ why, (s.slot gs).run = .parked why → (s.slot gs).holds = true → ((s.slot gs).limit = 0 ∨ 0 < (s.slot gs).left) →
      ∃ u : State, ends (.sccmdRun gs) u 0 ∧ (u.slot gs).run = .ready ∧ (u.slot gs).pc = (s.slot gs).pc) ∧
    ((s.slot gs).run = .ready →
      ends (.sccmdRun gs) s (if (s.slot gs).wokeAt = s.now + 1 ∧ (s.slot gs).event = s.now + 1 then 1 else 2)) ∧
    (∀ pc root : Word, pc.toNat % 2 = 0 → pc.toNat < 2 ^ 47 → (s.slot gs).parked = true → (s.slot gs).holds = false →
      ∃ u : State, ends (.sccmdRunNew gs pc root) u 0 ∧ (u.slot gs).run = .ready ∧ (u.slot gs).pc = pc.toNat ∧
        (u.slot gs).ptroot = root &&& 0xFFFFFFFFFFFFC001#64 ∧ (u.slot gs).tin = ((s.slot gs).tin + 1) % 65536) ∧
    (∀ pc root : Word, (s.slot gs).holds = true → ends (.sccmdRunNew gs pc root) s 3) ∧
    (∀ pc root : Word, pc.toNat % 2 ≠ 0 → (s.slot gs).parked = true → (s.slot gs).holds = false →
      ends (.sccmdRunNew gs pc root) s (BitVec.allOnes 64)) ∧
    (∀ a : Word, a.toNat % 256 = 0 → a.toNat + 5120 ≤ s.dramEnd →
      ((s.slot gs).parked = true → ends (.sccmdSave gs a) (s.physWrite a.toNat (s.saveArea gs)) 0) ∧
      ((s.slot gs).parked = false → ends (.sccmdSave gs a) s 1 ∧ ends (.sccmdLoad gs a) s 1) ∧
      (∀ u bs, (s.slot gs).parked = true → s.physRead a.toNat 5120 = (u, bs) → u.anyPoison a.toNat 5120 = false →
        (areaRefused bs (u.slotPart gs) = true → ends (.sccmdLoad gs a) u 2) ∧
        (areaRefused bs (u.slotPart gs) = false →
          ends (.sccmdLoad gs a) (((u.setSlot gs ((u.slot gs).load gs bs)).tracedTo gs).rebar gs) 0))) ∧
    (∀ a : Word, a.toNat % 256 ≠ 0 → ends (.sccmdSave gs a) s (BitVec.allOnes 64) ∧
      ends (.sccmdLoad gs a) s (BitVec.allOnes 64)) ∧
    ((s.slot gs).parked = true → ∃ u : State, ends (.sccmdScrub gs) u 0 ∧ (u.slot gs).task = none ∧
      ∀ i, i < 24 → (u.slot gs).g[i]! = 0) ∧
    ((s.slot gs).parked = false → ends (.sccmdScrub gs) s 1) ∧
    (∀ a : Word, (s.slot gs).parked = true →
      (fld a 18 0 % 8 = 0 → fld a 50 32 % 8 = 0 → fld a 18 0 < fld a 50 32 →
        ends (.setstack gs a) (s.setSlot gs { s.slot gs with sbase := BitVec.ofNat 64 (fld a 18 0)
                                                             slim := BitVec.ofNat 64 (fld a 50 32) }) 0) ∧
      (fld a 50 32 ≤ fld a 18 0 → ends (.setstack gs a) s 2)) ∧
    (∀ a : Word, (s.slot gs).parked = false → ends (.setstack gs a) s 1)

/-- R419 to R421: a write of a data window reaches DRAM at its base with the hub ranked last in the merge step, and a read
gives the bytes there; a client window takes packets and the doorbell, which keeps its packet; what lies outside, or a
read while the function is reset, is an Unsupported Request; a doorbell pushes its packet and records the result;
HOSTIRQ fires the vector it names. Readings of the model's own: log entries 2, 58 and 59. -/
def Sys2Proof.Claims.HostWindows : Prop :=
  (∀ (s : State) (f off : Nat), exec (.unsupportedRequest f off true) s =
      .next { s with hub := { s.hub with out := s.hub.out ++ [.aer f] } } ∧
    exec (.unsupportedRequest f off false) s =
      .next { s with hub := { s.hub with out := s.hub.out ++ [.hostRead f none, .aer f] } }) ∧
  (∀ (s : State) (vf : Nat) (w : Word), fld w 47 44 ≤ 5 → fld w 47 44 ≠ 0 →
    let base := fld w 43 24 * 2 ^ 24
    let size := 2 ^ (fld w 47 44 - 1) * 2 ^ 24
    (base % size = 0 → base + size ≤ s.dramEnd →
      (∀ g, g < 4 → g * s.groupBytes < base + size → base < (g + 1) * s.groupBytes →
        (fld (s.part vf).w0 15 12).testBit g = true) →
      ∃ t : State, exec (.hwinWrite vf w) s = .next t ∧ t.hwin vf = (base, size)) ∧
    (base % size ≠ 0 → exec (.hwinWrite vf w) s = .next s.hubErr)) ∧
  (∀ (s : State) (vf off : Nat) (bs : List Byte),
    (s.hub.resetting.has vf = true → exec (.dataWindowWrite vf off bs) s = .next s) ∧
    (s.hub.resetting.has vf = false → vf ≠ 0 → off < 2 ^ 28 →
      (off + bs.length ≤ (s.hwin vf).2 →
        exec (.dataWindowWrite vf off bs) s =
          .next { s with posts := s.posts ++ [.write vf ((s.hwin vf).1 + off) bs] } ∧
        ({ s with posts := [.write vf ((s.hwin vf).1 + off) bs] } : State).applyPosts =
          ({ s with posts := [] } : State).physWrite ((s.hwin vf).1 + off) bs) ∧
      ((s.hwin vf).2 < off + bs.length → ∃ t : State, exec (.dataWindowWrite vf off bs) s = .next t ∧
        t.mem = s.mem ∧ t.hub.out = s.hub.out ++ [.aer vf])) ∧
    (s.hub.resetting.has vf = false → vf ≠ 0 →
      (∀ o, off = 2 ^ 28 + o → o + bs.length ≤ 512 → ∃ t : State, exec (.dataWindowWrite vf off bs) s = .next t ∧
        t.mem = s.mem ∧ (((List.range 8).flatMap (t.staging vf)).drop o).take bs.length = bs) ∧
      (off = 2 ^ 28 + 0x200 → bs.length = 8 →
        let w : Word := BitVec.ofNat 64 (ofBytes bs)
        exec (.dataWindowWrite vf off bs) s =
          .next { s with posts := s.posts ++ [.bell vf w (s.staging vf (fld w 14 12))] }))) ∧
  (∀ (s u : State) (vf off len : Nat) (bs : List Byte), vf ≠ 0 → s.hub.resetting.has vf = false → off < 2 ^ 28 →
    (∀ p ∈ s.posts, p.function ≠ vf) →
    off + len ≤ (s.hwin vf).2 → s.physRead ((s.hwin vf).1 + off) len = (u, bs) →
    u.anyPoison ((s.hwin vf).1 + off) len = false →
    exec (.dataWindowRead vf off len) s =
      .next { u with hub := { u.hub with out := u.hub.out ++ [.hostRead vf (some (ofBytes bs))] } }) ∧
  (∀ (s : State) (vf : Nat) (w : Word), s.hub.resetting.has vf = false →
    ((s.part vf).en = false → ∃ t : State, exec (.doorbell vf w) s = .next t ∧ t.hub.dbRes.val vf 0 = 3 ∧ t.mem = s.mem) ∧
    ((s.part vf).en = true → s.queueAt vf (fld (s.reg (hostBase + 8 * vf)) 63 48) (w.toNat % 2 ^ 12) = none →
      ∃ t : State, exec (.doorbell vf w) s = .next t ∧ t.hub.dbRes.val vf 0 = 2 ∧ t.mem = s.mem) ∧
    (∀ d, (s.part vf).en = true → s.queueAt vf (fld (s.reg (hostBase + 8 * vf)) 63 48) (w.toNat % 2 ^ 12) = some d →
      let r := s.appendPacket vf (fld (s.reg (hostBase + 8 * vf)) 63 48) (w.toNat % 2 ^ 12) d
        (nbits (s.peekNat d 8) 43 6 * 64) (nbits (s.peekNat (d + 16) 1) 4 0) (s.staging vf (fld w 14 12))
      (r = none → ∃ t : State, exec (.doorbell vf w) s = .next t ∧ t.hub.dbRes.val vf 0 = 1 ∧ t.mem = s.mem) ∧
      (∀ u, r = some u → ∃ t : State, exec (.doorbell vf w) s = .next t ∧ t.hub.dbRes.val vf 0 = 0 ∧ t.mem = u.mem ∧
        t.hub.dbAccepted.val vf 0 = (u.hub.dbAccepted.val vf 0 + 1) % 2 ^ 32))) ∧
  (∀ (s : State) (vf : Nat) (w : Word), s.hub.resetting.has vf = true → exec (.doorbell vf w) s = .next s) ∧
  (∀ (s : State) (w : Word), (fld w 5 0 = 0 → exec (.hostirqWrite w) s = .next s.hubErr) ∧
    (fld w 5 0 ≠ 0 → exec (.hostirqWrite w) s =
      .next { s with hub := { s.hub with out := s.hub.out ++ [.msix (fld w 9 6) (fld w 5 0)] } })) ∧
  (∀ (s : State) (f index : Nat) (request : List Byte),
    let answers := fun (i : Instr) (a : DoeAnswer) => exec i s = .next { s with hub := { s.hub with out := s.hub.out ++ [.doe f a] } }
    answers (.doeDiscovery f index) (.discovery (if index < 2 then some index else none) (if index = 0 then 1 else 0)) ∧
    answers (.spdmGetVersion f request) .version ∧ answers (.spdmGetCapabilities f request) .capabilities ∧
    answers (.spdmNegotiateAlgorithms f request) .algorithms ∧ answers (.spdmGetDigests f request) .digests ∧
    answers (.spdmGetCertificate f request) .certificate ∧
    answers (.spdmUnsupportedRequest f request) .unsupportedRequest ∧
    ((s.hub.life = .provisioned ∨ s.hub.life = .deployed) →
      answers (.spdmChallenge f request) (.challenge (Config.sm2Sign request))) ∧
    ((s.hub.life = .manufacture ∨ s.hub.life = .return_) → answers (.spdmChallenge f request) (.challenge [])) ∧
    (f ≠ 0 → index ≠ f → 1 ≤ index → index < 0x10 → ∀ sg, s.sign request = sg →
      answers (.spdmGetMeasurements f (0x10 + index) request) (.measurements (0x10 + index) none sg)) ∧
    (s.hub.safe = none → ∃ sg, answers (.spdmGetMeasurements 0 0x10 request) (.measurements 0x10 (some s.deviceManifest) sg)))

/-- Slot commands and host windows: `SlotCommands` and `HostWindows` together. -/
def Obligations.SupervisorAndHostSteps : Prop := Claims.SlotCommands ∧ Claims.HostWindows

/-! ## Dispatchers and the replay list -/

/-- R106, R345, R348 to R355, R358, R359: a queue found by a miss joins the resident queues, not pinned, with its
descriptor's DHEAD; a START packet that passes its checks opens its launch, and one without a header is reported; a
checked packet is marked, becomes eligible with its dependences, and a refused one posts a record; a bound WID leaves
the lane and starts its slot with cleared registers and the launch's status word; a launch ends at the second sweep that
finds SENT and RECV equal and unchanged. A read or an add at a slice that stalls the partition waits (R106), and a die
where a queue is not resident passes a packet that places no task there. Readings of the model's own: log entries 35, 37
and 38. -/
def Obligations.DispatcherSteps : Prop :=
  (∀ (s : State) (die part asn h : Nat),
    ((s.residentOn die part asn h).isSome = true → exec (.queueMiss die part asn h) s = .next s) ∧
    (s.residentOn die part asn h = none → s.queueAt part asn h = none → exec (.queueMiss die part asn h) s = .next s) ∧
    (∀ d, s.residentOn die part asn h = none → s.queueAt part asn h = some d → s.placeFor die part = some none →
      ∃ (t : State) (r : Resident), exec (.queueMiss die part asn h) s = .next t ∧ t.residents = s.residents ++ [r] ∧
        r.is die part asn h = true ∧ r.pinned = false ∧ r.dhead = s.peekNat (d + 20 + 4 * die) 4)) ∧
  (∀ (s : State) (die part asn h : Nat), s.pendingOn die part asn h = none →
    exec (.launchOpen die part asn h) s = .next s ∧ exec (.packetEligible die part asn h) s = .next s ∧
    (s.unreadOn die part asn h = none → exec (.packetTake die part asn h) s = .next s) ∧
    (∀ num p d, s.unreadOn die part asn h = some (num, p) → s.queueAt part asn h = some d →
      exec (.packetTake die part asn h) s =
        .next (if s.passesBy die part asn h num p then s.passPacket die part asn h d else s))) ∧
  (∀ (s : State) (die part asn h d : Nat) (r : Resident), s.pendingOn die part asn h = some (d, r) →
    let p := s.headPacket r
    let k := part * 16 + pkLaunch p
    (pkStart p = false → exec (.launchOpen die part asn h) s = .next s) ∧
    (s.launchStalls die part asn p = true → exec (.launchOpen die part asn h) s = .next s) ∧
    (pkStart p = true → s.markOf part asn h r.dhead = none → s.launchStalls die part asn p = false →
      (s.headerOf die part asn p = none → ∃ (t : State) (w : WaitingRecord), exec (.launchOpen die part asn h) s = .next t ∧
        t.fqWait = s.fqWait ++ [w] ∧ w.code = 27 ∧ t.launches = s.launches ∧
        t.marks = s.marks ++ [{ part := part, asn := asn, handle := h, num := r.dhead, code := 1, eligible := true }]) ∧
      (∀ hdr, s.headerOf die part asn p = some hdr →
        s.launchCode die part asn h { Launch.reset with header := hdr } p = 0 →
        ∃ t : State, exec (.launchOpen die part asn h) s = .next t ∧ (t.launch k).isOpen = true ∧
          (t.launch k).header = hdr ∧ (t.launch k).sent = 0 ∧ (t.launch k).recv = 0 ∧ t.fqWait = s.fqWait)) ∧
    (s.markOf part asn h r.dhead = none → pkStart p = false → (s.launch k).isOpen = true →
      s.packetStalls die part (s.launch k) p = false → s.packetCode die part asn h (s.launch k) p = 0 →
      ∃ (t : State) (m : PacketMark), exec (.packetTake die part asn h) s = .next t ∧ t.marks = s.marks ++ [m] ∧
        m.num = r.dhead ∧ m.code = 0 ∧ m.eligible = s.depsMet die part (s.launch k) p ∧ t.fqWait = s.fqWait) ∧
    (s.markOf part asn h r.dhead = none → pkStart p = false → (s.launch k).isOpen = true →
      s.packetStalls die part (s.launch k) p = false → s.packetCode die part asn h (s.launch k) p ≠ 0 →
      ∃ (t : State) (w : WaitingRecord), exec (.packetTake die part asn h) s = .next t ∧ t.fqWait = s.fqWait ++ [w] ∧
        w.code = 27 ∧ t.takings = s.takings) ∧
    (s.depsMet die part (s.launch k) p = false → exec (.packetEligible die part asn h) s = .next s) ∧
    (s.depsMet die part (s.launch k) p = true → ∃ t : State, exec (.packetEligible die part asn h) s = .next t ∧
      ∀ m ∈ t.marks, m.part = part → m.asn = asn → m.handle = h → m.num = r.dhead → m.eligible = true)) ∧
  (∀ (s : State) (die part : Nat), s.laneReady die part = none → s.now < s.dieTurn.val die 0 →
    exec (.taskBind die part) s = .next s) ∧
  (∀ (s : State) (die part i : Nat) (w : LaneWid), s.laneReady die part = some (w, i) →
    let gs := s.laneSlot part (s.launch w.launch) w.wid.toNat
    ∃ t : State, exec (.taskBind die part) s = .next t ∧ t.lanes = s.lanes.eraseIdx i ∧ (t.slot gs).run = .ready ∧
      (t.slot gs).wid = w.wid ∧ (t.slot gs).tin = ((s.slot gs).tin + 1) % 65536 ∧ (t.slot gs).sw = (s.launch w.launch).sw ∧
      (t.slot gs).limit = bytesAt w.packet 48 4 ∧ (∀ j, j < 23 → (t.slot gs).g[j]! = 0) ∧
      (t.slot gs).g[23]! = (s.slot gs).slim ∧ (t.slot gs).p = 0 ∧
      (pkEntry w.packet ≠ 0 → (t.slot gs).pc = pkEntry w.packet)) ∧
  (∀ (s : State) (k : Nat) (l : Launch), s.launches = [(k, l)] → l.isOpen = true → (l.word 0).getLsbD 61 = false →
    let stalls := s.counterStalls (s.firstDie (k / 16)) (k / 16) l (fld (l.word 7) 31 16)
    (s.launchIdle k = true → l.sent = l.recv → stalls = true → exec .launchSweep s = .next s) ∧
    (s.launchIdle k = true → l.sent = l.recv → stalls = false →
      (l.lastSweep = some (l.sent, l.recv) → ∃ t : State, exec .launchSweep s = .next t ∧ (t.launch k).isOpen = false) ∧
      (l.lastSweep = none → ∃ t : State, exec .launchSweep s = .next t ∧ (t.launch k).isOpen = true ∧
        (t.launch k).lastSweep = some (l.sent, l.recv))) ∧
    (l.sent ≠ l.recv → ∃ t : State, exec .launchSweep s = .next t ∧ (t.launch k).isOpen = true ∧
      (t.launch k).lastSweep = none)) ∧
  (∀ (s : State) (part e : Nat), (s.deferredDone (part * 16 + e) = false → exec (.deferredLaunchEnd part e) s = .next s) ∧
    (s.deferredDone (part * 16 + e) = true →
      s.counterStalls (s.launch (part * 16 + e)).die ((part * 16 + e) / 16) (s.launch (part * 16 + e))
        (fld ((s.launch (part * 16 + e)).word 7) 31 16) = false →
      ∃ t : State, exec (.deferredLaunchEnd part e) s = .next t ∧ (t.launch (part * 16 + e)).isOpen = false))

/-- R404, R405, R407 to R410: the actions of REPLAYCTL on a slot with no pending entry end in error; DROP and COMPLETE clear
PEND; a heartbeat counts and clears the misses, and the second period without one marks the core; the end of offlining
kills every slot once no AMO window of the core is open and fences every bank; a fence that falls wipes its bank, and
the wipe leaves it zero. Readings of the model's own: log entries 44, 61 and 110. -/
def Sys2Proof.Claims.ReliabilitySteps : Prop :=
  (∀ (s : State) (gs mode : Nat), s.pendingEntry gs = none →
    let failed := Host.Outcome.next (φ := Fault) (ρ := Refusal)
      { s with hub := { s.hub with replayBusy := false, replayErr := true } }
    exec (.rebind gs mode) s = failed ∧ exec (.replayComplete gs) s = failed ∧ exec (.replayDrop gs) s = failed) ∧
  (∀ (s : State) (gs : Nat) (e : ReplayEntry), s.pendingEntry gs = some e →
    (exec (.replayDrop gs) s = .next { s with
      replay := s.replay.put gs { e with pend := false }, hub := { s.hub with replayBusy := false, replayErr := false } }) ∧
    (s.counterStalls (dieOfCore (gs / 16)) e.part (s.launch (e.part * 16 + e.launch)) (pkCompl e.packet) = false →
      ∃ t : State, exec (.replayComplete gs) s = .next t ∧ t.replay.val gs e = { e with pend := false } ∧
      t.hub.replayErr = false) ∧
    (e.lane = 0xFFFF → (s.core (gs / 16)).health.gone = false → (s.slot gs).holds = false →
      ∃ t : State, exec (.rebind gs 0) s = .next t ∧ t.hub.replayErr = false ∧ (t.slot gs).run = .ready ∧
        (t.slot gs).wid = BitVec.ofNat 64 (pkWidBase e.packet) ∧ (t.slot gs).tin = ((s.slot gs).tin + 1) % 65536)) ∧
  (∀ (s : State) (c : Nat), let h := (s.core c).health
    (h.en = false → exec (.heartbeatPost c) s = .next s ∧ exec (.heartbeatPeriodClose c) s = .next s) ∧
    (h.en = true →
      (∃ t : State, exec (.heartbeatPost c) s = .next t ∧ (t.core c).health.beats = (h.beats + 1) % 2 ^ 32 ∧
        (t.core c).health.misses = 0 ∧ (t.core c).health.suspect = h.suspect) ∧
      (h.posted = true → ∃ t : State, exec (.heartbeatPeriodClose c) s = .next t ∧ (t.core c).health.misses = h.misses ∧
        t.fqWait = s.fqWait) ∧
      (h.posted = false → h.misses = 0 → ∃ t : State, exec (.heartbeatPeriodClose c) s = .next t ∧
        (t.core c).health.misses = 1 ∧ (t.core c).health.suspect = h.suspect ∧ t.fqWait = s.fqWait) ∧
      (h.posted = false → h.misses = 1 → ∃ (t : State) (r : WaitingRecord), exec (.heartbeatPeriodClose c) s = .next t ∧
        (t.core c).health.misses = 2 ∧ (t.core c).health.suspect = true ∧ t.fqWait = s.fqWait ++ [r] ∧ r.code = 68 ∧
        r.queue = 0))) ∧
  (∀ (s : State) (c : Nat), ((s.core c).health.leaving = false → exec (.offlineComplete c) s = .next s) ∧
    ((s.core c).health.leaving = true → (∃ i, i < 16 ∧ s.amoOpen (c * 16 + i) = true) →
      exec (.offlineComplete c) s = .next { s with later := s.later ++ [.offlineComplete c] }) ∧
    ((s.core c).health.leaving = true → (∀ i, i < 16 → s.amoOpen (c * 16 + i) = false) →
      ∃ t : State, exec (.offlineComplete c) s = .next t ∧
      (t.core c).health.offline = true ∧ (t.core c).health.leaving = false ∧ (t.core c).health.en = false ∧
      (t.core c).health.lmfence = 0xFFFF ∧ ∀ i, i < 16 → (t.slot (c * 16 + i)).holds = false)) ∧
  (∀ (s : State) (c : Nat) (w : Word), ∃ t : State, exec (.lmfenceWrite c w) s = .next t ∧
    (t.core c).health.lmfence = w.toNat % 2 ^ 16 ∧ (t.core c).health.spare = w.getLsbD 16 ∧
    ∀ b, b < 16 → (s.core c).health.lmfence.testBit b = true → w.getLsbD b = false →
      b ∈ (t.core c).wiping ∧ Event.lmWipeDone c b ∈ t.agenda) ∧
  (∀ (s : State) (c b : Nat), b < 16 → ∃ t : State, exec (.lmWipeDone c b) s = .next t ∧ b ∉ (t.core c).wiping ∧
    ∀ o, b * 32768 ≤ o → o < b * 32768 + 32768 → (t.core c).lmBytes o 1 = [0])

/-- Memory errors, replay and health: `MemoryErrors` and `ReliabilitySteps` together. -/
def Obligations.MemoryErrorSteps : Prop := Claims.MemoryErrors ∧ Claims.ReliabilitySteps

/-! ## Resets, the time-sliced group and the scan unit -/

/-- R386, R418, R421, R428, R429, R431, R432: a conventional reset leaves memory, cores and slices as after reset and takes
a pending life-cycle change; a failed self-test, and an image that the life-cycle state does not accept, enters the safe
report state; LCREQ names the next stage of the life cycle; a function-level reset clears the client window and runs the
partition's reset, which parks the partition's slots once its AMO windows are complete and, drained, has ended its
launches and packets; a temperature above the trip point enters the safe report state, one above the warning point
interrupts, and ten milliseconds over the power limit set OVERPWR. Readings of the model's own: log entries 2, 55, 56,
57, 83, 89 and 109. -/
def Obligations.ResetSteps : Prop :=
  (∀ s : State, ∃ t : State, exec .conventionalReset s = .next t ∧ t.mem = [] ∧ t.poison = [] ∧ t.cores = State.reset.cores ∧
    t.slices = State.reset.slices ∧ t.fqWait = [] ∧ t.agenda = [] ∧ t.large = s.large ∧ t.hub.safe = none ∧
    t.hub.life = (match s.hub.lifePending with
      | some l => l
      | none => s.hub.life) ∧ t.hub.lifePending = none ∧
    ∃ u : State, exec (.powerOnSelfTest 0 0) s = .next u ∧
      if t.hub.life.acceptsImage = true then u = t else u.hub.safe = some (2, 0, false)) ∧
  (∀ (s : State) (n detail : Nat), n ≤ 7 →
    let accepted := (s.hub.lifePending.getD s.hub.life).acceptsImage
    ∃ t : State, exec (.powerOnSelfTest n detail) s = .next t ∧ t.mem = [] ∧
      t.hub.safe = (if n = 1 ∨ accepted = true then if n = 0 then none else some (n, detail, decide (3 ≤ n))
        else some (2, detail, false))) ∧
  (∀ (s : State) (w : Word),
    (s.hub.life = .manufacture → w = 1 → exec (.lcreqWrite w) s = .next { s with hub := { s.hub with lifePending := some .provisioned } }) ∧
    (s.hub.life = .provisioned → w = 2 → exec (.lcreqWrite w) s = .next { s with hub := { s.hub with lifePending := some .deployed } }) ∧
    (s.hub.life = .deployed → w = 3 → exec (.lcreqWrite w) s = .next { s with hub := { s.hub with lifePending := some .return_ } }) ∧
    (s.hub.life = .return_ → exec (.lcreqWrite w) s = .next s) ∧ (w = 0 → exec (.lcreqWrite w) s = .next s)) ∧
  (∀ s : State, exec .pf0Flr s = .next s) ∧
  (∀ (s : State) (p : Nat),
    (s.anyAmoOpen (some p) = true → exec (.partitionReset p) s = .next { s with later := s.later ++ [.partitionReset p] }) ∧
    (s.anyAmoOpen (some p) = false → s.hub.resetting.has p = true → exec (.partitionReset p) s = .next s) ∧
    (s.anyAmoOpen (some p) = false → s.hub.resetting.has p = false → s.sched.member ≠ some p →
      ∃ t : State, exec (.partitionReset p) s = .next t ∧ t.hub.resetting.has p = true ∧
        (∀ gs ∈ s.slotsOf p, s.standsFor p gs = true → (t.slot gs).parked = true) ∧
        Event.resetDrainEnd p ∈ t.agenda) ∧
    (∃ t : State, exec (.vfFlr p) s = .next t ∧ t.agenda = s.agenda ++ [.partitionReset p] ∧
      t.hub.dbAccepted.val p 0 = 0 ∧ t.hub.dbRes.val p 0 = 0 ∧ ∀ k, k < 8 → t.staging p k = List.replicate 64 0) ∧
    (∃ t : State, exec (.resetDrainEnd p) s = .next t ∧ t.hub.resetting.has p = false ∧
      (∀ k, k / 16 = p → (t.launch k).isOpen = false) ∧ (∀ w ∈ t.lanes, w.part ≠ p) ∧ (∀ w ∈ t.takings, w.part ≠ p))) ∧
  (∀ (s : State) (die : Nat) (temp : Int),
    (temp < 190 → exec (.thermalWarn die temp) s = .next { s with hub := { s.hub with temp := s.hub.temp.put die temp } } ∧
      exec (.thermalTrip die temp) s = .next { s with hub := { s.hub with temp := s.hub.temp.put die temp } }) ∧
    (190 ≤ temp → ∃ t : State, exec (.thermalWarn die temp) s = .next t ∧ t.hub.svirq.testBit 4 = true ∧ t.cores = s.cores) ∧
    (210 ≤ temp → ∃ t : State, exec (.thermalTrip die temp) s = .next t ∧ t.hub.safe.isSome = true ∧ t.mem = [])) ∧
  (∀ (s : State) (pwr : Nat),
    (pwr ≤ 3840 → s.hub.overMs < 10 → ∃ t : State, exec (.overpwr pwr) s = .next t ∧ t.hub.overMs = 0 ∧ t.hub.overpwr = s.hub.overpwr) ∧
    (3840 < pwr → s.hub.overMs < 9 → ∃ t : State, exec (.overpwr pwr) s = .next t ∧ t.hub.overMs = s.hub.overMs + 1 ∧
      t.hub.overpwr = s.hub.overpwr) ∧
    (3840 < pwr → s.hub.overMs = 9 → ∃ t : State, exec (.overpwr pwr) s = .next t ∧ t.hub.overpwr = true))

/-- R379, R380: one µs of the schedule charges the member that is ready and ends its allotment when it is used up; the end
of an allotment, once no AMO window of the member is open, renews the only ready member and switches to the next one
otherwise, with its slice and its credit; the switch completes with that member placed and the area of its registers
taken back. Readings of the model's own: log entry 43. -/
def Sys2Proof.Claims.TimeSliceSteps : Prop :=
  (∀ s : State, ∃ t : State, exec .tsCreditAccrue s = .next t ∧ t.sched.member = s.sched.member ∧
    t.sched.ready = s.members.filter s.memberReady ∧ t.sched.allot = s.sched.allot ∧ t.cores = s.cores ∧
    (∀ r, s.sched.member = some r → t.sched.ran = if r ∈ t.sched.ready then s.sched.ran + 1 else s.sched.ran) ∧
    (∀ r, s.sched.member = some r → r ∈ t.sched.ready → s.sched.allot ≤ s.sched.ran + 1 →
      t.agenda = s.agenda ++ [.tsSliceEnd])) ∧
  (∀ s : State, (s.sched.member = none → exec .tsSliceEnd s = .next s) ∧
    (s.anyAmoOpen s.sched.member = true → exec .tsSliceEnd s = .next { s with later := s.later ++ [.tsSliceEnd] }) ∧
    (∀ r, s.anyAmoOpen (some r) = false → s.sched.member = some r → s.memberReady r = true → s.nextReady r = some r →
      exec .tsSliceEnd s = .next { s with sched := { s.sched with allot := (s.part r).slice, ran := 0 } }) ∧
    (∀ r n, s.anyAmoOpen (some r) = false → s.sched.member = some r → n ≠ r → s.memberReady r = true → s.nextReady r = some n →
      ∃ t : State, exec .tsSliceEnd s = .next t ∧ t.sched.member = none ∧ t.sched.switching = some n ∧ t.sched.ran = 0 ∧
        t.sched.allot = (s.part n).slice + s.sched.credit.val n 0 ∧ t.saved.has r = true ∧
        Event.tsSwitchComplete ∈ t.agenda)) ∧
  (∀ s : State, (s.sched.switching = none → exec .tsSwitchComplete s = .next s) ∧
    (∀ n, s.sched.switching = some n → ∃ t : State, exec .tsSwitchComplete s = .next t ∧ t.sched.member = some n ∧
      t.sched.switching = none ∧ t.saved.has n = false))

/-- R363 to R368: SCANCFG refuses a PERIOD or PHASE out of range, keeps a write while the scan runs for the next tick and
takes it at once otherwise, and one in the cycle of a tick at that tick; SCANNUM is written only while the scan is off;
HOLDOVER and SLEW follow the clock; a tick raises SCAN; the core tick gives every core the scan, refills the budgets
with what was overspent taken off, and resumes the slots that stood for want of budget; a beat raises BEAT. Readings of
the model's own: log entries 49 and 54. -/
def Sys2Proof.Claims.ScanSteps : Prop :=
  (∀ (s : State) (w : Word), let period := fld w 26 0
    ((period < 31250 ∨ 100000000 < period ∨ period ≤ fld w 58 32) →
      exec (.scancfgWrite w) s = .next { s with hub := { s.hub with scanCfgErr := true } }) ∧
    (31250 ≤ period → period ≤ 100000000 → fld w 58 32 < period → (s.reg scancfgReg).getLsbD 63 = true → w.getLsbD 63 = true →
      ∃ t : State, exec (.scancfgWrite w) s = .next t ∧
        ((∀ at_, s.hub.tickAt ≠ some (s.now, at_)) → t.reg scancfgReg = s.reg scancfgReg ∧
          ∃ v, t.hub.cfgPending = some v ∧ fld v 26 0 = period) ∧
        (∀ at_, s.hub.tickAt = some (s.now, at_) → fld (t.reg scancfgReg) 26 0 = period ∧
          fld (t.reg scancfgReg) 58 32 = fld w 58 32 ∧ t.hub.cfgPending = none ∧ t.hub.nextTick.isSome = true)) ∧
    (31250 ≤ period → period ≤ 100000000 → fld w 58 32 < period → w.getLsbD 63 = false →
      ∃ t : State, exec (.scancfgWrite w) s = .next t ∧ t.hub.nextTick = none ∧ fld (t.reg scancfgReg) 26 0 = period ∧
        fld (t.reg scancfgReg) 58 32 = fld w 58 32 ∧ (t.reg scancfgReg).getLsbD 63 = false)) ∧
  (∀ (s : State) (w : Word),
    ((s.reg scancfgReg).getLsbD 63 = true → exec (.scannumWrite w) s = .next { s with hub := { s.hub with scanCfgErr := true } }) ∧
    ((s.reg scancfgReg).getLsbD 63 = false →
      exec (.scannumWrite w) s = .next { s with hub := { s.hub with scan := w.toNat % 2 ^ 32 } })) ∧
  (∀ (s : State) (err : Int), (∃ t : State, exec .holdover s = .next t ∧ t.hub.holdover = true ∧ t.hub.synced.val 0 true = false) ∧
    ∃ t : State, exec (.slew err) s = .next t ∧ t.hub.holdover = false ∧ t.hub.synced.val 0 false = true ∧
      t.hub.nextTick = s.hub.nextTick.map (fun n => ((n : Int) + err).toNat) ∧
      t.hub.lastTick = ((s.hub.lastTick : Int) + err).toNat ∧
      t.hub.slew = (match s.hub.nextTick with
        | some n => offAlign (s.reg scancfgReg) (((n : Int) + err).toNat)
        | none => false) ∧
      t.hub.ptp.val 0 0 = ((s.hub.ptp.val 0 0 : Int) + err).toNat) ∧
  (∀ s : State, (s.hub.nextTick = none → exec .scanTick s = .next s) ∧
    (∀ at_, s.hub.nextTick = some at_ → ∃ t : State, exec .scanTick s = .next t ∧
      t.hub.scan = (s.hub.scan + 1) % 2 ^ 32 ∧ t.hub.lastTick = at_ ∧ t.hub.nextBeat = 1 ∧ t.hub.coreTick.isSome = true ∧
      t.hub.cfgPending = none ∧ t.cores = s.cores)) ∧
  (∀ s : State, ∃ t : State, exec .coreTick s = .next t ∧ t.hub.coreScan = s.hub.scan ∧ t.hub.coreBeat = 0 ∧
    (∀ c, s.cores.has c = true → (t.core c).scan = s.hub.scan ∧ (t.core c).beat = 0) ∧
    ((s.cores.map (·.1)).Nodup → ∀ gs, (s.slot gs).holds = true → (s.slot gs).limit ≠ 0 →
      (t.slot gs).left =
        signed32 (if (s.slot gs).left < 0 then (s.slot gs).limit + (s.slot gs).left else ((s.slot gs).limit : Int)) ∧
      (t.slot gs).event = s.now + 1 ∧ (t.slot gs).g = (s.slot gs).g ∧
      ((s.slot gs).run = .parked .budget → 0 < (t.slot gs).left → (t.slot gs).run = .ready))) ∧
  (∀ s : State, ((s.hub.nextBeat = 0 ∨ 15 < s.hub.nextBeat) → exec .beat s = .next s) ∧
    (1 ≤ s.hub.nextBeat → s.hub.nextBeat ≤ 15 → ∃ t : State, exec .beat s = .next t ∧ t.hub.nextBeat = s.hub.nextBeat + 1 ∧
      t.hub.coreBeat = s.hub.nextBeat ∧ ∀ c, s.cores.has c = true → (t.core c).beat = s.hub.nextBeat))

/-- R424 to R427: the loss of the sync link interrupts and puts the bridged gates that are not HELD in peer reset; the pair
sends the digest of the scan that has closed over the link that is up and over its port in service, and a digest of the
partner's that differs from the own one sets the mismatch with its scan; a mirror line lands its bytes and the last one
gives the mirror its scan. Readings of the model's own: log entry 54. -/
def Sys2Proof.Claims.PairSteps : Prop :=
  (∀ s : State,
    (∃ t : State, exec .syncLinkDown s = .next t ∧ t.hub.linkUp = false ∧ t.hub.svirq.testBit 2 = true ∧
      ∀ n, (s.gate n).valid = true → (s.gate n).bridge = true → (s.gate n).state ≠ gsHeld → (t.gate n).state = gsPeerReset) ∧
    exec .syncLinkUp s = .next { s with hub := { s.hub with linkUp := true } }) ∧
  (∀ (s : State) (scan : Nat) (d : BitVec 256),
    (s.pairEn = false → exec .pairFrameSend s = .next s ∧ exec (.pairFrameReceive scan d) s = .next s) ∧
    (s.pairEn = true →
      (∀ e, s.hub.pair.seek ((s.hub.scan + 2 ^ 32 - 1) % 2 ^ 32) = some e →
        let port := fld (s.reg pairBase) 57 56
        ∃ t : State, exec .pairFrameSend s = .next t ∧ t.hub.out = s.hub.out
          ++ (if s.hub.linkUp then [.pairFrame ((s.hub.scan + 2 ^ 32 - 1) % 2 ^ 32) e] else [])
          ++ (if (s.reg (tpReg port 0)).getLsbD 63 then [.pairEthernet port ((s.hub.scan + 2 ^ 32 - 1) % 2 ^ 32) e] else [])) ∧
      (∃ t : State, exec (.pairFrameReceive scan d) s = .next t ∧ t.hub.partner.seek scan = some d ∧
        (∀ e, s.hub.pair.seek scan = some e → e ≠ d → t.hub.mismatch = true ∧ t.hub.misscan = scan ∧
          t.hub.svirq.testBit 1 = true) ∧
        (s.hub.pair.seek scan = some d → t.hub.mismatch = s.hub.mismatch)))) ∧
  (∀ (s : State) (pa scan : Nat) (bs : List Byte) (last : Bool), ∃ t : State,
    exec (.mirrorLineLand pa bs last scan) s = .next t ∧ t.hub.mirInprog = !last ∧
      t.hub.mirScan = (if last then scan else s.hub.mirScan) ∧ t.mem = (s.physWrite pa bs).mem)

/-- Time slices, scans and the redundant pair: `TimeSliceSteps`, `ScanSteps` and `PairSteps` together. -/
def Obligations.ClockSteps : Prop := Claims.TimeSliceSteps ∧ Claims.ScanSteps ∧ Claims.PairSteps

/-! ## Gate table and TSN objects -/

/-- R382, R383, R385, R388: a store to the gate table with a reserved bit, a wrong bucket or EXPECT above 16 is dropped and
counts in HUBERR; another takes its fields, but for the state, ARRMASK, the post count, the round and the tokens of a
valid entry. Setting VALID fills every bucket; clearing it makes every waiter raise `GATE_RIGHTS`. The partner learns of
each store to BRIDGE, MASTER and PEER. A token refill adds one below DEPTH. An operation of the partner's on a gate
whose master is not here, whose PEER is another, or whose pair is none, is answered `GATE_CLOSED`; one that completes,
faults or waits here is answered with its result, is answered with its fault, or waits; the own operation with its tag
takes the answer that comes back. A remap moves the rights, the bits, the waiters and the owner of the HELD gates only.
Every store in the hub window completes, as that of the unit of its address. Readings of the model's own: log entries 34
and 91. -/
def Obligations.GateTable : Prop :=
  (∀ (s : State) (n : Nat) (w : Word), let g := s.gate n
    (bitOf w 48 = true ∨ fld w 15 0 ≠ 0 ∨ 16 < fld w 53 49 → exec (.gateTableWrite n 0 w) s = .next s.hubErr) ∧
    (bitOf w 48 = false → fld w 15 0 = 0 → fld w 53 49 ≤ 16 →
      ∃ t : State, exec (.gateTableWrite n 0 w) s = .next t ∧ (t.gate n).valid = bitOf w 54 ∧
        (t.gate n).owner = fld w 59 56 ∧ (t.gate n).stall = bitOf w 55 ∧ (t.gate n).expect = fld w 53 49 ∧
        (t.gate n).reqMask = fld w 47 32 ∧ (t.gate n).prior = g.prior ∧ (t.gate n).rights = g.rights ∧
        (t.gate n).postcnt = g.postcnt ∧ (t.gate n).w3 = g.w3 ∧
        (g.valid = true → (t.gate n).state = g.state ∧ (t.gate n).arrMask = g.arrMask ∧ (t.gate n).buckets = g.buckets ∧
          (bitOf w 54 = true → (t.gate n).waiters = g.waiters) ∧
          (bitOf w 54 = false → (t.gate n).waiters = g.waiters.map (fun x =>
            if x.answer = none then { x with answer := some (.fault 17) } else x))) ∧
        (g.valid = false → (t.gate n).state = fld w 63 62 ∧ (t.gate n).arrMask = fld w 31 16 ∧
          (t.gate n).waiters = g.waiters ∧
          (bitOf w 54 = true → (t.gate n).elapsed = [] ∧ ∀ p, p < 16 →
            bkTokens ((t.gate n).bucket p) = bkDepth (g.bucket p) ∧ bkPeriod ((t.gate n).bucket p) = bkPeriod (g.bucket p))) ∧
        (∀ m, m ≠ n → t.gate m = s.gate m)) ∧
    (exec (.gateTableWrite n 1 w) s = .next (s.setGate n { g with rights := w })) ∧
    (∃ t : State, exec (.gateTableWrite n 2 w) s = .next t ∧
      t.gate n = if g.valid then g else { g with postcnt := w }) ∧
    (fld w 29 10 ≠ 0 → exec (.gateTableWrite n 3 w) s = .next s.hubErr) ∧
    (fld w 29 10 = 0 → ∃ t : State, exec (.gateTableWrite n 3 w) s = .next t ∧ (t.gate n).bridge = bitOf w 31 ∧
      (t.gate n).master = bitOf w 30 ∧ (t.gate n).peer = fld w 9 0 ∧
      ((t.gate n).round = if g.valid then g.round else fld w 63 32) ∧ (t.gate n).w0 = g.w0 ∧
      t.hub.out = s.hub.out ++ [.gateEntry n (t.gate n).w3]) ∧
    (∀ i, 4 ≤ i → i < 12 →
      ((fld w 31 27 = 0 ∧ fld w 21 0 ≠ 0) ∨ (fld w 63 59 = 0 ∧ fld w 53 32 ≠ 0) →
        exec (.gateTableWrite n i w) s = .next s.hubErr) ∧
      ((fld w 31 27 = 0 → fld w 21 0 = 0) → (fld w 63 59 = 0 → fld w 53 32 = 0) →
        ∃ t : State, exec (.gateTableWrite n i w) s = .next t ∧
        bkDepth ((t.gate n).bucket (2 * (i - 4))) = fld w 31 27 ∧
        bkDepth ((t.gate n).bucket (2 * (i - 4) + 1)) = fld w 63 59 ∧
        bkTokens ((t.gate n).bucket (2 * (i - 4))) =
          (if g.valid then bkTokens (g.bucket (2 * (i - 4))) else fld w 26 22) ∧
        bkPeriod ((t.gate n).bucket (2 * (i - 4) + 1)) = fld w 53 32)) ∧
    (∀ i, 12 ≤ i → (w ≠ 0 → exec (.gateTableWrite n i w) s = .next s.hubErr) ∧
      (w = 0 → exec (.gateTableWrite n i w) s = .next s)) ∧
    (∀ p, (g.valid = true → g.state ≠ gsHeld → bkPeriod (g.bucket p) ≠ 0 → bkTokens (g.bucket p) < bkDepth (g.bucket p) →
        ∃ t : State, exec (.gateTokenRefill n p) s = .next t ∧ bkTokens ((t.gate n).bucket p) = bkTokens (g.bucket p) + 1 ∧
          ∀ q, q ≠ p → (t.gate n).bucket q = g.bucket q) ∧
      (g.valid = false ∨ g.state = gsHeld ∨ bkPeriod (g.bucket p) = 0 ∨ bkDepth (g.bucket p) ≤ bkTokens (g.bucket p) →
        exec (.gateTokenRefill n p) s = .next s))) ∧
  (∀ (s : State) (tag part n peer op : Nat) (x : Word) (v : VWord), let g := s.gate n
    let a := g.apply op part 4096 s.wseq x v
    (g.valid = false ∨ g.bridge = false ∨ g.master = false ∨ g.peer ≠ peer ∨ s.paired n g = false →
      exec (.bridgedGateOp (.request tag part n peer op x v)) s = .next { s with
        wseq := (s.wseq + 1) % 2 ^ 32, hub := { s.hub with out := s.hub.out ++ [.gateReply peer (.fault tag 19)] } }) ∧
    (g.valid = true → g.bridge = true → g.master = true → g.peer = peer → s.paired n g = true →
      (∀ h d r, a = .done h d r → ∃ t : State, exec (.bridgedGateOp (.request tag part n peer op x v)) s = .next t ∧
        t.gate n = h ∧ t.hub.out = s.hub.out ++ [.gateReply peer (.result tag d r)] ∧ t.hub.remote = s.hub.remote) ∧
      (∀ c h, a = .fault c h → ∃ t : State, exec (.bridgedGateOp (.request tag part n peer op x v)) s = .next t ∧
        t.gate n = h ∧ t.hub.out = s.hub.out ++ [.gateReply peer (.fault tag c)] ∧ t.hub.remote = s.hub.remote) ∧
      (∀ h, a = .waits h → ∃ t : State, exec (.bridgedGateOp (.request tag part n peer op x v)) s = .next t ∧
        t.gate n = h ∧ t.hub.out = s.hub.out ∧ t.hub.remote = s.hub.remote ++
          [{ tag := tag, part := part, gate := n, peer := peer, op := op, operand := x, payload := v, wseq := s.wseq }]))) ∧
  (∀ (s : State) (d : Word) (r : Option VWord) (c : Nat) (b : BridgedOp) (l : List BridgedOp), s.hub.bridged = b :: l →
    b.reply = none → (∀ e, e ∈ l → e.tag ≠ b.tag) →
    (∃ t : State, exec (.bridgedGateOp (.result b.tag d r)) s = .next t ∧
      t.hub.bridged = { b with reply := some (.result b.tag d r) } :: l) ∧
    ∃ t : State, exec (.bridgedGateOp (.fault b.tag c)) s = .next t ∧
      t.hub.bridged = { b with reply := some (.fault b.tag c) } :: l) ∧
  (∀ (s : State) (n : Nat) (w : Word), n < 1024 → ∃ t : State, exec (.bridgedGateOp (.entry n w)) s = .next t ∧
    t.hub.partnerGates.val n 0 = w ∧ t.gates = s.gates) ∧
  (∀ (s : State) (w : Word),
    (bitOf w 63 = false → exec (.remapWrite w) s = .next s) ∧
    (bitOf w 63 = true → (s.hub.remapBusy = true ∨ fld w 3 0 = fld w 7 4) → exec (.remapWrite w) s = .next s.hubErr) ∧
    (bitOf w 63 = true → s.hub.remapBusy = false → fld w 3 0 ≠ fld w 7 4 →
      ∃ t : State, exec (.remapWrite w) s = .next t ∧ t.hub.remapBusy = true ∧ t.agenda = s.agenda ++ [.remapDone] ∧
        ∀ n, ((s.gate n).state ≠ gsHeld → t.gate n = s.gate n) ∧
          ((s.gate n).state = gsHeld → (t.gate n).state = gsHeld ∧ (t.gate n).postcnt = (s.gate n).postcnt ∧
            nbits (t.gate n).rights.toNat (4 * fld w 7 4 + 3) (4 * fld w 7 4) =
              nbits (s.gate n).rights.toNat (4 * fld w 3 0 + 3) (4 * fld w 3 0) ∧
            nbits (t.gate n).rights.toNat (4 * fld w 3 0 + 3) (4 * fld w 3 0) = 0 ∧
            (t.gate n).bucket (fld w 7 4) = (s.gate n).bucket (fld w 3 0) ∧ (t.gate n).bucket (fld w 3 0) = 0 ∧
            (∀ x ∈ (t.gate n).waiters, x.part ≠ fld w 3 0) ∧
            (t.gate n).owner = if (s.gate n).owner = fld w 3 0 then fld w 7 4 else (s.gate n).owner)) ∧
    exec .remapDone s = .next { s with hub := { s.hub with remapBusy := false } }) ∧
  (∀ (s : State) (w : Word) (i j : Nat),
    (∀ pa, ∃ t : State, exec (.registerWrite pa w) s = .next t) ∧
    (∀ pa, pa < 0xF0100000000 → exec (.registerWrite pa w) s = .next s.hubErr) ∧
    exec (.registerWrite 0xF0100000000 w) s = exec (.pisplitWrite w) s ∧
    exec (.registerWrite 0xF0100600000 w) s = exec (.remapWrite w) s ∧
    (i < 512 → exec (.registerWrite (0xF0100001000 + 16 * i) w) s = exec (.pibindWrite i w) s ∧
      exec (.registerWrite (0xF0100820000 + 16 * i) w) s = .next (s.setReg (filterReg i) w)) ∧
    (i < 8 → exec (.registerWrite (0xF0100000100 + 256 * i) w) s = exec (.spcfgWrite i w) s ∧
      exec (.registerWrite (0xF0100000108 + 256 * i) w) s = .next (s.setReg (spBase i + 8) (BitVec.ofNat 64 (fld w 15 0)))) ∧
    (i < 4 → exec (.registerWrite (0xF0100800008 + 0x1000 * i) w) s = exec (.qbvChange i w) s ∧
      exec (.registerWrite (0xF0100800010 + 0x1000 * i) w) s = .next (s.setReg (tpReg i 0x10) w) ∧
      (3 < fld w 62 60 → exec (.registerWrite (0xF0100800000 + 0x1000 * i) w) s = .next s.hubErr) ∧
      (fld w 62 60 ≤ 3 → exec (.registerWrite (0xF0100800000 + 0x1000 * i) w) s = .next (s.setReg (tpReg i 0) w))) ∧
    (i < 256 → exec (.registerWrite (0xF0100822000 + 64 * i) w) s = exec (.streamGateChange i w) s) ∧
    (i < 16 → exec (.registerWrite (0xF0100003000 + 16 * i) w) s = exec (.lxcfgWrite i w) s ∧
      exec (.registerWrite (0xF0100003008 + 16 * i) w) s = exec (.lxdstWrite i w) s) ∧
    (i < 256 → exec (.registerWrite (0xF0100004000 + 32 * i) w) s = exec (.escfgWrite i w) s ∧
      exec (.registerWrite (0xF0100004008 + 32 * i) w) s = exec (.eshdrWrite i 0 w) s ∧
      exec (.registerWrite (0xF0100004010 + 32 * i) w) s = exec (.eshdrWrite i 1 w) s) ∧
    (i < 16 → j < 16 → exec (.registerWrite (0xF0100010000 + 128 * i + 8 * j) w) s = exec (.lectlWrite i j w) s) ∧
    (i < 1024 → j < 16 → exec (.registerWrite (0xF0100200000 + 128 * i + 8 * j) w) s = exec (.gateTableWrite i j w) s))

/-- R21, R22, R23, R62: a frame at a port out of service changes nothing; a frame with a wrong FCS, with a tag that is not
allowed, or that no filter matches counts in its counter only; a pair frame is only counted. A matched frame longer than
the largest SDU, or at a closed stream gate, counts there and at its filter; one that passes both, at a filter without a
meter and without a recovered stream, counts as passed and is committed to the region of its filter: in the buffer that
the select bit does not name the region holds the payload and then zeros, or the region marks OVERSIZE. A control word
with a wrong LEN or with CHANGE and no cycle time is dropped; CHANGE waits for its instant, at which the admin list
becomes operational; the end of an interval brings the next entry, the last state up to the end of the cycle, or the
next cycle. A read of TIME latches; a grandmaster sends Sync and Follow_Up on the ports in service; a recovery time-out
forgets the stream's history. Readings of the model's own: log entries 48, 49, 50, 92, 99 and 108. -/
def Sys2Proof.Claims.TsnPorts : Prop :=
  (∀ (s : State) (port : Nat) (f : List Byte) (ok : Bool), bitOf (s.reg (tpReg port 0)) 63 = false →
    exec (.tsnFrameReceive port f ok) s = .next s) ∧
  (∀ (s : State) (port : Nat) (f : List Byte), port < 4 → bitOf (s.reg (tpReg port 0)) 63 = true →
    (∃ t : State, exec (.tsnFrameReceive port f false) s = .next t ∧
      t.reg (tpReg port 0x100) = s.reg (tpReg port 0x100) + 1 ∧ t.reg (tpReg port 0x110) = s.reg (tpReg port 0x110) + 1 ∧
      t.hub.regions = s.hub.regions ∧ t.hub.image = s.hub.image) ∧
    (frameParts f = none → ∃ t : State, exec (.tsnFrameReceive port f true) s = .next t ∧
      t.reg (tpReg port 0x118) = s.reg (tpReg port 0x118) + 1 ∧ t.hub.image = s.hub.image) ∧
    (∀ p, frameParts f = some p →
      let u := s.setReg (tpReg port 0x100) (s.reg (tpReg port 0x100) + 1)
      (p.etype = 0x88B6 → exec (.tsnFrameReceive port f true) s = .next u) ∧
      (p.etype = 0x88F7 → ∃ t : State, exec (.tsnFrameReceive port f true) s = .next t ∧ t.hub.regs = u.hub.regs ∧
        t.hub.image = s.hub.image ∧ t.hub.regions = s.hub.regions ∧ t.hub.ptp.val 0 0 = s.hub.ptp.val 0 0) ∧
      (p.etype ≠ 0x88F7 → p.etype ≠ 0x88B6 →
        (u.filterOf port p = none → ∃ t : State, exec (.tsnFrameReceive port f true) s = .next t ∧
          t.reg (tpReg port 0x120) = s.reg (tpReg port 0x120) + 1 ∧ t.hub.image = s.hub.image) ∧
        (∀ k, u.filterOf port p = some k →
          let w1 := s.reg (filterReg k + 8)
          let r := s.hub.region k
          (fld w1 31 16 ≠ 0 → fld w1 31 16 < p.payload.length →
            ∃ t : State, exec (.tsnFrameReceive port f true) s = .next t ∧
              t.reg (filterCtr k) = s.reg (filterCtr k) + 1 ∧ t.reg (filterCtr k + 24) = s.reg (filterCtr k + 24) + 1 ∧
              t.hub.image = s.hub.image) ∧
          (fld w1 31 16 = 0 ∨ p.payload.length ≤ fld w1 31 16 → s.gateOpen (fld w1 61 54) = false →
            ∃ t : State, exec (.tsnFrameReceive port f true) s = .next t ∧
              t.reg (filterCtr k) = s.reg (filterCtr k) + 1 ∧ t.reg (filterCtr k + 16) = s.reg (filterCtr k + 16) + 1 ∧
              t.hub.image = s.hub.image) ∧
          (fld w1 31 16 = 0 ∨ p.payload.length ≤ fld w1 31 16 → s.gateOpen (fld w1 61 54) = true → bitOf w1 62 = false →
            (s.recoveredOf k = none ∨ p.seq = none) →
            ∃ t : State, exec (.tsnFrameReceive port f true) s = .next t ∧
              t.reg (filterCtr k) = s.reg (filterCtr k) + 1 ∧ t.reg (filterCtr k + 8) = s.reg (filterCtr k + 8) + 1 ∧
              (bindValid r.bound = false → t.hub.image = s.hub.image ∧ t.hub.regions = s.hub.regions) ∧
              (bindValid r.bound = true → bindLen r.bound < p.payload.length →
                t.hub.region k = { r with oversize := true } ∧ t.hub.image = s.hub.image) ∧
              (bindValid r.bound = true → p.payload.length ≤ bindLen r.bound →
                t.hub.region k =
                  { r with commit := some p.payload.length, commits := (r.commits + 1) % 2 ^ 32 } ∧
                ∀ i, i < bindLen r.bound →
                  t.hub.imageByte (b2n (!r.sel)) (bindOff r.bound + i) = p.payload.getD i 0)))))) ∧
  (∀ (s : State) (port : Nat) (w : Word), port < 4 →
    let cycle := fld (s.reg (tpReg port 0x18)) 29 0
    (1024 < fld w 42 32 → exec (.qbvChange port w) s = .next s.hubErr) ∧
    (fld w 42 32 = 0 → exec (.qbvChange port w) s = .next s.hubErr) ∧
    (bitOf w 62 = true → cycle < 1000 → exec (.qbvChange port w) s = .next s.hubErr) ∧
    (1 ≤ fld w 42 32 → fld w 42 32 ≤ 1024 → (bitOf w 62 = true → 1000 ≤ cycle) →
      ∃ t : State, exec (.qbvChange port w) s = .next t ∧ bitOf (t.reg (tpReg port 8)) 63 = bitOf w 63 ∧
        fld (t.reg (tpReg port 8)) 60 53 = fld w 60 53 ∧ fld (t.reg (tpReg port 8)) 42 32 = fld w 42 32 ∧
        t.hub.qbvPending.val port false = (bitOf w 62 || s.hub.qbvPending.val port false)) ∧
    (s.hub.qbvPending.val port false = false → exec (.qbvListActivate port) s = .next s) ∧
    (s.hub.qbvPending.val port false = true → ∃ t : State, exec (.qbvListActivate port) s = .next t ∧
      t.hub.qbvPending.val port false = false ∧ (t.hub.qbvPos.val port ListPos.reset).running = true ∧
      (t.hub.qbvPos.val port ListPos.reset).entry = 0 ∧
      (t.hub.qbvPos.val port ListPos.reset).len = fld (s.reg (tpReg port 8)) 42 32 ∧
      (t.hub.qbvPos.val port ListPos.reset).gates = fld (s.reg (qbvList port)) 63 56 ∧
      (∀ i, i < 1024 → t.reg (qbvList port + 0x2000 + 8 * i) = s.reg (qbvList port + 8 * i)) ∧
      t.reg (tpReg port 0x20) = s.reg (tpReg port 0x10) ∧ t.reg (tpReg port 0x28) = s.reg (tpReg port 0x18)) ∧
    ((s.hub.qbvPos.val port ListPos.reset).running = false → exec (.qbvGateIntervalEnd port) s = .next s) ∧
    (∀ p, s.hub.qbvPos.val port ListPos.reset = p → p.running = true →
      ∃ (t : State) (q : ListPos), exec (.qbvGateIntervalEnd port) s = .next t ∧
        t.hub.qbvPos.val port ListPos.reset = q ∧
        (let e := p.cycle0 + fld (s.reg (tpReg port 0x28)) 29 0
         (e ≤ p.until_ → q.entry = 0 ∧ q.cycle0 = e ∧ q.gates = fld (s.reg (qbvList port + 0x2000)) 63 56) ∧
         (p.until_ < e → p.entry + 1 < p.len → q.entry = p.entry + 1 ∧ q.until_ ≤ e ∧
           q.gates = fld (s.reg (qbvList port + 0x2000 + 8 * (p.entry + 1))) 63 56) ∧
         (p.until_ < e → p.len ≤ p.entry + 1 → q.until_ = e ∧ q.gates = p.gates)))) ∧
  (∀ (s : State) (g : Nat) (w : Word), g < 256 →
    let cycle := fld (s.reg (sgReg g + 16)) 29 0
    (64 < fld w 38 32 → exec (.streamGateChange g w) s = .next s.hubErr) ∧
    (fld w 38 32 = 0 → exec (.streamGateChange g w) s = .next s.hubErr) ∧
    (bitOf w 62 = true → cycle < 1000 → exec (.streamGateChange g w) s = .next s.hubErr) ∧
    (1 ≤ fld w 38 32 → fld w 38 32 ≤ 64 → (bitOf w 62 = true → 1000 ≤ cycle) →
      ∃ t : State, exec (.streamGateChange g w) s = .next t ∧ bitOf (t.reg (sgReg g)) 63 = bitOf w 63 ∧
        bitOf (t.reg (sgReg g)) 60 = bitOf w 60 ∧ fld (t.reg (sgReg g)) 38 32 = fld w 38 32 ∧
        t.hub.sgPending.val g false = (bitOf w 62 || s.hub.sgPending.val g false)) ∧
    (s.hub.sgPending.val g false = false → exec (.streamGateListActivate g) s = .next s) ∧
    (s.hub.sgPending.val g false = true → ∃ t : State, exec (.streamGateListActivate g) s = .next t ∧
      t.hub.sgPending.val g false = false ∧ (t.hub.sgPos.val g ListPos.reset).running = true ∧
      (t.hub.sgPos.val g ListPos.reset).entry = 0 ∧
      (t.hub.sgPos.val g ListPos.reset).len = fld (s.reg (sgReg g)) 38 32 ∧
      (t.hub.sgPos.val g ListPos.reset).gates = fld (s.reg (sgList g)) 63 63 ∧
      (∀ i, i < 64 → t.reg (sgList g + 0x200 + 8 * i) = s.reg (sgList g + 8 * i)) ∧
      t.reg (sgReg g + 24) = s.reg (sgReg g + 8) ∧ t.reg (sgReg g + 32) = s.reg (sgReg g + 16)) ∧
    ((s.hub.sgPos.val g ListPos.reset).running = false → exec (.streamGateIntervalEnd g) s = .next s) ∧
    (∀ p, s.hub.sgPos.val g ListPos.reset = p → p.running = true →
      ∃ (t : State) (q : ListPos), exec (.streamGateIntervalEnd g) s = .next t ∧
        t.hub.sgPos.val g ListPos.reset = q ∧
        (let e := p.cycle0 + fld (s.reg (sgReg g + 32)) 29 0
         (e ≤ p.until_ → q.entry = 0 ∧ q.cycle0 = e ∧ q.gates = fld (s.reg (sgList g + 0x200)) 63 63) ∧
         (p.until_ < e → p.entry + 1 < p.len → q.entry = p.entry + 1 ∧ q.until_ ≤ e ∧
           q.gates = fld (s.reg (sgList g + 0x200 + 8 * (p.entry + 1))) 63 63) ∧
         (p.until_ < e → p.len ≤ p.entry + 1 → q.until_ = e ∧ q.gates = p.gates)))) ∧
  (∀ (s : State) (d : Nat),
    (∃ t : State, exec (.gptpTimeLatch d) s = .next t ∧ t.hub.ptpLatched.val d 0 = s.now * 5 / 6 + s.hub.ptp.val d 0) ∧
    (s.isGm d = false → exec (.gptpSyncTransmit d) s = .next s) ∧
    (s.isGm d = true →
      ∃ t : State, exec (.gptpSyncTransmit d) s = .next t ∧
        t.hub.out = s.hub.out ++ ((List.range 4).filter (fun p => bitOf (s.reg (tpReg p 0)) 63)).map
          (fun p => .gptpSync p d (s.gptp d)) ∧
        ∀ p, p < 4 → t.reg (tpReg p 0x108) = s.reg (tpReg p 0x108) + if bitOf (s.reg (tpReg p 0)) 63 then 2 else 0) ∧
    exec (.recoveryResetTimeout d) s = .next { s with hub := { s.hub with recov := s.hub.recov.del d } })

/-- R23, R24, R54 to R57, R61, R428: a split outside its range, or one that a binding or an enabled stream stands against,
is dropped and counts in HUBERR; another waits for the tick. A binding with V and no length, or one that does not fit or
meets another, is dropped; another waits for the tick; clearing V stops the commits at once and leaves the bytes. A
stream configuration that cannot stand with EN, or that changes what EN holds fixed, is dropped; EN set from 0 starts
the counters. A store to the result view lands in the back buffer and marks the streams whose stamp it touches. A frame
leaves only when its port can send it; a standby only counts it. Safe frames leave from an image that has passed.
Readings of the model's own: log entries 48, 51, 93, 99 and 107. -/
def Sys2Proof.Claims.ImageAndEgress : Prop :=
  (∀ (s : State) (w : Word), let n := w.toNat
    (n = 0 ∨ 64 ≤ n → exec (.pisplitWrite w) s = .next s.hubErr) ∧
    (1 ≤ n → n < 64 → (∀ f, f < 512 → bindValid (s.reg (pibindReg f)) = true →
        bindOff (s.reg (pibindReg f)) + bindLen (s.reg (pibindReg f)) ≤ n * 65536) →
      (∀ e, e < 256 → esEn (s.escfg e) = true → esOff (s.escfg e) + 8 + esLen (s.escfg e) ≤ 4 * 2 ^ 20 - n * 65536) →
      exec (.pisplitWrite w) s = .next { s with hub := { s.hub with splitPending := some n } }) ∧
    (∀ f, f < 512 → bindValid (s.reg (pibindReg f)) = true → 1 ≤ n → n < 64 →
      n * 65536 < bindOff (s.reg (pibindReg f)) + bindLen (s.reg (pibindReg f)) →
      bindOff (s.reg (pibindReg f)) < 4 * 2 ^ 20 → exec (.pisplitWrite w) s = .next s.hubErr) ∧
    (∀ e, e < 256 → esEn (s.escfg e) = true → 4 * 2 ^ 20 - n * 65536 < esOff (s.escfg e) + 8 + esLen (s.escfg e) →
      exec (.pisplitWrite w) s = .next s.hubErr)) ∧
  (∀ (s : State) (f : Nat) (w : Word), f < 512 → let off := fld w 21 3 * 8; let len := fld w 56 43 * 8
    (bitOf w 63 = true → (fld w 56 43 = 0 ∨ 8192 < fld w 56 43 ∨ s.hub.splitPending.getD s.hub.split * 65536 < off + len ∨
        ∃ g, g < 512 ∧ g ≠ f ∧ bindValid (s.reg (pibindReg g)) = true ∧ bindOff (s.reg (pibindReg g)) < off + len ∧
          off < bindOff (s.reg (pibindReg g)) + bindLen (s.reg (pibindReg g))) →
      exec (.pibindWrite f w) s = .next s.hubErr) ∧
    (bitOf w 63 = true → 1 ≤ fld w 56 43 → fld w 56 43 ≤ 8192 →
      off + len ≤ s.hub.splitPending.getD s.hub.split * 65536 →
      (∀ g, g < 512 → g ≠ f → bindValid (s.reg (pibindReg g)) = true → off + len ≤ bindOff (s.reg (pibindReg g)) ∨
        bindOff (s.reg (pibindReg g)) + bindLen (s.reg (pibindReg g)) ≤ off) →
      ∃ t : State, exec (.pibindWrite f w) s = .next t ∧
        (∃ v : Word, (t.hub.region f).pending = some v ∧ t.reg (pibindReg f) = v ∧ bindValid v = true ∧ bindLen v = len ∧
          bindOff v = off) ∧ (t.hub.region f).bound = (s.hub.region f).bound ∧ t.hub.image = s.hub.image) ∧
    (bitOf w 63 = false → ∃ t : State, exec (.pibindWrite f w) s = .next t ∧ (t.hub.region f).pending = none ∧
      bindValid (t.hub.region f).bound = false ∧ (t.hub.region f).commit = none ∧ t.hub.image = s.hub.image)) ∧
  (∀ (s : State) (e : Nat) (w : Word), e < 256 → let old := s.escfg e
    (esEn w = true → (esLen w = 0 ∨ 1500 < esLen w ∨ esLen w ≤ esStatOff w ∨
        4 * 2 ^ 20 - max (s.hub.splitPending.getD s.hub.split) s.hub.split * 65536 < esOff w + 8 + esLen w) →
      exec (.escfgWrite e w) s = .next s.hubErr) ∧
    (esEn old = true → (esPort w ≠ esPort old ∨ esTc w ≠ esTc old ∨ esOff w ≠ esOff old ∨ esLen w ≠ esLen old ∨
        esSeq w ≠ esSeq old) → exec (.escfgWrite e w) s = .next s.hubErr) ∧
    (esEn w = false → esEn old = false → ∃ t : State, exec (.escfgWrite e w) s = .next t ∧
      t.escfg e = setFld w 0 0 0 ∧ t.hub.egStat = s.hub.egStat) ∧
    (esEn w = false → esEn old = true → esPort w = esPort old → esTc w = esTc old → esOff w = esOff old →
      esLen w = esLen old → esSeq w = esSeq old → ∃ t : State, exec (.escfgWrite e w) s = .next t ∧
      t.escfg e = setFld w 0 0 0 ∧ t.hub.egStat = s.hub.egStat) ∧
    (esEn w = true → esEn old = false → 1 ≤ esLen w → esLen w ≤ 1500 → esStatOff w < esLen w →
      esOff w + 8 + esLen w ≤ 4 * 2 ^ 20 - max (s.hub.splitPending.getD s.hub.split) s.hub.split * 65536 →
      ∃ t : State, exec (.escfgWrite e w) s = .next t ∧ t.escfg e = setFld w 0 0 0 ∧ t.hub.egSeq.val e 0 = 0 ∧
        t.hub.egWord e 0 = 0 ∧ t.hub.egWord e 1 = 0) ∧
    (∃ t : State, exec (.eshdrWrite e 0 w) s = .next t ∧ t.eshdr e 0 = w) ∧
    (bitOf w 16 = true → (fld w 11 0 = 0 ∨ fld w 11 0 = 0xFFF) → exec (.eshdrWrite e 1 w) s = .next s.hubErr) ∧
    (bitOf w 16 = false ∨ (fld w 11 0 ≠ 0 ∧ fld w 11 0 ≠ 0xFFF) → ∃ t : State, exec (.eshdrWrite e 1 w) s = .next t ∧
      t.eshdr e 1 = BitVec.ofNat 64 (fld w 16 0))) ∧
  (∀ (s : State) (off : Nat) (bs : List Byte),
    (s.hub.resultBytes < off + bs.length → exec (.resultViewWrite off bs) s = .next s.hubErr) ∧
    (off + bs.length ≤ s.hub.resultBytes → ∃ t : State, exec (.resultViewWrite off bs) s = .next t ∧
      (∀ i, i < bs.length → t.hub.resultByte (off + i) = bs.getD i 0) ∧
      (∀ i, i < off ∨ off + bs.length ≤ i → t.hub.resultByte i = s.hub.resultByte i) ∧
      ∀ e, e < 256 → t.hub.wbits.val e false = (s.hub.wbits.val e false ||
        decide (off < esOff (s.escfg e) + 8 ∧ esOff (s.escfg e) < off + bs.length)))) ∧
  (∀ (s : State) (e : Nat), ((∀ f ∈ s.hub.egFrames, f.stream ≠ e) → exec (.egressFrameSend e) s = .next s) ∧
    (∀ f, s.hub.egFrames.find? (fun g => decide (g.stream = e)) = some f →
      (s.canSend f = false → exec (.egressFrameSend e) s = .next s) ∧
      (s.canSend f = true → ∃ t : State, exec (.egressFrameSend e) s = .next t ∧
        (t.hub.out = if s.standby then s.hub.out else s.hub.out ++ [.frame (esPort f.cfg) (s.frameBytes f)]) ∧
        t.hub.egSeq.val e 0 = (s.hub.egSeq.val e 0 + 1) % 65536 ∧
        (t.reg (tpReg (esPort f.cfg) 0x108) = s.reg (tpReg (esPort f.cfg) 0x108) + if s.standby then 0 else 1) ∧
        (∀ g, g ∈ t.hub.egFrames ↔ g ∈ s.hub.egFrames ∧ g.stream ≠ e)))) ∧
  (∀ s : State, (s.hub.safe = none → exec .safeFrames s = .next s) ∧
    (∀ a b, s.hub.safe = some (a, b, false) → exec .safeFrames s = .next s) ∧
    (∀ a b, s.hub.safe = some (a, b, true) → exec .safeFrames s = .next { s with
      hub := { s.hub with out := s.hub.out ++ [.safeFrame 0, .safeFrame 1, .safeFrame 2, .safeFrame 3] } }))

/-- TSN ports, the process image and egress: `TsnPorts` and `ImageAndEgress` together. -/
def Obligations.TsnSteps : Prop := Claims.TsnPorts ∧ Claims.ImageAndEgress

/-! ## Sensor ports, the Loom array and the stream exits -/

/-- R27, R28, R33 to R36, R44, R60: a sensor frame counts in the first counter whose check it fails, else it joins the FIFO,
which holds 38,400 bytes; SPCFG keeps its fields, but a SLOWMULT below 8 refuses the write, and PAUSEEN set with little
staging free sends PAUSE at once. The front end takes a frame's records one by one, and waits while one has no staging;
a record that fits gets staging, or else a PAUSE frame may leave. A decoded record leaves its lane in arrival order; one
that does not decode counts and leaves placeholders, as does one that is overdue, which queues for the slow lane of
four; a slow record enters with the slow-fill mark unless it is stale or does not decode. Readings of the model's own:
log entries 52, 95, 96 and 107. -/
def Sys2Proof.Claims.SensorPorts : Prop :=
  (∀ (s : State) (p : Nat) (f : List Byte), let x := s.sensor p
    let one := fun (y : SensorPort) (k : Nat) => y.counters.val k 0 = min (2 ^ 32 - 1) (x.counters.val k 0 + 1)
    let e := sensorParts f
    let full := 38400 < (x.fifo.map (·.size)).sum + f.length + 4
    (∃ t : State, exec (.sensorFrameReceive p f false) s = .next t ∧ one (t.sensor p) 16 ∧ (t.sensor p).fifo = x.fifo) ∧
    (9596 < f.length → ∃ t : State, exec (.sensorFrameReceive p f true) s = .next t ∧ one (t.sensor p) 17 ∧
      (t.sensor p).fifo = x.fifo) ∧
    (f.length ≤ 9596 → e.1 ≠ fld (s.reg (spBase p)) 47 32 →
      ∃ t : State, exec (.sensorFrameReceive p f true) s = .next t ∧ one (t.sensor p) 18 ∧ (t.sensor p).fifo = x.fifo) ∧
    (f.length ≤ 9596 → e.1 = fld (s.reg (spBase p)) 47 32 → full →
      ∃ t : State, exec (.sensorFrameReceive p f true) s = .next t ∧ one (t.sensor p) 15 ∧ (t.sensor p).fifo = x.fifo) ∧
    (f.length ≤ 9596 → e.1 = fld (s.reg (spBase p)) 47 32 → ¬full →
      exec (.sensorFrameReceive p f true) s = .next (s.setSensor p { x with
        fifo := x.fifo ++ [{ rest := e.2, arrived := s.gptp 0, scan := s.hub.scan, size := f.length + 4 }] }))) ∧
  (∀ (s : State) (p : Nat) (w : Word),
    (fld w 15 8 < 8 → ∃ t : State, exec (.spcfgWrite p w) s = .next t ∧ bitOf (t.spcfg p) 0 = true ∧
      fld (t.spcfg p) 63 1 = fld (s.spcfg p) 63 1) ∧
    (8 ≤ fld w 15 8 → let x := s.sensor p
      let free := 131072 - s.staged p
      let quiet := x.paused = false ∧ (bitOf w 31 = false ∨ 19200 ≤ free)
      ∃ t : State, exec (.spcfgWrite p w) s = .next t ∧ spType (t.spcfg p) = fld w 47 32 ∧
      spPause (t.spcfg p) = bitOf w 31 ∧ spSlow (t.spcfg p) = fld w 15 8 ∧
      bitOf (t.spcfg p) 0 = (bitOf (s.spcfg p) 0 && !bitOf w 0) ∧
      (bitOf w 1 = true → quiet → t.sensor p = { x with counters := [] }) ∧ (bitOf w 1 = false → quiet → t.sensor p = x) ∧
      (bitOf w 31 = true → x.paused = false → free < 19200 → (t.sensor p).paused = true ∧
        t.hub.out = s.hub.out ++ [.pause p 0xFFFF]) ∧
      (x.paused = true → 38400 ≤ free → (t.sensor p).paused = false ∧ t.hub.out = s.hub.out ++ [.pause p 0])) ∧
    exec (.spcfgClr p) s = .next (s.setSensor p { s.sensor p with counters := [] })) ∧
  (∀ (s : State) (p : Nat), let x := s.sensor p
    (x.fifo = [] → exec (.skeinRecordCheck p) s = .next s) ∧
    ((∃ r ∈ x.records, r.started = none) → exec (.skeinRecordCheck p) s = .next s) ∧
    (∀ f rest, x.fifo = f :: rest → (∀ r ∈ x.records, r.started ≠ none) → let l := f.rest
      (l = [] ∨ skMagic l = 0 → exec (.skeinRecordCheck p) s = .next (s.setSensor p { x with fifo := rest })) ∧
      (l ≠ [] → skMagic l ≠ 0 → skMagic l ≠ 0x4B53 → ∃ t : State, exec (.skeinRecordCheck p) s = .next t ∧
        (t.sensor p).fifo = rest ∧ (t.sensor p).records = x.records ∧
        (t.sensor p).counters.val 0 0 = min (2 ^ 32 - 1) (x.counters.val 0 0 + 1)) ∧
      (s.checkRecord p l f.arrived = .pass → ∃ (t : State) (r : SkRecord), exec (.skeinRecordCheck p) s = .next t ∧
        (t.sensor p).records = x.records ++ [r] ∧ r.started = none ∧ r.header = l.take 32 ∧
        r.payload = (l.drop 32).take (skPaylen l) ∧ r.arrived = f.arrived ∧ r.slowMult = spSlow (s.spcfg p) ∧
        r.place = fld (s.reg (spBase p + 8)) 15 0 ∧
        (t.sensor p).fifo = { f with rest := l.drop ((32 + skPaylen l + 7) / 8 * 8) } :: rest ∧
        (t.sensor p).counters.val 20 0 = min (2 ^ 32 - 1) (x.counters.val 20 0 + 1)))) ∧
  (∀ (s : State) (p : Nat), let x := s.sensor p
    ((∀ r ∈ x.records, r.started ≠ none) → exec (.stagingAllocate p) s = .next s) ∧
    (∀ l1 r l2, x.records = l1 ++ r :: l2 → (∀ q ∈ l1, q.started ≠ none) → r.started = none →
      (x.paused = false → spPause (s.spcfg p) = false →
        (s.staged p + skDecoded r.header ≤ 131072 → exec (.stagingAllocate p) s = .next (s.setSensor p { x with
          records := l1 ++ { r with started := some s.now, runs := s.freeRuns p (skDecoded r.header) } :: l2 })) ∧
        (131072 < s.staged p + skDecoded r.header → exec (.stagingAllocate p) s = .next s)) ∧
      (x.paused = false → spPause (s.spcfg p) = true → 131072 < s.staged p + skDecoded r.header →
        131072 - s.staged p < 19200 → ∃ t : State, exec (.stagingAllocate p) s = .next t ∧ (t.sensor p).paused = true ∧
          (t.sensor p).records = x.records ∧ t.hub.out = s.hub.out ++ [.pause p 0xFFFF]))) ∧
  (∀ (s : State) (p n : Nat), let x := s.sensor p
    ((∀ r ∈ x.records, r.takes n = false) → exec (.decodeComplete p n) s = .next s) ∧
    (∀ r, x.records = [r] → r.takes n = true → skRows r.header = 1 → let a := 2 * p + skLine r.header % 2 ^ 32 % 2
      (∀ rows, decodeRecord r.header r.payload = some rows → ∃ t : State, exec (.decodeComplete p n) s = .next t ∧
        (t.sensor p).records = [] ∧ (t.sensor p).times = (n :: x.times).take 256 ∧
        t.hub.feed.val a [] = s.hub.feed.val a [] ++ [feedRowOf r false false 0]) ∧
      (decodeRecord r.header r.payload = none → ∃ t : State, exec (.decodeComplete p n) s = .next t ∧
        (t.sensor p).records = [] ∧ (t.sensor p).times = x.times ∧
        (t.sensor p).counters.val 11 0 = min (2 ^ 32 - 1) (x.counters.val 11 0 + 1) ∧
        t.hub.feed.val a [] = s.hub.feed.val a [] ++ [feedRowOf r true false 0])) ∧
    (∀ q l1 r l2, x.records = q :: l1 ++ r :: l2 → (∀ y ∈ q :: l1, y.takes n = false) → q.ended = none → r.takes n = true →
      (∀ rows, decodeRecord r.header r.payload = some rows → ∃ t : State, exec (.decodeComplete p n) s = .next t ∧
        (t.sensor p).records = q :: l1 ++ { r with ended := some .decoded } :: l2 ∧ t.hub.feed = s.hub.feed) ∧
      (decodeRecord r.header r.payload = none → ∃ t : State, exec (.decodeComplete p n) s = .next t ∧
        (t.sensor p).records = q :: l1 ++ { r with ended := some .placeholders, runs := [] } :: l2 ∧
        t.hub.feed = s.hub.feed))) ∧
  (∀ (s : State) (p : Nat), let x := s.sensor p
    ((∀ r ∈ x.records, s.overdue p r = false) → exec (.slowLaneMove p) s = .next s) ∧
    (∀ r, x.records = [r] → s.overdue p r = true →
      (x.slowq.length < 4 → ∃ t : State, exec (.slowLaneMove p) s = .next t ∧ (t.sensor p).records = [] ∧
        (t.sensor p).slowq = x.slowq ++ [{ r with started := if x.slowq = [] then some s.now else none }]) ∧
      (4 ≤ x.slowq.length → ∃ t : State, exec (.slowLaneMove p) s = .next t ∧ (t.sensor p).records = [] ∧
        (t.sensor p).slowq = x.slowq ∧ (t.sensor p).counters.val 12 0 = min (2 ^ 32 - 1) (x.counters.val 12 0 + 1)) ∧
      (skRows r.header = 1 → let a := 2 * p + skLine r.header % 2 ^ 32 % 2
        ∃ t : State, exec (.slowLaneMove p) s = .next t ∧
          t.hub.feed.val a [] = s.hub.feed.val a [] ++ [feedRowOf r true false 0])) ∧
    (x.slowq = [] → exec (.slowDecodeEnd p) s = .next s) ∧
    (∀ r rs, x.slowq = r :: rs →
      (decodeRecord r.header r.payload = none → ∃ t : State, exec (.slowDecodeEnd p) s = .next t ∧
        (t.sensor p).slowq = allocHead s.now rs ∧
        (t.sensor p).counters.val 11 0 = min (2 ^ 32 - 1) (x.counters.val 11 0 + 1) ∧ t.hub.feed = s.hub.feed) ∧
      (∀ rows, decodeRecord r.header r.payload = some rows → let age := (s.hub.scan + 2 ^ 32 - r.stamp) % 2 ^ 32
        (s.slowStale p < age → ∃ t : State, exec (.slowDecodeEnd p) s = .next t ∧
          (t.sensor p).slowq = allocHead s.now rs ∧
          (t.sensor p).counters.val 13 0 = min (2 ^ 32 - 1) (x.counters.val 13 0 + 1) ∧ t.hub.feed = s.hub.feed) ∧
        (age ≤ s.slowStale p → skRows r.header = 1 → let a := 2 * p + skLine r.header % 2 ^ 32 % 2
          ∃ t : State, exec (.slowDecodeEnd p) s = .next t ∧ (t.sensor p).slowq = allocHead s.now rs ∧
            t.hub.feed.val a [] = s.hub.feed.val a [] ++ [feedRowOf r false true 0]))))

/-- R39 to R44: a stage word of a running element is not written and sets CFGERR, one of a stopped element is; a start with
a bad stage word is refused with CFGERR, a start with good ones begins at stage 0. A stage stalls on an empty source
link, and else leaves its result where DST names and goes on to the next stage; the lanes of the plain operations. A
memory stage outside the element's memory stops the element with MEMERR. Readings of the model's own: log entries 53, 97
and 106. -/
def Sys2Proof.Claims.LoomArray : Prop :=
  (∀ (s : State) (r c k : Nat) (w : Word), r < 16 → c < 16 → k < 64 → let n := 16 * r + c
    (bitOf (s.lectl n) 63 = false → ∃ t : State, exec (.stageWordWrite r c k w) s = .next t ∧ t.stageWord n k = w ∧
      t.lectl n = s.lectl n) ∧
    (bitOf (s.lectl n) 63 = true → ∃ t : State, exec (.stageWordWrite r c k w) s = .next t ∧
      t.stageWord n k = s.stageWord n k ∧ bitOf (t.lectl n) 7 = true ∧ bitOf (t.lectl n) 63 = true) ∧
    (bitOf (s.lectl n) 63 = false → bitOf w 63 = true →
      ((∀ j, j ≤ fld w 5 0 → stageBad r c (s.stageWord n j) = false) →
        ∃ t : State, exec (.lectlWrite r c w) s = .next t ∧ bitOf (t.lectl n) 63 = true ∧ fld (t.lectl n) 5 0 = fld w 5 0 ∧
          (t.element n).stage = 0 ∧ (t.element n).e = (s.element n).e) ∧
      (∀ j, j ≤ fld w 5 0 → stageBad r c (s.stageWord n j) = true →
        ∃ t : State, exec (.lectlWrite r c w) s = .next t ∧ bitOf (t.lectl n) 63 = false ∧ bitOf (t.lectl n) 7 = true ∧
          t.element n = s.element n)) ∧
    (bitOf w 63 = false → ∃ t : State, exec (.lectlWrite r c w) s = .next t ∧ bitOf (t.lectl n) 63 = false ∧
      bitOf (t.lectl n) 6 = (bitOf (s.lectl n) 6 && !bitOf w 6)) ∧
    (bitOf w 63 = true → bitOf (s.lectl n) 63 = true → fld w 5 0 ≠ fld (s.lectl n) 5 0 →
      ∃ t : State, exec (.lectlWrite r c w) s = .next t ∧ bitOf (t.lectl n) 63 = true ∧ bitOf (t.lectl n) 7 = true ∧
        fld (t.lectl n) 5 0 = fld (s.lectl n) 5 0)) ∧
  (∀ (s : State) (r c : Nat), let n := 16 * r + c
    let x := s.element n
    let w := s.stageWord n x.stage
    (bitOf (s.lectl n) 63 = false → exec (.loomStage r c) s = .next s) ∧
    (bitOf (s.lectl n) 63 = true →
      (stOp w = 0 → exec (.loomStage r c) s = .next (s.stageDone n x)) ∧
      (stOp w ≠ 0 → stSa w < 4 → x.link (stSa w) = [] → exec (.loomStage r c) s = .next s) ∧
      (1 ≤ stOp w → stOp w ≤ 22 → stSa w = 4 → stSb w = 4 → stDst w = 4 →
        ∃ t : State, exec (.loomStage r c) s = .next t ∧ (t.element n).stage =
            (if x.stage = fld (s.lectl n) 5 0 then 0 else x.stage + 1) ∧ (t.element n).e = x.e.put (fld w 43 41)
            (stageResult w (x.e.val 0 0) (x.e.val (fld w 49 47) 0) (x.e.val (fld w 46 44) 0)) ∧
          (∀ m, m ≠ n → t.element m = s.element m)) ∧
      (stOp w = 24 → stSa w = 4 → stSb w = 4 →
        ((x.e.val 6 0).toNat % 8 ≠ 0 ∨ 0x18000 < (x.e.val 6 0).toNat + 8 →
          ∃ t : State, exec (.loomStage r c) s = .next t ∧ bitOf (t.lectl n) 63 = false ∧ bitOf (t.lectl n) 6 = true ∧
            t.element n = x) ∧
        ((x.e.val 6 0).toNat % 8 = 0 → (x.e.val 6 0).toNat + 8 ≤ 0x18000 →
          ∃ t : State, exec (.loomStage r c) s = .next t ∧
            (t.element n).e.val 6 0 = x.e.val 6 0 + BitVec.ofInt 64 (BitVec.ofNat 32 (fld w 31 0)).toInt ∧
            (t.element n).mem = memWrite x.mem (x.e.val 6 0).toNat (bytesOf 8 (x.e.val (fld w 49 47) 0).toNat))))) ∧
  (∀ (w a b : Word) (i : Nat), let lw := 8 * 2 ^ fld w 40 39
    i < 64 / lw →
    let x := a.toNat / 2 ^ (lw * i) % 2 ^ lw
    let y := b.toNat / 2 ^ (lw * i) % 2 ^ lw
    let z := fun e : Word => (stageResult w e a b).toNat / 2 ^ (lw * i) % 2 ^ lw
    ∀ e, (stOp w = 1 → z e = x) ∧ (stOp w = 2 → z e = (x + y) % 2 ^ lw) ∧
      (stOp w = 3 → (z e + y) % 2 ^ lw = x) ∧ (stOp w = 4 → z e = x * y % 2 ^ lw) ∧
      (stOp w = 9 → z e = x &&& y) ∧ (stOp w = 10 → z e = x ||| y) ∧ (stOp w = 11 → z e = x ^^^ y) ∧
      (stOp w = 16 → z e = if x = y then 2 ^ lw - 1 else 0))

/-- Sensor ports and the Loom array: `SensorPorts` and `LoomArray` together. -/
def Obligations.SensorAndLoomSteps : Prop := Claims.SensorPorts ∧ Claims.LoomArray

/-- R45 to R53, R118: what a write of a window or of an exit does, and what the steps of an exit do: a row takes the next
entry of its metadata queue and joins a batch, stays under BLOCK, or is dropped; a closed batch lands in the window's
next free slot with a descriptor on q5, or is dropped in a fenced bank and in one that its partition no longer owns; the
free count reaches the exit. Readings of the model's own: log entries 52, 94 and 98. -/
def Obligations.StreamExits : Prop :=
  (∀ (s : State) (c n : Nat) (v : Word), let x := s.window c n
    ((fld v 62 61 = 3 ∨ fld v 18 0 % 256 ≠ 0 ∨ (bitOf v 63 = true ∧ (bitOf x.cfg 63 = true ∨ s.swRefused c n (swMask v) = true))) →
      exec (.swcfgWrite c n v) s = .next (s.setWindow c n { x with cfgerr := true })) ∧
    (fld v 62 61 ≠ 3 → fld v 18 0 % 256 = 0 → bitOf v 63 = true → bitOf x.cfg 63 = false → s.swRefused c n (swMask v) = false →
      ∃ t : State, exec (.swcfgWrite c n v) s = .next t ∧ (t.window c n).cfg = setFld v 39 19 0 ∧
        (t.window c n).free = fld v 55 52 + 1 ∧ (t.window c n).filled = 0 ∧ (t.window c n).dropRows = 0 ∧
        (t.window c n).dropped = x.dropped ∧ t.later = s.later ++ (s.exitsTo c n).map Event.freeCountUpdate) ∧
    (fld v 62 61 ≠ 3 → fld v 18 0 % 256 = 0 → bitOf v 63 = false → bitOf x.cfg 63 = true →
      ∃ t : State, exec (.swcfgWrite c n v) s = .next t ∧ bitOf (t.window c n).cfg 63 = false ∧
        (t.window c n).free = 0 ∧ (t.window c n).filled = 0 ∧
        ∀ i, i < 16 → (t.exit i).closed = (s.exit i).closed.filter (fun b => !decide (b.core = c ∧ b.win = n)) ∧
          (i ∈ s.exitsTo c n → (t.exit i).batch = [] ∧ (t.exit i).held = [] ∧ (t.exit i).blocked = none ∧ (t.exit i).free = 0))) ∧
  (∀ (s : State) (c slot n : Nat) (v : Word), let x := s.window c n
    (fld x.cfg 43 40 ≠ slot → exec (.swrelWrite c slot n v) s = .next (s.setWindow c n { x with foreign := true })) ∧
    (fld x.cfg 43 40 = slot → ∃ t : State, exec (.swrelWrite c slot n v) s = .next t ∧
      (t.window c n).filled = x.filled - fld v 4 0 ∧ (t.window c n).free = x.free + min (fld v 4 0) x.filled ∧
      (t.window c n).ovrel = (x.ovrel || decide (x.filled < fld v 4 0)) ∧
      t.later = s.later ++ (s.exitsTo c n).map Event.freeCountUpdate)) ∧
  (∀ (s : State) (i : Nat) (w : Word), i < 16 → let x := s.exit i
    (lxEn w = true → lxCols w = 0 → ∃ t : State, exec (.lxcfgWrite i w) s = .next t ∧ t.lxcfg i = s.lxcfg i ∧
      bitOf (t.lxdst i) 1 = true) ∧
    (lxEn w = true → lxEn (s.lxcfg i) = false → s.exitBad i w = false → ∃ t : State, exec (.lxcfgWrite i w) s = .next t ∧
      t.lxcfg i = w ∧ (t.exit i).seq = 0 ∧ (t.exit i).hold = lxHold w ∧ (t.exit i).wait = lxWait w ∧
      t.agenda = s.agenda ++ [.freeCountUpdate i, .exitRowComplete i]) ∧
    (lxEn w = false → lxEn (s.lxcfg i) = false → ∃ t : State, exec (.lxcfgWrite i w) s = .next t ∧ t.lxcfg i = w ∧
      t.exit i = x) ∧
    (lxEn (s.lxcfg i) = true → w = setFld (s.lxcfg i) 63 63 0 → ∃ t : State, exec (.lxcfgWrite i w) s = .next t ∧
      t.lxcfg i = w ∧ (t.exit i).batch = [] ∧ (t.exit i).held = [] ∧ (t.exit i).blocked = none ∧
      let c := lxCore (s.lxdst i)
      let n := lxWin (s.lxdst i)
      t.window c n = (s.window c n).drop (x.batch.length + x.held.length + x.blocked.toList.length)) ∧
    (lxEn (s.lxcfg i) = true → fld w 19 9 ≠ fld (s.lxdst i) 19 9 → ∃ t : State, exec (.lxdstWrite i w) s = .next t ∧
      fld (t.lxdst i) 19 9 = fld (s.lxdst i) 19 9 ∧ bitOf (t.lxdst i) 1 = true) ∧
    (lxEn (s.lxcfg i) = false → ∃ t : State, exec (.lxdstWrite i w) s = .next t ∧ fld (t.lxdst i) 19 9 = fld w 19 9 ∧
      bitOf (t.lxdst i) 1 = (bitOf (s.lxdst i) 1 && !bitOf w 1) ∧
      bitOf (t.lxdst i) 0 = (bitOf (s.lxdst i) 0 && !bitOf w 0))) ∧
  (∀ (s : State) (i : Nat), i < 16 → let x := s.exit i
    let cfg := s.lxcfg i
    let a := lxEntry cfg
    let c := lxCore (s.lxdst i)
    let n := lxWin (s.lxdst i)
    (lxEn cfg = false ∨ x.whole = false ∨ x.blocked ≠ none ∨ s.hub.rowMeta.val a [] = [] →
      exec (.exitRowComplete i) s = .next s) ∧
    (∀ m ms, lxEn cfg = true → x.whole = true → x.blocked = none → s.hub.rowMeta.val a [] = m :: ms → x.batch = [] → x.held = [] →
      let words := if x.spoiled then List.replicate x.row.length m.fill else x.row.reverse
      let Row0 := fun (r : Row) => r.info = { m with late := m.late || x.spoiled } ∧ r.bytes = (keptBytes cfg words).1
      (1 ≤ x.free → lxRows cfg ≠ 1 → ∃ (t : State) (r : Row), exec (.exitRowComplete i) s = .next t ∧ Row0 r ∧
        (t.exit i).batch = [r] ∧ (t.exit i).whole = false ∧ (t.exit i).row = [] ∧ t.hub.rowMeta.val a [] = ms ∧
        (t.exit i).batchSince = s.localNs ∧ (t.exit i).hold = lxHold cfg ∧ (t.exit i).wait = lxWait cfg) ∧
      (x.free = 0 → lxHold cfg = 0 → s.exitFate i ≠ 2 → ∃ t : State, exec (.exitRowComplete i) s = .next t ∧
        (t.exit i).batch = [] ∧ (t.exit i).held = [] ∧ t.hub.rowMeta.val a [] = ms ∧ t.window c n = (s.window c n).drop 1) ∧
      (x.free = 0 → lxHold cfg = 0 → s.exitFate i = 2 → ∃ (t : State) (r : Row), exec (.exitRowComplete i) s = .next t ∧
        Row0 r ∧ (t.exit i).blocked = some r ∧ (t.exit i).batch = [] ∧ t.hub.rowMeta.val a [] = ms ∧
        t.window c n = s.window c n)) ∧
    (x.batch = [] → exec (.batchwaitExpiry i) s = .next s) ∧
    (x.batch ≠ [] → ∃ t : State, exec (.batchwaitExpiry i) s = .next t ∧ (t.exit i).batch = [] ∧
      (t.exit i).closed = x.closed ++ [{ seq := x.seq, rows := x.batch, pitch := lxPitch cfg, per := lxRows cfg, core := c,
                                         win := n }] ∧
      (t.exit i).seq = (x.seq + 1) % 65536 ∧ (t.exit i).free = x.free - 1 ∧ t.agenda = s.agenda ++ [.batchDeliver i]) ∧
    (s.hub.rowMeta.val a [] = [] → exec (.metadataTimeout i) s = .next s) ∧
    (∀ m ms, s.hub.rowMeta.val a [] = m :: ms → ∃ t : State, exec (.metadataTimeout i) s = .next t ∧
      t.hub.rowMeta.val a [] = ms ∧ bitOf (t.lxdst i) 0 = true ∧ t.window c n = (s.window c n).drop 1) ∧
    (x.closed = [] → exec (.batchDeliver i) s = .next s) ∧
    (∀ b rest, x.closed = b :: rest →
      let win := s.window b.core b.win
      let k := (win.head + win.filled) % swSlots win.cfg
      let place := swBase win.cfg + k * swSize win.cfg
      (bitOf win.cfg 63 = false ∨ win.free = 0 ∨ (s.core b.core).lmWiping place (swSize win.cfg) = true →
        exec (.batchDeliver i) s = .next s) ∧
      (bitOf win.cfg 63 = true → 1 ≤ win.free → (s.core b.core).lmWiping place (swSize win.cfg) = false →
        (lmOwned (s.part win.owner).banks place (swSize win.cfg) = false ∨ (s.core b.core).lmFenced place (swSize win.cfg) = true →
          ∃ t : State, exec (.batchDeliver i) s = .next t ∧ (t.exit i).closed = rest ∧
            t.window b.core b.win = win.drop b.rows.length ∧ (t.core b.core).lm = (s.core b.core).lm ∧
            t.later = s.later ++ [.freeCountUpdate i]) ∧
        (lmOwned (s.part win.owner).banks place (swSize win.cfg) = true → (s.core b.core).lmFenced place (swSize win.cfg) = false →
          s.away win.owner = false →
          ∃ (t : State) (d : Word), exec (.batchDeliver i) s = .next t ∧
            (t.exit i).closed = rest ∧ (t.window b.core b.win).filled = win.filled + 1 ∧
            (t.window b.core b.win).free = win.free - 1 ∧ (t.window b.core b.win).dropped = 0 ∧
            let gs := b.core * 16 + swCslot win.cfg
            (t.slot gs).q5 = (s.slot gs).q5 ++ [d] ∧
            ∀ r rs, b.rows = r :: rs → r.info.stamp < 2 ^ 32 → b.seq < 2 ^ 16 → b.win < 8 → fld d 63 59 = b.win ∧
              fld d 58 55 = k ∧ fld d 47 16 = r.info.stamp ∧ fld d 15 0 = b.seq))) ∧
    (let f := (s.window c n).free - (x.closed.filter (fun b => decide (b.core = c ∧ b.win = n))).length
     (x.held = [] → x.blocked = none → exec (.freeCountUpdate i) s = .next (s.setExit i { x with free := f })) ∧
     (∀ r, x.held = [r] → x.blocked = none → x.batch = [] → 1 ≤ f → lxRows cfg ≠ 1 →
       ∃ t : State, exec (.freeCountUpdate i) s = .next t ∧ (t.exit i).held = [] ∧ (t.exit i).batch = [r] ∧
         (t.exit i).free = f)))


/-! ## Movement: Carter, Piste, messages, trees, tiles, engines -/

/-- R123, R126, R127: a Carter with an empty queue, of a parked slot or with a held head moves nothing but the place of its
round. A chunk of a pattern fill into the own LM lands at most up to the next 64-byte line, is debited, and the command
goes on or is done; a debit that the object cannot bear holds it with code 5; a source row outside the owned banks holds
it with code 2 and nothing landed. Readings of the model's own: log entries 22, 23, 87 and 104. -/
def Sys2Proof.Claims.CarterChunks : Prop :=
  ∀ (s : State) (gs : Nat), let x := s.slot gs
    let core := gs / 16
    let s1 := s.setCore core { s.core core with cpLast := gs % 16 }
    (x.cp.queue = [] → exec (.carterChunk gs) s = .next s1) ∧
    (∀ why, x.run = .parked why → exec (.carterChunk gs) s = .next s1) ∧
    (∀ c l, x.cp.queue = c :: l → (∀ why, x.run ≠ .parked why) →
      (c.held = true → exec (.carterChunk gs) s = .next s1) ∧
      (c.held = false → c.rows ≤ c.row → exec (.carterChunk gs) s = .next (s1.cpDone gs)) ∧
      (c.held = false → c.row < c.rows → c.kind = .fillL → c.tagen = false →
        let n := min (c.rowlen - c.col) (64 - ((c.dstRow c.row + c.col) % 64).toNat)
        ∀ o : Nat, c.dstRow c.row + c.col = o → (s.core core).health.gone = false →
        lmOwned (s.part x.part).banks o n = true → (s.core core).lmWiping o n = false →
        (s.core core).lmStoreError o n = none →
        let bytes := (List.range n).map (fun i => BitVec.ofNat 8 (c.b.toNat / 2 ^ (8 * ((o + i) % 8))))
        let u := s1.setCore core ((s1.core core).lmStore o bytes)
        let v := ((u.setSlot gs (u.slot gs)).forgetWalks gs (fun k => decide (k = .carter))).barDebit c.barKey n
        let d := c.advance n
        let w := v.1.setCp gs (fun q => { q with queue := d :: q.queue.tail })
        (v.2 = true → exec (.carterChunk gs) s = .next (if d.row = d.rows then w.cpDone gs else w)) ∧
        (v.2 = false → exec (.carterChunk gs) s = .next ((w.cpHold gs d 5 15
          (if d.row = d.rows then 0 else BitVec.ofInt 64 (d.dstRow d.row + d.col))).signal gs))) ∧
      (c.held = false → c.row < c.rows → (c.kind = .l2g ∨ c.kind = .l2l) → ∀ o : Nat, c.srcRow c.row + c.col = o →
        lmOwned (s.part x.part).banks o (c.chunk 64) = false → ∃ t : State, exec (.carterChunk gs) s = .next t ∧
          (t.slot gs).cp.queue = { c with held := true } :: l ∧ (t.slot gs).cp.code = 2 ∧
          (t.slot gs).deferred = x.deferred ++ [c.fault 2 7 (BitVec.ofNat 64 o)] ∧ t.mem = s.mem)) ∧
    (∀ c l, x.cp.queue = c :: l → ∀ t : State, t = s.cpDone gs → (t.slot gs).cp.queue = l)

/-- R130, R131, R134, R136 to R138: an injection entry that is not valid or forwards nothing injects nothing; one whose
source is a queue takes its oldest word, which reaches the neighbour after the link's time, or sends a word with V = 0
while the queue is empty. A word that arrives where no entry is valid is dropped and counted; one for a queue with room
joins it; one for the local memory is written in the next cycle, and one for a fenced bank is dropped and counted.
Readings of the model's own: log entries 2, 26, 87, 104 and 105. -/
def Sys2Proof.Claims.PisteWords : Prop :=
  (∀ (s : State) (core : Nat), let k := (s.core core).routeSettle s.now
    let e := k.route.val (s.now % 64) RteEntry.reset
    (bitOf e.val 63 = false ∨ fld e.val 62 60 = 0 → exec (.pisteInject core) s = .next (s.setCore core k)) ∧
    (∀ n, bitOf e.val 63 = true → fld e.val 62 60 ≠ 0 → fld e.val 3 2 = 0 → neighbour core (fld e.val 62 60) = some n →
      n ≠ core →
      let gs := core * 16 + fld e.val 7 4
      let q := fld e.val 1 0
      (∀ w ws, (s.slot gs).outq[q]! = w :: ws → ∃ (t : State) (p : PisteWord), exec (.pisteInject core) s = .next t ∧
        (t.slot gs).outq[q]! = ws ∧ (t.core n).piste = (s.core n).piste ++ [p] ∧ p.valid = true ∧
        p.data.toNat % 2 ^ 64 = w.val.toNat ∧ p.nxm = (s.slot gs).nxm ∧ p.fmt = w.fmt ∧ p.src = core ∧
        p.cycle = s.now + linkTime core n ∧ p.link = opposite (fld e.val 62 60)) ∧
      ((s.slot gs).outq[q]! = [] → ∃ (t : State) (p : PisteWord), exec (.pisteInject core) s = .next t ∧
        (t.core n).piste = (s.core n).piste ++ [p] ∧ p.valid = false ∧ p.cycle = s.now + linkTime core n))) ∧
  (∀ (s : State) (core link : Nat),
    ((∀ w ∈ (s.core core).piste, w.link ≠ link ∨ s.now < w.cycle) → exec (.pisteArrival core link) s = .next s) ∧
    (∀ w l, (s.core core).piste = w :: l → w.link = link → w.cycle ≤ s.now →
      let e := ((s.core core).routeSettle w.cycle).route.val (link * 64 + w.cycle % 64) RteEntry.reset
      let gs := core * 16 + fld e.val 57 54
      let x := s.slot gs
      (bitOf e.val 63 = false → ∃ t : State, exec (.pisteArrival core link) s = .next t ∧ (t.core core).piste = l ∧
        (t.core core).pistStray = min 65535 ((s.core core).pistStray + 1)) ∧
      (bitOf e.val 63 = true → fld e.val 62 60 = 0 → w.valid = true →
        (fld e.val 59 58 = 1 → let q := fld e.val 53 52
          (x.inq[q]!).length < 4 → ∃ t : State, exec (.pisteArrival core link) s = .next t ∧ (t.core core).piste = l ∧
            (t.slot gs).inq[q]! = x.inq[q]! ++ [{ val := BitVec.ofNat 64 w.data.toNat, nxm := w.nxm, fmt := w.fmt }]) ∧
        (fld e.val 59 58 = 2 → lmOwned (s.part x.part).banks e.ptr 32 = true → w.nxm = x.nxm →
          (fld e.val 28 25 = 0 ∨ w.fmt = fld e.val 28 25) → e.ptr % 256 ≠ 224 → (s.core core).lmFenced e.ptr 32 = false →
          let bs := (bytesOf 32 w.data.toNat).take ((w.cp.map (fun c => c.2.2)).getD 32)
          ∃ t : State, exec (.pisteArrival core link) s = .next t ∧ (t.core core).piste = l ∧
            (t.core core).landing = (s.core core).landing ++
              [{ cycle := w.cycle + 1, bytes := some (e.ptr, bs), tag := none, cp := w.cp }] ∧
            (t.core core).lm = (s.core core).lm) ∧
        (fld e.val 59 58 = 2 → lmOwned (s.part x.part).banks e.ptr 32 = true → (s.core core).lmFenced e.ptr 32 = true →
          e.ptr % 256 ≠ 224 → ∃ t : State, exec (.pisteArrival core link) s = .next t ∧ (t.core core).piste = l ∧
            (t.core core).pistIllegal = min 255 ((s.core core).pistIllegal + 1) ∧
            (t.core core).landing = (s.core core).landing ∧ (t.core core).lm = (s.core core).lm))))

/-- Carter chunks and Piste words: `CarterChunks` and `PisteWords` together. -/
def Obligations.MoverSteps : Prop := Claims.CarterChunks ∧ Claims.PisteWords

/-- R143, R144: the checks of a message at its destination in their order; a delivered message stands last in the inbox with
its sender as peer; one that comes before an earlier one is turned back as a refused one is; a bounced one turns round,
and so does one refused for 4,096 cycles; a bounce enters its sender's inbox, and waits while that is full. Readings of
the model's own: log entries 25, 86 and 88. -/
def Sys2Proof.Claims.MessageDelivery : Prop :=
  (∀ (s : State) (f : Flight), let dst := f.dstCore * 16 + f.dstSlot
    let x := s.slotFor f.part dst
    ((s.core f.dstCore).health.gone = true → s.verdict f = .bounce 3) ∧
    ((s.core f.dstCore).health.gone = false → (s.inCoreSet f.part f.dstCore = false ∨
      (s.part f.part).slotMask.testBit f.dstSlot = false) → s.verdict f = .bounce 2) ∧
    ((s.core f.dstCore).health.gone = false → s.inCoreSet f.part f.dstCore = true →
      (s.part f.part).slotMask.testBit f.dstSlot = true → (∀ k ∈ (s.slot dst).task, k.part = f.part) →
      (x.holds = false ∨ x.tin ≠ f.msg.tin → s.verdict f = .bounce 1) ∧
      (x.holds = true → x.tin = f.msg.tin →
        (x.inbox.length < 8 → s.verdict f = .deliver) ∧ (8 ≤ x.inbox.length → s.verdict f = .refuse)))) ∧
  (∀ (s : State) (gs : Nat), (s.nextMessage gs = none → exec (.messageArrival gs) s = .next s) ∧
    (∀ i f, s.nextMessage gs = some (i, f) →
      ((s.slot gs).heldBack i f = true → exec (.messageArrival gs) s =
        .next (s.setFlight gs i { f with pos := .sender, halves := 0 })) ∧
      ((s.slot gs).heldBack i f = false →
        (s.verdict f = .deliver → s.saved.seek f.part = none → ∃ (t : State) (m : Message),
          exec (.messageArrival gs) s = .next t ∧
          (t.slot (f.dstCore * 16 + f.dstSlot)).inbox = (s.slot (f.dstCore * 16 + f.dstSlot)).inbox ++ [m] ∧
          m.core = gs / 16 ∧ m.slot = gs % 16 ∧ m.tin = f.fromTin ∧ m.reason = 0 ∧ m.words = f.msg.words ∧
          m.utag = f.msg.utag ∧ m.fmt = f.msg.fmt ∧ m.nxm = f.msg.nxm) ∧
        (∀ r, s.verdict f = .bounce r → exec (.messageArrival gs) s = .next (s.setFlight gs i { f with
          msg := { f.msg with reason := r }, halves := 0
          pos := if f.pos = .sender then .senderBounce else .destBounce })) ∧
        (s.verdict f = .refuse → exec (.messageArrival gs) s = .next (s.setFlight gs i { f with
          pos := .sender, halves := 0, firstRefusal := some (f.firstRefusal.getD s.now) })))) ∧
    (s.timedOut gs = none → exec (.messageTimeout gs) s = .next s) ∧
    (∀ i f, s.timedOut gs = some (i, f) → exec (.messageTimeout gs) s =
      .next (s.setFlight gs i { f with msg := { f.msg with reason := 4 }, pos := .senderBounce, halves := 0 }) ∧
      ∃ c, f.firstRefusal = some c ∧ c + 4096 ≤ s.now) ∧
    (s.nextBounce gs = none → exec (.bounceArrival gs) s = .next s) ∧
    (∀ i f, s.nextBounce gs = some (i, f) → s.saved.seek f.part = none → (s.slot gs).tin = f.fromTin →
      (s.slot gs).part = f.part → (s.slot gs).holds = true →
      ((s.slot gs).inbox.length < 8 → ∃ t : State, exec (.bounceArrival gs) s = .next t ∧
        (t.slot gs).inbox = (s.slot gs).inbox ++ [f.msg] ∧ (t.slot gs).flights = (s.slot gs).flights.eraseIdx i) ∧
      (8 ≤ (s.slot gs).inbox.length → exec (.bounceArrival gs) s =
        .next (s.setFlight gs i { f with pos := .senderBounce }))))

/-- R148, R149, R151, R278, R287, R263, R289, R401, R469: a packet for a node that has no such child counts in TREEBAD; the
first packet of a side is kept and starts the timer; a root that times out delivers what it has. A ring tile that stands
at its destination fills the latch's first free bank. A matrix step's elements are written as a whole. A parked slot's
engines stand; a start that would wait stays at the head of its queue, one that completes leaves it and is charged, one
that faults parks the slot, and one that meets an uncorrectable register word kills it; a fault and a kill wait for the
window of the slot's AMO. Readings of the model's own: log entries 27, 28, 29, 30, 84, 85 and 103. -/
def Sys2Proof.Claims.TreesTilesEngines : Prop :=
  (∀ (s : State) (core : Nat) (p : RedPacket), let n := (s.core core).tree p.tree
    (bitOf n.entry 63 = false → exec (.treePacketArrival core p) s =
      .next ({ s with later := s.later ++ [Event.treeTimeout p.src p.tree] }.setTree core p.tree
        { n with treebad := min 65535 (n.treebad + 1) })) ∧
    (bitOf n.entry 63 = true → treeHasL n.entry = true → treeLeft n.entry = p.src → p.epoch = n.epoch → n.epoch < 65536 →
      n.left = none → treeHasR n.entry = true → n.right = none → n.frozen = false → exec (.treePacketArrival core p) s =
        .next (s.setTree core p.tree { n with
          left := some p, firstLanes := some (n.firstLanes.getD p.lanes), timer := some (n.timer.getD s.now) }))) ∧
  (∀ (s : State) (core tree : Nat), let n := (s.core core).tree tree
    ((n.timer = none ∨ ∃ c, n.timer = some c ∧ s.now < c + 256 * 2 ^ fld n.entry 22 19) → n.frozen = false →
      n.parts.all Option.isSome = false → exec (.treeTimeout core tree) s = .next s) ∧
    (n.frozen = true → s.mayDeliver core tree = false → exec (.treeTimeout core tree) s = .next s) ∧
    (∀ c, n.timer = some c → c + 256 * 2 ^ fld n.entry 22 19 ≤ s.now → bitOf n.entry 63 = true → n.frozen = false →
      treeRoot n.entry = true → n.result = none → n.early = [] →
      ∃ (t : State) (r : TreeResult), exec (.treeTimeout core tree) s = .next t ∧
        ((t.core core).tree tree).result = some r ∧ r.epoch = n.epoch ∧ r.data = (n.combine tree core).1.data ∧
        ((t.core core).tree tree).epoch = (n.epoch + 1) % 65536 ∧ ((t.core core).tree tree).timer = none) ∧
    (∀ c, n.timer = some c → c + 256 * 2 ^ fld n.entry 22 19 ≤ s.now → bitOf n.entry 63 = true → n.frozen = false →
      treeRoot n.entry = false → s.mayDeliver core tree = true → n.early = [] →
      ∃ t : State, exec (.treeTimeout core tree) s = .next t ∧
        .treePacketArrival (treeParent n.entry) (n.combine tree core).1 ∈ t.later ∧
        ((t.core core).tree tree).epoch = (n.epoch + 1) % 65536 ∧ ((t.core core).tree tree).timer = none)) ∧
  (∀ (s : State) (core src : Nat),
    ((s.core src).latch.sending = none → exec (.ringTileArrival core src) s = .next s) ∧
    (∀ x, (s.core src).latch.sending = some x →
      (x.dest ≠ core ∨ (x.plan = true ∧ x.got < x.tile.words) → exec (.ringTileArrival core src) s = .next s) ∧
      (∀ g h, x.dest = core → (x.plan = false ∨ x.tile.words ≤ x.got) → (s.core src).latch.holder = some g → core ≠ src →
        s.tileFor core src (s.slot (src * 16 + g)).part = some h → s.tileSpills core h = false →
        (s.core core).latch.bank0 = none → (s.core core).spill = [] → ∃ t : State,
          exec (.ringTileArrival core src) s = .next t ∧
          (t.core core).latch.bank0 = some x.tile ∧ (t.core src).latch.sending = none ∧
          (t.core src).latch.outstanding = (s.core src).latch.outstanding - 1 ∧
          (t.core core).latch.bank1 = (s.core core).latch.bank1))) ∧
  (∀ (s : State) (core : Nat), ((s.core core).matrix = [] → exec (.matrixStepComplete core) s = .next s) ∧
    ∀ (w : MatrixWrite) (ws : List MatrixWrite), (s.core core).matrix = w :: ws →
      w.elems.length = 1024 → ∃ t : State, exec (.matrixStepComplete core) s = .next t ∧ (t.core core).matrix = ws ∧
        (t.core core).tile w.acc = w.elems ∧ ∀ a, a ≠ w.acc → (t.core core).tile a = (s.core core).tile a) ∧
  (∀ (s : State) (gs : Nat), let x := s.slot gs
    (∀ why, x.run = .parked why → exec (.engineTurn gs) s = .next s ∧ exec (.treadleReplayIssue gs) s = .next s) ∧
    (x.engq = [] → exec (.engineTurn gs) s = .next s) ∧
    (x.tr.active = false ∨ x.engq ≠ [] → exec (.treadleReplayIssue gs) s = .next s) ∧
    ((∀ why, x.run ≠ .parked why) → ∀ e l start, x.engq = e :: l → startOf e.instr = some start →
      ((s.core (gs / 16)).unitsBad (gs % 16) (startUnits e.instr) = true →
        (s.amoOpen gs = true → exec (.engineTurn gs) s = .next s) ∧
        (s.amoOpen gs = false → exec (.engineTurn gs) s =
          .next ((s.slotRecord gs signatureFault e.pc false [(32, bytesOf 8 x.pc)]).kill gs fcSignature))) ∧
      ((s.core (gs / 16)).unitsBad (gs % 16) (startUnits e.instr) = false →
        let u := (s.engineOf gs false).withBanks (gs / 16) e.banks
        let tb := (s.core (gs / 16)).tb
        (∀ y k, start e.srcs u = .error (.wait y k) → let v := k (s.engineOf gs false)
          exec (.engineTurn gs) s =
            .next { v.setCore (gs / 16) { v.core (gs / 16) with tb := tb } with cur := s.cur, iss := s.iss }) ∧
        (∀ t, start e.srcs u = .ok ((), t) →
          let v : State := { t.setCore (gs / 16)
            ({ t.core (gs / 16) with tb := tb }.unitsWritten (gs % 16) (wroteUnits e.instr)) with cur := s.cur, iss := s.iss }
          let y := v.slot gs
          exec (.engineTurn gs) s = .next ((v.setSlot gs { y with
            engq := y.engq.tail, walked := y.walked.filter (fun w => !decide (w.kind = .engine)) }).charge gs)) ∧
        (∀ f k, start e.srcs u = .error (.fault f k) →
          (s.amoOpen gs = true → exec (.engineTurn gs) s = .next s) ∧
          (s.amoOpen gs = false → ∃ t : State, exec (.engineTurn gs) s = .next t ∧
            (t.slot gs).run = .parked .fault ∧ (t.slot gs).engq = e :: l ∧ t.fqWait.length = s.fqWait.length + 1)))) ∧
    ((∀ why, x.run ≠ .parked why) → x.tr.active = true → x.engq = [] → ∀ b, x.tr.buf[x.tr.j]? = some b →
      let u := s.engineOf gs true
      let i := renamed (x.tr.p * x.tr.stride) b.instr
      ((s.core (gs / 16)).unitsBad (gs % 16) (startUnits i) = true → s.amoOpen gs = false →
        exec (.treadleReplayIssue gs) s = .next ((s.slotRecord gs signatureFault b.pc false
          [(32, bytesOf 8 (b.pc + 2 * b.words.length))]).kill gs fcSignature)) ∧
      ((s.core (gs / 16)).unitsBad (gs % 16) (startUnits i) = false →
        (∀ y k, replayOp u = .error (.wait y k) → exec (.treadleReplayIssue gs) s =
          .next { k u with cur := s.cur, iss := s.iss }) ∧
        (∀ t, replayOp u = .ok ((), t) →
          let v : State := { t.setCore (gs / 16) ((t.core (gs / 16)).unitsWritten (gs % 16) (wroteUnits i)) with
                             cur := s.cur, iss := s.iss }
          let y := v.slot gs
          exec (.treadleReplayIssue gs) s = .next ((v.setSlot gs { y with
            walked := y.walked.filter (fun w => !decide (w.kind = .engine)) }).charge gs)) ∧
        (∀ f k, replayOp u = .error (.fault f k) →
          (s.amoOpen gs = true → exec (.treadleReplayIssue gs) s = .next s) ∧
          (s.amoOpen gs = false → ∃ t : State, exec (.treadleReplayIssue gs) s = .next t ∧
            (t.slot gs).run = .parked .fault ∧ t.fqWait.length = s.fqWait.length + 1)))))

/-- Messages, trees, tiles and engines in motion: `MessageDelivery` and `TreesTilesEngines` together. -/
def Obligations.DeliverySteps : Prop := Claims.MessageDelivery ∧ Claims.TreesTilesEngines

/-! ## The whole machine -/

/-- R24, R60, R68, R118, R178, R377, R465: right after reset every slot stands parked with no thread, every byte of memory
and of local memory is zero and none is poisoned or in error, every decode table bank is sealed with the ROM table of
its number, P0 is enabled with all 256 cores and every slot and bank and no other partition is, no gate is valid, the
split lies at 32, the mean decode time reads 64, and the fault queues are empty. Readings of the model's own: log
entries 1 and 5. -/
def Obligations.ResetState : Prop :=
  (∀ gs, (State.reset.slot gs).run = .parked .noThread ∧ (State.reset.slot gs).task = none ∧
    (State.reset.slot gs).handler = false ∧ (State.reset.slot gs).inbox = []) ∧
  (∀ key, memByte State.reset.mem key = 0 ∧ State.reset.isPoisoned key = false) ∧
  (∀ c o n, (State.reset.core c).lmBytes o n = List.replicate n 0 ∧ (State.reset.core c).lmError o n = none ∧
    (State.reset.core c).tag o = 0) ∧
  (∀ c b, ((State.reset.core c).tb.val b (TBank.reset b)).st = .sealed ∧
    ((State.reset.core c).tb.val b (TBank.reset b)).rom = b) ∧
  (State.reset.part 0).w0 = 0xA000FFFFFFFFFFFF ∧ (∀ p, p ≠ 0 → bitOf (State.reset.part p).w0 63 = false) ∧
  (∀ n, (State.reset.gate n).valid = false) ∧ State.reset.hub.split = 32 ∧ (∀ p, (State.reset.sensor p).mean = 64) ∧
  State.reset.fqWait = [] ∧ State.reset.hub.safe = none ∧ State.reset.agenda = []

/-- R185 to R202: words written out from the encoding tables decode to the instructions that they stand for: one of each
format and page, with prefixes in their order; a chain that a table leaves empty is refused by name. -/
def Obligations.DecodedWords : Prop :=
  (decodeWords [0x02B5#16]).toOption.map (·.instr) = some (.and 2 5 5) ∧
  (decodeWords [0x02A5#16]).toOption.map (·.instr) = some (.add 2 5 5) ∧
  (decodeWords [0x2B7F#16]).toOption.map (·.instr) = some (.addi 3 3 (-1)) ∧
  (decodeWords [0xF801#16, 0x3103#16]).toOption.map (·.instr) = some (.movi 1 35) ∧
  (decodeWords [0xFB00#16, 0x0041#16]).toOption.map (·.instr) = some (.add 16 2 1) ∧
  (decodeWords [0xFC20#16, 0x5141#16]).toOption.map (·.instr) = some (.cmp .eq 1 2 1) ∧
  (decodeWords [0xFC40#16, 0x9843#16]).toOption.map (·.instr) = none ∧
  (decodeWords [0xFD40#16, 0x2000#16]).toOption.map (·.instr) = some .eret ∧
  (decodeWords [0xFC80#16, 0x0018#16]).toOption.map (·.instr) = some (.vFma 0 0 0) ∧
  (decodeWords [0xFCE0#16, 0x0818#16]).toOption.map (·.instr) = some .cpAbort ∧
  (decodeWords [0xFD00#16, 0x0920#16]).toOption.map (·.instr) = none ∧
  (decodeWords [0xFD00#16, 0x0900#16]).toOption.map (·.instr) = some (.tstat 1)

/-- R198, R202: a well-formed instruction's words decode to it again, with every operand at every value that its encoding
admits, as a chain of their length; and what the decoder gives is well formed. Readings of the model's own: log entry
12. -/
def Obligations.DecodeOfEncode : Prop :=
  (∀ i : Instr, i.wf = true → ownWords i = true →
    ∃ f : Fold, decodeWords (encode i) = .ok { instr := i, fold := f, len := 2 * (encode i).length } ∧ f.guard = none) ∧
  (∀ (ws : List Half) (c : Chain), decodeWords ws = .ok c → c.instr.wf = true)

/-- R191, R192, R401: a step with an agent due runs that agent's step; one with none due issues at the next turn: the chain
fetched at the PC, its prefix words and the word after them, is decoded and run as its instruction by the slot whose
turn it is, with the latch set for it; a guard that fails completes it with no effect, and one that reads an
uncorrectable register word raises `SIGNATURE`. With no turn left the cycle goes on to its next phase. Readings of the
model's own: log entry 79. -/
def Obligations.StepRunsDecoded : Prop :=
  (∀ (s : State) (e : Event) (es : List Event), s.agenda = e :: es → step s = runEvent e { s with agenda := es }) ∧
  (∀ (s t : State) (p : Nat) (ws : List Half) (c : Chain), s.agenda = [] → s.hub.safe = none → s.phase = .issue →
    s.nextIssue = some p →
    let gs := s.turnSlot (p / 16) (p % 16)
    let u : State := { s with cur := gs }
    Fetches u u.me.pc 0 ws t → ws.length ≤ 5 →
    (∀ k h, ws[k]? = some h → (isPrefix h = true ↔ k + 1 < ws.length)) → decodeWords ws = .ok c →
    let guard := condUnits (c.fold.guard.toList.map (·.cond))
    let after := fun v : State => (v.stopNow gs).afterIssue p (s.slot gs).waits
    let l := fun sig : SigState => t.latch ws (isBlockEnder c.instr) sig
    (∀ (sig : SigState) (v : State), t.me.issues c = .run sig → t.unitsBad (guard ++ issueUnits c.instr) = false →
      exec c.instr (l sig) = .next v → step s = .next (after
        (if (t.core t.myCore).regBad = [] ∨ (startOf c.instr).isSome = true then v
         else ({ v with cur := t.cur } : State).unitsWritten c.instr))) ∧
    (∀ sig : SigState, t.me.issues c = .skip sig → t.unitsBad guard = false → step s = .next (after (l sig).commit)) ∧
    (∀ sig : SigState, (t.me.issues c = .run sig ∧ t.unitsBad (guard ++ issueUnits c.instr) = true) ∨
        (t.me.issues c = .skip sig ∧ t.unitsBad guard = true) →
      step s = .next (after ((l t.me.sig).takeFault signatureFault)))) ∧
  (∀ s : State, s.agenda = [] → s.hub.safe = none → (s.phase ≠ .issue ∨ s.nextIssue = none) → step s = .next s.nextPhase) ∧
  (∀ (x : Slot) (c : Chain), x.directions c.instr = true → (isSupervisor c.instr = true → x.priv = true) →
    (c.instr = .eret → x.handler = true) → bitOf x.sw 9 = false → x.tr.capture = 0 → c.fold.guard = none →
    x.issues c = .run x.sig) ∧
  (∀ (s : State) (ws : List Half) (ender : Bool) (sig : SigState), let t := s.latch ws ender sig
    t.me = s.me ∧ t.mem = s.mem ∧ t.iss.npc = s.me.pc + 2 * ws.length ∧ t.iss.len = 2 * ws.length ∧ t.iss.charge = !s.me.paid)

/-- R390 to R393, R428: every instruction and every agent's step, in every state, ends in a next state: an instruction that
the specification lets fault takes its fault, and one that must wait waits. In the safe report state, with every due
step done, time alone goes on. Readings of the model's own: log entries 9, 68 and 89. -/
def Obligations.NothingStops : Prop :=
  (∀ (i : Instr) (s : State), ∃ t, exec i s = .next t) ∧ (∀ s : State, ∃ t, step s = .next t) ∧
  (∀ s : State, s.agenda = [] → s.hub.safe ≠ none → step s = .next { s with now := s.now + 1 })

/-- R68: the bytes of memory keep their canonical form, addresses strictly rising and no zero byte listed, in every step of
the part. The form is the model's own. Readings of the model's own: log entry 5. -/
def Obligations.MemoryStaysCanonical : Prop := ∀ s t : State, Canonical s → step s = .next t → Canonical t

/-- The operations on bytes: each keeps the canonical form, a byte written reads back, and every other byte reads as before;
reset memory has the form. Readings of the model's own: log entry 5. -/
def Sys2Proof.Claims.MemoryBytes : Prop :=
  Canonical State.reset ∧
  (∀ (m : List Host.Cell) (a : Nat) (b : Byte), Memory.wf m = true →
    Memory.wf (memPut m a b) = true ∧ memByte (memPut m a b) a = b ∧ ∀ x, x ≠ a → memByte (memPut m a b) x = memByte m x) ∧
  (∀ (m : List Host.Cell) (a : Nat) (bs : List Byte), Memory.wf m = true →
    Memory.wf (memWrite m a bs) = true ∧ memBytes (memWrite m a bs) a bs.length = bs ∧
    ∀ x, (x < a ∨ a + bs.length ≤ x) → memByte (memWrite m a bs) x = memByte m x) ∧
  (∀ (m : List Host.Cell) (f : Nat → Bool), Memory.wf m = true → Memory.wf (m.filter (fun e => f e.1)) = true) ∧
  (∀ m n : List Host.Cell, Memory.wf m = true → Memory.wf n = true → (∀ a, memByte m a = memByte n a) → m = n)

/-- R154 to R156, R173, R295: operands that are general registers are always ready and are read as they stand; a queue gives
its oldest word and loses it, and an empty one makes the instruction wait; a written general register alone changes, and
a written queue gains the word at its end; q6 is not read and q5 and q7 are not written. Readings of the model's own:
log entries 9 and 10. -/
def Sys2Proof.Claims.ScalarOperands : Prop :=
  (∀ (s : State) (rs ws : List Nat), (∀ r ∈ rs, r < 24) → (∀ w ∈ ws, w < 24) → (∀ n ∈ rs ++ ws, n ∉ s.me.owed) →
    Takes s rs ws (rs.map (fun r => s.me.g[r]!)) s) ∧
  (∀ (s : State) (k : Nat) (q : QWord) (qs : List QWord), k < 4 → s.me.inq[k]! = q :: qs → q.fmt = 0 →
    24 + k ∉ s.me.owed →
    Takes s [24 + k] [] [q.val] (s.setMe { s.me with inq := s.me.inq.setIfInBounds k qs })) ∧
  (∀ (s : State) (k : Nat), k < 4 → s.me.inq[k]! = [] → ∀ d : Reg, d.val < 24 → ∀ a : Reg, a.val = 24 + k →
    exec (.mov d a) s = .next (s.waiting .retry)) ∧
  (∀ (s : State) (d : Reg), d.val < 24 → s.me.owed = [] → exec (.mov d 30) s = .next (s.takeFault
      { code := 1, addr := 0, loc := false, kind := 0, cause := 0, extra := [] })) ∧
  (∀ (s : State) (a d : Reg), a.val < 24 → (d = 29 ∨ d = 31) → s.me.owed = [] → exec (.mov d a) s = .next (s.takeFault
      { code := 1, addr := 0, loc := false, kind := 0, cause := 0, extra := [] })) ∧
  (∀ (s : State) (n : Nat) (w : Word), n < 24 → (puts s n w).me = { s.me with g := s.me.g.setIfInBounds n w } ∧
    (puts s n w).me.g[n]! = w ∧ (∀ m, m < 24 → m ≠ n → (puts s n w).me.g[m]! = s.me.g[m]!) ∧
    (puts s n w).mem = s.mem ∧ (∀ gs, gs ≠ s.cur → (puts s n w).slot gs = s.slot gs)) ∧
  (∀ (s : State) (k : Nat) (w : Word), k < 4 → (puts s (24 + k) w).me.g = s.me.g ∧
    (puts s (24 + k) w).me.outq[k]! = s.me.outq[k]! ++ [{ val := w, nxm := s.me.nxm, fmt := fld s.me.sw 26 23 }]) ∧
  (∀ (s : State) (w : Word), (puts s 28 w).me = { s.me with outbox := s.me.outbox ++ [w] } ∧
    (puts s 30 w).me = { s.me with q6 := s.me.q6 ++ [w] })

/-- R206 to R216, R390: whatever becomes of it, an instruction that computes from registers alone changes no general register
but its destination, no predicate, vector register, status word or system register, no byte of memory or local memory, and no
other slot; and a compare or predicate instruction changes no general register and no predicate but its own. The slot has no
request at a home slice, as it has none when such an instruction issues. -/
def Sys2Proof.Claims.RegisterFrames : Prop :=
  (∀ (i : Instr) (d : Reg) (s t : State), scalarDest i = some d → s.amoOf s.cur = none → exec i s = .next t →
    (∀ n, n < 24 → n ≠ d.val → t.me.g[n]! = s.me.g[n]!) ∧ t.me.p = s.me.p ∧ t.me.v = s.me.v ∧ t.me.sw = s.me.sw ∧
    t.me.sbase = s.me.sbase ∧ t.me.slim = s.me.slim ∧ t.me.trapv = s.me.trapv ∧ t.me.ptroot = s.me.ptroot ∧
    t.me.wid = s.me.wid ∧ t.me.tin = s.me.tin ∧ t.me.ptag = s.me.ptag ∧ t.me.vbank = s.me.vbank ∧
    t.mem = s.mem ∧ t.poison = s.poison ∧ (∀ c, (t.core c).lm = (s.core c).lm ∧ (t.core c).l1d = (s.core c).l1d) ∧
    ∀ gs, gs ≠ s.cur → t.slot gs = s.slot gs) ∧
  (∀ (i : Instr) (d : PReg) (s t : State), predDest i = some d → s.amoOf s.cur = none → exec i s = .next t →
    t.me.g = s.me.g ∧ (∀ n, n ≠ d.val → t.me.p.getLsbD n = s.me.p.getLsbD n) ∧ t.me.v = s.me.v ∧ t.me.sw = s.me.sw ∧
    t.mem = s.mem ∧ (∀ c, (t.core c).lm = (s.core c).lm) ∧ ∀ gs, gs ≠ s.cur → t.slot gs = s.slot gs)

/-- Scalar operands, and what a register instruction leaves unchanged: `ScalarOperands` and `RegisterFrames` together. -/
def Obligations.RegisterRules : Prop := Claims.ScalarOperands ∧ Claims.RegisterFrames

/-- R93, R114, R118: the bytes of a store within a sector stand in its core's view of memory, and every other byte of memory
does there as before: for a line that the core holds, alone on the home's die, or of another die; for a line of another die that
takes a free way; and for a store at the home of a line that no core tracks. A store to local memory changes the bytes that it
covers and no other. -/
def Sys2Proof.Claims.StoreFrames : Prop :=
  (∀ (s : State) (key : Nat) (bs : List Byte) (cached : Bool) (via : Nat × Word), 0 < bs.length → key % 32 + bs.length ≤ 32 →
    let c := s.myCore
    let sec := key / 32
    let sound := ∀ b ∈ (s.core c).l1dBad, b ≠ sec
    let still := (∀ b ∈ (s.slice (s.homeSlice key)).badData, b ≠ sec) ∧ (isUnbacked key = true ∨ s.holdsLine key = true)
    (cached = true ∧ sound ∧ s.l1 c sec ≠ none ∧ (s.homeDie key ≠ dieOfCore c ∨ (s.dirOf key = .exc (c % 64) ∧ still)) ∨
     cached = true ∧ sound ∧ s.l1 c sec = none ∧ s.homeDie key ≠ dieOfCore c ∧
       (s.atHome s.me.part key).mayCache s.me.part c key = true ∧
       (∃ w ∈ waysIn (s.l1ways s.me.part c % 4096), (s.core c).l1At w (sec % 4096) = none) ∨
     cached = false ∧ s.l1 c sec = none ∧ s.dirOf key = .unc ∧ still) →
    let t := s.storeBytes s.me.part c key cached bs via
    (∀ i, i < bs.length → some (byteSeen t (key + i)) = bs[i]?) ∧
    (∀ k, (k < key ∨ key + bs.length ≤ k) → byteSeen t k = byteSeen s k) ∧
    t.me.g = s.me.g ∧ t.me.p = s.me.p ∧ t.me.v = s.me.v ∧ t.me.sw = s.me.sw) ∧
  (∀ (k : Core) (o : Nat) (bs : List Byte), (k.lmStore o bs).lmBytes o bs.length = bs ∧
    (∀ a n, (a + n ≤ o ∨ o + bs.length ≤ a) → (k.lmStore o bs).lmBytes a n = k.lmBytes a n) ∧
    (k.lmStore o bs).tags = k.tags ∧ (k.lmStore o bs).slots = k.slots)

/-- Bytes of memory, and what a store leaves unchanged: `MemoryBytes` and `StoreFrames` together. -/
def Obligations.StoredBytes : Prop := Claims.MemoryBytes ∧ Claims.StoreFrames
end

