-- ==== Sys2Proof/Laws/Tables.lean ====
section
/-! SUPPORT. Sparse tables: a read after a write of the same key gives what was written, and other keys keep theirs. -/

namespace Sys2Proof

variable {α : Type}

@[simp] theorem SMap.val_nil (k : Nat) (d : α) : SMap.val [] k d = d := rfl

@[simp] theorem SMap.val_put_self (m : SMap α) (k : Nat) (v d : α) : (m.put k v).val k d = v := by
  induction m with
  | nil => simp [SMap.put, SMap.val]
  | cons e m ih =>
    simp only [SMap.put]
    split
    · simp [SMap.val]
    · split
      · simp [SMap.val]
      · rename_i h1 h2
        simp [SMap.val, h2, ih]

theorem SMap.val_put_ne (m : SMap α) {j k : Nat} (v d : α) (h : j ≠ k) : (m.put k v).val j d = m.val j d := by
  induction m with
  | nil => simp [SMap.put, SMap.val, h]
  | cons e m ih =>
    simp only [SMap.put]
    split
    · simp [SMap.val, h]
    · split
      · rename_i h1 h2
        subst h2
        simp [SMap.val, h]
      · simp only [SMap.val, ih]

theorem SMap.val_put (m : SMap α) (j k : Nat) (v d : α) : (m.put k v).val j d = if j = k then v else m.val j d := by
  split
  · subst j; simp
  · exact SMap.val_put_ne m v d ‹_›

@[simp] theorem SMap.seek_put_self (m : SMap α) (k : Nat) (v : α) : (m.put k v).seek k = some v := by
  induction m with
  | nil => simp [SMap.put, SMap.seek]
  | cons e m ih =>
    simp only [SMap.put]
    split
    · simp [SMap.seek]
    · split
      · simp [SMap.seek]
      · rename_i h1 h2
        simp [SMap.seek, h2, ih]

theorem SMap.seek_put_ne (m : SMap α) {j k : Nat} (v : α) (h : j ≠ k) : (m.put k v).seek j = m.seek j := by
  induction m with
  | nil => simp [SMap.put, SMap.seek, h]
  | cons e m ih =>
    simp only [SMap.put]
    split
    · simp [SMap.seek, h]
    · split
      · rename_i h1 h2
        subst h2
        simp [SMap.seek, h]
      · simp only [SMap.seek, ih]

theorem SMap.val_del_ne (m : SMap α) {j k : Nat} (d : α) (h : j ≠ k) : (m.del k).val j d = m.val j d := by
  induction m with
  | nil => rfl
  | cons e m ih =>
    by_cases he : e.1 = k
    · have : j ≠ e.1 := fun hj => h (hj.trans he)
      simp only [SMap.del, List.filter_cons, he, decide_true, Bool.not_true, Bool.false_eq_true, ↓reduceIte] at ih ⊢
      simpa [SMap.val, ← he, this] using ih
    · simp only [SMap.del, List.filter_cons, he, decide_false, Bool.not_false, ↓reduceIte, SMap.val] at ih ⊢
      rw [ih]

@[simp] theorem SMap.val_del_self (m : SMap α) (k : Nat) (d : α) : (m.del k).val k d = d := by
  induction m with
  | nil => rfl
  | cons e m ih =>
    by_cases he : e.1 = k
    · simpa only [SMap.del, List.filter_cons, he, decide_true, Bool.not_true, Bool.false_eq_true, ↓reduceIte] using ih
    · simp only [SMap.del, List.filter_cons, he, decide_false, Bool.not_false, ↓reduceIte, SMap.val] at ih ⊢
      rw [if_neg (fun h => he h.symm), ih]

theorem SMap.seek_del_ne (m : SMap α) {j k : Nat} (h : j ≠ k) : (m.del k).seek j = m.seek j := by
  induction m with
  | nil => rfl
  | cons e m ih =>
    by_cases he : e.1 = k
    · have : j ≠ e.1 := fun hj => h (hj.trans he)
      simp only [SMap.del, List.filter_cons, he, decide_true, Bool.not_true, Bool.false_eq_true, ↓reduceIte] at ih ⊢
      simpa [SMap.seek, ← he, this] using ih
    · simp only [SMap.del, List.filter_cons, he, decide_false, Bool.not_false, ↓reduceIte, SMap.seek] at ih ⊢
      rw [ih]

@[simp] theorem SMap.seek_del_self (m : SMap α) (k : Nat) : (m.del k).seek k = none := by
  induction m with
  | nil => rfl
  | cons e m ih =>
    by_cases he : e.1 = k
    · simpa only [SMap.del, List.filter_cons, he, decide_true, Bool.not_true, Bool.false_eq_true, ↓reduceIte] using ih
    · simp only [SMap.del, List.filter_cons, he, decide_false, Bool.not_false, ↓reduceIte, SMap.seek] at ih ⊢
      rw [if_neg (fun h => he h.symm), ih]

end Sys2Proof
end

