-- ==== Sys2Proof/Laws/State.lean ====
section
/-! SUPPORT. Each field of the state after each replacement of a part of it, and the parts read back. -/

namespace Sys2Proof.Machine

variable (s : State) (c gs n p : Nat) (k : Core) (x : Slot) (y : Slice) (w : PartWords)

@[simp] theorem State.setCore_large : (s.setCore c k).large = s.large := rfl
@[simp] theorem State.setCore_now : (s.setCore c k).now = s.now := rfl
@[simp] theorem State.setCore_turn : (s.setCore c k).turn = s.turn := rfl
@[simp] theorem State.setCore_phase : (s.setCore c k).phase = s.phase := rfl
@[simp] theorem State.setCore_barTouched : (s.setCore c k).barTouched = s.barTouched := rfl
@[simp] theorem State.setCore_agenda : (s.setCore c k).agenda = s.agenda := rfl
@[simp] theorem State.setCore_later : (s.setCore c k).later = s.later := rfl
@[simp] theorem State.setCore_cur : (s.setCore c k).cur = s.cur := rfl
@[simp] theorem State.setCore_iss : (s.setCore c k).iss = s.iss := rfl
@[simp] theorem State.setCore_fresh : (s.setCore c k).fresh = s.fresh := rfl
@[simp] theorem State.setCore_mem : (s.setCore c k).mem = s.mem := rfl
@[simp] theorem State.setCore_poison : (s.setCore c k).poison = s.poison := rfl
@[simp] theorem State.setCore_channels : (s.setCore c k).channels = s.channels := rfl
@[simp] theorem State.setCore_slices : (s.setCore c k).slices = s.slices := rfl
@[simp] theorem State.setCore_tlb : (s.setCore c k).tlb = s.tlb := rfl
@[simp] theorem State.setCore_wcache : (s.setCore c k).wcache = s.wcache := rfl
@[simp] theorem State.setCore_walks : (s.setCore c k).walks = s.walks := rfl
@[simp] theorem State.setCore_shoot : (s.setCore c k).shoot = s.shoot := rfl
@[simp] theorem State.setCore_traced : (s.setCore c k).traced = s.traced := rfl
@[simp] theorem State.setCore_launches : (s.setCore c k).launches = s.launches := rfl
@[simp] theorem State.setCore_residents : (s.setCore c k).residents = s.residents := rfl
@[simp] theorem State.setCore_lanes : (s.setCore c k).lanes = s.lanes := rfl
@[simp] theorem State.setCore_takings : (s.setCore c k).takings = s.takings := rfl
@[simp] theorem State.setCore_marks : (s.setCore c k).marks = s.marks := rfl
@[simp] theorem State.setCore_pushed : (s.setCore c k).pushed = s.pushed := rfl
@[simp] theorem State.setCore_dieTurn : (s.setCore c k).dieTurn = s.dieTurn := rfl
@[simp] theorem State.setCore_lastPart : (s.setCore c k).lastPart = s.lastPart := rfl
@[simp] theorem State.setCore_lastQueue : (s.setCore c k).lastQueue = s.lastQueue := rfl
@[simp] theorem State.setCore_missPosted : (s.setCore c k).missPosted = s.missPosted := rfl
@[simp] theorem State.setCore_replay : (s.setCore c k).replay = s.replay := rfl
@[simp] theorem State.setCore_parts : (s.setCore c k).parts = s.parts := rfl
@[simp] theorem State.setCore_sched : (s.setCore c k).sched = s.sched := rfl
@[simp] theorem State.setCore_saved : (s.setCore c k).saved = s.saved := rfl
@[simp] theorem State.setCore_gates : (s.setCore c k).gates = s.gates := rfl
@[simp] theorem State.setCore_wseq : (s.setCore c k).wseq = s.wseq := rfl
@[simp] theorem State.setCore_fqHead : (s.setCore c k).fqHead = s.fqHead := rfl
@[simp] theorem State.setCore_fqTail : (s.setCore c k).fqTail = s.fqTail := rfl
@[simp] theorem State.setCore_fqWait : (s.setCore c k).fqWait = s.fqWait := rfl
@[simp] theorem State.setCore_deferredEnds : (s.setCore c k).deferredEnds = s.deferredEnds := rfl
@[simp] theorem State.setCore_budgetParked : (s.setCore c k).budgetParked = s.budgetParked := rfl
@[simp] theorem State.setCore_hub : (s.setCore c k).hub = s.hub := rfl

@[simp] theorem State.setSlot_large : (s.setSlot gs x).large = s.large := rfl
@[simp] theorem State.setSlot_now : (s.setSlot gs x).now = s.now := rfl
@[simp] theorem State.setSlot_turn : (s.setSlot gs x).turn = s.turn := rfl
@[simp] theorem State.setSlot_phase : (s.setSlot gs x).phase = s.phase := rfl
@[simp] theorem State.setSlot_barTouched : (s.setSlot gs x).barTouched = s.barTouched := rfl
@[simp] theorem State.setSlot_agenda : (s.setSlot gs x).agenda = s.agenda := rfl
@[simp] theorem State.setSlot_later : (s.setSlot gs x).later = s.later := rfl
@[simp] theorem State.setSlot_cur : (s.setSlot gs x).cur = s.cur := rfl
@[simp] theorem State.setSlot_iss : (s.setSlot gs x).iss = s.iss := rfl
@[simp] theorem State.setSlot_fresh : (s.setSlot gs x).fresh = s.fresh := rfl
@[simp] theorem State.setSlot_mem : (s.setSlot gs x).mem = s.mem := rfl
@[simp] theorem State.setSlot_poison : (s.setSlot gs x).poison = s.poison := rfl
@[simp] theorem State.setSlot_channels : (s.setSlot gs x).channels = s.channels := rfl
@[simp] theorem State.setSlot_slices : (s.setSlot gs x).slices = s.slices := rfl
@[simp] theorem State.setSlot_tlb : (s.setSlot gs x).tlb = s.tlb := rfl
@[simp] theorem State.setSlot_wcache : (s.setSlot gs x).wcache = s.wcache := rfl
@[simp] theorem State.setSlot_walks : (s.setSlot gs x).walks = s.walks := rfl
@[simp] theorem State.setSlot_shoot : (s.setSlot gs x).shoot = s.shoot := rfl
@[simp] theorem State.setSlot_traced : (s.setSlot gs x).traced = s.traced := rfl
@[simp] theorem State.setSlot_launches : (s.setSlot gs x).launches = s.launches := rfl
@[simp] theorem State.setSlot_residents : (s.setSlot gs x).residents = s.residents := rfl
@[simp] theorem State.setSlot_lanes : (s.setSlot gs x).lanes = s.lanes := rfl
@[simp] theorem State.setSlot_takings : (s.setSlot gs x).takings = s.takings := rfl
@[simp] theorem State.setSlot_marks : (s.setSlot gs x).marks = s.marks := rfl
@[simp] theorem State.setSlot_pushed : (s.setSlot gs x).pushed = s.pushed := rfl
@[simp] theorem State.setSlot_dieTurn : (s.setSlot gs x).dieTurn = s.dieTurn := rfl
@[simp] theorem State.setSlot_lastPart : (s.setSlot gs x).lastPart = s.lastPart := rfl
@[simp] theorem State.setSlot_lastQueue : (s.setSlot gs x).lastQueue = s.lastQueue := rfl
@[simp] theorem State.setSlot_missPosted : (s.setSlot gs x).missPosted = s.missPosted := rfl
@[simp] theorem State.setSlot_replay : (s.setSlot gs x).replay = s.replay := rfl
@[simp] theorem State.setSlot_parts : (s.setSlot gs x).parts = s.parts := rfl
@[simp] theorem State.setSlot_sched : (s.setSlot gs x).sched = s.sched := rfl
@[simp] theorem State.setSlot_saved : (s.setSlot gs x).saved = s.saved := rfl
@[simp] theorem State.setSlot_gates : (s.setSlot gs x).gates = s.gates := rfl
@[simp] theorem State.setSlot_wseq : (s.setSlot gs x).wseq = s.wseq := rfl
@[simp] theorem State.setSlot_fqHead : (s.setSlot gs x).fqHead = s.fqHead := rfl
@[simp] theorem State.setSlot_fqTail : (s.setSlot gs x).fqTail = s.fqTail := rfl
@[simp] theorem State.setSlot_fqWait : (s.setSlot gs x).fqWait = s.fqWait := rfl
@[simp] theorem State.setSlot_deferredEnds : (s.setSlot gs x).deferredEnds = s.deferredEnds := rfl
@[simp] theorem State.setSlot_budgetParked : (s.setSlot gs x).budgetParked = s.budgetParked := rfl
@[simp] theorem State.setSlot_hub : (s.setSlot gs x).hub = s.hub := rfl

@[simp] theorem State.setMe_large : (s.setMe x).large = s.large := rfl
@[simp] theorem State.setMe_now : (s.setMe x).now = s.now := rfl
@[simp] theorem State.setMe_turn : (s.setMe x).turn = s.turn := rfl
@[simp] theorem State.setMe_phase : (s.setMe x).phase = s.phase := rfl
@[simp] theorem State.setMe_barTouched : (s.setMe x).barTouched = s.barTouched := rfl
@[simp] theorem State.setMe_agenda : (s.setMe x).agenda = s.agenda := rfl
@[simp] theorem State.setMe_later : (s.setMe x).later = s.later := rfl
@[simp] theorem State.setMe_cur : (s.setMe x).cur = s.cur := rfl
@[simp] theorem State.setMe_iss : (s.setMe x).iss = s.iss := rfl
@[simp] theorem State.setMe_fresh : (s.setMe x).fresh = s.fresh := rfl
@[simp] theorem State.setMe_mem : (s.setMe x).mem = s.mem := rfl
@[simp] theorem State.setMe_poison : (s.setMe x).poison = s.poison := rfl
@[simp] theorem State.setMe_channels : (s.setMe x).channels = s.channels := rfl
@[simp] theorem State.setMe_slices : (s.setMe x).slices = s.slices := rfl
@[simp] theorem State.setMe_tlb : (s.setMe x).tlb = s.tlb := rfl
@[simp] theorem State.setMe_wcache : (s.setMe x).wcache = s.wcache := rfl
@[simp] theorem State.setMe_walks : (s.setMe x).walks = s.walks := rfl
@[simp] theorem State.setMe_shoot : (s.setMe x).shoot = s.shoot := rfl
@[simp] theorem State.setMe_traced : (s.setMe x).traced = s.traced := rfl
@[simp] theorem State.setMe_launches : (s.setMe x).launches = s.launches := rfl
@[simp] theorem State.setMe_residents : (s.setMe x).residents = s.residents := rfl
@[simp] theorem State.setMe_lanes : (s.setMe x).lanes = s.lanes := rfl
@[simp] theorem State.setMe_takings : (s.setMe x).takings = s.takings := rfl
@[simp] theorem State.setMe_marks : (s.setMe x).marks = s.marks := rfl
@[simp] theorem State.setMe_pushed : (s.setMe x).pushed = s.pushed := rfl
@[simp] theorem State.setMe_dieTurn : (s.setMe x).dieTurn = s.dieTurn := rfl
@[simp] theorem State.setMe_lastPart : (s.setMe x).lastPart = s.lastPart := rfl
@[simp] theorem State.setMe_lastQueue : (s.setMe x).lastQueue = s.lastQueue := rfl
@[simp] theorem State.setMe_missPosted : (s.setMe x).missPosted = s.missPosted := rfl
@[simp] theorem State.setMe_replay : (s.setMe x).replay = s.replay := rfl
@[simp] theorem State.setMe_parts : (s.setMe x).parts = s.parts := rfl
@[simp] theorem State.setMe_sched : (s.setMe x).sched = s.sched := rfl
@[simp] theorem State.setMe_saved : (s.setMe x).saved = s.saved := rfl
@[simp] theorem State.setMe_gates : (s.setMe x).gates = s.gates := rfl
@[simp] theorem State.setMe_wseq : (s.setMe x).wseq = s.wseq := rfl
@[simp] theorem State.setMe_fqHead : (s.setMe x).fqHead = s.fqHead := rfl
@[simp] theorem State.setMe_fqTail : (s.setMe x).fqTail = s.fqTail := rfl
@[simp] theorem State.setMe_fqWait : (s.setMe x).fqWait = s.fqWait := rfl
@[simp] theorem State.setMe_deferredEnds : (s.setMe x).deferredEnds = s.deferredEnds := rfl
@[simp] theorem State.setMe_budgetParked : (s.setMe x).budgetParked = s.budgetParked := rfl
@[simp] theorem State.setMe_hub : (s.setMe x).hub = s.hub := rfl

@[simp] theorem State.setSlice_large : (s.setSlice n y).large = s.large := rfl
@[simp] theorem State.setSlice_now : (s.setSlice n y).now = s.now := rfl
@[simp] theorem State.setSlice_turn : (s.setSlice n y).turn = s.turn := rfl
@[simp] theorem State.setSlice_phase : (s.setSlice n y).phase = s.phase := rfl
@[simp] theorem State.setSlice_barTouched : (s.setSlice n y).barTouched = s.barTouched := rfl
@[simp] theorem State.setSlice_agenda : (s.setSlice n y).agenda = s.agenda := rfl
@[simp] theorem State.setSlice_later : (s.setSlice n y).later = s.later := rfl
@[simp] theorem State.setSlice_cur : (s.setSlice n y).cur = s.cur := rfl
@[simp] theorem State.setSlice_iss : (s.setSlice n y).iss = s.iss := rfl
@[simp] theorem State.setSlice_fresh : (s.setSlice n y).fresh = s.fresh := rfl
@[simp] theorem State.setSlice_cores : (s.setSlice n y).cores = s.cores := rfl
@[simp] theorem State.setSlice_mem : (s.setSlice n y).mem = s.mem := rfl
@[simp] theorem State.setSlice_poison : (s.setSlice n y).poison = s.poison := rfl
@[simp] theorem State.setSlice_channels : (s.setSlice n y).channels = s.channels := rfl
@[simp] theorem State.setSlice_tlb : (s.setSlice n y).tlb = s.tlb := rfl
@[simp] theorem State.setSlice_wcache : (s.setSlice n y).wcache = s.wcache := rfl
@[simp] theorem State.setSlice_walks : (s.setSlice n y).walks = s.walks := rfl
@[simp] theorem State.setSlice_shoot : (s.setSlice n y).shoot = s.shoot := rfl
@[simp] theorem State.setSlice_traced : (s.setSlice n y).traced = s.traced := rfl
@[simp] theorem State.setSlice_launches : (s.setSlice n y).launches = s.launches := rfl
@[simp] theorem State.setSlice_residents : (s.setSlice n y).residents = s.residents := rfl
@[simp] theorem State.setSlice_lanes : (s.setSlice n y).lanes = s.lanes := rfl
@[simp] theorem State.setSlice_takings : (s.setSlice n y).takings = s.takings := rfl
@[simp] theorem State.setSlice_marks : (s.setSlice n y).marks = s.marks := rfl
@[simp] theorem State.setSlice_pushed : (s.setSlice n y).pushed = s.pushed := rfl
@[simp] theorem State.setSlice_dieTurn : (s.setSlice n y).dieTurn = s.dieTurn := rfl
@[simp] theorem State.setSlice_lastPart : (s.setSlice n y).lastPart = s.lastPart := rfl
@[simp] theorem State.setSlice_lastQueue : (s.setSlice n y).lastQueue = s.lastQueue := rfl
@[simp] theorem State.setSlice_missPosted : (s.setSlice n y).missPosted = s.missPosted := rfl
@[simp] theorem State.setSlice_replay : (s.setSlice n y).replay = s.replay := rfl
@[simp] theorem State.setSlice_parts : (s.setSlice n y).parts = s.parts := rfl
@[simp] theorem State.setSlice_sched : (s.setSlice n y).sched = s.sched := rfl
@[simp] theorem State.setSlice_saved : (s.setSlice n y).saved = s.saved := rfl
@[simp] theorem State.setSlice_gates : (s.setSlice n y).gates = s.gates := rfl
@[simp] theorem State.setSlice_wseq : (s.setSlice n y).wseq = s.wseq := rfl
@[simp] theorem State.setSlice_fqHead : (s.setSlice n y).fqHead = s.fqHead := rfl
@[simp] theorem State.setSlice_fqTail : (s.setSlice n y).fqTail = s.fqTail := rfl
@[simp] theorem State.setSlice_fqWait : (s.setSlice n y).fqWait = s.fqWait := rfl
@[simp] theorem State.setSlice_deferredEnds : (s.setSlice n y).deferredEnds = s.deferredEnds := rfl
@[simp] theorem State.setSlice_budgetParked : (s.setSlice n y).budgetParked = s.budgetParked := rfl
@[simp] theorem State.setSlice_hub : (s.setSlice n y).hub = s.hub := rfl

@[simp] theorem State.setPart_large : (s.setPart p w).large = s.large := rfl
@[simp] theorem State.setPart_now : (s.setPart p w).now = s.now := rfl
@[simp] theorem State.setPart_turn : (s.setPart p w).turn = s.turn := rfl
@[simp] theorem State.setPart_phase : (s.setPart p w).phase = s.phase := rfl
@[simp] theorem State.setPart_barTouched : (s.setPart p w).barTouched = s.barTouched := rfl
@[simp] theorem State.setPart_agenda : (s.setPart p w).agenda = s.agenda := rfl
@[simp] theorem State.setPart_later : (s.setPart p w).later = s.later := rfl
@[simp] theorem State.setPart_cur : (s.setPart p w).cur = s.cur := rfl
@[simp] theorem State.setPart_iss : (s.setPart p w).iss = s.iss := rfl
@[simp] theorem State.setPart_fresh : (s.setPart p w).fresh = s.fresh := rfl
@[simp] theorem State.setPart_cores : (s.setPart p w).cores = s.cores := rfl
@[simp] theorem State.setPart_mem : (s.setPart p w).mem = s.mem := rfl
@[simp] theorem State.setPart_poison : (s.setPart p w).poison = s.poison := rfl
@[simp] theorem State.setPart_channels : (s.setPart p w).channels = s.channels := rfl
@[simp] theorem State.setPart_slices : (s.setPart p w).slices = s.slices := rfl
@[simp] theorem State.setPart_tlb : (s.setPart p w).tlb = s.tlb := rfl
@[simp] theorem State.setPart_wcache : (s.setPart p w).wcache = s.wcache := rfl
@[simp] theorem State.setPart_walks : (s.setPart p w).walks = s.walks := rfl
@[simp] theorem State.setPart_shoot : (s.setPart p w).shoot = s.shoot := rfl
@[simp] theorem State.setPart_traced : (s.setPart p w).traced = s.traced := rfl
@[simp] theorem State.setPart_launches : (s.setPart p w).launches = s.launches := rfl
@[simp] theorem State.setPart_residents : (s.setPart p w).residents = s.residents := rfl
@[simp] theorem State.setPart_lanes : (s.setPart p w).lanes = s.lanes := rfl
@[simp] theorem State.setPart_takings : (s.setPart p w).takings = s.takings := rfl
@[simp] theorem State.setPart_marks : (s.setPart p w).marks = s.marks := rfl
@[simp] theorem State.setPart_pushed : (s.setPart p w).pushed = s.pushed := rfl
@[simp] theorem State.setPart_dieTurn : (s.setPart p w).dieTurn = s.dieTurn := rfl
@[simp] theorem State.setPart_lastPart : (s.setPart p w).lastPart = s.lastPart := rfl
@[simp] theorem State.setPart_lastQueue : (s.setPart p w).lastQueue = s.lastQueue := rfl
@[simp] theorem State.setPart_missPosted : (s.setPart p w).missPosted = s.missPosted := rfl
@[simp] theorem State.setPart_replay : (s.setPart p w).replay = s.replay := rfl
@[simp] theorem State.setPart_sched : (s.setPart p w).sched = s.sched := rfl
@[simp] theorem State.setPart_saved : (s.setPart p w).saved = s.saved := rfl
@[simp] theorem State.setPart_gates : (s.setPart p w).gates = s.gates := rfl
@[simp] theorem State.setPart_wseq : (s.setPart p w).wseq = s.wseq := rfl
@[simp] theorem State.setPart_fqHead : (s.setPart p w).fqHead = s.fqHead := rfl
@[simp] theorem State.setPart_fqTail : (s.setPart p w).fqTail = s.fqTail := rfl
@[simp] theorem State.setPart_fqWait : (s.setPart p w).fqWait = s.fqWait := rfl
@[simp] theorem State.setPart_deferredEnds : (s.setPart p w).deferredEnds = s.deferredEnds := rfl
@[simp] theorem State.setPart_budgetParked : (s.setPart p w).budgetParked = s.budgetParked := rfl
@[simp] theorem State.setPart_hub : (s.setPart p w).hub = s.hub := rfl

@[simp] theorem State.core_setCore_self : (s.setCore c k).core c = k := by simp [State.core, State.setCore]

theorem State.core_setCore_ne {b c : Nat} (h : b ≠ c) : (s.setCore c k).core b = s.core b := by
  simp [State.core, State.setCore, State.freshCore, SMap.val_put_ne _ _ _ h]

@[simp] theorem Core.slot_put_self (i : Nat) : ({ k with slots := k.slots.put i x } : Core).slot i = x := by
  simp [Core.slot]

theorem Core.slot_put_ne {i j : Nat} (h : j ≠ i) : ({ k with slots := k.slots.put i x } : Core).slot j = k.slot j := by
  simp [Core.slot, Core.freshSlot, SMap.val_put_ne _ _ _ h]

@[simp] theorem State.slot_setSlot_self : (s.setSlot gs x).slot gs = x := by
  simp [State.slot, State.setSlot]

theorem State.slot_setSlot_ne {g gs : Nat} (h : g ≠ gs) : (s.setSlot gs x).slot g = s.slot g := by
  unfold State.slot State.setSlot
  by_cases hc : g / 16 = gs / 16
  · rw [hc, State.core_setCore_self, Core.slot_put_ne _ _ (by omega)]
  · rw [State.core_setCore_ne _ _ hc]

@[simp] theorem State.me_setMe : (s.setMe x).me = x := by
  simp [State.me, State.setMe]

@[simp] theorem State.slice_setSlice_self : (s.setSlice n y).slice n = y := by simp [State.slice, State.setSlice]

theorem State.slice_setSlice_ne {m n : Nat} (h : m ≠ n) : (s.setSlice n y).slice m = s.slice m := by
  simp [State.slice, State.setSlice, SMap.val_put_ne _ _ _ h]

@[simp] theorem State.part_setPart_self : (s.setPart p w).part p = w := by simp [State.part, State.setPart]

@[simp] theorem State.part_setSlot (q : Nat) : (s.setSlot gs x).part q = s.part q := rfl

@[simp] theorem State.part_setMe (q : Nat) : (s.setMe x).part q = s.part q := rfl

end Sys2Proof.Machine
end

