-- ==== Sys2Proof/Laws/Meaning.lean ====
section
/-! SUPPORT. Meanings: how they compose, what ends them, and what the operand reads and the issue condition do. -/

namespace Sys2Proof.Machine

variable {α β : Type}

@[simp] theorem M.pure_apply (a : α) (s : State) : (pure a : M α) s = .ok (a, s) := rfl

theorem M.bind_apply (m : M α) (f : α → M β) (s : State) :
    (m >>= f) s = match m s with
      | .ok (a, t) => f a t
      | .error e => .error e := by
  show (m s >>= fun r => f r.1 r.2) = _
  cases m s <;> rfl

theorem M.bind_ok {m : M α} {f : α → M β} {s t : State} {a : α} (h : m s = .ok (a, t)) : (m >>= f) s = f a t := by
  rw [M.bind_apply, h]

theorem M.bind_eq_ok {m : M α} {f : α → M β} {s u : State} {b : β} :
    (m >>= f) s = .ok (b, u) ↔ ∃ a t, m s = .ok (a, t) ∧ f a t = .ok (b, u) := by
  rw [M.bind_apply]
  cases h : m s with
  | error e => simp
  | ok r =>
    obtain ⟨a, t⟩ := r
    refine ⟨fun h => ⟨_, _, rfl, h⟩, ?_⟩
    rintro ⟨a', t', h, h'⟩
    cases h
    exact h'

@[simp] theorem gets_apply (f : State → α) (s : State) : gets f s = .ok (f s, s) := rfl
@[simp] theorem upd_apply (f : State → State) (s : State) : upd f s = .ok ((), f s) := rfl
@[simp] theorem me_apply (s : State) : me s = .ok (s.me, s) := rfl
@[simp] theorem myCore_apply (s : State) : myCore s = .ok (s.core s.myCore, s) := rfl
@[simp] theorem updMe_apply (f : Slot → Slot) (s : State) : updMe f s = .ok ((), s.setMe (f s.me)) := rfl
@[simp] theorem get_apply (s : State) : (get : M State) s = .ok (s, s) := rfl
@[simp] theorem set_apply (t s : State) : (set t : M PUnit) s = .ok ((), t) := rfl
@[simp] theorem writeS_apply (n : Nat) (w : Word) (s : State) : writeS n w s = .ok ((), s.setMe (s.me.writeS n w)) := rfl
@[simp] theorem writeP_apply (n : Nat) (b : Bool) (s : State) : writeP n b s = .ok ((), s.setMe (s.me.setPred n b)) := rfl
@[simp] theorem jump_apply (t : Nat) (s : State) :
    jump t s = .ok ((), { s with iss := { s.iss with npc := t, xfer := true } }) := rfl

theorem needP_apply (c : Bool) (code : Nat) (a : Word) (s : State) :
    needP c code a s = if c then .ok ((), s) else faultP code a s := by
  cases c <;> rfl

theorem needL_apply (c : Bool) (code : Nat) (a : Word) (s : State) :
    needL c code a s = if c then .ok ((), s) else faultL code a s := by
  cases c <;> rfl

theorem needW_apply (c : Bool) (s : State) : needW c s = if c then .ok ((), s) else waitOn .retry s := by
  cases c <;> rfl

theorem needP_eq_ok {c : Bool} {code : Nat} {a : Word} {s t : State} {u : Unit} :
    needP c code a s = .ok (u, t) ↔ c = true ∧ s = t := by
  cases c <;> simp [needP, faultP]

theorem needL_eq_ok {c : Bool} {code : Nat} {a : Word} {s t : State} {u : Unit} :
    needL c code a s = .ok (u, t) ↔ c = true ∧ s = t := by
  cases c <;> simp [needL, faultL]

theorem needW_eq_ok {c : Bool} {s t : State} {u : Unit} : needW c s = .ok (u, t) ↔ c = true ∧ s = t := by
  cases c <;> simp [needW, waitOn]

/-! ## What ends a meaning -/

/-- A meaning that completes commits. -/
theorem runI_ok {m : M Unit} {s t : State} (h : m s = .ok ((), t)) : runI m s = .next t.commit := by
  simp [runI, h]

/-- A meaning that waits leaves the slot waiting. -/
theorem runI_wait {m : M Unit} {s : State} {w : WaitFor} {keep : State → State} (h : m s = .error (.wait w keep)) :
    runI m s = .next ((keep s).waiting w) := by
  simp [runI, h]

/-- A meaning that faults takes the fault. -/
theorem runI_fault {m : M Unit} {s : State} {f : FaultInfo} {keep : State → State} (h : m s = .error (.fault f keep)) :
    runI m s = .next ((keep s).takeFault f) := by
  simp [runI, h]

/-- A meaning always answers a next state. -/
theorem runI_next (m : M Unit) (s : State) : ∃ t, runI m s = .next t := by
  unfold runI
  split <;> exact ⟨_, rfl⟩

/-! ## Operand reads -/

/-- The issue condition changes nothing. -/
theorem operandsReady_state {rs ws : List Nat} {s t : State} {u : Unit} (h : operandsReady rs ws s = .ok (u, t)) : t = s := by
  simp only [operandsReady, M.bind_eq_ok, needP_eq_ok, needW_eq_ok, me_apply, Except.ok.injEq, Prod.mk.injEq] at h
  obtain ⟨_, _, ⟨_, rfl⟩, _, _, ⟨_, rfl⟩, _, _, ⟨_, rfl⟩, _, rfl⟩ := h
  rfl

/-- The issue condition changes nothing. -/
theorem ready_state {rs ws : List Nat} {s t : State} {u : Unit} (h : ready rs ws s = .ok (u, t)) : t = s := by
  simp only [ready, M.bind_eq_ok, needW_eq_ok, me_apply, Except.ok.injEq, Prod.mk.injEq] at h
  obtain ⟨_, _, ⟨_, rfl⟩, _, _, ⟨_, rfl⟩, h⟩ := h
  exact operandsReady_state h

end Sys2Proof.Machine

namespace Sys2Proof.Safety

open Sys2Proof.Machine

theorem done_eq_some {α : Type} {m : M α} {s : State} {r : α × State} : done m s = some r ↔ m s = .ok r := by
  unfold done
  cases m s <;> simp

/-- The operands of an instruction that reads none. -/
theorem takes_nil {s t : State} {ws : List Nat} : Takes s [] ws [] t ↔ ready [] ws s = .ok ((), s) ∧ s = t := by
  unfold Takes
  rw [done_eq_some, operands, M.bind_eq_ok]
  constructor
  · rintro ⟨_, u, h, g⟩
    obtain rfl := ready_state h
    simp at g
    exact ⟨h, g⟩
  · rintro ⟨h, rfl⟩
    exact ⟨_, _, h, rfl⟩

/-- The operand of an instruction that reads one. -/
theorem takes_one {s t : State} {a : Nat} {ws : List Nat} {x : Word} :
    Takes s [a] ws [x] t ↔ ready [a] ws s = .ok ((), s) ∧ readS a s = .ok (x, t) := by
  unfold Takes
  rw [done_eq_some, operands, M.bind_eq_ok]
  simp only [List.mapM_cons, List.mapM_nil, M.bind_eq_ok, M.pure_apply, Except.ok.injEq, Prod.mk.injEq]
  constructor
  · rintro ⟨_, u, h, y, v, hr, _, _, ⟨rfl, rfl⟩, e, rfl⟩
    obtain rfl := ready_state h
    simp at e
    exact ⟨h, e ▸ hr⟩
  · rintro ⟨h, hr⟩
    exact ⟨_, _, h, _, _, hr, _, _, ⟨rfl, rfl⟩, rfl, rfl⟩

/-- The operands of an instruction that reads two. -/
theorem takes_two {s t : State} {a b : Nat} {ws : List Nat} {x y : Word} :
    Takes s [a, b] ws [x, y] t ↔
      ready [a, b] ws s = .ok ((), s) ∧ ∃ u, readS a s = .ok (x, u) ∧ readS b u = .ok (y, t) := by
  unfold Takes
  rw [done_eq_some, operands, M.bind_eq_ok]
  simp only [List.mapM_cons, List.mapM_nil, M.bind_eq_ok, M.pure_apply, Except.ok.injEq, Prod.mk.injEq]
  constructor
  · rintro ⟨_, u, h, p, v, hr, q, w, ⟨r, z, hr', _, _, ⟨rfl, rfl⟩, rfl, rfl⟩, e, rfl⟩
    obtain rfl := ready_state h
    simp at e
    obtain ⟨rfl, rfl⟩ := e
    exact ⟨h, _, hr, hr'⟩
  · rintro ⟨h, u, hr, hr'⟩
    exact ⟨_, _, h, _, _, hr, _, _, ⟨_, _, hr', _, _, ⟨rfl, rfl⟩, rfl, rfl⟩, rfl, rfl⟩

/-- The operands of an instruction that reads three. -/
theorem takes_three {s t : State} {a b c : Nat} {ws : List Nat} {x y z : Word} :
    Takes s [a, b, c] ws [x, y, z] t ↔
      ready [a, b, c] ws s = .ok ((), s) ∧
        ∃ u v, readS a s = .ok (x, u) ∧ readS b u = .ok (y, v) ∧ readS c v = .ok (z, t) := by
  unfold Takes
  rw [done_eq_some, operands, M.bind_eq_ok]
  simp only [List.mapM_cons, List.mapM_nil, M.bind_eq_ok, M.pure_apply, Except.ok.injEq, Prod.mk.injEq]
  constructor
  · rintro ⟨_, u, h, p, v, hr, q, w, ⟨r, z, hr', q2, w2, ⟨r2, z2, hr2, _, _, ⟨rfl, rfl⟩, rfl, rfl⟩, rfl, rfl⟩, e, rfl⟩
    obtain rfl := ready_state h
    simp at e
    obtain ⟨rfl, rfl, rfl⟩ := e
    exact ⟨h, _, _, hr, hr', hr2⟩
  · rintro ⟨h, u, v, hr, hr', hr2⟩
    exact ⟨_, _, h, _, _, hr, _, _, ⟨_, _, hr', _, _, ⟨_, _, hr2, _, _, ⟨rfl, rfl⟩, rfl, rfl⟩, rfl, rfl⟩, rfl, rfl⟩

end Sys2Proof.Safety
end

