-- ==== Sys2Proof/Laws/Memory.lean ====
section
/-! SUPPORT. The canonical form of a byte memory, and that every operation on bytes keeps it. -/

namespace Sys2Proof.Machine

theorem Memory.wf_iff (m : List Host.Cell) :
    Memory.wf m = true ↔ m.Pairwise (fun x y => x.1 < y.1) ∧ ∀ e ∈ m, e.2 ≠ 0 := by
  induction m with
  | nil => simp [Memory.wf]
  | cons e m ih =>
    cases m with
    | nil => simp [Memory.wf]
    | cons e' m =>
      obtain ⟨a, b⟩ := e
      obtain ⟨a', b'⟩ := e'
      simp only [Memory.wf, Bool.and_eq_true, Bool.not_eq_true', decide_eq_false_iff_not, decide_eq_true_eq, ih,
        List.pairwise_cons, List.mem_cons, forall_eq_or_imp]
      constructor
      · rintro ⟨⟨hb, ha⟩, ⟨h1, h2⟩, h3, h4⟩
        exact ⟨⟨⟨ha, fun x hx => Nat.lt_trans ha (h1 x hx)⟩, h1, h2⟩, hb, h3, h4⟩
      · rintro ⟨⟨⟨ha, -⟩, h1, h2⟩, hb, h3, h4⟩
        exact ⟨⟨hb, ha⟩, ⟨h1, h2⟩, h3, h4⟩

/-- What stays after cells are taken out is canonical. -/
theorem Memory.wf_filter {m : List Host.Cell} (f : Host.Cell → Bool) (h : Memory.wf m = true) :
    Memory.wf (m.filter f) = true := by
  rw [Memory.wf_iff] at h ⊢
  exact ⟨h.1.filter f, fun e he => h.2 e ((List.mem_filter.1 he).1)⟩

theorem SMap.mem_put {α : Type} {m : SMap α} {k : Nat} {v : α} {e : Nat × α} (h : e ∈ m.put k v) : e = (k, v) ∨ e ∈ m := by
  induction m with
  | nil => simpa [SMap.put] using h
  | cons x m ih =>
    simp only [SMap.put] at h
    split at h
    · simpa [or_assoc] using h
    · split at h
      · rcases List.mem_cons.1 h with h | h
        · exact .inl h
        · exact .inr (List.mem_cons_of_mem _ h)
      · rcases List.mem_cons.1 h with h | h
        · exact .inr (h ▸ List.mem_cons_self)
        · exact (ih h).imp id (List.mem_cons_of_mem _)

theorem SMap.pairwise_put {α : Type} {m : SMap α} {k : Nat} {v : α} (h : m.Pairwise (fun x y => x.1 < y.1)) :
    (m.put k v).Pairwise (fun x y => x.1 < y.1) := by
  induction m with
  | nil => simp [SMap.put]
  | cons e m ih =>
    rw [List.pairwise_cons] at h
    simp only [SMap.put]
    split
    · refine List.pairwise_cons.2 ⟨?_, List.pairwise_cons.2 h⟩
      intro x hx
      rcases List.mem_cons.1 hx with rfl | hx
      · assumption
      · exact Nat.lt_trans ‹_› (h.1 x hx)
    · split
      · rename_i h2
        exact List.pairwise_cons.2 ⟨fun x hx => h2 ▸ h.1 x hx, h.2⟩
      · refine List.pairwise_cons.2 ⟨fun x hx => ?_, ih h.2⟩
        rcases SMap.mem_put hx with rfl | hx
        · show e.1 < k
          omega
        · exact h.1 x hx

/-- A byte written keeps the canonical form. -/
theorem memPut_wf {m : List Host.Cell} (a : Nat) (b : Byte) (h : Memory.wf m = true) : Memory.wf (memPut m a b) = true := by
  unfold memPut
  split
  · exact Memory.wf_filter _ h
  · rw [Memory.wf_iff] at h ⊢
    refine ⟨SMap.pairwise_put h.1, fun e he => ?_⟩
    rcases SMap.mem_put he with rfl | he
    · assumption
    · exact h.2 e he

/-- Bytes written at consecutive addresses keep the canonical form. -/
theorem memWrite_wf {m : List Host.Cell} (a : Nat) (bs : List Byte) (h : Memory.wf m = true) :
    Memory.wf (memWrite m a bs) = true := by
  induction bs generalizing m a with
  | nil => exact h
  | cons b bs ih => exact ih (a + 1) (memPut_wf a b h)

/-- Single bytes written in any order keep the canonical form. -/
theorem memPokes_wf {m : List Host.Cell} (ps : List (Nat × Byte)) (h : Memory.wf m = true) : Memory.wf (memPokes m ps) = true := by
  induction ps generalizing m with
  | nil => exact h
  | cons p ps ih => exact ih (memPut_wf p.1 p.2 h)

/-- Reset memory lists nothing. -/
theorem reset_mem_wf : Memory.wf State.reset.mem = true := rfl

/-- Marking sectors dirty leaves the bytes as they are. -/
theorem markDirty_mem (s : State) (key : Nat) (m : BitVec 8) : (s.markDirty key m).mem = s.mem := by
  unfold State.markDirty
  split
  · rfl
  · dsimp only
    split <;> rfl

/-- Bytes written at the home keep the canonical form. -/
theorem homePokes_canonical {s : State} (key : Nat) (ps : List (Nat × Byte)) (h : Safety.Canonical s) :
    Safety.Canonical (s.homePokes key ps) := by
  unfold State.homePokes
  split
  · exact h
  · unfold Safety.Canonical
    dsimp only
    rw [markDirty_mem]
    exact memPokes_wf ps h

/-- A page moved keeps the canonical form. -/
theorem moveBytes_canonical {s : State} (src dst n : Nat) (h : Safety.Canonical s) : Safety.Canonical (s.moveBytes src dst n) :=
  memPokes_wf _ (Memory.wf_filter _ h)

/-- Local memory bytes keep the canonical form. -/
theorem lmStore_wf {k : Core} (o : Nat) (bs : List Byte) (h : Memory.wf k.lm = true) : Memory.wf (k.lmStore o bs).lm = true :=
  memWrite_wf o bs h

end Sys2Proof.Machine
end

