-- ==== Sys2Proof/Laws/Ops.lean ====
section
/-! SUPPORT. What charging, completing, waiting and taking a fault do to the executing slot and leave of the rest. -/

namespace Sys2Proof.Machine

/-- The slots of a state are those of any state with the same cores and the same scan and beat at the hub. -/
theorem State.slot_congr {a b : State} (h : a.cores = b.cores) (h' : a.hub = b.hub) (gs : Nat) : a.slot gs = b.slot gs := by
  simp only [State.slot, State.core, State.freshCore, h, h']

/-- The slot that is charged. -/
def Slot.charged (x : Slot) : Slot := { x with left := if x.limit = 0 then x.left else signed32 (x.left - 1) }

@[simp] theorem signed32_zero : signed32 0 = 0 := by decide

theorem Slot.charged_of_zero {x : Slot} (h : x.limit = 0) : x.charged = x := by
  simp only [Slot.charged, h, if_true]
  rw [← h]

/-- What a charge does: the slot is charged, and at most one step is put on the agenda. -/
theorem State.charge_eq (s : State) (gs : Nat) :
    (s.charge gs = s ∧ (s.slot gs).limit = 0) ∨
    ∃ l, s.charge gs = { s.setSlot gs (s.slot gs).charged with agenda := s.agenda ++ l } ∧ (s.slot gs).limit ≠ 0 ∧
      ((s.slot gs).left = 1 → l = [.budgetEnd gs]) := by
  unfold State.charge
  by_cases h0 : (s.slot gs).limit = 0
  · left; simp [h0]
  · right
    have e : ({ s.slot gs with left := signed32 ((s.slot gs).left - 1) } : Slot) = (s.slot gs).charged := by
      simp [Slot.charged, h0]
    simp only [h0, if_false, e]
    have z : (s.slot gs).left = 1 → signed32 ((s.slot gs).left - 1) = 0 := fun h => by simp [h]
    split
    · exact ⟨[.watchdog gs], rfl, h0, fun h => by have := z h; omega⟩
    · split
      · exact ⟨[.budgetEnd gs], rfl, h0, fun _ => rfl⟩
      · exact ⟨[], by rw [List.append_nil]; rfl, h0, fun h => absurd (z h) (by assumption)⟩

@[simp] theorem State.charge_slot_self (s : State) (gs : Nat) : (s.charge gs).slot gs = (s.slot gs).charged := by
  rcases s.charge_eq gs with ⟨h, h0⟩ | ⟨l, h, -⟩
  · rw [h, Slot.charged_of_zero h0]
  · rw [h]
    exact (State.slot_congr (b := s.setSlot gs (s.slot gs).charged) rfl rfl gs).trans (by simp)

theorem State.charge_slot_ne (s : State) {g gs : Nat} (h : g ≠ gs) : (s.charge gs).slot g = s.slot g := by
  rcases s.charge_eq gs with ⟨h', -⟩ | ⟨l, h', -⟩
  · rw [h']
  · rw [h']
    exact (State.slot_congr (b := s.setSlot gs (s.slot gs).charged) rfl rfl g).trans (State.slot_setSlot_ne _ _ h)

@[simp] theorem State.charge_cur (s : State) (gs : Nat) : (s.charge gs).cur = s.cur := by
  rcases s.charge_eq gs with ⟨h, -⟩ | ⟨l, h, -⟩ <;> rw [h] <;> rfl
@[simp] theorem State.charge_mem (s : State) (gs : Nat) : (s.charge gs).mem = s.mem := by
  rcases s.charge_eq gs with ⟨h, -⟩ | ⟨l, h, -⟩ <;> rw [h] <;> rfl
@[simp] theorem State.charge_fqWait (s : State) (gs : Nat) : (s.charge gs).fqWait = s.fqWait := by
  rcases s.charge_eq gs with ⟨h, -⟩ | ⟨l, h, -⟩ <;> rw [h] <;> rfl
@[simp] theorem State.charge_iss (s : State) (gs : Nat) : (s.charge gs).iss = s.iss := by
  rcases s.charge_eq gs with ⟨h, -⟩ | ⟨l, h, -⟩ <;> rw [h] <;> rfl
@[simp] theorem State.charge_parts (s : State) (gs : Nat) : (s.charge gs).parts = s.parts := by
  rcases s.charge_eq gs with ⟨h, -⟩ | ⟨l, h, -⟩ <;> rw [h] <;> rfl
@[simp] theorem State.charge_poison (s : State) (gs : Nat) : (s.charge gs).poison = s.poison := by
  rcases s.charge_eq gs with ⟨h, -⟩ | ⟨l, h, -⟩ <;> rw [h] <;> rfl
@[simp] theorem State.charge_slices (s : State) (gs : Nat) : (s.charge gs).slices = s.slices := by
  rcases s.charge_eq gs with ⟨h, -⟩ | ⟨l, h, -⟩ <;> rw [h] <;> rfl
@[simp] theorem State.charge_tlb (s : State) (gs : Nat) : (s.charge gs).tlb = s.tlb := by
  rcases s.charge_eq gs with ⟨h, -⟩ | ⟨l, h, -⟩ <;> rw [h] <;> rfl
@[simp] theorem State.charge_now (s : State) (gs : Nat) : (s.charge gs).now = s.now := by
  rcases s.charge_eq gs with ⟨h, -⟩ | ⟨l, h, -⟩ <;> rw [h] <;> rfl
@[simp] theorem State.charge_gates (s : State) (gs : Nat) : (s.charge gs).gates = s.gates := by
  rcases s.charge_eq gs with ⟨h, -⟩ | ⟨l, h, -⟩ <;> rw [h] <;> rfl
@[simp] theorem State.charge_hub (s : State) (gs : Nat) : (s.charge gs).hub = s.hub := by
  rcases s.charge_eq gs with ⟨h, -⟩ | ⟨l, h, -⟩ <;> rw [h] <;> rfl
@[simp] theorem State.charge_fresh (s : State) (gs : Nat) : (s.charge gs).fresh = s.fresh := by
  rcases s.charge_eq gs with ⟨h, -⟩ | ⟨l, h, -⟩ <;> rw [h] <;> rfl

/-- The fields of a core other than its slots after a charge. -/
theorem State.charge_core (s : State) (gs c : Nat) :
    ∃ sl, (s.charge gs).core c = { s.core c with slots := sl } := by
  rcases s.charge_eq gs with ⟨h, -⟩ | ⟨l, h, -⟩
  · exact ⟨(s.core c).slots, by rw [h]⟩
  · rw [h]
    by_cases hc : c = gs / 16
    · subst hc
      exact ⟨(s.core (gs / 16)).slots.put (gs % 16) (s.slot gs).charged,
        State.core_setCore_self s (gs / 16) { s.core (gs / 16) with slots := (s.core (gs / 16)).slots.put (gs % 16) (s.slot gs).charged }⟩
    · exact ⟨(s.core c).slots, State.core_setCore_ne s _ hc⟩

@[simp] theorem State.charge_me (s : State) : (s.charge s.cur).me = s.me.charged := by
  simp [State.me]

theorem State.chargeIssue_of (s : State) (h : s.iss.charge = true) : s.chargeIssue = s.charge s.cur := by
  simp [State.chargeIssue, h]

/-- The executing slot after completion. -/
def State.completed (s : State) : Slot :=
  { s.me.walksDone with pc := s.iss.npc, sig := s.iss.ended s.iss.xfer, run := .ready }

theorem State.commit_eq (s : State) : s.commit = (s.setMe s.completed).chargeIssue := rfl

@[simp] theorem State.commit_me (s : State) (h : s.iss.charge = true) : s.commit.me = s.completed.charged := by
  rw [State.commit_eq, State.chargeIssue_of _ (show (s.setMe s.completed).iss.charge = true from h)]
  exact (State.charge_me _).trans (by simp)

theorem State.commit_slot_ne (s : State) (h : s.iss.charge = true) {gs : Nat} (hg : gs ≠ s.cur) :
    s.commit.slot gs = s.slot gs := by
  rw [State.commit_eq, State.chargeIssue_of _ (show (s.setMe s.completed).iss.charge = true from h),
    State.charge_slot_ne _ (show gs ≠ (s.setMe s.completed).cur from hg)]
  exact State.slot_setSlot_ne _ _ hg

@[simp] theorem State.commit_mem (s : State) : s.commit.mem = s.mem := by
  rw [State.commit_eq, State.chargeIssue]
  split <;> simp

end Sys2Proof.Machine
end

