-- ==== Sys2Proof/Tests/Slice0.lean ====
section
/-! SUPPORT. Tests: words written out from the encoding tables, ill-formed terms, single steps, and a witness for each
statement that has hypotheses. -/

open Sys2Proof Sys2Proof.Machine Sys2Proof.Safety

namespace Sys2Proof.Tests

set_option Elab.async false

/-- Each list of half-words decodes to the instruction beside it. -/
def decodesAs (l : List (List Half × Instr)) : Bool :=
  l.all fun e => decide ((decodeWords e.1).toOption.map (·.instr) = some e.2)

/-- Every term of the list is refused by the check of well-formedness. -/
def illFormed (l : List Instr) : Bool := l.all fun i => !i.wf

/-- One term for each check of `Instr.wf`, and each breaks it (R195 and the entries of chapters 9 to 12). -/
theorem test_ill_formed_a : illFormed [
  .addi 1 2 (2 ^ 31), .movi 1 (-2 ^ 31 - 1), .ldZ8 1 2 (2 ^ 31), .ldZ16 1 2 (2 ^ 31), .ldZ32 1 2 (2 ^ 31),
  .ldZ64 1 2 (2 ^ 31), .ldS8 1 2 (2 ^ 31), .ldS16 1 2 (2 ^ 31), .ldS32 1 2 (2 ^ 31), .stZ8 1 2 (2 ^ 31),
  .stZ16 1 2 (2 ^ 31), .stZ32 1 2 (2 ^ 31), .stZ64 1 2 (2 ^ 31), .ldLZ64 1 2 (2 ^ 31), .stLZ64 1 2 (2 ^ 31),
  .br 1 true (2 ^ 24), .jmp (2 ^ 28), .call (-2 ^ 28 - 1), .sig (2 ^ 18), .sig (3 * 2 ^ 16), .loop 24 5,
  .loop 1 (2 ^ 31), .sext .z8 1 2, .zext .s8 1 2, .shli 1 2 64, .shri 1 2 64, .sari 1 2 64, .roli 1 2 64,
  .bfx 1 2 (63 * 64 + 1), .bfx 1 2 (2 ^ 13), .bfi 1 2 (2 ^ 12), .cmpi .ltz 1 2 (-1), .cmpi .lt 1 2 (2 ^ 31),
  .ldL .s64 1 2 5, .ldL .s8 1 2 (2 ^ 31), .stL .s8 1 2 5, .stL .z8 1 2 (2 ^ 31), .vlds false .c4 1 2 3,
  .vgath false .s8 1 2 3, .vscat false .s8 1 2 3] = true := by decide +kernel

/-- More of them. -/
theorem test_ill_formed_b : illFormed [
  .ldZ8Ordered .rel .part 1 2 5, .ldZ8Ordered .none .part 1 2 5, .ldZ16Ordered .rel .part 1 2 5,
  .ldZ32Ordered .rel .part 1 2 5, .ldZ64Ordered .rel .part 1 2 5, .ldS8Ordered .rel .part 1 2 5,
  .ldS16Ordered .rel .part 1 2 5, .ldS32Ordered .acq .part 1 2 (2 ^ 31), .stZ8Ordered .acq .part 1 2 5,
  .stZ16Ordered .acq .part 1 2 5, .stZ32Ordered .none .core 1 2 5, .stZ64Ordered .ar .part 1 2 5,
  .redAdd .acq .part false 1 2, .redAnd .acq .part false 1 2, .redOr .acq .part false 1 2, .redXor .acq .part false 1 2,
  .redMin .ar .part false 1 2, .redMax .acq .part false 1 2, .redMinz .acq .part false 1 2,
  .redMaxz .acq .part false 1 2, .redFadd .acq .part 1 2, .fence .none .part, .qstat false 1 2, .msgSend .acq .part 1 2,
  .vAdd true .f32 1 2 3, .vAdd false .bf16 1 2 3, .vSub true .f32 1 2 3, .vMul .c8 1 2 3, .vMin .f16 1 2 3,
  .vMax .c4 1 2 3, .vAbs false .z8 1 2, .vAbs true .f32 1 2, .vNeg false .z8 1 2, .vShl .f32 1 2 3, .vShr .f32 1 2 3,
  .vSar .f32 1 2 3, .vCmp .ltz .s32 1 2 3, .vCmp .eq .c8 1 2 3, .vRedAdd .bf16 1 2, .vRedMin .bf16 1 2] = true := by decide +kernel

/-- More of them. -/
theorem test_ill_formed_c : illFormed [
  .vRedMax .bf16 1 2, .vCvt .f32 .f32 1 2, .vCvt .s8 .bf16 1 2, .vPack .s8 .f32 1 2 3, .vPack .s8 .s32 1 2 3,
  .vUnpk .f32 .s16 1 2 0, .vUnpk .z16 .s8 1 2 0, .vUnpk .f32 .bf16 1 2 2, .vDec8 1 2 4, .vEnc8 1 2 4, .trDef (24 * 16),
  .trDef (5 * 512 + 5 * 16), .trDef (2 ^ 14), .trGo 1 (2 ^ 20), .cpG2L 1 2 3, .cpL2G 1 2 24, .cpL2L 1 2 3, .cpG2G 1 2 3,
  .cpFill 1 2 3, .cp2D 1 2 3, .sysRd 1 4096, .sysWr 1 4096, .trap (2 ^ 32)] = true := by decide +kernel

/-- Words of page 0, from the tables of R194 to R196 and the entries of the instructions. -/
theorem test_decode_page0_a : decodesAs [
  ([0x0143#16], .add 1 2 3),
  ([0x014B#16], .sub 1 2 3),
  ([0x0153#16], .and 1 2 3),
  ([0x015B#16], .or 1 2 3),
  ([0x0943#16], .xor 1 2 3),
  ([0x094B#16], .andn 1 2 3),
  ([0x0953#16], .shl 1 2 3),
  ([0x095B#16], .shr 1 2 3),
  ([0x1143#16], .sar 1 2 3),
  ([0x114B#16], .mul 1 2 3),
  ([0x1153#16], .min 1 2 3),
  ([0x115B#16], .max 1 2 3),
  ([0x1940#16], .mov 1 2),
  ([0x1908#16], .jmpi 1),
  ([0x1910#16], .calli 1),
  ([0x1818#16], .ret),
  ([0x2000#16], .nop),
  ([0x2008#16], .tend),
  ([0x2945#16], .addi 1 2 5),
  ([0x3105#16], .movi 1 5),
  ([0x3945#16], .ldZ8 1 2 5),
  ([0x4145#16], .ldZ16 1 2 5),
  ([0x4945#16], .ldZ32 1 2 5),
  ([0x5145#16], .ldZ64 1 2 5),
  ([0x5945#16], .ldS8 1 2 5),
  ([0x6145#16], .ldS16 1 2 5),
  ([0x6945#16], .ldS32 1 2 5),
  ([0x7145#16], .stZ8 1 2 5),
  ([0x7945#16], .stZ16 1 2 5),
  ([0x8145#16], .stZ32 1 2 5),
  ([0x8945#16], .stZ64 1 2 5),
  ([0x9145#16], .ldLZ64 1 2 5),
  ([0x9945#16], .stLZ64 1 2 5),
  ([0xA189#16], .br 1 true 9),
  ([0xA864#16], .jmp 100),
  ([0xB064#16], .call 100),
  ([0xF801#16, 0xB803#16], .sig 2051),
  ([0xC105#16], .loop 1 5),
  ([0xFB00#16, 0x0143#16], .add 17 2 3),
  ([0xFB00#16, 0x0041#16], .add 16 2 1)] = true := by decide +kernel

/-- Words of page 0, from the tables of R194 to R196 and the entries of the instructions. -/
theorem test_decode_page0_b : decodesAs [
  ([0xF801#16, 0x3103#16], .movi 1 35),
  ([0xFBE0#16, 0x1F00#16], .mov 31 24)] = true := by decide +kernel

/-- Words of page 1, from the tables of R194 to R196 and the entries of the instructions. -/
theorem test_decode_page1 : decodesAs [
  ([0xFC20#16, 0x0143#16], .mulh 1 2 3),
  ([0xFC20#16, 0x014B#16], .mulhz 1 2 3),
  ([0xFC20#16, 0x0153#16], .div 1 2 3),
  ([0xFC20#16, 0x015B#16], .divz 1 2 3),
  ([0xFC20#16, 0x0943#16], .rem 1 2 3),
  ([0xFC20#16, 0x094B#16], .remz 1 2 3),
  ([0xFC20#16, 0x0953#16], .minz 1 2 3),
  ([0xFC20#16, 0x095B#16], .maxz 1 2 3),
  ([0xFC20#16, 0x1143#16], .rol 1 2 3),
  ([0xFC20#16, 0x1148#16], .clz 1 2),
  ([0xFC20#16, 0x1150#16], .ctz 1 2),
  ([0xFC20#16, 0x1158#16], .popc 1 2),
  ([0xFC20#16, 0x1940#16], .brev 1 2),
  ([0xFC20#16, 0x1948#16], .bswap 1 2),
  ([0xFC25#16, 0x1950#16], .sext .s8 1 2),
  ([0xFC29#16, 0x1958#16], .zext .z8 1 2),
  ([0xFC20#16, 0x2145#16], .shli 1 2 5),
  ([0xFC20#16, 0x2945#16], .shri 1 2 5),
  ([0xFC20#16, 0x3145#16], .sari 1 2 5),
  ([0xFC20#16, 0x3945#16], .roli 1 2 5),
  ([0xFC20#16, 0x4145#16], .bfx 1 2 5),
  ([0xFC20#16, 0x4945#16], .bfi 1 2 5),
  ([0xFC24#16, 0x5143#16], .cmp .gt 1 2 3),
  ([0xFC24#16, 0x5945#16], .cmpi .gt 1 2 5),
  ([0xFC31#16, 0x6143#16], .sel 17 1 2 3),
  ([0xFC20#16, 0x6943#16], .pand 1 2 3),
  ([0xFC20#16, 0x694B#16], .por 1 2 3),
  ([0xFC20#16, 0x6953#16], .pxor 1 2 3),
  ([0xFC20#16, 0x6958#16], .pnot 1 2),
  ([0xFC20#16, 0x7140#16], .pmov 1 2),
  ([0xFC20#16, 0xFA02#16, 0x614B#16], .lea 2 1 2 3)] = true := by decide +kernel

/-- Words of page 2, from the tables of R194 to R196 and the entries of the instructions. -/
theorem test_decode_page2_a : decodesAs [
  ([0xFC46#16, 0x0145#16], .ldL .s16 1 2 5),
  ([0xFC4A#16, 0x0945#16], .stL .z16 1 2 5),
  ([0xFC40#16, 0x1143#16], .ldt false 1 2 3),
  ([0xFC40#16, 0x1148#16], .stt 1 2),
  ([0xFC40#16, 0x1940#16], .vld false 1 2),
  ([0xFC40#16, 0x1948#16], .vst false 1 2),
  ([0xFC40#16, 0x1953#16], .vlds false .f32 1 2 3),
  ([0xFC47#16, 0x195B#16], .vgath false .s32 1 2 3),
  ([0xFC47#16, 0x2143#16], .vscat false .s32 1 2 3),
  ([0xFC40#16, 0x2108#16], .pref false 1),
  ([0xFC4B#16, 0x2943#16], .amoSwap .acq .die false 1 2 3),
  ([0xFC4B#16, 0x294B#16], .amoCas .acq .die false 1 2 3),
  ([0xFC4B#16, 0x2953#16], .amoFadd .acq .die false 1 2 3),
  ([0xFC4B#16, 0x295B#16], .amoFand .acq .die false 1 2 3),
  ([0xFC4B#16, 0x3143#16], .amoFor .acq .die false 1 2 3),
  ([0xFC4B#16, 0x314B#16], .amoFxor .acq .die false 1 2 3),
  ([0xFC4B#16, 0x3153#16], .amoFmin .acq .die false 1 2 3),
  ([0xFC4B#16, 0x315B#16], .amoFmax .acq .die false 1 2 3),
  ([0xFC4B#16, 0x9143#16], .amoFminz .acq .die false 1 2 3),
  ([0xFC4B#16, 0x914B#16], .amoFmaxz .acq .die false 1 2 3),
  ([0xFC40#16, 0x9153#16], .hgath 1 2 3),
  ([0xFC4B#16, 0x3945#16], .ldZ8Ordered .acq .die 1 2 5),
  ([0xFC4B#16, 0x4145#16], .ldZ16Ordered .acq .die 1 2 5),
  ([0xFC4B#16, 0x4945#16], .ldZ32Ordered .acq .die 1 2 5),
  ([0xFC4B#16, 0x5145#16], .ldZ64Ordered .acq .die 1 2 5),
  ([0xFC4B#16, 0x5945#16], .ldS8Ordered .acq .die 1 2 5),
  ([0xFC4B#16, 0x6145#16], .ldS16Ordered .acq .die 1 2 5),
  ([0xFC4B#16, 0x6945#16], .ldS32Ordered .acq .die 1 2 5),
  ([0xFC53#16, 0x7145#16], .stZ8Ordered .rel .die 1 2 5),
  ([0xFC53#16, 0x7945#16], .stZ16Ordered .rel .die 1 2 5),
  ([0xFC53#16, 0x8145#16], .stZ32Ordered .rel .die 1 2 5),
  ([0xFC53#16, 0x8945#16], .stZ64Ordered .rel .die 1 2 5),
  ([0xFC53#16, 0x9940#16], .redAdd .rel .die false 1 2),
  ([0xFC53#16, 0x9948#16], .redAnd .rel .die false 1 2),
  ([0xFC53#16, 0x9950#16], .redOr .rel .die false 1 2),
  ([0xFC53#16, 0x9958#16], .redXor .rel .die false 1 2),
  ([0xFC53#16, 0xA140#16], .redMin .rel .die false 1 2),
  ([0xFC53#16, 0xA148#16], .redMax .rel .die false 1 2),
  ([0xFC53#16, 0xA150#16], .redMinz .rel .die false 1 2),
  ([0xFC53#16, 0xA158#16], .redMaxz .rel .die false 1 2)] = true := by decide +kernel

/-- Words of page 2, from the tables of R194 to R196 and the entries of the instructions. -/
theorem test_decode_page2_b : decodesAs [
  ([0xFC53#16, 0xFA01#16, 0xA940#16], .redFadd .rel .die 1 2),
  ([0xFC4B#16, 0xFA01#16, 0x2A53#16], .amoFadd .acq .die true 2 2 3),
  ([0xFC40#16, 0xFA01#16, 0x1143#16], .ldt true 1 2 3),
  ([0xFC40#16, 0xFA01#16, 0x1940#16], .vld true 1 2),
  ([0xFC40#16, 0xFA01#16, 0x2108#16], .pref true 1)] = true := by decide +kernel

/-- Words of page 3, from the tables of R194 to R196 and the entries of the instructions. -/
theorem test_decode_page3 : decodesAs [
  ([0xFC60#16, 0x0140#16], .barArr 1 2),
  ([0xFC60#16, 0x0148#16], .barWait 1 2),
  ([0xFC60#16, 0x0150#16], .barAw 1 2),
  ([0xFC60#16, 0x0158#16], .barExp false 1 2),
  ([0xFC63#16, 0x0943#16], .barInit .die 1 2 3),
  ([0xFC7B#16, 0x0808#16], .fence .ar .die),
  ([0xFC63#16, 0x0950#16], .evtAdd .die 1 2),
  ([0xFC63#16, 0x0958#16], .evtWait .die 1 2),
  ([0xFC61#16, 0x1143#16], .wait true 1 2 3),
  ([0xFC60#16, 0x1108#16], .realign false 1),
  ([0xFC60#16, 0x1110#16], .qstat false 1 0),
  ([0xFC73#16, 0x1940#16], .msgSend .rel .die 1 2),
  ([0xFC60#16, 0x1908#16], .msgInfo 1),
  ([0xFC60#16, 0x1953#16], .redPkt 1 2 3),
  ([0xFC60#16, 0x195B#16], .redRecv false 1 2 3),
  ([0xFC60#16, 0x2140#16], .rteSet 1 2),
  ([0xFC60#16, 0x2148#16], .treeSet 1 2),
  ([0xFC60#16, 0xFA01#16, 0x0158#16], .barExp true 1 2),
  ([0xFC60#16, 0xFA01#16, 0x1108#16], .realign true 1),
  ([0xFC60#16, 0xFA01#16, 0x1150#16], .qstat true 1 2),
  ([0xFC60#16, 0xFA01#16, 0x195A#16], .redRecv true 1 2 2)] = true := by decide +kernel

/-- Words of page 4, from the tables of R194 to R196 and the entries of the instructions. -/
theorem test_decode_page4 : decodesAs [
  ([0xFC87#16, 0x0143#16], .vAdd false .s32 1 2 3),
  ([0xFC87#16, 0x014B#16], .vSub false .s32 1 2 3),
  ([0xFC87#16, 0x0153#16], .vMul .s32 1 2 3),
  ([0xFC80#16, 0x015B#16], .vFma 1 2 3),
  ([0xFC80#16, 0x0943#16], .vFms 1 2 3),
  ([0xFC87#16, 0x094B#16], .vMin .s32 1 2 3),
  ([0xFC87#16, 0x0953#16], .vMax .s32 1 2 3),
  ([0xFC87#16, 0x0958#16], .vAbs false .s32 1 2),
  ([0xFC87#16, 0x1140#16], .vNeg false .s32 1 2),
  ([0xFC80#16, 0x1148#16], .vRcp 1 2),
  ([0xFC80#16, 0x1150#16], .vRsq 1 2),
  ([0xFC80#16, 0x1158#16], .vSqrt 1 2),
  ([0xFC80#16, 0x1940#16], .vExp2 1 2),
  ([0xFC80#16, 0x1948#16], .vLog2 1 2),
  ([0xFC80#16, 0x2143#16], .vAnd 1 2 3),
  ([0xFC80#16, 0x214B#16], .vOr 1 2 3),
  ([0xFC80#16, 0x2153#16], .vXor 1 2 3),
  ([0xFC80#16, 0x215B#16], .vAndn 1 2 3),
  ([0xFC87#16, 0x2943#16], .vShl .s32 1 2 3),
  ([0xFC87#16, 0x294B#16], .vShr .s32 1 2 3),
  ([0xFC87#16, 0x2953#16], .vSar .s32 1 2 3),
  ([0xFC80#16, 0x314B#16], .vSel 1 2 3),
  ([0xFC87#16, 0x3940#16], .vRedAdd .s32 1 2),
  ([0xFC87#16, 0x3948#16], .vRedMin .s32 1 2),
  ([0xFC87#16, 0x3950#16], .vRedMax .s32 1 2),
  ([0xFC80#16, 0x3000#16], .vCmp .eq .f32 0 0 0),
  ([0xFC87#16, 0xFA02#16, 0x3043#16], .vCmp .lt .s32 0 2 3),
  ([0xFC87#16, 0xFA01#16, 0x0143#16], .vAdd true .s32 1 2 3)] = true := by decide +kernel

/-- Words of page 5, from the tables of R194 to R196 and the entries of the instructions. -/
theorem test_decode_page5 : decodesAs [
  ([0xFCA1#16, 0x0140#16], .vBcast .bf16 1 2),
  ([0xFCA6#16, 0x014B#16], .vExt .s16 1 2 3),
  ([0xFCA9#16, 0x0153#16], .vIns .z8 1 2 3),
  ([0xFCA0#16, 0x015B#16], .vPerm 1 2 3),
  ([0xFCA0#16, 0x094B#16], .vScl false 1 2 3),
  ([0xFCA0#16, 0x1143#16], .vDec8 1 2 3),
  ([0xFCA0#16, 0x114B#16], .vEnc8 1 2 3),
  ([0xFCA0#16, 0x1153#16], .vDec4 1 2 3),
  ([0xFCA0#16, 0x115B#16], .vEnc4 1 2 3),
  ([0xFCA0#16, 0xFA07#16, 0x0940#16], .vCvt .f32 .s32 1 2),
  ([0xFCA1#16, 0x0940#16], .vCvt .bf16 .f32 1 2),
  ([0xFCA2#16, 0x0953#16], .vPack .f16 .f32 1 2 3),
  ([0xFCA9#16, 0xFA06#16, 0x0953#16], .vPack .z8 .s16 1 2 3),
  ([0xFCA0#16, 0xFA01#16, 0x0959#16], .vUnpk .f32 .bf16 1 2 1),
  ([0xFCA0#16, 0xFA01#16, 0x094B#16], .vScl true 1 2 3)] = true := by decide +kernel

/-- Words of page 6, from the tables of R194 to R196 and the entries of the instructions. -/
theorem test_decode_page6 : decodesAs [
  ([0xFCC0#16, 0x0100#16], .mClr 1),
  ([0xFCC0#16, 0x0148#16], .mLatch 1 2),
  ([0xFCC0#16, 0x0153#16], .mStep .send 1 2 3),
  ([0xFCC0#16, 0x015B#16], .mLocal 1 2 3),
  ([0xFCC0#16, 0x0800#16], .mPass),
  ([0xFCC0#16, 0x094B#16], .mRd 1 2 3),
  ([0xFCC0#16, 0x0953#16], .mWr 1 2 3),
  ([0xFCC0#16, 0x095B#16], .mRing false 1 2 3),
  ([0xFCC0#16, 0x1100#16], .mStat 1),
  ([0xFCC0#16, 0x1008#16], .mSync),
  ([0xFCC0#16, 0x2105#16], .trGo 1 5),
  ([0xFCC0#16, 0x2900#16], .trWait 1),
  ([0xFCC0#16, 0x2908#16], .trStop 1),
  ([0xFCC0#16, 0xF9FF#16, 0x1815#16], .trDef 0x3FF5),
  ([0xFCC0#16, 0xFA01#16, 0x0153#16], .mStep .keep 1 2 3),
  ([0xFCC0#16, 0xFA02#16, 0x0153#16], .mStep .drop 1 2 3),
  ([0xFCC0#16, 0xFA01#16, 0x0958#16], .mRing true 1 2 0)] = true := by decide +kernel

/-- Words of page 7, from the tables of R194 to R196 and the entries of the instructions. -/
theorem test_decode_page7 : decodesAs [
  ([0xFCE0#16, 0x0144#16], .cpG2L 1 2 4),
  ([0xFCE0#16, 0x014C#16], .cpL2G 1 2 4),
  ([0xFCE0#16, 0x0154#16], .cpL2L 1 2 4),
  ([0xFCE0#16, 0x015C#16], .cpG2G 1 2 4),
  ([0xFCE0#16, 0x0944#16], .cpFill 1 2 4),
  ([0xFCE0#16, 0x094C#16], .cp2D 1 2 4),
  ([0xFCE0#16, 0x0910#16], .cpStat 1),
  ([0xFCE0#16, 0x0818#16], .cpAbort)] = true := by decide +kernel

/-- Words of page 8, from the tables of R194 to R196 and the entries of the instructions. -/
theorem test_decode_page8 : decodesAs [
  ([0xFD00#16, 0x0143#16], .tqPush 1 2 3),
  ([0xFD00#16, 0x014B#16], .tqSpawn 1 2 3),
  ([0xFD00#16, 0x0150#16], .tqPin false 1 2),
  ([0xFD00#16, 0x0158#16], .tqStat 1 2),
  ([0xFD00#16, 0x0900#16], .tstat 1),
  ([0xFD00#16, 0x1143#16], .gtPost 1 2 3),
  ([0xFD00#16, 0x114B#16], .gtWait 1 2 3),
  ([0xFD00#16, 0x1153#16], .gtTry 1 2 3),
  ([0xFD00#16, 0x1158#16], .gtArrive 1 2),
  ([0xFD00#16, 0x1940#16], .gtStat 1 2),
  ([0xFD00#16, 0x1908#16], .gtOpen 1),
  ([0xFD00#16, 0x1910#16], .gtClose 1),
  ([0xFD00#16, 0x1918#16], .gtHold false 1),
  ([0xFD00#16, 0xFA01#16, 0x0150#16], .tqPin true 1 2),
  ([0xFD00#16, 0xFA01#16, 0x1918#16], .gtHold true 1)] = true := by decide +kernel

/-- Words of page 9, from the tables of R194 to R196 and the entries of the instructions. -/
theorem test_decode_page9 : decodesAs [
  ([0xFD23#16, 0x0140#16], .clWb .die 1 2),
  ([0xFD23#16, 0x0148#16], .clInv .die 1 2),
  ([0xFD20#16, 0x0150#16], .clDisc 1 2),
  ([0xFD20#16, 0x0940#16], .hrPin 1 2),
  ([0xFD20#16, 0x0948#16], .hrUnpin 1 2),
  ([0xFD20#16, 0x0950#16], .pgProbe 1 2),
  ([0xFD23#16, 0x095B#16], .tlbInv .page .die 1 2 3),
  ([0xFD20#16, 0x1143#16], .ubRsv 1 2 3),
  ([0xFD20#16, 0x114B#16], .ubRel 1 2 3),
  ([0xFD20#16, 0x1153#16], .ubMig 1 2 3),
  ([0xFD20#16, 0xFA02#16, 0x095B#16], .tlbInv .part .dflt 1 2 3)] = true := by decide +kernel

/-- Words of page 10, from the tables of R194 to R196 and the entries of the instructions. -/
theorem test_decode_page10 : decodesAs [
  ([0xFD40#16, 0x0105#16], .sysRd 1 5),
  ([0xFD40#16, 0x0905#16], .sysWr 1 5),
  ([0xFD40#16, 0x1140#16], .tblWr false 1 2),
  ([0xFD40#16, 0x1148#16], .tblSeal 1 2),
  ([0xFD40#16, 0x1150#16], .capRd 1 2),
  ([0xFD40#16, 0x115B#16], .partSet 1 2 3),
  ([0xFD40#16, 0x1940#16], .slotPark 1 2),
  ([0xFD40#16, 0x194B#16], .slotRun false 1 2 3),
  ([0xFD40#16, 0x1953#16], .ctxSave 1 2 3),
  ([0xFD40#16, 0x195B#16], .ctxLoad 1 2 3),
  ([0xFD40#16, 0x2000#16], .eret),
  ([0xFD40#16, 0x2008#16], .brk),
  ([0xFD40#16, 0x2010#16], .wfe),
  ([0xFD40#16, 0x2805#16], .trap 5),
  ([0xFD40#16, 0x3140#16], .slotScrub 1 2),
  ([0xFD40#16, 0x3148#16], .hbCtlEnable 1 2),
  ([0xFD40#16, 0x3150#16], .hbStat 1 2),
  ([0xFD40#16, 0xFA01#16, 0x1140#16], .tblWr true 1 2),
  ([0xFD40#16, 0xFA01#16, 0x194B#16], .slotRun true 1 2 3)] = true := by decide +kernel

/-! ## Witnesses

Each theorem shows a state and operands that meet the hypotheses of a statement together. -/

/-- The thread of P0 in slot 0 of core 0, at an instruction of one word, with two values in g1 and g2 and a stack in LM. -/
def wG (x y : Word) : State :=
  let s : State := { State.reset.withFetchWord 16 0 with cur := 0, iss := { Issue.reset with len := 2, npc := 0x10002, charge := true } }
  s.setMe { s.me with g := ((s.me.g.set 1 x).set 2 y).set 23 0x1000, slim := 0x80000 }

/-- The same with an address that maps to DRAM and a small number. -/
def w0 : State := wG 0x20000 3

/-- The same with another leaf for its pages in the DTLB. -/
def wPage (leaf : Nat) : State := w0.setCore 0 { w0.core 0 with dtlb := [{ placeEntry with leaf := ofN leaf }] }

/-- A state with bytes of memory as given. -/
def wBytes (s : State) (key : Nat) (bs : List Byte) : State := { s with mem := memWrite s.mem key bs }

/-- Whether an operation answers, and what it leaves meets a further test. -/
def doneAnd (m : M α) (s : State) (f : α → State → Bool) : Bool :=
  match done m s with
  | some (a, t) => f a t
  | none => false

theorem done_of {m : M α} {s : State} {f : α → State → Bool} (h : doneAnd m s f = true) :
    ∃ a t, done m s = some (a, t) ∧ f a t = true := by
  unfold doneAnd at h
  split at h
  · rename_i a t e
    exact ⟨a, t, e, h⟩
  · cases h

theorem takes_of {s : State} {rs ws : List Nat} (vs : List Word) (f : State → Bool)
    (h : doneAnd (operands rs ws) s (fun l t => decide (l = vs) && f t) = true) : ∃ t, Takes s rs ws vs t ∧ f t = true := by
  obtain ⟨l, t, e, h⟩ := done_of h
  rw [Bool.and_eq_true, decide_eq_true_eq] at h
  exact ⟨t, h.1 ▸ e, h.2⟩

/-- The sector of a place as a load of `n` bytes reads it. -/
def sectorOf (s : State) (l : Loc) (n : Nat) : State × BitVec 256 × Bool :=
  s.readSector s.me.part s.myCore (l.key / 32) (decide (l.attr = 0)) (touched l.key n (l.key / 32)) (l.leafPa, l.leaf)

/-- Whether a read of `n` bytes at a place of DRAM meets no poison. -/
def loadsOk (s : State) (l : Loc) (n : Nat) : Bool := decide (l.attr ≠ 2 ∧ l.key % 32 + n ≤ 32) && !(sectorOf s l n).2.2

theorem loads_of {s : State} {l : Loc} {n : Nat} (h : loadsOk s l n = true) : ∃ v t, Loads s l n v t := by
  simp only [loadsOk, Bool.and_eq_true, decide_eq_true_eq, Bool.not_eq_true'] at h
  exact ⟨_, (sectorOf s l n).1, Or.inr ⟨h.1.1, h.1.2, (sectorOf s l n).2.1, Prod.ext rfl (Prod.ext rfl h.2), rfl⟩⟩

/-- Whether a store may take its place now, and a release act now. -/
def mayStore (s : State) (l : Loc) (bs : List Byte) : Bool :=
  (!decide (l.attr = 2) || (s.me.priv || !s.hubForbids l.key bs)) && (decide (l.attr = 2) || (!s.anyReserved l.key bs.length && s.me.late.isNone))
def mayRelease (s : State) (o : Ord) (sc : Scope) : Bool := !relOf o || !s.releaseHeld s.myCore sc

theorem mayStore_iff (s : State) (l : Loc) (bs : List Byte) : mayStore s l bs = true ↔ MayStore s l bs := by
  by_cases h : l.attr = 2 <;> simp [mayStore, MayStore, h, Option.isNone_iff_eq_none]

theorem mayRelease_iff (s : State) (o : Ord) (sc : Scope) : mayRelease s o sc = true ↔ MayRelease s o sc := by
  cases h : relOf o <;> simp [mayRelease, MayRelease, h]

theorem places_of {s : State} {rs ws : List Nat} (vs : List Word) (need : Need) (dev : Bool) (va : Word) (f : Loc → State → Bool)
    (h : doneAnd (operands rs ws) s (fun l t => decide (l = vs) && doneAnd (locate need dev va) t f) = true) :
    ∃ t l u, Takes s rs ws vs t ∧ Finds t need dev va l u ∧ f l u = true := by
  obtain ⟨t, ht, h⟩ := takes_of vs _ h
  obtain ⟨l, u, e, h⟩ := done_of h
  exact ⟨t, l, u, ht, e, h⟩

/-- The same for an instruction that acts at a scope. -/
theorem placesAt_of {s : State} {rs ws : List Nat} (sc got : Scope) (vs : List Word) (need : Need) (dev : Bool) (va : Word)
    (f : State → Loc → State → Bool)
    (h : doneAnd (do
      ready rs ws
      let a ← scopeFor .part sc
      let l ← rs.mapM readS
      pure (a, l)) s (fun l t => decide (l = (got, vs)) && doneAnd (locate need dev va) t (f t)) = true) :
    ∃ t l u, TakesAt s sc rs ws got vs t ∧ Finds t need dev va l u ∧ f t l u = true := by
  obtain ⟨a, t, e, h⟩ := done_of h
  rw [Bool.and_eq_true, decide_eq_true_eq] at h
  obtain ⟨rfl, h⟩ := h
  obtain ⟨l, u, e', h⟩ := done_of h
  exact ⟨t, l, u, e, e', h⟩

/-- A state on whose engine port nothing stands, where an engine instruction reads its operands. -/
theorem engineTakes_of {s : State} {i : Instr} (vs : List Word) (f : State → Bool) (h0 : EngineFree s)
    (h1 : (s.core s.myCore).unitsBad (s.cur % 16) (startUnits i) = false)
    (h : doneAnd (operands (scalarReads i) (scalarWrites i)) s (fun l t => decide (l = vs) && f t) = true) :
    ∃ t, EngineTakes s i vs t ∧ f t = true := by
  obtain ⟨t, ht, h⟩ := takes_of vs f h
  exact ⟨t, ⟨h0, ht, h1⟩, h⟩

theorem witness_scalar_operands :
    (∃ t, Takes w0 [1, 2] [3] [0x20000, 3] t) ∧ (∃ t, Takes w0 [1] [3] [0x20000] t) ∧ (∃ t, Takes w0 [] [3] [] t) ∧
    (∃ t, Takes w0 [3, 1] [3] [0, 0x20000] t) := by
  refine ⟨?_, ?_, ?_, ?_⟩ <;>
    exact (takes_of _ (fun _ => true) (by decide +kernel)).imp fun _ h => h.1

theorem witness_DivisionResults :
    (∃ t, Takes (wG 5 0) [1, 2] [3] [5, 0] t) ∧
    (∃ t, Takes (wG (BitVec.intMin 64) (BitVec.allOnes 64)) [1, 2] [3] [BitVec.intMin 64, BitVec.allOnes 64] t) := by
  refine ⟨?_, ?_⟩ <;> exact (takes_of _ (fun _ => true) (by decide +kernel)).imp fun _ h => h.1

theorem witness_Transfers :
    (∃ t, Takes (wG 0x20000 1) [2] [2] [1] t) ∧ (∃ t, Takes w0 [1] [] [0x20000] t) ∧ GoodTarget ((0x20000 : Word).toNat : Int) ∧
    GoodTarget (w0.me.pc + 2 * (-1)) ∧ w0.me.cond 0 = true ∧ w0.me.cond 1 = false := by
  refine ⟨(takes_of _ (fun _ => true) (by decide +kernel)).imp fun _ h => h.1,
    (takes_of _ (fun _ => true) (by decide +kernel)).imp fun _ h => h.1, ?_, ?_, ?_, ?_⟩ <;>
    (try simp only [GoodTarget]) <;> decide +kernel

theorem witness_CallsAndReturns : let s := w0
    MemoryFree s ∧ 23 ∉ s.me.owed ∧ GoodTarget (s.me.pc + 2 * 5) ∧ (s.me.g[23]!).toNat % 8 = 0 ∧
    s.me.sbase.toNat + 8 ≤ (s.me.g[23]!).toNat ∧ (s.me.g[23]!).toNat + 8 ≤ s.me.slim.toNat ∧
    LmOpen s ((s.me.g[23]!).toNat - 8) 8 ∧ LmWritable s ((s.me.g[23]!).toNat - 8) 8 ∧ LmOpen s (s.me.g[23]!).toNat 8 ∧
    LmSound s (s.me.g[23]!).toNat 8 ∧ GoodTarget (ofBytes ((s.core s.myCore).lmBytes (s.me.g[23]!).toNat 8) : Int) := by
  simp only [MemoryFree, GoodTarget, LmOpen, LmWritable, LmSound]
  decide +kernel

theorem witness_CallStackLimit : let s := w0.setMe { w0.me with slim := 0xFF8 }
    MemoryFree s ∧ 23 ∉ s.me.owed ∧ GoodTarget (s.me.pc + 2 * 5) ∧ (s.me.g[23]!).toNat % 8 = 0 ∧
    s.me.slim.toNat < (s.me.g[23]!).toNat := by
  simp only [MemoryFree, GoodTarget]
  decide +kernel

theorem witness_traps : let s := w0.setMe { w0.me with trapv := 0x10001 }
    (s.iss.len < 16 ∧ bitOf s.me.trapv 0 = true ∧ s.me.handler = false) ∧ bitOf w0.me.trapv 0 = false ∧ w0.iss.charge = true ∧
    w0.amoOf w0.cur = none ∧
    (s.setMe { s.me with handler := true }).me.handler = true := by
  decide +kernel

theorem witness_WaitForEventAndTaskEnd :
    (w0.setMe { w0.me with event := w0.now + 1 }).me.run = .ready ∧ (w0.setMe { w0.me with event := w0.now + 1 }).me.event = w0.now + 1 ∧
    (let s := w0.setMe { w0.me with run := .waiting (.wfe 4 w0.me.sig), event := 1 };
      s.me.run = .waiting (.wfe 4 w0.me.sig) ∧ s.me.event ≠ 0) ∧
    (let s := w0.setMe { w0.me with run := .waiting (.wfe 4 w0.me.sig) };
      s.me.run = .waiting (.wfe 4 w0.me.sig) ∧ s.me.event = 0) ∧ w0.me.event ≠ w0.now + 1 ∧
    w0.me.cp.queue = [] ∧ w0.me.engq = [] ∧ w0.me.tr.active = false ∧
    (w0.core w0.myCore).latch.holder ≠ some (w0.cur % 16) ∧ w0.endStalls w0.cur = false ∧
    (let k := { w0.core 0 with latch := { (w0.core 0).latch with holder := some 0 } };
      ((w0.setCore 0 k).core 0).latch.holder = some ((w0.setCore 0 k).cur % 16) ∧ ((w0.setCore 0 k).core 0).latch.sending = none ∧
      (w0.setCore 0 k).endStalls 0 = false) := by
  decide +kernel

theorem witness_LoadResults : MemoryFree w0 ∧ ∃ t l u, Takes w0 [1] [3] [0x20000] t ∧
    Finds t .r true (0x20000 + BitVec.ofInt 64 40) l u ∧ loadsOk u l 8 = true :=
  ⟨by simp only [MemoryFree]; decide +kernel, places_of _ _ _ _ (fun l u => loadsOk u l 8) (by decide +kernel)⟩

theorem witness_OrderedLoadResults : MemoryFree w0 ∧ ∃ t l u, TakesAt w0 .part [1] [3] .part [0x20000] t ∧
    Finds t .r true (0x20000 + BitVec.ofInt 64 40) l u ∧ loadsOk (beforeAcquire u .acq .part l) l 8 = true :=
  ⟨by simp only [MemoryFree]; decide +kernel,
    placesAt_of _ _ _ _ _ _ (fun _ l u => loadsOk (beforeAcquire u .acq .part l) l 8) (by decide +kernel)⟩

theorem witness_StoreResults : (∃ t l u, Takes w0 [2, 1] [] [3, 0x20000] t ∧
      Finds t .w true (0x20000 + BitVec.ofInt 64 (-8)) l u ∧ mayStore u l (bytesOf 8 3) = true) ∧
    ∃ t l u, TakesAt w0 .dev [2, 1] [] .dev [3, 0x20000] t ∧
      Finds t .w true (0x20000 + BitVec.ofInt 64 (-8)) l u ∧
      (mayRelease u .rel .dev && mayStore (released u .rel .dev) l (bytesOf 8 3)) = true :=
  ⟨places_of _ _ _ _ (fun l u => mayStore u l (bytesOf 8 3)) (by decide +kernel),
    placesAt_of _ _ _ _ _ _ (fun _ l u => mayRelease u .rel .dev && mayStore (released u .rel .dev) l (bytesOf 8 3))
      (by decide +kernel)⟩

theorem witness_MisalignedAccess : (∃ t, Takes w0 [1] [3] [0x20000] t) ∧ (∃ t, Takes w0 [2, 1] [] [3, 0x20000] t) ∧
    ((0x20000 : Word) + BitVec.ofInt 64 4).toNat % 8 ≠ 0 := by
  refine ⟨?_, ?_, by decide +kernel⟩ <;> exact (takes_of _ (fun _ => true) (by decide +kernel)).imp fun _ h => h.1

/-- A poisoned sector, on a page with ETOL and on one without. -/
theorem witness_PoisonedLoad : let f := fun (etol : Bool) (l : Loc) (u : State) => decide (l.attr ≠ 2 ∧ l.key % 32 + 8 ≤ 32 ∧
      (sectorOf u l 8).2.2 = true) && decide (l.etol = etol)
    (∃ t l u, Takes (w0.setPoison 0x20000) [1] [3] [0x20000] t ∧
      Finds t .r true (0x20000 + BitVec.ofInt 64 0) l u ∧ f false l u = true) ∧
    ∃ t l u, Takes ((wPage (0x1F + 2 ^ 62)).setPoison 0x20000) [1] [3] [0x20000] t ∧
      Finds t .r true (0x20000 + BitVec.ofInt 64 0) l u ∧ f true l u = true :=
  ⟨places_of _ _ _ _ _ (by decide +kernel), places_of _ _ _ _ _ (by decide +kernel)⟩

/-- Whether eight bytes of LM may be used now and hold no error. -/
def lmOk (s : State) (o : Nat) : Bool :=
  decide (o + 8 ≤ 2 ^ 19) && lmOwned (s.part s.me.part).banks o 8 && !(s.core s.myCore).lmWiping o 8 &&
    decide ((s.core s.myCore).lmError o 8 = none) && decide ((s.core s.myCore).lmStoreError o 8 = none)

theorem witness_LocalMemoryResults : let s := wG 0x7FFF8 100
    (∃ t, Takes s [1] [3] [0x7FFF8] t ∧ lmOk t 0x7FFF8 = true) ∧
    (∃ t, Takes s [2, 1] [] [100, 0x7FFF8] t ∧ lmOk t 0x7FFF8 = true) := by
  refine ⟨takes_of _ (fun t => lmOk t 0x7FFF8) ?_,
    takes_of _ (fun t => lmOk t 0x7FFF8) ?_⟩
  all_goals decide +kernel

/-- A tag that is as expected and fresh, another, and one of a scan too old for the partition. -/
theorem witness_TileTagFaults : let age := fun (t : State) (y : Word) => ((t.core t.myCore).scan + 2 ^ 32 - fld y 47 16) % 2 ^ 32
    (∃ t, Takes (wG 256 0) [1, 2] [3] [256, 0] t ∧ decide ((t.core t.myCore).tag (256 / 256) = (0 : Word).setWidth 48 ∧
      age t 0 ≤ fld (t.part t.me.part).w9 7 0) = true) ∧
    (∃ t, Takes (wG 256 1) [1, 2] [3] [256, 1] t ∧ decide ((t.core t.myCore).tag (256 / 256) ≠ (1 : Word).setWidth 48) = true) ∧
    (∃ t, Takes ((wG 256 0).setCore 0 { (wG 256 0).core 0 with scan := 300 }) [1, 2] [3] [256, 0] t ∧
      decide ((t.core t.myCore).tag (256 / 256) = (0 : Word).setWidth 48 ∧ fld (t.part t.me.part).w9 7 0 < age t 0) = true) :=
  ⟨takes_of _ _ (by decide +kernel), takes_of _ _ (by decide +kernel), takes_of _ _ (by decide +kernel)⟩

/-- Whether an atomic operation may take its word, in a mode. -/
def homeOk (o : Ord) (got : Scope) (m : Nat) (t : State) (l : Loc) (u : State) : Bool :=
  let q := dropped (released u o got) l
  mayRelease u o got && decide (t.me.mode = m ∧ u.amoOf u.cur = none ∧ q.reserved l.key = false ∧
    (q.slice (q.homeSlice l.key)).reservations < 64 ∧ (gathered (released u o got) l).isPoisoned l.key = false)

/-- An aligned word at its home, where an AMO, a compare and swap, and a RED find it. -/
theorem witness_atomics : w0.amoOf w0.cur = none ∧
    (∃ t l u, TakesAt w0 .dev [1, 2] [3] .dev [0x20000, 3] t ∧ Finds t .rw false 0x20000 l u ∧
      homeOk .ar .dev 0 t l u = true) ∧
    (∃ t l u, TakesAt w0 .dflt [3, 1, 2] [3] .part [0, 0x20000, 3] t ∧ Finds t .rw false 0x20000 l u ∧
      homeOk .none .part 0 t l u = true) ∧
    (∃ t l u, TakesAt w0 .core [1, 2] [] .core [0x20000, 3] t ∧ Finds t .w false 0x20000 l u ∧
      homeOk .rel .core 0 t l u = true) :=
  ⟨by decide +kernel, placesAt_of _ _ _ _ _ _ _ (by decide +kernel), placesAt_of _ _ _ _ _ _ _ (by decide +kernel),
    placesAt_of _ _ _ _ _ _ _ (by decide +kernel)⟩

/-- The same slot in figure mode and in tracing mode. -/
theorem witness_AtomicOrderFaults : let s := fun (m : Word) => w0.setMe { w0.me with sw := w0.me.sw ||| m }
    (∃ t l u, TakesAt (s 0x40) .part [3, 1, 2] [3] .part [0, 0x20000, 3] t ∧ Finds t .rw false 0x20000 l u ∧
      decide (t.me.mode = 1) = true) ∧
    (∃ t l u, TakesAt (s 0x80) .part [3, 1, 2] [3] .part [0, 0x20000, 3] t ∧ Finds t .rw false 0x20000 l u ∧
      decide (t.me.mode = 2) = true) :=
  ⟨placesAt_of _ _ _ _ _ _ (fun t _ _ => decide (t.me.mode = 1)) (by decide +kernel),
    placesAt_of _ _ _ _ _ _ (fun t _ _ => decide (t.me.mode = 2)) (by decide +kernel)⟩

theorem witness_FencePrefetchGather :
    (∃ a t, done (scopeFor .part .part) w0 = some (a, t) ∧ (decide (a = .part) && mayRelease t .ar a) = true) ∧
    ∃ t l u, Takes w0 [1, 2] [] [0x20000, 3] t ∧ Finds t .r false 0x20000 l u ∧
      ((List.range 32).all fun i => !(u.lineAtHome u.me.part l.key).isPoisoned (l.key + 8 * i)) = true :=
  ⟨done_of (by decide +kernel), places_of _ _ _ _ (fun l u =>
    (List.range 32).all fun i => !(u.lineAtHome u.me.part l.key).isPoisoned (l.key + 8 * i)) (by decide +kernel)⟩

/-- Whether every element has its place and a load of them meets no fault. -/
def elemsOk (need : Need) (idx : List Int) (e : ElemTy) (x : Word) (t : State) : Bool :=
  doneAnd (idx.mapM (elemPlace false need (elemBits e / 8) x)) t fun ls u => (done (elemLoads false (elemBits e / 8) ls []) u).isSome

/-- Whether 64 bytes at a place may be read and stored. -/
def vecOk (l : Loc) (u : State) : Bool :=
  let u1 := (sectorOf u l 64).1
  decide (l.attr ≠ 2 ∧ l.key % 32 = 0) && mayStore u l (bytesOf 64 0) && !(sectorOf u l 64).2.2 &&
    !(u1.readSector u1.me.part u1.myCore (l.key / 32 + 1) (decide (l.attr = 0)) (touched l.key 64 (l.key / 32 + 1))
      (l.leafPa, l.leaf)).2.2

/-- Whether 64 bytes of LM may be used now and hold no error. -/
def lmOk64 (s : State) (o : Nat) : Bool :=
  decide (o + 64 ≤ 2 ^ 19) && lmOwned (s.part s.me.part).banks o 64 && !(s.core s.myCore).lmWiping o 64 &&
    decide ((s.core s.myCore).lmError o 64 = none) && decide ((s.core s.myCore).lmStoreError o 64 = none)

/-- Whether the elements have their places and a store to them leaves nothing held. -/
def scatOk (idx : List Int) (e : ElemTy) (v : VReg) (x : Word) (t : State) : Bool :=
  doneAnd (idx.mapM (elemPlace false .w (elemBits e / 8) x)) t fun ls u =>
    doneAnd ((ls.zip (lanesOf (elemBits e) (u.me.v[v.val]!))).forM (fun p => elemStore false (elemBits e / 8) p.1 p.2)) u
      fun _ q => q.iss.held.isEmpty

theorem witness_VectorMemoryResults :
    (∃ t, EngineTakes w0 (.vld false 1 1) [0x20000] t ∧
      doneAnd (locate .r false 0x20000) (onTurn (.vld false 1 1) [0x20000] t) vecOk = true) ∧
    (∃ t, EngineTakes w0 (.vst false 1 1) [0x20000] t ∧
      doneAnd (locate .w false 0x20000) (onTurn (.vst false 1 1) [0x20000] t) vecOk = true) ∧
    (∃ t, EngineTakes w0 (.vlds false .s8 1 1 2) [0x20000, 3] t ∧
      elemsOk .r ((List.range (512 / elemBits .s8)).map (fun (i : Nat) => (i : Int) * (3 : Word).toInt)) .s8 0x20000
        (onTurn (.vlds false .s8 1 1 2) [0x20000, 3] t) = true) ∧
    (∃ t, EngineTakes w0 (.vgath false .s32 1 1 2) [0x20000] t ∧
      elemsOk .r (indexLanes (elemBits .s32) (t.me.v[2]!)) .s32 0x20000 (onTurn (.vgath false .s32 1 1 2) [0x20000] t) = true) ∧
    (∃ t, EngineTakes w0 (.vscat false .s32 1 1 2) [0x20000] t ∧
      scatOk (indexLanes (elemBits .s32) (t.me.v[2]!)) .s32 1 0x20000 (onTurn (.vscat false .s32 1 1 2) [0x20000] t) = true) ∧
    (∃ t, EngineTakes (wG 0x7FFC0 3) (.vst true 1 1) [0x7FFC0] t ∧
      lmOk64 t 0x7FFC0 = true) := by
  refine ⟨engineTakes_of _ (fun t => doneAnd (locate .r false 0x20000) (onTurn (.vld false 1 1) [0x20000] t) vecOk) ?_ ?_ ?_,
    engineTakes_of _ (fun t => doneAnd (locate .w false 0x20000) (onTurn (.vst false 1 1) [0x20000] t) vecOk) ?_ ?_ ?_,
    engineTakes_of _ (fun t => elemsOk .r ((List.range (512 / elemBits .s8)).map (fun (i : Nat) => (i : Int) * (3 : Word).toInt))
      .s8 0x20000 (onTurn (.vlds false .s8 1 1 2) [0x20000, 3] t)) ?_ ?_ ?_,
    engineTakes_of _ (fun t => elemsOk .r (indexLanes (elemBits .s32) (t.me.v[2]!)) .s32 0x20000
      (onTurn (.vgath false .s32 1 1 2) [0x20000] t)) ?_ ?_ ?_,
    engineTakes_of _ (fun t => scatOk (indexLanes (elemBits .s32) (t.me.v[2]!)) .s32 1 0x20000
      (onTurn (.vscat false .s32 1 1 2) [0x20000] t)) ?_ ?_ ?_,
    engineTakes_of _ (fun t => lmOk64 t 0x7FFC0) ?_ ?_ ?_⟩
  all_goals (try simp only [EngineFree]) <;> decide +kernel

/-- A barrier object of P0 at an address that maps to DRAM. -/
def wBar (expect arrived phase pending : Nat) : State :=
  w0.setBar 0x20000 { w0 := ofN (expect * 2 ^ 44 + arrived * 2 ^ 24 + phase * 2 ^ 8 + 4 * 32 + 1), w1 := ofN pending, w2 := 0, w3 := 0 }

/-- An arrival that is one of many, one too many, a phase that is complete at the last phase number, and one that pending bytes
hold back. -/
theorem witness_BarrierArrivals : let b := fun (s : State) => (s.barAt 0x20000).2
    (wBar 3 1 7 0).traced = [] ∧ (b (wBar 3 1 7 0)).arrived + 1 ≤ (b (wBar 3 1 7 0)).expect ∧
    (b (wBar 0 0 7 0)).expect ≤ (b (wBar 0 0 7 0)).arrived ∧
    (b (wBar 3 3 65535 0)).arrived = (b (wBar 3 3 65535 0)).expect ∧ (b (wBar 3 3 65535 0)).pending = 0 ∧
    (b (wBar 3 3 65535 0)).phase = 65535 ∧ (b (wBar 3 3 7 64)).pending ≠ 0 ∧
    (b (wBar 3 1 7 0)).arrived ≠ (b (wBar 3 1 7 0)).expect := by
  decide +kernel

/-- A state with one combiner of the object whose members are slots 0 and 1. -/
def wComb (arrived : List Nat) : State :=
  (wBar 3 1 7 0).setCombiners 0 [{ key := 0x20000, part := 0, members := [0, 1], arrived := arrived }]

/-- The conditions of an arrival: `BAR.ARR` alone, as a member of a combiner, and `BAR.AW` after its phase. -/
theorem witness_BarrierInstructions : let s := wBar 3 1 7 0; let a := s.setMe { s.me with awPhase := some 6 }
    let held := fun (t : State) (b : Bar) => t.releaseHeld t.myCore (scopeOf b.scope)
    (MemoryFree s ∧ done (ready [1] [3]) s = some ((), s) ∧ done (ready [1, 2] []) s = some ((), s)) ∧
    (∃ a t, done (barNamed 1) s = some (a, t) ∧ decide (a.1 = 0x20000 ∧ held t a.2 = false ∧
      let r := t.release t.myCore (scopeOf a.2.scope)
      r.combinerFor a.1 = none ∧ ((r.barArrive a.1).1.barAt a.1).2.phase = 7 ∧ (r.barArrive a.1).2 = some 7 ∧
        t.me.awPhase = none ∧ a.2.phase = (7 : Word).toNat % 2 ^ 16 ∧ (done (readS 2) t).isSome = true) = true) ∧
    (∃ a t, done (barNamed 1) (wComb []) = some (a, t) ∧ (decide (held t a.2 = false ∧
        ((t.release t.myCore (scopeOf a.2.scope)).combinerFor a.1) =
          some { key := 0x20000, part := 0, members := [0, 1], arrived := [] } ∧
        (t.release t.myCore (scopeOf a.2.scope)).cur % 16 = 0)
      && !({ key := 0x20000, part := 0, members := [0, 1], arrived := [0] } : Combiner).full) = true) ∧
    (∃ b t, done (barNamed 1) a = some (b, t) ∧ decide (t.me.awPhase = some 6 ∧ b.2.phase = 7) = true) := by
  refine ⟨?_, done_of ?_, done_of ?_, done_of ?_⟩
  · simp only [MemoryFree]
    decide +kernel
  all_goals decide +kernel

/-- A core whose eight combiners stand for other objects. -/
def wFull : State := (wBar 3 1 7 0).setCombiners 0
  ((List.range 8).map fun i => { key := 0x30000 + 32 * i, part := 0, members := [1], arrived := [] })

theorem witness_BarrierSetUp : let s := wBar 3 1 7 0; let c := wComb []
    (∃ a t, done (barNamed 1) s = some (a, t) ∧ decide (t.combinerFor a.1 = none ∧ (t.core t.myCore).combiners.length < 8) = true) ∧
    (∃ a t, done (barNamed 1) wFull = some (a, t) ∧
      decide (t.combinerFor a.1 = none ∧ 8 ≤ (t.core t.myCore).combiners.length) = true) ∧
    (∃ a t, done (barNamed 1) c = some (a, t) ∧ decide ((t.combinerFor a.1).isSome = true ∧ t.cur % 16 = 0) = true) ∧
    ∃ l t, done (do
        ready [1, 2, 3] []
        let g ← scopeFor .part .dflt
        let l ← [1, 2, 3].mapM readS
        pure (g, l)) (s.setMe { s.me with g := s.me.g.set 3 6 }) = some (l, t) ∧
      (decide (l = (.part, [0x20000, 3, 6])) && doneAnd (barPlace 0x20000) t fun k u =>
        decide (fld (u.barAt k).2.w2 3 0 = (u.barAt k).1.me.part)) = true :=
  ⟨done_of (by decide +kernel), done_of (by decide +kernel), done_of (by decide +kernel), done_of (by decide +kernel)⟩

/-- Whether a counter may be read at its home, and its value. -/
def countOk (x : Nat) (l : Loc) (u : State) : Bool :=
  let q := (dropped u l).takeWord l.key false
  !u.releaseHeld u.myCore .part && !(dropped (u.release u.myCore .part) l).reserved l.key &&
    !(gathered (u.release u.myCore .part) l).isPoisoned l.key && !q.1.isPoisoned l.key && decide (q.2 = x)

/-- A counter at 3, with a threshold of 3 and of 4. -/
theorem witness_EventCounters : let s := fun (x : Word) => (wG 0x20000 x).physWrite 0x20000 [3]
    (∃ t l u, TakesAt (s 3) .part [1, 2] [] .part [0x20000, 3] t ∧ Finds t .rw false 0x20000 l u ∧ countOk 3 l u = true) ∧
    (∃ t l u, TakesAt (s 4) .part [1, 2] [] .part [0x20000, 4] t ∧ Finds t .rw false 0x20000 l u ∧ countOk 3 l u = true) ∧
    ∃ t l u, TakesAt (s 3) .part [1, 2] [] .part [0x20000, 3] t ∧ Finds t .rw false 0x20000 l u ∧ countOk 3 l u = true :=
  ⟨placesAt_of _ _ _ _ _ _ _ (by decide +kernel), placesAt_of _ _ _ _ _ _ _ (by decide +kernel),
    placesAt_of _ _ _ _ _ _ _ (by decide +kernel)⟩

theorem witness_WaitAndRealign : let s := wG 1 5; let q := wG 2 5
    (∃ t, Takes s [1, 2] [3] [1, 5] t ∧ decide (1 &&& t.me.condMask ≠ 0) = true) ∧
    (∃ t, Takes q [1, 2] [3] [2, 5] t ∧ decide (2 &&& t.me.condMask = 0 ∧ t.me.waitLeft = none) = true) ∧
    (∃ t, Takes (q.setMe { q.me with waitLeft := some 0 }) [1, 2] [3] [2, 5] t ∧
      decide (2 &&& t.me.condMask = 0 ∧ t.me.waitLeft = some 0 ∧ 0 ≤ t.now) = true) ∧
    (∃ t, Takes (q.setMe { q.me with run := .waiting (.woken 2 true) }) [1, 2] [3] [2, 5] t ∧
      decide (t.me.run = .waiting (.woken 2 true)) = true) ∧
    done (ready [] [3]) s = some ((), s) ∧ (s.setMe { s.me with run := .waiting (.tick 4) }).me.run = .waiting (.tick 4) ∧
    (s.core s.myCore).scan ≠ 4 ∧ (s.core s.myCore).beat ≠ 1 ∧ s.me.run = .ready :=
  ⟨takes_of _ (fun t => decide (1 &&& t.me.condMask ≠ 0)) (by decide +kernel), takes_of _ _ (by decide +kernel),
    takes_of _ _ (by decide +kernel), takes_of _ (fun t => decide (t.me.run = .waiting (.woken 2 true))) (by decide +kernel),
    by decide +kernel⟩

theorem witness_vectors : VectorFree w0 [1, 2, 3] ∧ ElemTy.s8 ∈ ElemTy.intTypes ∧ ElemTy.z64 ∈ ElemTy.intTypes ∧
    (∃ t, EngineTakes (wG 0 255) (.vScl false 1 2 2) [255] t) ∧ (∃ t, EngineTakes (wG 0 254) (.vExt .s8 3 1 2) [254] t) ∧
    (∃ t, EngineTakes w0 (.vIns .s8 1 1 2) [0x20000, 3] t) ∧ (∃ t, EngineTakes w0 (.vBcast .z16 1 2) [3] t) := by
  refine ⟨by simp only [VectorFree, EngineFree]; decide +kernel, by decide +kernel, by decide +kernel, ?_, ?_, ?_, ?_⟩ <;>
    exact (engineTakes_of _ (fun _ => true) (by simp only [EngineFree]; decide +kernel) (by decide +kernel)
      (by decide +kernel)).imp fun _ h => h.1

theorem witness_RoundingKeepsValues : bf16 ∈ [fp32, bf16, fp16, e8m10] ∧ 0xFF80 < 2 ^ (1 + bf16.eb + bf16.fb) ∧
    (bf16.decode 0xFF80).isNan = false := by decide +kernel

/-- A sealed bank of the own partition, an unsealed one, and one that the partition does not own. -/
theorem witness_VectorCodes : let s := w0; let k := s.core 0
    let u := s.setCore 0 { k with tb := k.tb.put 0 { k.bank 0 with st := .unsealed } }
    let n := s.setMe { s.me with vbank := 3 }
    (nbit (s.part s.me.part).tbanks s.me.vbank = true ∧ ((s.core s.myCore).bank s.me.vbank).st = .sealed) ∧
    ((u.core u.myCore).bank u.me.vbank).st ≠ .sealed ∧
    nbit ((n.setPart 0 { n.part 0 with w0 := setFld (n.part 0).w0 11 8 7 }).part 0).tbanks n.me.vbank = false ∧
    (((n.core 0).bank n.me.vbank).view 16).isEmpty = false := by
  decide +kernel

/-- A slot with accumulators, both descriptors set to `.bf16`, and its LM operands in g1. -/
def wMat : State :=
  let s := wG (0x100 + 0x400 * 2 ^ 32) 8
  let s := s.setPart 0 { s.part 0 with acc := [(0, 0xFF)] }
  s.setMe { s.me with fa := 16 * 2 ^ 32 + 1, fb := 64 * 2 ^ 32 + 1 }

/-- The same with the latch held, and a tile of the ring at its head. -/
def wLatch (t : Option RingTile) : State :=
  wMat.setCore 0 { wMat.core 0 with latch := { (wMat.core 0).latch with holder := some 0, bank0 := t } }

def wTile : RingTile :=
  { k := 8, elem := 1, data := List.replicate 512 0, scales := [], fmt := 2, scaled := false, nxm := false, step := 0, src := 0 }

theorem wMat_free : EngineFree wMat ∧ EngineFree (wLatch (some wTile)) ∧ EngineFree (wLatch none) ∧ EngineFree (wG 255 0) := by
  simp only [EngineFree]
  decide +kernel

theorem witness_TileMoves : nbit (wMat.accMask wMat.me.part (wMat.cur % 16)) 7 = true ∧ (wMat.core wMat.myCore).matrix = [] ∧
    (∃ t, EngineTakes wMat (.mClr 7) [] t ∧ decide (t = wMat) = true) ∧ (∃ t, EngineTakes wMat (.mWr 7 1 2) [8] t) ∧
    ∃ t, EngineTakes wMat (.mRd 1 7 2) [8] t := by
  refine ⟨by decide +kernel, by decide +kernel, engineTakes_of _ _ wMat_free.1 (by decide +kernel) (by decide +kernel), ?_, ?_⟩ <;>
    exact (engineTakes_of _ (fun _ => true) wMat_free.1 (by decide +kernel) (by decide +kernel)).imp fun _ h => h.1

theorem witness_MatrixSteps : let s := wLatch (some wTile); let x : Word := 0x100 + 0x400 * 2 ^ 32
    let head := fun (q : State) => decide ((q.core q.myCore).latch.holder = some (q.cur % 16) ∧
      (q.core q.myCore).fillBanks.latch.head = some (false, wTile) ∧ (q.core q.myCore).fillBanks.matrix = [] ∧
      (q.core q.myCore).fillBanks.latch.sending = none)
    (∃ t, EngineTakes s (.mStep .send 7 1 2) [x, 8] t ∧ (let q := onTurn (.mStep .send 7 1 2) [x, 8] t;
      head q && decide (done (bothDescs q.me (opK 8) 7) q = some ((), q) ∧
        done (operandChecks [aOperand q.me (fld x 18 0) (opK 8) (opQ0 8)]) q = some ((), q) ∧
        wTile.k = opK 8 ∧ wTile.nxm = q.me.nxm ∧
        wTile.fmt = tileFormat q.me.fb (q.core q.myCore).fillBanks ∧ wTile.scaled = descScaled q.me.fb)) = true) ∧
    (∃ t, EngineTakes s (.mLocal 7 1 2) [x, 8] t ∧ (let q := onTurn (.mLocal 7 1 2) [x, 8] t;
      decide (done (bothDescs q.me (opK 8) 7) q = some ((), q) ∧ done (operandChecks [aOperand q.me (fld x 18 0) (opK 8) (opQ0 8),
        bOperand q.me (fld x 50 32) (opK 8) (opQ0 8)]) q = some ((), q) ∧ (q.core q.myCore).matrix = [])) = true) ∧
    ∃ t, EngineTakes s .mPass [] t ∧ (decide (t = s) && head (onTurn .mPass [] t)) = true :=
  ⟨engineTakes_of _ _ wMat_free.2.1 (by decide +kernel) (by decide +kernel),
    engineTakes_of _ _ wMat_free.2.1 (by decide +kernel) (by decide +kernel),
    engineTakes_of _ _ wMat_free.2.1 (by decide +kernel) (by decide +kernel)⟩

theorem witness_MatrixRing : let s := wLatch none; let x : Word := 0x100 + 0x400 * 2 ^ 32
    let busy := (wG 255 0).setCore 0 { (wG 255 0).core 0 with latch := { ((wG 255 0).core 0).latch with holder := some 1 } }
    let inSet := fun (q : State) => q.inCoreSet q.me.part 255 && q.inCoreSet q.me.part 0
    (∃ t, EngineTakes s (.mLatch 1 2) [x, 8] t ∧ (let q := onTurn (.mLatch 1 2) [x, 8] t;
      decide ((q.core q.myCore).latch.holder = some (q.cur % 16) ∧ descElem q.me.fb ≠ 0 ∧
        done (descCheck q.me.fb) q = some ((), q) ∧ done (kCheck (opK 8) [descElem q.me.fb]) q = some ((), q) ∧
        done (operandChecks [bOperand q.me (fld x 18 0) (opK 8) (opQ0 8)]) q = some ((), q) ∧
        (q.core q.myCore).fillBanks.latch.bank0 = none ∧ (q.core q.myCore).fillBanks.latch.bank1 = none)) = true) ∧
    (∃ t, EngineTakes (wG 255 0) (.mRing false 3 1 2) [255, 0] t ∧ (let q := onTurn (.mRing false 3 1 2) [255, 0] t;
      inSet q && !(q.core q.myCore).latch.taken q.me.part (q.cur % 16)) = true) ∧
    (∃ t, EngineTakes busy (.mRing false 3 1 2) [255, 0] t ∧ (let q := onTurn (.mRing false 3 1 2) [255, 0] t;
      inSet q && (q.core q.myCore).latch.taken q.me.part (q.cur % 16)) = true) ∧
    (∃ t, EngineTakes (wG 255 0) (.mRing true 3 1 2) [255, 0] t ∧ (let q := onTurn (.mRing true 3 1 2) [255, 0] t;
      decide ((q.core q.myCore).matrix = [] ∧ (q.core q.myCore).latch.holder ≠ some (q.cur % 16))) = true) ∧
    (∃ t, EngineTakes s (.mRing true 3 1 2) [x, 8] t ∧ (let q := onTurn (.mRing true 3 1 2) [x, 8] t;
      decide ((q.core q.myCore).matrix = [] ∧ (q.core q.myCore).latch.holder = some (q.cur % 16) ∧
        (q.core q.myCore).latch.outstanding = 0)) = true) ∧
    (∃ t, EngineTakes s (.mStat 3) [] t) ∧ ∃ t, EngineTakes s .mSync [] t ∧ decide (t = s) = true := by
  refine ⟨engineTakes_of _ _ wMat_free.2.2.1 ?_ ?_, engineTakes_of _ _ wMat_free.2.2.2 ?_ ?_, engineTakes_of _ _ ?_ ?_ ?_,
    engineTakes_of _ _ wMat_free.2.2.2 ?_ ?_, engineTakes_of _ _ wMat_free.2.2.1 ?_ ?_,
    (engineTakes_of _ (fun _ => true) wMat_free.2.2.1 ?_ ?_).imp fun _ h => h.1, engineTakes_of _ _ wMat_free.2.2.1 ?_ ?_⟩
  all_goals (try simp only [EngineFree]) <;> decide +kernel

/-- A captured instruction, with the replay at rest and under way. -/
def wTr (active : Bool) : State :=
  w0.setMe { w0.me with tr := { w0.me.tr with buf := [{ instr := .vXor 1 2 3, words := [0xFC80, 0x2153], pc := 0x10000 }], areg0 := 1, areg1 := 31, active := active } }

/-- The replay under way with a matrix step of the slot in the unit. -/
def wTrStep : State :=
  let s := wTr true
  s.setCore 0 { s.core 0 with matrix := [{ slot := 0, acc := 0, free := 5, done := 25, elems := [] }] }

theorem witness_TreadleInstructions : (wTr false).me.tr.buf ≠ [] ∧ (wTr false).me.tr.active = false ∧
    (wTr false).me.tr.stopping = false ∧ (wTr true).me.tr.active = true ∧
    done (ready ([1] ++ [(wTr false).me.tr.areg0, (wTr false).me.tr.areg1].filter (fun n => decide (n < 24))) []) (wTr false) =
      some ((), wTr false) ∧ (done (readS 2) (wTr false)).isSome = true ∧
    (∃ t, Takes (wTr false) [] [3] [] t) ∧ (∃ t, Takes (wTr true) [] [3] [] t) ∧
    (∃ t, Takes wTrStep [] [3] [] t) ∧ wTrStep.me.tr.active = true ∧
    ((wTrStep.core wTrStep.myCore).matrix.map (·.slot)) = [wTrStep.cur % 16] := by
  refine ⟨by decide +kernel, by decide +kernel, by decide +kernel, by decide +kernel, by decide +kernel, by decide +kernel, ?_, ?_, ?_,
    by decide +kernel, by decide +kernel⟩ <;>
    exact (takes_of _ (fun _ => true) (by decide +kernel)).imp fun _ h => h.1

/-- Whether a Carter command passes the checks of its acceptance. -/
def acceptsOk (s : State) (kind : CpKind) (twoD : Bool) (a b c : Reg) (x y : Word) (key : Nat) : Bool :=
  doneAnd (do
      ready [a.val, b.val, c.val, c.val + 1, c.val + 2, c.val + 3] []
      let x ← readS a.val
      let y ← readS b.val
      pure (x, y)) s fun xy t => decide (xy = (x, y)) && doneAnd (do
      let l ← barLoc s.me.g[c.val + 1]!
      let _ ← barValid l.key s.me.part s.me.g[c.val + 1]!
      pure l) t fun l q =>
    let rows := if twoD then fld s.me.g[c.val + 3]! 15 0 + 1 else 1
    let cmd := command s.me kind rows x y s.me.g[c.val]! s.me.g[c.val + 1]! s.me.g[c.val + 2]! s.me.g[c.val + 3]! l
    decide (l.key = key) && decide (cpBlockOk c.val = true ∧ s.me.cp.queue.length < 16 ∧ fld s.me.g[c.val]! 63 28 = 0 ∧
      (twoD = true ∨ fld s.me.g[c.val + 3]! 15 0 = 0) ∧ fld s.me.g[c.val]! 23 0 ≠ 0 ∧
      (bitOf s.me.g[c.val]! 25 = false ∨ kind.dstGlobal = false) ∧
      (s.me.priv = true ∨ (cmd.srcSpace q.myCore ≠ .element ∧ cmd.dstSpace q.myCore ≠ .element)) ∧ cmd.lmFieldBad = none ∧
      (kind = .l2l → q.inCoreSet s.me.part (fld x 26 19) = true) ∧ cmd.lmBad (q.part s.me.part).banks q.myCore = none ∧
      cmd.elementBad q.myCore = false ∧ cmd.credited = true) && (q.barCredit key cmd.total).isSome

theorem accepts_of {s : State} {kind : CpKind} {twoD : Bool} {a b c : Reg} {x y : Word} {key : Nat}
    (h : acceptsOk s kind twoD a b c x y key = true) : ∃ cmd u, Accepts s kind twoD a b c cmd u := by
  obtain ⟨xy, t, e1, h⟩ := done_of h
  rw [Bool.and_eq_true, decide_eq_true_eq] at h
  obtain ⟨rfl, h⟩ := h
  obtain ⟨l, q, e2, h⟩ := done_of h
  simp only [Bool.and_eq_true, decide_eq_true_eq] at h
  obtain ⟨⟨rfl, h1, h2, h3, h4, h5, h6, h7, h8, h9, h10, h11, h12⟩, h13⟩ := h
  obtain ⟨u, hu⟩ := Option.isSome_iff_exists.1 h13
  exact ⟨_, u, t, q, x, y, l, _, h1, h2, e1, rfl, h3, h4, h5, h6, e2, rfl, h7, h8, h9, h10, h11, by rw [if_pos h12, hu]⟩

/-- A barrier object and a block in g4 to g7 for one row or two of 64 bytes. -/
def wCp (a b c0 c3 : Word) : State :=
  let s := wBar 3 1 7 0
  s.setMe { s.me with g := ((((((s.me.g.set 1 a).set 2 b).set 4 (c0 + 64)).set 5 0x20000).set 6 (64 + 64 * 2 ^ 32)).set 7 c3) }

theorem witness_CarterInstructions : let k : Word := 2 ^ 26
    MemoryFree (wCp 0 0 0 0) ∧ fld (wCp 0 0 (3 * k) 0).me.g[4]! 27 26 = 3 ∧
    (∃ cmd u, Accepts (wCp 0x7FFC0 0x30000 0 0) .g2l false 1 2 4 cmd u) ∧
    (∃ cmd u, Accepts (wCp 0x30000 0x7FFC0 0 0) .l2g false 1 2 4 cmd u) ∧
    (∃ cmd u, Accepts (wCp (255 * 2 ^ 19) 0x100 0 0) .l2l false 1 2 4 cmd u) ∧
    (∃ cmd u, Accepts (wCp 0x30000 0x40000 0 0) .g2g false 1 2 4 cmd u) ∧
    (∃ cmd u, Accepts (wCp 0x30000 5 0 0) .fillG false 1 2 4 cmd u) ∧
    (∃ cmd u, Accepts (wCp 0x100 5 k 0) .fillL false 1 2 4 cmd u) ∧
    (∃ cmd u, Accepts (wCp 0x7FF80 0x30000 0 1) .g2l true 1 2 4 cmd u) ∧
    (∃ cmd u, Accepts (wCp 0x30000 0x100 k 1) .l2g true 1 2 4 cmd u) ∧
    (∃ cmd u, Accepts (wCp (255 * 2 ^ 19) 0x100 (2 * k) 1) .l2l true 1 2 4 cmd u) ∧
    (∃ cmd u, Accepts (wCp 0x30000 0x40000 (3 * k) 1) .g2g true 1 2 4 cmd u) ∧ (∃ t, Takes (wCp 0 0 0 0) [] [3] [] t) := by
  refine ⟨by simp only [MemoryFree]; decide +kernel, by decide +kernel, accepts_of (x := 0x7FFC0) (y := 0x30000) (key := 0x20000) ?_,
    accepts_of (x := 0x30000) (y := 0x7FFC0) (key := 0x20000) ?_, accepts_of (x := 255 * 2 ^ 19) (y := 0x100) (key := 0x20000) ?_,
    accepts_of (x := 0x30000) (y := 0x40000) (key := 0x20000) ?_, accepts_of (x := 0x30000) (y := 5) (key := 0x20000) ?_,
    accepts_of (x := 0x100) (y := 5) (key := 0x20000) ?_, accepts_of (x := 0x7FF80) (y := 0x30000) (key := 0x20000) ?_,
    accepts_of (x := 0x30000) (y := 0x100) (key := 0x20000) ?_, accepts_of (x := 255 * 2 ^ 19) (y := 0x100) (key := 0x20000) ?_,
    accepts_of (x := 0x30000) (y := 0x40000) (key := 0x20000) ?_, (takes_of _ (fun _ => true) (by decide +kernel)).imp fun _ h => h.1⟩ <;>
    decide +kernel

theorem witness_MessageSend : let s := (wG 0x100000000000000 0).setMe { (wG 0x100000000000000 0).me with outbox := [5] }
    MemoryFree s ∧ done (ready [1, 2] []) s = some ((), s) ∧
    (∃ a t, done (do
      let sc ← scopeFor .part .die
      let x ← readS 1
      let y ← readS 2
      pure (sc, x, y)) s = some (a, t) ∧ (decide (a = (Scope.die, 0x100000000000000, 0) ∧ t.me.outbox ≠ [] ∧ t.me.inFlight < 4) &&
        mayRelease t .rel .die) = true) ∧
    fld (0x100000000000000 : Word) 35 0 = 0 ∧ fld (0 : Word) 63 20 = 0 :=
  ⟨by simp only [MemoryFree]; decide +kernel, by decide +kernel, done_of (by decide +kernel), by decide +kernel⟩

theorem witness_MessageStatus : let m : Message :=
      { core := 1, slot := 2, tin := 3, reason := 0, nxm := false, fmt := 0, utag := 4, words := [5, 6], popped := 0 }
    (∃ t, Takes (w0.setMe { w0.me with inbox := [m] }) [] [3] [] t) ∧ w0.me.inbox = [] ∧ w0.me.inFlight < 8 ∧ w0.me.q5.length < 32 ∧
    (∀ i, i < 4 → w0.me.inq[i]!.length < 8 ∧ w0.me.outq[i]!.length < 8) := by
  refine ⟨(takes_of _ (fun _ => true) (by decide +kernel)).imp fun _ h => h.1, ?_, ?_, ?_, ?_⟩ <;> decide +kernel

/-- A tree entry of slot 0: root, with a local contribution, alone. -/
def wTree (r : Option TreeResult) : State :=
  (wG 0 32).setTree 0 0 { (w0.core 0).tree 0 with entry := 2 ^ 63 + 2 ^ 62 + 2 ^ 59, result := r }

theorem witness_TreePackets : let r : TreeResult := { epoch := 0, lanes := 1, incomplete := false, missing := 0, width := 16, data := [1] }
    (∃ t, EngineTakes (wTree none) (.redPkt 4 1 2) [0, 32] t ∧ (let q := onTurn (.redPkt 4 1 2) [0, 32] t;
      let n := (q.core q.myCore).tree 0;
      decide (bitOf n.entry 63 = true ∧ bitOf n.entry 59 = true ∧ fld n.entry 34 31 = q.cur % 16 ∧
        fld (32 : Word) 5 0 ≤ 1024 / treeWidth n.entry ∧ n.loc = none ∧ n.frozen = false)) = true) ∧
    (∃ t, EngineTakes (wTree (some r)) (.redRecv false 4 3 1) [0] t ∧ (let q := onTurn (.redRecv false 4 3 1) [0] t;
      let n := (q.core q.myCore).tree 0;
      decide (bitOf n.entry 63 = true ∧ bitOf n.entry 62 = true ∧ fld n.entry 34 31 = q.cur % 16 ∧ n.result = some r)) = true) := by
  refine ⟨engineTakes_of _ _ ?_ ?_ ?_, engineTakes_of _ _ ?_ ?_ ?_⟩
  all_goals (try simp only [EngineFree]) <;> decide +kernel

theorem witness_PlanAndTreeSetUp : let x : Word := 4 + 63 * 256; let bad : Word := 2 ^ 63 + 2 ^ 33
    let e : Word := 2 ^ 63 + 2 ^ 62 + 2 ^ 59
    (∃ t, Takes (wG x 0) [1, 2] [] [x, 0] t ∧ decide (t.routeFault t.myCore t.me.part t.me.priv 4 63 0 = none) = true) ∧
    (∃ t, Takes (wG x bad) [1, 2] [] [x, bad] t ∧ (t.routeFault t.myCore t.me.part t.me.priv 4 63 bad).isSome = true) ∧
    (∃ t, Takes (wG 7 e) [1, 2] [] [7, e] t ∧ decide (t.me.priv = true ∧ t.treeFault t.me.part e = none) = true) ∧
    (∃ t, Takes ((wG 7 e).setMe { (wG 7 e).me with sw := 0, ptroot := 2 ^ 44 }) [1, 2] [] [7, e] t ∧
      decide (t.me.priv = false ∧ (fld (t.part t.me.part).w0 7 0).testBit 7 = false) = true) ∧
    (fld x 2 0 < 5 ∧ fld x 7 3 = 0 ∧ fld x 63 14 = 0 ∧ fld x 13 8 = 63) :=
  ⟨takes_of _ _ (by decide +kernel), takes_of _ _ (by decide +kernel), takes_of _ _ (by decide +kernel),
    takes_of _ _ (by decide +kernel), by decide +kernel⟩

/-- A process of P0 with one queue of 16 places at handle 0, of which `n` are taken, resident on die 0. -/
def wQueue (n : Nat) : State :=
  let s := wG 0 0x20000
  let s := s.setPart 0 { s.part 0 with
    w6 := setFld (setFld (s.part 0).w6 28 16 8) 6 0 2
    w7 := 2 ^ 48 + 0x50000 }
  let s := wBytes s 0x50000 (bytesOf 8 placeRoot.toNat ++ bytesOf 8 0x51000 ++ [4])
  let s := wBytes (wBytes s 0x51000 (bytesOf 8 0x52000)) 0x52000 (bytesOf 8 0x53000 ++ bytesOf 4 n ++ bytesOf 4 0 ++ [4, 8])
  s.serveMiss 0 0 0 0

/-- The slot holds a task with a packet. -/
def wTask (s : State) : State := s.setMe { s.me with task := some { part := 0, lane := 0, packet := some (0, 0, 0x10000) } }

/-- Whether the queue is resident with `k` packets in its 16 places, and a packet can be read at a place. -/
def depthOk (k : Nat) (l : Option Loc) (t : State) : Bool :=
  doneAnd (queueFor 0) t fun a q =>
    decide ((q.release q.myCore .part).queueDepth a.2.part a.2.asn a.2.handle a.1 = k ∧ 2 ^ a.2.log2n = 16) &&
      (match l with
      | some l => (done (loadAt l 64) (q.release q.myCore .part)).isSome
      | none => true)

theorem witness_TaskQueuePushes :
    (∃ t l u, Takes (wQueue 3) [1, 2] [3] [0, 0x20000] t ∧ Finds t .r false 0x20000 l u ∧ depthOk 3 (some l) u = true) ∧
    (∃ t l u, Takes (wQueue 16) [1, 2] [3] [0, 0x20000] t ∧ Finds t .r false 0x20000 l u ∧ depthOk 16 (some l) u = true) ∧
    (∃ t, Takes (wTask (wQueue 3)) [1, 2] [3] [0, 0x20000] t ∧ (depthOk 3 none t && decide (t.me.task = some
      { part := 0, lane := 0, packet := some (0, 0, 0x10000) })) = true) ∧
    (∃ t, Takes (wTask (wQueue 16)) [1, 2] [3] [0, 0x20000] t ∧ depthOk 16 none t = true) ∧
    (wQueue 3).me.task.bind (fun k => k.packet) = none :=
  ⟨places_of _ _ _ _ (fun l u => depthOk 3 (some l) u) (by decide +kernel),
    places_of _ _ _ _ (fun l u => depthOk 16 (some l) u) (by decide +kernel),
    takes_of _ _ (by decide +kernel), takes_of _ (fun t => depthOk 16 none t) (by decide +kernel), by decide +kernel⟩

theorem witness_TaskQueueStatus : let s := wQueue 3
    (∃ t, Takes w0 [1] [3] [0x20000] t ∧ decide (t.queueAt t.me.part 0 0 = none) = true) ∧
    (let q : State := { s with residents := [] };
      q.queueAt 0 0 0 = some 0x52000 ∧ q.residentOn (dieOfCore q.myCore) 0 0 0 = none) ∧
    (∃ t, Takes s [1] [3] [0] t ∧ decide (t.queueAt t.me.part 0 0 = some 0x52000 ∧ t.queueInUse 0 0 0 = false ∧
      (∀ r ∈ t.residentOn (dieOfCore t.myCore) 0 0 0, r.prio < 4) ∧
      (∀ die ∈ t.diesOf 0, t.residentOn die 0 0 0 ≠ none ∨ t.placeFor die 0 ≠ none)) = true) ∧
    (∃ t, Takes (s.setPart 0 { s.part 0 with w6 := setFld (s.part 0).w6 6 0 0 }) [1] [3] [0] t ∧
      decide (∃ die ∈ t.diesOf 0, t.residentOn die 0 0 0 = none ∧ t.placeFor die 0 = none) = true) ∧
    ({ s with launches := [(0, { Launch.reset with isOpen := true, header := bytesOf 8 (2 ^ 62) })] } : State).queueInUse 0 0 0 = true ∧
    (s.core s.myCore).scan < 2 ^ 32 ∧ (s.core s.myCore).beat < 16 ∧ s.me.mode < 4 ∧ s.me.part < 16 ∧
    (∀ k ∈ s.me.task, k.lane < 2 ^ 16) :=
  ⟨takes_of _ _ (by decide +kernel), by decide +kernel, takes_of _ _ (by decide +kernel), takes_of _ _ (by decide +kernel),
    by decide +kernel, by decide +kernel⟩

/-- A gate of P0 in a state, with EXPECT 2 and all rights for P1. -/
def wGate (st : Nat) : State :=
  let s := wG 5 1
  s.setGate 5 { s.gate 5 with w0 := ofN (st * 2 ^ 62 + 2 ^ 54 + 2 * 2 ^ 49), rights := 0xF0, postcnt := 1 }

/-- The gate as the master of a bridged pair whose other entry the link has brought, or has not. -/
def wPair (brought : Bool) : State :=
  let s := wGate 0
  let g := { s.gate 5 with w3 := 0xC0000000 }
  (s.setGate 5 g).updHub (fun h => { h with partnerGates := if brought then [(g.peer, 0x80000005)] else [] })

/-- What a gate answers: 0 done, 1 done with a payload, 2 waits, and for a fault its code and 100. -/
def answerKind : GateAnswer → Nat
  | .done _ _ none => 0
  | .done _ _ (some _) => 1
  | .waits _ => 2
  | .fault c _ => 100 + c

theorem witness_GateInstructions : let q := fun (s : State) (op : Nat) (x : Word) => answerKind ((s.gate 5).apply op 0 0 0 x 0)
    (EngineFree (wGate 0) ∧ MemoryFree (wGate 0) ∧ (wGate 0).releaseHeld (wGate 0).myCore .part = false ∧ (wGate 0).me.wseq = none) ∧
    (∃ t, Takes (wGate 0) [1] [3] [5] t) ∧ (∃ t, Takes (wGate 0) [2, 1] [2] [1, 5] t) ∧
    (∃ t, Takes (wGate 0) [1] [] [5] t) ∧ (servedHere (wGate 0) 5 ∧ servedHere (wPair true) 5) ∧
    ((wPair false).paired 5 ((wPair false).gate 5) = false ∧ (((wPair false).gate 5).rightsOf 0).testBit 0 = true) ∧
    (q (wGate 0) 0 0, q (wGate 0) 1 1, q (wGate 0) 1 2, q (wGate 0) 2 1, q (wGate 0) 2 2, q (wGate 1) 2 1, q (wGate 3) 2 1) =
      (0, 1, 2, 1, 0, 119, 120) ∧
    answerKind (((wGate 0).gate 5).setArr 2 |>.apply 3 0 0 0 0 0) = 0 ∧ ((wGate 0).gate 5).valid = true ∧
    ((wGate 0).gate 5).state ≠ gsHeld ∧ (wGate 0).me.priv = true ∧ ((wGate 0).me.part = 0 ∨ ((wGate 0).gate 5).owner = (wGate 0).me.part) ∧ ((wGate 2).gate 5).state = gsHeld ∧ (((wGate 0).gate 5).rightsOf 0).testBit 0 = true ∧
    (((wGate 0).gate 5).rightsOf 2).testBit 0 = false := by
  refine ⟨by simp only [EngineFree, MemoryFree]; decide +kernel, ?_, ?_, ?_, by simp only [servedHere]; decide +kernel, by decide +kernel⟩ <;>
    exact (takes_of _ (fun _ => true) (by decide +kernel)).imp fun _ h => h.1

theorem witness_GateRules : let g := fun n => (wGate n).gate 5
    let wait : GateWaiter := { slot := 3, part := 0, wseq := 9, target := some 2 }
    let woken := { g 0 with waiters := [{ wait with answer := some (.done 1 7) }] }
    let gone := { g 0 with waiters := [{ wait with answer := some (.fault 17) }] }
    let full := { g 0 with waiters := [wait, { wait with wseq := 10, target := some 3 }] }
    (woken.waiter 9).bind (fun w => w.answer) = some (.done 1 7) ∧ woken.behind 9 = false ∧
    (gone.waiter 9).bind (fun w => w.answer) = some (.fault 17) ∧ wait.parked = false ∧ (woken.waiter 8).isNone = true ∧
    (full.postcnt + 1).toNat = 2 ∧ full.hasRight 1 0 = true ∧ wait.answer = none ∧
    (g 0).state = 0 ∧ (g 1).state = 1 ∧ (g 2).state = 2 ∧ (g 3).state = 3 ∧ (g 0).valid = true ∧
    ((g 0).rightsOf 15).testBit 3 = false ∧ ((g 0).rightsOf 1).testBit 1 = true ∧ (g 0).waiters = [] ∧
    (g 0).arrMask.testBit 1 = false ∧ pop16 ((g 0).arrMask + 2 ^ 1) < (g 0).expect ∧ (g 0).expect ≤ pop16 (1 + 2 ^ 1) ∧
    ((g 0).setArr 1).arrMask = 1 ∧ (0 : Word).toNat ≤ (g 0).postcnt.toNat ∧ (g 0).postcnt.toNat < (2 : Word).toNat := by
  decide +kernel

/-- A range that is read at issue, at a scope. -/
def rangeOk (x y : Word) (base : M Scope) : Bool :=
  (done (do
      let sc ← base
      let x ← readS 1
      let y ← readS 2
      pure (sc, x, y)) (wG x y)).isSome

/-- Whether an address has a place, and the place meets a test. -/
def placeOk (s : State) (need : Need) (dev : Bool) (f : State → Loc → Bool) : Bool :=
  match s.xlate s.asker s.me.ptroot need dev 0x20000 with
  | (u, .ok l) => f u l
  | (_, .error _) => false

theorem witness_CacheRanges : done (ready [1, 2] []) w0 = some ((), w0) ∧ rangeOk 0x20000 0 (scopeFor .core .die) = true ∧
    rangeOk 0x20000 0x4000 (scopeFor .core .die) = true ∧ rangeOk 0x20000 0x4000 (pure .die) = true ∧
    rangeOk 0x20000 0 (pure .die) = true ∧ w0.me.clPos = none ∧ (MemoryFree w0 ∧
    placeOk w0 .r true (fun u l => decide (l.key % 256 = 0 ∧ l.attr ≠ 2 ∧ u.rangeStalls u.me.part l.key 0x4000 = false ∧
      (u.rangeFlushU .die l.key 0x4000).rangeLate l.key 0x4000 = false)) = true ∧
    placeOk w0 .w true (fun u l => decide (l.key % 256 = 0 ∧ l.attr ≠ 2 ∧ u.rangeStalls u.me.part l.key 0x4000 = false)) = true) := by
  simp only [MemoryFree]
  decide +kernel

/-- RWAYS of P0 in the home slice of an address. -/
def wWays (m : Nat) : State := w0.setPart 0 { w0.part 0 with ways := [(w0.homeSlice 0x20000, m * 2 ^ 16 + 1)] }

/-- Lines of a place that is free, pinned by the own partition, pinned by another, at a retired slice, and unbacked; and an
address with no leaf. -/
theorem witness_PinsAndProbes : let at_ := fun (s : State) (f : State → Loc → Bool) => placeOk s .r false (fun u l => !u.holdingStall u.me.part l && f u l)
    let k := 0x20000 / 256
    let n := w0.homeSlice 0x20000
    let pin := fun (v : Nat) => w0.setSlice n { w0.slice n with pinned := [(k, v)] }
    let unb := wPage (0x1F + 2 ^ 63)
    let leaf := fun (s : State) (va : Nat) => match (s.leafFor s.asker s.me.ptroot va false).2 with
      | .error (.fault c _) => c
      | .error .walk => 100
      | .ok _ => 0
    (QueueFree w0 ∧ ∃ t, Takes w0 [1] [3] [0x20000] t) ∧
    at_ ((wWays 4).setSlice n { w0.slice n with pinned := [(k, 0)] }) (fun u l =>
      decide ((waysIn (nbits (u.waysOf u.me.part (u.homeSlice l.key)) 15 0)).find? (fun w =>
        !u.wayReserved (u.homeSlice l.key) w && (u.lineAt (u.homeSlice l.key) w (u.lineSet l.key)).isNone) = some 0)) = true ∧
    at_ w0 (fun u l => decide (isUnbacked l.key = false ∧ (u.slice (u.homeSlice l.key)).pinned.seek (l.key / 256) = none ∧
      (u.slice (u.homeSlice l.key)).retired = false)) = true ∧
    at_ (pin 0) (fun u l => decide ((u.slice (u.homeSlice l.key)).pinned.seek (l.key / 256) = some 0)) = true ∧
    at_ (pin 3) (fun u l => decide ((u.slice (u.homeSlice l.key)).pinned.seek (l.key / 256) = some 3)) = true ∧
    at_ (unb.setSlice n { unb.slice n with frames := [(0, 0)] }) (fun _ l => isUnbacked l.key) = true ∧
    at_ (wWays 4) (fun u l => decide (u.pinPlace u.me.part (u.homeSlice l.key) (u.lineSet l.key) = some 2)) = true ∧
    at_ (wWays 0) (fun u l =>
      (u.pinPlace u.me.part (u.homeSlice l.key) (u.lineSet l.key)).isNone) = true ∧
    (leaf w0 (2 ^ 47), leaf w0 (2 ^ 47 - 1), leaf w0 0x20000) = (6, 100, 0) := by
  refine ⟨⟨by simp only [QueueFree]; decide +kernel, (takes_of _ (fun _ => true) (by decide +kernel)).imp fun _ h => h.1⟩, ?_⟩
  decide +kernel

/-- A page of P0 bound at a frame of slice 63, and three frames of slice 0 on another die with no page. -/
def wMig : State :=
  let leaf : Word := ofN (2 ^ 63 + 63 * 2 ^ 52 + 0x1F)
  let s := wBytes w0 0x60000 (bytesOf 8 leaf.toNat)
  let s := s.setSlice 63 { s.slice 63 with
    frames := [(5, 0)], pages := [{ place := 5, part := 0, asn := 0, vpn := 5, leafPa := 0x60000, leaf := leaf, dirty := 0 }] }
  s.setSlice 0 { s.slice 0 with frames := [(3, 0), (4, 0), (7, 0)] }

/-- A shoot-down of cluster 0 that has removed its entries and waits for the atomic operation of slot 3. -/
def wShoot (bar : Option Nat) (removed : Option (List Nat)) : State :=
  let d : Shootdown := { cluster := 0, kind := 2, part := 0, asn := 0, va := 0, bar := bar, removed := removed }
  { wBar 3 1 7 64 with shoot := [d] }

theorem witness_FramesAndShootDowns : let s := (wBar 3 1 7 0)
    let via : Via := { part := 0, asn := 0, page := 8, level := 0 }
    let held := (wShoot none none).setSlice 63 { w0.slice 63 with amo := [{ key := 0x20000, core := 0, slot := 3, granted := true, via := via }] }
    let find := fun (s : State) => s.shoot.find? (fun e => decide (e.cluster = 0))
    let s := s.setMe { s.me with g := s.me.g.set 3 0xF0000 }
    s.me.priv = true ∧ (∃ a t, done (do
      ready [2, 1, 3] []
      let sc ← scopeFor .dev .part
      let x ← readS 2
      let y ← readS 1
      let z ← readS 3
      pure (sc, x, y, z)) s = some (a, t) ∧ decide (a = (Scope.part, 3, 0x20000, 0xF0000)) = true) ∧
    (∃ a q, done (do
      let key ← barPlace 0x20000
      let _ ← barValid key 0 0x20000
      pure key) s = some (a, q) ∧ decide (a = 0x20000 ∧ ((q.release q.myCore .dev).barCredit a 64).isSome = true) = true) ∧
    (∃ t, Takes (wG 63 192) [1, 2] [3] [63, 192] t ∧ decide ((t.slice 63).retired = false) = true) ∧
    (∃ t, Takes ((wMig).setMe { wMig.me with g := (wMig.me.g.set 1 0).set 2 2 }) [1, 2] [3] [0, 2] t ∧
      decide ((((t.slice 0).framesOf t.me.part).filter (fun f => !(t.slice 0).pages.any (fun q => decide (q.place = f)))).reverse =
        [7, 4, 3]) = true) ∧
    (QueueFree w0 ∧ MemoryFree s) ∧
    ((find (wShoot none none)).map (fun d => (d.removed, (wShoot none none).unperformed d)) = some (none, []) ∧
      (find held).map (fun d => (d.removed, held.unperformed d)) = some (none, [3]) ∧
      (find (wShoot (some 0x20000) (some [3]))).map (fun d => (d.bar, d.removed, (wShoot none none).unperformed d)) =
        some (some 0x20000, some [3], [])) ∧
    fld (0x3F000000 : Word) 23 20 = 0 ∧ fld (0x3F000000 : Word) 63 30 = 0 ∧ (w0.findPage 0 0 5) = none ∧
    (wMig.findPage 0 0 5).map (fun p => p.1) = some 63 ∧ (wMig.slice 1).freeFrame 0 = none ∧ (wMig.migrate 0 0 5 0).isSome = true ∧
    ({ wMig with mem := [] } : State).migrate 0 0 5 0 = none :=
  ⟨by decide +kernel, done_of (by decide +kernel), done_of (by decide +kernel), takes_of _ _ (by decide +kernel),
    takes_of _ _ (by decide +kernel), by simp only [QueueFree, MemoryFree]; decide +kernel, by decide +kernel⟩

/-- The slot at task privilege of P1. -/
def wTaskPriv : State := w0.setMe { w0.me with sw := 0, ptroot := setFld w0.me.ptroot 47 44 1 }

theorem witness_SystemRegisters : let low := wG 0x7FFF8 3; let high := wG 0x1000 3
    done (operands [] [3]) w0 = some ([], w0) ∧ EngineFree w0 ∧ (∃ t, Takes low [1] [] [0x7FFF8] t ∧
      decide ((0x7FFF8 : Word).toNat % 2 ^ 19 < t.me.slim.toNat ∧ t.me.slim.toNat % 8 = 0 ∧ t.me.sbase.toNat % 8 = 0 ∧
        t.me.sbase.toNat < (0x7FFF8 : Word).toNat % 2 ^ 19) = true) ∧
    (∃ t, Takes (high.setMe { high.me with slim := 0x1000 }) [1] [] [0x1000] t ∧
      decide (t.me.slim.toNat ≤ (0x1000 : Word).toNat % 2 ^ 19) = true) ∧
    (low.me.priv = true ∧ wTaskPriv.me.priv = false ∧ wTaskPriv.me.subcnt ≠ 1 ∧ (0x200 : Word).getLsbD 9 ≠ wTaskPriv.me.sw.getLsbD 9 ∧
      fld (0x200 : Word) 26 23 = 0) ∧ (∃ t, Takes w0 [1] [3] [0x20000] t) :=
  ⟨by decide +kernel, by simp only [EngineFree]; decide +kernel, takes_of _ _ (by decide +kernel), takes_of _ _ (by decide +kernel),
    by decide +kernel, (takes_of _ (fun _ => true) (by decide +kernel)).imp fun _ h => h.1⟩

/-- A bank as a whole ROM table, one with an entry that a seal refuses, one that is being sealed, and one of no partition. -/
theorem witness_DecodeTables : let k := w0.core 0
    let bad := w0.setCore 0 { k with tb := k.tb.put 3 { k.bank 3 with st := .unsealed, written := [(0, 0x80000000#32)] } }
    let n := w0.setPart 0 { w0.part 0 with w0 := setFld (w0.part 0).w0 11 8 7 }
    (∃ t, Takes (wG (0xFF00 + 3) 5) [1, 2] [] [0xFF00 + 3, 5] t ∧ decide ((t.part t.me.part).tbanks.testBit 3 = true ∧
      ((t.core t.myCore).bank 3).st ≠ .sealing) = true) ∧ fld (0xFF03 : Word) 7 2 = 0 ∧ fld (0xFF03 : Word) 63 16 = 0 ∧
    (∀ c, c < 256 → entryBad ((k.bank 1).entry c) = 0) ∧ entryClass ((k.bank 1).entry 0) = 0 ∧
    entryBad (((bad.core 0).bank 3).entry 0) ≠ 0 ∧ ((n.part n.me.part).tbanks.testBit 3 = false) := by
  refine ⟨takes_of _ _ (by decide +kernel), by decide +kernel, by decide +kernel, by decide +kernel, by decide +kernel,
    by decide +kernel, by decide +kernel⟩

/-- The code with which a word of the partition table is refused. -/
def setCode (sel v : Word) (t : State) : Nat :=
  t.partCode (t.putPartWord (fld sel 3 0) (fld sel 11 4) (fld sel 19 12) v) (fld sel 3 0) (fld sel 11 4) v

theorem witness_PartitionTable :
    w0.me.priv = true ∧ partIndexOk 9 0 = true ∧ fld (0x9F : Word) 63 20 = 0 ∧ fld (0x9F : Word) 11 4 = 9 ∧
    (∃ t, Takes (wG 0x9F 0x1FF) [1, 2] [3] [0x9F, 0x1FF] t ∧ decide (setCode 0x9F 0x1FF t = 0) = true) ∧
    (∃ t, Takes (wG 0x9F (BitVec.allOnes 64)) [1, 2] [3] [0x9F, BitVec.allOnes 64] t ∧
      decide (setCode 0x9F (BitVec.allOnes 64) t ≠ 0) = true) ∧
    (∃ t, Takes (wG 0x0F 0) [1, 2] [3] [0x0F, 0] t ∧
      decide (setCode 0x0F 0 t = 0 ∧ (t.putPartWord 15 0 0 0).tableHeld 15 = false ∧
        t.tableLost (t.putPartWord 15 0 0 0) 15 = false) = true) ∧
    (∃ t, Takes (wG 0x1F2F 5) [1, 2] [3] [0x1F2F, 5] t ∧
      decide (setCode 0x1F2F 5 t = 0 ∧ (t.putPartWord 15 2 1 5).tableHeld 15 = false ∧
        t.tableLost (t.putPartWord 15 2 1 5) 15 = false) = true) :=
  ⟨by decide +kernel, by decide +kernel, by decide +kernel, by decide +kernel, takes_of _ _ (by decide +kernel),
    takes_of _ _ (by decide +kernel), takes_of _ _ (by decide +kernel), takes_of _ _ (by decide +kernel)⟩

/-- The same slot with a matrix step of its own in the unit. -/
def wStep (s : State) : State :=
  s.setCore 255 { s.core 255 with matrix := [{ slot := 15, acc := 0, free := 5, done := 25, elems := [] }] }

/-- Another slot: parked with a thread, waiting for an event, ready, and without a thread. -/
theorem witness_SlotControl : let s := wG 0xFFF 0x20000
    let q := s.setSlot 0xFFF { s.slot 0xFFF with run := .parked .fault, task := s.me.task }
    let e := s.setSlot 0xFFF { s.slot 0xFFF with run := .waiting (.wfe 4 s.me.sig), task := s.me.task }
    let held := fun (s : State) => s.setSlice 0 { s.slice 0 with amo := [{ key := 0, core := 255, slot := 0xFFF, granted := true }] }
    s.me.priv = true ∧ (∃ t, Takes s [1] [3] [0xFFF] t ∧ decide ((0xFFF : Word).toNat % 2 ^ 12 ≠ t.cur) = true) ∧
    (∃ t, Takes e [1] [3] [0xFFF] t ∧ decide ((t.slot 0xFFF).parked = false ∧ (t.slot 0xFFF).stop = none ∧
      (t.slot 0xFFF).engq = [] ∧ (t.core (0xFFF / 16)).matrix = [] ∧ t.amoOpen 0xFFF = false) = true) ∧
    (∃ t, Takes (held e) [1] [3] [0xFFF] t ∧ decide ((t.slot 0xFFF).parked = false ∧ (t.slot 0xFFF).stop = none ∧
      (t.slot 0xFFF).engq = [] ∧ t.amoOpen 0xFFF = true) = true) ∧
    (∃ t, Takes (wStep e) [1] [3] [0xFFF] t ∧ decide ((t.slot 0xFFF).parked = false ∧ (t.slot 0xFFF).stop = none ∧
      (t.slot 0xFFF).engq = [] ∧ (t.core (0xFFF / 16)).matrix.map (·.slot) = [0xFFF % 16]) = true) ∧
    (∃ t, Takes s [1, 2] [3] [0xFFF, 0x20000] t ∧ decide ((t.slot 0xFFF).parked = true ∧ (t.slot 0xFFF).holds = false) = true) ∧
    (∃ t, Takes q [1, 2] [3] [0xFFF, 0x20000] t ∧ decide ((t.slot 0xFFF).run = .parked .fault ∧ (t.slot 0xFFF).holds = true ∧
      (t.slot 0xFFF).limit = 0 ∧ (t.slot 0xFFF).pc < 2 ^ 48) = true) ∧
    (∃ t, Takes e [1, 2] [3] [0xFFF, 0x20000] t ∧ decide ((t.slot 0xFFF).run = .waiting (.wfe 4 t.me.sig) ∧
      (t.slot 0xFFF).parked = false) = true) ∧
    (let k := e.setSlot 0xFFF { e.slot 0xFFF with run := .ready, wokeAt := e.now + 1, event := e.now + 1 };
      ((k.slot 0xFFF).run = .ready ∧ (k.slot 0xFFF).wokeAt = k.now + 1 ∧ (k.slot 0xFFF).event = k.now + 1)) ∧ GoodTarget ((0x20000 : Word).toNat : Int) := by
  refine ⟨by decide +kernel, takes_of _ _ (by decide +kernel), takes_of _ _ (by decide +kernel), takes_of _ _ (by decide +kernel),
    takes_of _ _ (by decide +kernel), takes_of _ _ (by decide +kernel), takes_of _ _ (by decide +kernel),
    takes_of _ _ (by decide +kernel), by decide +kernel, by simp only [GoodTarget]; decide +kernel⟩

theorem witness_Heartbeats : let s := fun (c action : Word) => wG c action; let off := (s 255 4).updHealth 255 (fun h => { h with offline := true })
    (∃ t, Takes (s 255 3) [1, 2] [] [255, 3] t ∧ decide ((255 : Word).toNat % 256 ≠ t.myCore) = true) ∧
    (∃ t, Takes (s 0 3) [1, 2] [] [0, 3] t ∧ decide (t.myCore = 0) = true) ∧
    (∃ t, Takes off [1, 2] [] [255, 4] t ∧ decide ((t.core 255).health.offline = true) = true) ∧
    (∃ t, Takes (s 255 7) [1, 2] [] [255, 7] t ∧ decide ((t.core 255).health.offline = false) = true) ∧
    (∃ t, Takes wTaskPriv [1] [3] [0x20000] t ∧ decide (t.me.priv = false ∧ t.inCoreSet t.me.part 0 = false) = true) ∧
    wTaskPriv.me.priv = false ∧ scalarReadable 23 = true ∧ scalarWritable 23 = true :=
  ⟨takes_of _ _ (by decide +kernel), takes_of _ _ (by decide +kernel), takes_of _ _ (by decide +kernel), takes_of _ _ (by decide +kernel),
    takes_of _ _ (by decide +kernel), by decide +kernel⟩

/-- An area whose header is accepted, and one of zeros. -/
def wArea : State := (wG 1 0x24000).physWrite 0x24000 [0x58, 0x43, 1, 0, 20]

/-- Whether the area's places are found for a parked slot, and a load of its sectors meets no fault. -/
def areaOk (s : State) : Bool :=
  doneAnd (areaPlaces .r 0x24000) s fun l u => decide (l.1.key % 32 = 0 ∧ (u.slot 1).parked = true) &&
    (done ((sectorKeys l.1.key 5120).mapM (fun sec => loadSector l.1 5120 sec (decide (l.1.attr = 0)))) u).isSome

theorem witness_Contexts : (∃ t, Takes wArea [1, 2] [3] [1, 0x24000] t ∧ areaOk t = true) ∧ wArea.me.priv = true ∧
    areaRefused ([0x58, 0x43, 1, 0, 20] ++ List.replicate 59 0) 0 = false ∧ areaRefused (List.replicate 64 0) 0 = true ∧
    (∃ a u, done (areaPlaces .w 0x24000) wArea = some (a, u) ∧ decide ((u.slot 1).parked = true ∧ (0x24000 : Word).toNat % 16384 + 5120 ≤ 16384 ∧
      (u.saveArea 1).length = 5120 ∧ u.anyReserved a.1.key 5120 = false ∧
      (u.storeBytes u.me.part u.myCore a.1.key (decide (a.1.attr = 0)) (u.saveArea 1)).releaseHeld u.myCore .dev = false) = true) :=
  ⟨takes_of _ areaOk (by decide +kernel), by decide +kernel, by decide +kernel, by decide +kernel, done_of (by decide +kernel)⟩

/-- Keys at home on the core's die and on another with an empty way that the core may take, a copy that stands, the directory
entry of an owner, and bytes up to a sector's end. -/
theorem witness_HomeRequests : let s := State.reset; let own := fun (i : Nat) => (match execSliceStoreRequest 0 (256 * i) s with
      | .next t => t
      | _ => s : State)
    let may := fun (core key : Nat) => decide (s.l1 core (key / 32) = none ∧ (s.atHome 0 key).mayCache 0 core key = true ∧
      11 ∈ waysIn (s.l1ways 0 core % 4096) ∧ (s.core core).l1At 11 (key / 32 % 4096) = none)
    (0x20000 % 32 = 0 ∧ s.l1 0 (0x20000 / 32) = none) ∧
    ((List.range 64).any fun i => decide (s.homeDie (256 * i) = dieOfCore 0) && may 0 (256 * i)) = true ∧
    ((s.homeDie 0x20000 ≠ dieOfCore 0 ∧ may 0 0x20000 = true) ∨ (s.homeDie 0x20000 ≠ dieOfCore 255 ∧ may 255 0x20000 = true)) ∧
    ((List.range 64).any fun i => decide (s.homeDie (256 * i) = dieOfCore 0 ∧ (own i).dirOf (256 * i) = .exc 0 ∧
      ((own i).l1 0 (8 * i)).isSome = true)) = true ∧
    s.anyReserved (0x20000 + 24) 8 = false ∧ s.anyReserved 0x20000 32 = false := by
  decide +kernel

theorem witness_ReservationSteps : let n := w0.homeSlice 0x20000
    let r : AmoRes := { key := 0x20000, core := 0, slot := 0, granted := true }
    let res := fun (l : List AmoRes) => w0.setAmo n l
    let wait := { r with granted := false }
    let next : AmoRes := { key := 0x20004, core := 255, slot := 4095, granted := false }
    let g := (w0.atHome 0 0x20000).recallSector 0x20000
    let bad := ((w0.setPoison 0x20000).atHome 0 0x20000).recallSector 0x20000
    w0.reserved 0x20000 = false ∧ (res [r]).reserved 0x20000 = true ∧ (res [r]).reserved 0x20007 = true ∧
    (res [r]).reserved 0x20008 = false ∧ g.isPoisoned 0x20000 = false ∧ bad.isPoisoned 0x20000 = true ∧
    (∀ i, i < 32 → ((w0.lineAtHome (w0.slot 0).part 0x20000).refreshU 0 0x20000).isPoisoned (0x20000 + 8 * i) = false) ∧
    w0.l1 (4095 / 16) (0x20000 / 32) = none ∧ w0.amoOf 4095 = none ∧ (res [r, next]).amoOf 4095 = some (n, next) ∧
    (res [r]).amoOf 0 = some (n, r) ∧ (res [wait]).amoOf 0 = some (n, wait) ∧ ((res [wait]).slice n).amo = [wait] ∧
    (((res [r]).slice n).amo.erase r).map (fun q => q.key / 8) = [] ∧
    (((res [r, next]).slice n).amo.erase r).find? (fun e => decide (e.key / 8 = r.key / 8)) = some next := by
  decide +kernel

/-- A request with one asker in the walk queue of the last cluster. -/
def wWalks : State := { w0 with walks := [(63, [{ part := 0, asn := 0, root := placeTable, page := 8, askers := [{ slot := 4095, kind := .data }] }])] }

/-- What a walk finds: 3 a stall, 2 a leaf, 1 no entry, 0 a poisoned table. -/
def walkKind (s : State) (cl va : Nat) : Nat :=
  match (s.walk cl 0 0 placeTable va).2 with
  | .leaf _ _ _ => 2
  | .absent => 1
  | .poisoned => 0
  | .stall => 3

theorem witness_WalksAndWakes :
    let c := w0.physWrite 0x20000 [3]
    let e := c.setSlot 1 { c.slot 1 with run := .waiting (.event 0x20000 3 false {}) }
    let v := c.setSlot 1 { c.slot 1 with run := .waiting (.conds 1 false), waitLeft := some 0 }
    let n := c.homeSlice 0x20000
    let q := e.setSlice n { e.slice n with watch := [(0x20000, 3, 1)] }
    (placeTable % 16384 = 0 ∧ placeTable < 2 ^ 44 ∧ w0.walks.val 0 [] = [] ∧ walkKind w0 0 (2 ^ 36 - 16384) = 2 ∧
      walkKind w0 0 (2 ^ 36) = 1 ∧ walkKind w0 0 (2 ^ 47 - 16384) = 1) ∧
    (((wWalks.walks.val 63 []).find? (fun r => r.covers 0 0 0x23FFF)).map (fun r => r.askers) =
      some [{ slot := 4095, kind := .data }] ∧ walkKind wWalks 63 0x20000 = 2) ∧
    (c.counterMet 0x20000 3 = true ∧ c.counterMet 0x20000 4 = false ∧ (q.slice n).watch = [(0x20000, 3, 1)]) ∧
    (e.slot 1).run = .waiting (.event 0x20000 3 false {}) ∧ (v.slot 1).run = .waiting (.conds 1 false) ∧ (v.slot 1).waitLeft = some 0 ∧
    0 ≤ v.now ∧ wakes 2 (v.slot 1).condMask false = false ∧ wakes 1 (v.slot 1).condMask false = true := by
  decide +kernel

/-- A slice with a bound page whose leaf has no LATE, and with a held page whose event is still to be posted. -/
def wPages : State :=
  State.reset.setSlice 5 { State.reset.slice 5 with
    frames := [(0, 0)]
    pages := [{ place := 0, part := 0, asn := 1, vpn := 2, leafPa := 0x40008010, leaf := 0x1F + 2 ^ 63, dirty := 1 }]
    holding := [{ part := 0, asn := 1, vpn := 3, leafPa := 0x40008018, leaf := 0x1F + 2 ^ 63, held := 1, waiting := 0, cause := 0
                  frame := 1, posted := false }] }

theorem witness_UnbackedPages : wPages.findPage 0 1 9 = none ∧ (wPages.findPage 0 1 2).isSome = true ∧
    (0x1F + 2 ^ 63 : Word).getLsbD 61 = false ∧ (∀ h ∈ (wPages.slice 5).holding, ¬ (h.part = 0 ∧ h.asn = 1 ∧ h.vpn = 2)) ∧
    (wPages.slice 5).heldLines ≤ 64 ∧
    ((wPages.slice 5).holding.find? (fun h => !decide (h.held = 0) && !h.posted)).isSome = true := by
  decide +kernel

theorem witness_MemoryErrors : State.reset.holdsLine (State.reset.physOf 0 (64 / 64 * 64)) = false ∧
    State.reset.physOf 31 (128 / 64 * 64) % 64 = 0 := by
  decide +kernel

/-- A matrix step of slot 1 of core 0 in the unit. -/
def wRuns (s : State) : State :=
  s.setCore 0 { s.core 0 with matrix := [{ slot := 1, acc := 0, free := 5, done := 25, elems := [] }] }

/-- A record that waits for P0's queue, with a queue that has room, with one that is full, and with none. -/
def wRecord (log2 tail : Nat) : State :=
  let s := w0.setPart 0 { w0.part 0 with w12 := ofN (log2 * 2 ^ 48 + 0x80000) }
  { s with fqWait := [{ queue := 0, code := 6, slot := some 1, bytes := List.replicate 128 0 }], fqTail := [(0, tail)] }

/-- Slot 1 with an AMO window open. -/
def wAmo (s : State) : State := s.setSlice 0 { s.slice 0 with amo := [{ key := 0, core := 0, slot := 1, granted := true }] }

/-- Slot 1 parked by its budget in a cycle. -/
def wParkedAt (n : Nat) : State := w0.setSlot 1 { w0.me with run := .parked .budget, parkedAt := w0.now + n }

theorem witness_Faults : let f : FaultInfo := { code := 6, addr := 0, loc := false, kind := 0, cause := 0, extra := [] }
    let h := w0.setMe { w0.me with trapv := 1 }
    let b := w0.setSlot 1 { w0.me with limit := 5, left := 0 }
    let d := w0.setSlot 1 { w0.me with deferred := [f] }
    (bitOf h.me.trapv 0 = true ∧ h.me.handler = false ∧ bitOf w0.me.trapv 0 = false ∧ w0.amoOf w0.cur = none) ∧
    (takeWaiting 0 w0.fqWait = none ∧ (takeWaiting 0 (wRecord 4 0).fqWait).isSome = true ∧ (wRecord 4 0).fqRoom 0 = true ∧
      (wRecord 4 15).fqRoom 0 = true ∧ (wRecord 4 16).fqRoom 0 = false ∧ (wRecord 0 0).fqRoom 0 = false) ∧
    ((b.slot 1).parked = false ∧ (b.slot 1).holds = true ∧ (b.slot 1).limit ≠ 0 ∧ (b.slot 1).left ≤ 0 ∧ (b.slot 1).stop = none ∧
      (b.slot 1).engq = [] ∧ (b.core 0).matrix = [] ∧ ((wRuns b).core 0).matrix.map (·.slot) = [1]) ∧
    ((wAmo b).amoOpen 1 = true ∧ b.amoOpen 1 = false ∧ d.amoOpen 1 = false ∧ ((wParkedAt 2).slot 1).run = .parked .budget ∧
      ((wParkedAt 2).slot 1).parkedAt = (wParkedAt 2).now + 2 ∧ ((wParkedAt 1).slot 1).parkedAt = (wParkedAt 1).now + 1) ∧
    (d.slot 1).deferred = [f] ∧ (w0.slot 1).parked = true ∧ (w0.slot 1).holds = false := by
  decide +kernel

theorem witness_SlotCommands : let q := w0.setSlot 1 { w0.me with run := .parked .fault }
    let b := wRuns (w0.setSlot 1 w0.me)
    ((b.slot 1).parked = false ∧ (b.slot 1).stop = none ∧ (b.slot 1).engq = [] ∧ (b.core 0).matrix.map (·.slot) = [1] ∧
      (w0.core 0).matrix = [] ∧ (w0.slot 0).stop = none ∧ (w0.slot 0).engq = [] ∧ w0.amoOpen 0 = false) ∧
    ¬ ((q.slot 1).run = .parked .budget ∧ (q.slot 1).parkedAt = q.now + 1) ∧
    (q.slot 1).run = .parked .fault ∧ (q.slot 1).holds = true ∧ (q.slot 1).limit = 0 ∧ (w0.slot 0).run = .ready ∧
    (w0.slot 0).holds = true ∧ (w0.slot 0).parked = false ∧ (w0.slot 1).parked = true ∧ (w0.slot 1).holds = false ∧
    (0x20000 : Word).toNat % 256 = 0 ∧ (0x20000 : Word).toNat + 5120 ≤ w0.dramEnd ∧ w0.anyPoison 0x20000 64 = false ∧
    fld (0x1000 * 2 ^ 32 : Word) 18 0 < fld (0x1000 * 2 ^ 32 : Word) 50 32 := by
  decide +kernel

/-- P1 with the first DRAM group and a window of 16 MiB at its start. -/
def wHost : State :=
  let s := State.reset.setPart 1 { State.reset.part 1 with w0 := setFld (setFld (State.reset.part 1).w0 63 63 1) 15 12 1 }
  match execHwinWrite 1 (2 ^ 44) s with
  | .next t => t
  | _ => s

theorem witness_HostWindows : let w : Word := 2 ^ 44
    fld w 47 44 = 1 ∧ fld w 43 24 = 0 ∧ (0 + 2 ^ 24 ≤ (wHost.hwin 1).2 ∧ ¬ (2 ^ 24 + 1 ≤ (wHost.hwin 1).2)) ∧
    2 ^ 24 ≤ wHost.dramEnd ∧ (fld (wHost.part 1).w0 15 12).testBit 0 = true ∧
    wHost.hwin 1 = (0, 2 ^ 24) ∧ wHost.hub.resetting.has 1 = false ∧ 2 ^ 24 < 2 ^ 28 ∧ wHost.anyPoison 0 8 = false ∧
    (∀ p ∈ wHost.posts, p.function ≠ 1) ∧ (wHost.part 1).en = true ∧ (wHost.part 2).en = false ∧ wHost.queueAt 1 0 0 = none ∧
    ({ wHost with hub := { wHost.hub with resetting := [(1, 0)] } } : State).hub.resetting.has 1 = true ∧
    wHost.hub.life = .manufacture ∧ wHost.hub.safe = none := by
  decide +kernel

/-- A queue with one packet of P0: a START packet for a header at 0x20000, or a packet of one WID for launch 0, which stands open
with the same header. -/
def wLaunch (start : Bool) (hdr : Nat) : State :=
  let s := wQueue 1
  let s := wBytes s (0x20000 + 40) (bytesOf 8 0x21000)
  let p := if start then bytesOf 8 hdr ++ List.replicate 10 0 ++ [0x40] ++ List.replicate 45 0
    else List.replicate 8 0 ++ [1] ++ List.replicate 55 0
  let s := wBytes s 0x53000 p
  if start then s else { s with launches := [(0, { Launch.reset with isOpen := true, header := s.peek 0x20000 128 })] }

/-- A WID of that launch in its lane FIFO, with the slot free. -/
def wLane : State :=
  let s := wLaunch false 0
  let s := s.setSlot 0 { s.slot 0 with task := none, run := .parked .noThread }
  { s with lanes := [{ part := 0, launch := 0, lane := 0, packet := s.peek 0x53000 64, wid := 0 }] }

/-- Every slice of the first die stalls P0, a line of which waits for room. -/
def wStalled (s : State) : State :=
  (List.range 64).foldl (fun s n => s.setSlice n { s.slice n with holding := [{ part := 0, asn := 0, vpn := 9, leafPa := 0x60000
                                                                                leaf := 0, held := 0, waiting := 1, cause := 0, frame := 1, posted := true }] }) s

/-- The packet of a queue that is not resident, marked as refused. -/
def wUnread : State :=
  { wLaunch true 0x20001 with residents := [], marks := [{ part := 0, asn := 0, handle := 0, num := 0, code := 1, eligible := true }] }

theorem witness_DispatcherSteps : ((wQueue 0).residentOn 0 0 0 0).isSome = true ∧ (wQueue 0).residentOn 1 0 0 0 = none ∧
    ((wQueue 0).queueAt 0 0 0).isSome = true ∧ (wQueue 0).placeFor 1 0 = some none ∧ (wQueue 0).queueAt 0 0 1 = none ∧
    (wQueue 0).pendingOn 0 0 0 0 = none ∧ (wLaunch false 0).laneReady 0 0 = none ∧ (wLane.laneReady 0 0).isSome = true ∧
    wLane.deferredDone 0 = false ∧ (wQueue 0).unreadOn 0 0 0 0 = none ∧ wUnread.pendingOn 0 0 0 0 = none ∧
    (match wUnread.unreadOn 0 0 0 0 with
      | some (num, p) => wUnread.passesBy 0 0 0 0 num p && !({ wUnread with marks := [] } : State).passesBy 0 0 0 0 num p
      | none => false) = true ∧ (wLaunch false 0).now < (wLaunch false 0).dieTurn.val 0 1 := by
  decide +kernel

/-- The head packet of the queue with its header, where it is a START packet that is not marked. -/
def wOpens (s : State) : Option (Option (List Byte) × List Byte) :=
  match s.pendingOn 0 0 0 0 with
  | some (_, r) =>
    if pkStart (s.headPacket r) = true ∧ s.markOf 0 0 0 r.dhead = none then some (s.headerOf 0 0 0 (s.headPacket r), s.headPacket r)
    else none
  | none => none

theorem witness_LaunchOpens : let s := wLaunch true 0x20000
    (match wOpens s with
      | some (some h, p) => decide (s.launchCode 0 0 0 0 { Launch.reset with header := h } p = 0) && !s.launchStalls 0 0 0 p &&
        (wStalled s).launchStalls 0 0 0 p
      | _ => false) = true := by
  decide +kernel

theorem witness_LaunchRefused : (wOpens (wLaunch true 0x20001)).map (·.1) = some none := by
  decide +kernel

theorem witness_PacketSteps : let work := wLaunch false 0
    (match work.pendingOn 0 0 0 0 with
      | some (_, r) => pkStart (work.headPacket r) == false && work.markOf 0 0 0 r.dhead == none
      | none => false) = true ∧ (work.launch 0).isOpen = true ∧
    work.packetCode 0 0 0 0 (work.launch 0) (work.peek 0x53000 64) = 0 ∧
    work.packetCode 0 0 0 0 (work.launch 0) (List.replicate 64 0) = 16 ∧
    work.packetStalls 0 0 (work.launch 0) (work.peek 0x53000 64) = false ∧
    work.depsMet 0 0 (work.launch 0) (work.peek 0x53000 64) = true ∧
    work.depsMet 0 0 (work.launch 0) (List.replicate 18 0 ++ [0x10] ++ List.replicate 37 0 ++ [1] ++ List.replicate 7 0) = false := by
  decide +kernel

theorem witness_LaunchEnds : let l := { Launch.reset with isOpen := true, header := List.replicate 128 0 }
    let s : State := { State.reset with launches := [(0, l)] }
    let d : State := { wLaunch false 0 with launches := [(0, { l with
      header := List.replicate 7 0 ++ [0x20] ++ List.replicate 32 0 ++ bytesOf 8 0x21000 ++ List.replicate 80 0 })] }
    l.isOpen = true ∧ (l.word 0).getLsbD 61 = false ∧ l.sent = l.recv ∧ l.lastSweep = none ∧ s.launchIdle 0 = true ∧
    d.deferredDone 0 = true ∧ d.counterStalls (d.launch 0).die 0 (d.launch 0) (fld ((d.launch 0).word 7) 31 16) = false ∧
    s.counterStalls (s.firstDie 0) 0 l (fld (l.word 7) 31 16) = false ∧
    (let q : State := { wStalled (wQueue 0) with launches := [(0, l)] };
      q.launchIdle 0 = true ∧ q.counterStalls (q.firstDie 0) 0 l (fld (l.word 7) 31 16) = true) := by
  decide +kernel

/-- A core of the reset state with another health entry. -/
def wHealth (h : Health) : State := State.reset.setCore 3 { State.reset.core 3 with health := h }

theorem witness_ReliabilitySteps : let h := (State.reset.core 3).health
    let e : ReplayEntry := { packet := List.replicate 64 0, pend := true, cause := 1, lane := 0xFFFF, launch := 0, part := 0, scan := 0 }
    let r : State := { State.reset with replay := [(16, e)], launches := [(0, { Launch.reset with isOpen := true })] }
    State.reset.pendingEntry 16 = none ∧ r.pendingEntry 16 = some e ∧ (r.core 1).health.gone = false ∧ (r.slot 16).holds = false ∧
    h.en = false ∧ h.leaving = false ∧ ((wHealth { h with en := true, posted := true }).core 3).health.posted = true ∧
    ((wHealth { h with en := true, misses := 1 }).core 3).health = { h with en := true, misses := 1 } ∧ h.posted = false ∧ h.misses = 0 ∧
    ((wHealth { h with leaving := true }).core 3).health.leaving = true ∧ (∀ i, i < 16 → State.reset.amoOpen (48 + i) = false) ∧
    (State.reset.setSlice 0 { State.reset.slice 0 with amo := [{ key := 0, core := 3, slot := 50, granted := true }] }).amoOpen
      (3 * 16 + 2) = true ∧
    r.counterStalls (dieOfCore (16 / 16)) 0 (r.launch 0) (pkCompl e.packet) = false ∧ e.part * 16 + e.launch = 0 ∧
    ((wHealth { h with lmfence := 4 }).core 3).health.lmfence.testBit 2 = true ∧ (0 : Word).getLsbD 2 = false := by
  decide +kernel

/-- The reset state with other facts of the hub. -/
def wHub (f : Hub → Hub) : State := { State.reset with hub := f State.reset.hub }

theorem witness_ResetSteps : State.reset.hub.life = .manufacture ∧ State.reset.hub.resetting.has 2 = false ∧
    (wHub (fun h => { h with resetting := [(2, 0)] })).hub.resetting.has 2 = true ∧ State.reset.sched.member ≠ some 2 ∧
    State.reset.anyAmoOpen (some 2) = false ∧
    (State.reset.setSlice 0 { State.reset.slice 0 with amo := [{ key := 0, core := 3, slot := 50, granted := true }] }).anyAmoOpen
      (some (State.reset.slot 50).part) = true ∧ State.reset.hub.overMs < 9 ∧ (wHub (fun h => { h with overMs := 9 })).hub.overMs = 9 ∧
    (wHub (fun h => { h with life := .provisioned })).hub.life = .provisioned ∧
    (wHub (fun h => { h with life := .deployed })).hub.life = .deployed ∧
    (wHub (fun h => { h with life := .return_ })).hub.life = .return_ := by
  decide +kernel

/-- The time-sliced group with P4 and P5 as ready members, P4 switched in. -/
def wTs : State :=
  let c := setFld (setFld (State.reset.part 4).w0 63 63 1) 62 62 1
  let s := (State.reset.setPart 4 { State.reset.part 4 with w0 := c }).setPart 5 { State.reset.part 5 with w0 := c }
  { s with sched := { s.sched with member := some 4 } }

theorem witness_TimeSliceSteps : let mark := fun (p : Nat) => ({ part := p, asn := 0, handle := 0, num := 0, code := 0, eligible := true } : PacketMark)
    let one : State := { wTs with marks := [mark 4] }
    let two : State := { wTs with marks := [mark 4, mark 5] }
    State.reset.sched.member = none ∧ State.reset.sched.switching = none ∧ one.sched.member = some 4 ∧ one.memberReady 4 = true ∧
    one.nextReady 4 = some 4 ∧ one.anyAmoOpen (some 4) = false ∧ two.anyAmoOpen (some 4) = false ∧
    (one.setSlice 0 { one.slice 0 with amo := [{ key := 0, core := 3, slot := 50, granted := true }] } |>.setSlot 50
      { one.slot 50 with ptroot := setFld 0 47 44 4 }).anyAmoOpen (some 4) = true ∧ two.memberReady 4 = true ∧ two.nextReady 4 = some 5 ∧
    4 ∈ two.members.filter two.memberReady ∧ two.sched.allot ≤ two.sched.ran + 1 := by
  decide +kernel

theorem witness_ScanSteps : let on : Word := 2 ^ 63 + 31250
    fld on 26 0 = 31250 ∧ fld on 58 32 = 0 ∧ on.getLsbD 63 = true ∧ (31250 : Word).getLsbD 63 = false ∧
    ((State.reset.setReg scancfgReg on).reg scancfgReg).getLsbD 63 = true ∧ (State.reset.reg scancfgReg).getLsbD 63 = false ∧
    State.reset.hub.tickAt = none ∧
    (wHub (fun h => { h with tickAt := some (State.reset.now, 7) })).hub.tickAt = some (State.reset.now, 7) ∧
    offAlign on 31250 = false ∧ offAlign on 31270 = true ∧ State.reset.hub.nextTick = none ∧ (wHub (fun h => { h with nextTick := some 5 })).hub.nextTick = some 5 ∧
    (wHub (fun h => { h with nextBeat := 3 })).hub.nextBeat = 3 ∧ (w0.cores.map (·.1)).Nodup ∧
    (let b := w0.setMe { w0.me with limit := 5, left := -2, run := .parked .budget }
     (b.slot b.cur).holds = true ∧ (b.slot b.cur).limit ≠ 0 ∧ (b.slot b.cur).left < 0 ∧ (b.slot b.cur).run = .parked .budget) := by
  decide +kernel

theorem witness_PairSteps : let on := wHub (fun h => { h with pair := [(2 ^ 32 - 1, 5)] })
    on.hub.pair.seek ((on.hub.scan + 2 ^ 32 - 1) % 2 ^ 32) = some 5 ∧ on.hub.pair.seek 7 = none ∧ on.pairEn = false ∧
    (on.setReg pairBase (2 ^ 63)).pairEn = true ∧
    (State.reset.setGate 3 { State.reset.gate 3 with w0 := setFld 0 54 54 1, w3 := setFld 0 31 31 1 }).gate 3 ≠ State.reset.gate 3 := by
  decide +kernel

/-- A gate of the given first and fourth words, with a bucket of P1. -/
def wEntry (w0 w3 : Word) : State :=
  State.reset.setGate 3 { State.reset.gate 3 with w0 := w0, w3 := w3, rights := 0xFFFF, buckets := [(1, 2 ^ 27 + 5)] }

theorem witness_GateTable : let g := (State.reset.gate 3); let v : Word := 2 ^ 54
    let b := (wEntry v (2 ^ 31 + 2 ^ 30)).gate 3
    bitOf v 48 = false ∧ fld v 15 0 = 0 ∧ fld v 53 49 ≤ 16 ∧ 16 < fld (17 * 2 ^ 49 : Word) 53 49 ∧ g.valid = false ∧
    ((wEntry v 0).gate 3).valid = true ∧ fld (0 : Word) 29 10 = 0 ∧ fld (2 ^ 27 + 2 ^ 59 : Word) 31 27 ≠ 0 ∧
    fld (2 ^ 27 + 2 ^ 59 : Word) 63 59 ≠ 0 ∧
    (let w := (wEntry v 0).gate 3
     w.state ≠ gsHeld ∧ bkPeriod (w.bucket 1) ≠ 0 ∧ bkTokens (w.bucket 1) < bkDepth (w.bucket 1)) ∧
    b.valid = true ∧ b.bridge = true ∧ b.master = true ∧ (match b.apply 2 1 4096 (2 ^ 32 + 1) 0 0 with
      | .done _ _ _ => true
      | _ => false) = true ∧
    ((wEntry (v + 2 ^ 63) 0).gate 3).state = gsHeld ∧ bitOf (2 ^ 63 + 0x10 : Word) 63 = true ∧
    fld (2 ^ 63 + 0x10 : Word) 3 0 ≠ fld (2 ^ 63 + 0x10 : Word) 7 4 ∧ State.reset.hub.remapBusy = false := by
  decide +kernel

/-- A master whose partner's entry the link has brought; an own operation that waits for its answer. -/
theorem witness_BridgedOperations : let s := (wEntry (2 ^ 54) (2 ^ 31 + 2 ^ 30 + 7)).updHub (fun h => { h with partnerGates := [(7, 0x80000003)] })
    let g := s.gate 3
    let b : BridgedOp := { slot := 5, gate := 3, op := 1, operand := 0, payload := 0, tag := 9, reply := none }
    g.valid = true ∧ g.bridge = true ∧ g.master = true ∧ g.peer = 7 ∧ s.paired 3 g = true ∧
    (s.updHub (fun h => { h with partnerGates := [] })).paired 3 g = false ∧
    (answerKind (g.apply 2 1 4096 s.wseq 0 0), answerKind (g.apply 1 1 4096 s.wseq 9 0), answerKind (g.apply 2 0 4096 s.wseq 0 0)) =
      (1, 2, 1) ∧ answerKind ({ g with rights := 0 }.apply 0 1 4096 s.wseq 0 0) = 117 ∧
    ((s.updHub (fun h => { h with bridged := [b] })).hub.bridged = [b] ∧ b.reply = none) := by
  decide +kernel

/-- A port in service, with one filter for destination 0 and VID 0 that takes an SDU of at most one byte. -/
def wPort : State :=
  ((State.reset.setReg (tpReg 0 0) (2 ^ 63)).setReg (filterReg 4) (2 ^ 63)).setReg (filterReg 4 + 8) (2 ^ 63 + 2 ^ 32 + 2 ^ 16)

theorem witness_TsnPorts : let f := List.replicate 12 (0 : Byte) ++ [8, 0] ++ List.replicate 46 0
    let n := (1 : Byte) :: f.tail
    bitOf (State.reset.reg (tpReg 0 0)) 63 = false ∧ bitOf (wPort.reg (tpReg 0 0)) 63 = true ∧
    frameParts (List.replicate 12 (0 : Byte) ++ [0x88, 0xA8]) = none ∧
    (match frameParts f with
     | some p => decide (p.etype ≠ 0x88F7 ∧ p.etype ≠ 0x88B6 ∧ wPort.filterOf 0 p = some 4 ∧
        fld (wPort.reg (filterReg 4 + 8)) 31 16 ≠ 0 ∧ fld (wPort.reg (filterReg 4 + 8)) 31 16 < p.payload.length)
     | none => false) = true ∧
    (match frameParts n with
     | some p => decide (wPort.filterOf 0 p = none)
     | none => false) = true ∧
    (match frameParts f with
     | some p =>
       let s := wPort.setReg (filterReg 4 + 8) (2 ^ 63 + 2 ^ 32)
       let w1 := s.reg (filterReg 4 + 8)
       let bound := fun (v : Word) => s.updHub (fun h => { h with regions := h.regions.put 4 { h.region 4 with bound := v } })
       decide (s.filterOf 0 p = some 4 ∧ fld w1 31 16 = 0 ∧ s.gateOpen (fld w1 61 54) = true ∧ bitOf w1 62 = false ∧
         s.recoveredOf 4 = none ∧ p.seq = none ∧ p.payload.length = 46 ∧ (s.setReg (sgReg 0) (2 ^ 63)).gateOpen (fld w1 61 54) = false ∧
         bindValid (s.hub.region 4).bound = false ∧ bindValid ((bound (2 ^ 63 + 2 ^ 43)).hub.region 4).bound = true ∧
         bindLen ((bound (2 ^ 63 + 2 ^ 43)).hub.region 4).bound < 46 ∧ 46 ≤ bindLen ((bound (2 ^ 63 + 2 ^ 46)).hub.region 4).bound)
     | none => false) = true ∧
    (frameParts (List.replicate 12 (0 : Byte) ++ [0x88, 0xB6] ++ List.replicate 46 0)).map (fun p => p.etype) = some 0x88B6 ∧
    (frameParts (List.replicate 12 (0 : Byte) ++ [0x88, 0xF7] ++ List.replicate 46 0)).map (fun p => p.etype) = some 0x88F7 ∧
    fld (2 ^ 62 + 2 ^ 32 : Word) 42 32 = 1 ∧ bitOf (2 ^ 62 + 2 ^ 32 : Word) 62 = true ∧
    (let p : ListPos := { ListPos.reset with running := true, entry := 0, len := 2, cycle0 := 0, until_ := 500 }
     p.running = true ∧ p.until_ < p.cycle0 + 1000 ∧ p.entry + 1 < p.len ∧ { p with len := 1 }.len ≤ p.entry + 1 ∧
       p.cycle0 + 500 ≤ p.until_) ∧
    1000 ≤ fld ((wPort.setReg (tpReg 0 0x18) 1000).reg (tpReg 0 0x18)) 29 0 ∧
    (wHub (fun h => { h with qbvPending := [(0, true)], sgPending := [(7, true)] })).hub.qbvPending.val 0 false = true ∧
    ((wHub (fun h => { h with qbvPos := [(0, { ListPos.reset with running := true })] })).hub.qbvPos.val 0 ListPos.reset).running
      = true ∧
    (State.reset.setReg (domainReg 1) (2 ^ 63 + 2 ^ 62)).isGm 1 = true ∧
    bitOf ((State.reset.setReg (domainReg 1) (2 ^ 63)).reg (domainReg 1)) 63 = true ∧
    (State.reset.setReg (domainReg 1) (2 ^ 63)).isGm 1 = false := by
  decide +kernel

/-- The reset state with a decided frame of stream 0 for port 0. -/
def wFrame (s : State) (safe : Option (Nat × Nat × Bool)) : State :=
  { s with hub := { s.hub with
    safe := safe, egFrames := [{ stream := 0, scan := 0, payload := List.replicate 46 0, cfg := 2 ^ 63, hdr0 := 0, hdr1 := 0 }] } }

theorem witness_ImageAndEgress : let v : Word := 2 ^ 63 + 2 ^ 43; let c : Word := 2 ^ 63 + 46 * 2 ^ 29
    (State.reset.setReg (pibindReg 9) v).reg (pibindReg 9) = v ∧ bindValid v = true ∧ 1 ≤ fld v 56 43 ∧ fld v 56 43 ≤ 8192 ∧
    fld v 21 3 * 8 + fld v 56 43 * 8 ≤ State.reset.hub.splitPending.getD State.reset.hub.split * 65536 ∧
    1 * 65536 < bindOff (v + 65536) + bindLen (v + 65536) ∧ bindOff (v + 65536) < 4 * 2 ^ 20 ∧
    (List.range 512).all (fun g => !bindValid (State.reset.reg (pibindReg g))) = true ∧
    (List.range 256).all (fun e => !esEn (State.reset.escfg e)) = true ∧
    esEn c = true ∧ 1 ≤ esLen c ∧ esLen c ≤ 1500 ∧ esStatOff c < esLen c ∧
    esOff c + 8 + esLen c ≤ 4 * 2 ^ 20 - max (State.reset.hub.splitPending.getD State.reset.hub.split) State.reset.hub.split * 65536 ∧
    (let old := State.reset.setReg (escfgReg 3) c
     esEn (old.escfg 3) = true ∧ esOff (c + 2 ^ 40) ≠ esOff (old.escfg 3)) ∧ (bitOf (0x10001 : Word) 16 = true ∧ fld (0x10000 : Word) 11 0 = 0 ∧
       fld (0x10001 : Word) 11 0 ≠ 0 ∧ fld (0x10001 : Word) 11 0 ≠ 0xFFF) ∧
    ((wFrame wPort none).hub.egFrames.find? (fun g => decide (g.stream = 0))).isSome = true ∧ 8 ≤ State.reset.hub.resultBytes ∧ (∀ f ∈ (wFrame wPort none).hub.egFrames, f.stream = 0 ∧ (wFrame wPort none).canSend f = true ∧
      (wFrame State.reset none).canSend f = false) ∧ (wFrame wPort none).standby = false ∧
    ((wFrame wPort none).setReg pairBase (2 ^ 63)).standby = true ∧ (wFrame wPort (some (1, 2, true))).hub.safe = some (1, 2, true) := by
  decide +kernel

/-- A record of one row of one sample of 8 bits, uncompressed, for stream 0, with the checksum of its header. -/
def wSkein (payload : List Byte) : List Byte :=
  let h : List Byte := [0x53, 0x4B, 0x10, 0, 0, 0, 1, 0, 1, 0, 0, 1] ++ List.replicate 12 0 ++ [1, 0, 0, 0, 0, 0]
  h ++ bytesOf 2 (crc16 0xFFFF (h.map BitVec.toNat)) ++ payload

/-- Sensor port 0 with that record, and its stream in the port's table. -/
def wSensor (f : SensorPort → SensorPort) : State :=
  let s := State.reset.setReg (spBase 0 + 0x40) (2 ^ 63)
  s.setSensor 0 (f (s.sensor 0))

/-- An accepted record of that form. -/
def wRec (payload : List Byte) (started : Option Nat) : SkRecord :=
  { header := (wSkein payload).take 32, payload := payload, stamp := 0, arrived := 0, slowMult := 8, place := 0, started := started
    runs := [(0, 1)], ended := none }

theorem witness_SensorPorts : let l := wSkein [7]; let f : SkFrame := { rest := l, arrived := 0, scan := 0, size := 51 }
    let q := wSensor (fun x => { x with fifo := [f] }); let eth := List.replicate 12 (0 : Byte) ++ [0x88, 0xB5]
    (q.sensor 0).fifo = [f] ∧ (q.sensor 0).records = [] ∧ q.checkRecord 0 l 0 = .pass ∧ skMagic l = 0x4B53 ∧
    (l.drop ((32 + skPaylen l + 7) / 8 * 8) = [] ∧ skMagic (0 :: l) ≠ 0 ∧ skMagic (0 :: l) ≠ 0x4B53) ∧
    (8 ≤ fld (0x800 : Word) 15 8 ∧ fld (0x7FF : Word) 15 8 < 8) ∧
    fld (State.reset.reg (spBase 0)) 47 32 = (sensorParts eth).1 ∧
    fld (State.reset.reg (spBase 0)) 47 32 ≠ (sensorParts (List.replicate 60 0)).1 ∧
    (let big := wSensor (fun x => { x with fifo := [{ f with size := 38400 - 18 }] })
     let full := wSensor (fun x => { x with fifo := [{ f with size := 38400 - 17 }] })
     ¬ 38400 < ((big.sensor 0).fifo.map (·.size)).sum + eth.length + 4 ∧
     38400 < ((full.sensor 0).fifo.map (·.size)).sum + eth.length + 4) := by
  decide +kernel

theorem witness_SensorRecords : let one := fun (rs : List SkRecord) => wSensor (fun x => { x with records := rs })
    let wait := wRec [7] none; let lane := wRec [7] (some 0); let bad := { lane with payload := [] }
    let spoil := { lane with header := lane.header.take 2 ++ [0x11] ++ lane.header.drop 3 }
    (wait.started = none ∧ lane.started = some 0 ∧ lane.ended = none ∧ skRows lane.header = 1) ∧
    ((one [lane, wait]).staged 0 + skDecoded wait.header ≤ 131072 ∧
      131072 < (one [{ lane with runs := [(0, 131072)] }, wait]).staged 0 + skDecoded wait.header ∧
      131072 - (one [{ lane with runs := [(0, 131072)] }, wait]).staged 0 < 19200) ∧
    ((one [wait]).sensor 0).paused = false ∧ spPause (State.reset.spcfg 0) = false ∧
    spPause ((match execSpcfgWrite 0 (2 ^ 31 + 0x800) State.reset with
      | .next t => t
      | _ => State.reset).spcfg 0) = true ∧
    ((one [{ lane with runs := [(0, 131072)] }]).sensor 0).paused = false ∧
    131072 - (one [{ lane with runs := [(0, 131072)] }]).staged 0 < 19200 ∧ bitOf (2 ^ 31 + 0x800 : Word) 31 = true ∧
    (let p := wSensor (fun x => { x with paused := true }); (p.sensor 0).paused = true ∧ 38400 ≤ 131072 - p.staged 0) ∧
    lane.takes lane.cycles = true ∧ wait.takes lane.cycles = false ∧ decodeRecord lane.header [7] = some [[7]] ∧
    decodeRecord spoil.header spoil.payload = none ∧ spoil.takes spoil.cycles = true ∧ bad.takes bad.cycles = true ∧
    (let late := { one [lane] with now := 10000 }
     let early := one [lane]
     late.overdue 0 lane = true ∧ early.overdue 0 lane = false ∧ (late.sensor 0).slowq.length < 4) ∧
    ((one []).setSensor 0 { (one []).sensor 0 with slowq := List.replicate 4 lane } |>.sensor 0).slowq.length = 4 ∧
    (State.reset.hub.scan + 2 ^ 32 - lane.stamp) % 2 ^ 32 ≤ State.reset.slowStale 0 ∧
    State.reset.slowStale 0 < (State.reset.hub.scan + 2 ^ 32 - 5) % 2 ^ 32 := by
  decide +kernel

theorem witness_LoomArray : let own : Word := 2 ^ 59 + 4 * 2 ^ 56 + 4 * 2 ^ 53 + 4 * 2 ^ 50; let l := State.reset.lectl 17
    let on := match execLectlWrite 1 1 (2 ^ 63) (match execStageWordWrite 1 1 0 own State.reset with
      | .next t => t
      | _ => State.reset) with
      | .next t => t
      | _ => State.reset
    bitOf l 63 = false ∧ stageBad 1 1 own = false ∧ stageBad 1 1 (31 * 2 ^ 59) = true ∧ bitOf (on.lectl 17) 63 = true ∧
    on.stageWord 17 (on.element 17).stage = own ∧ stOp own = 1 ∧ stSa own = 4 ∧ stSb own = 4 ∧ stDst own = 4 ∧
    stSa (2 ^ 59 : Word) < 4 ∧ (on.element 17).link 0 = [] ∧ 0x18000 < ((0x18000 : Word).toNat + 8) ∧
    (0x17FF8 : Word).toNat % 8 = 0 ∧ (0x17FF8 : Word).toNat + 8 ≤ 0x18000 := by
  decide +kernel

/-- A row of stream 0. -/
def wRow : Row :=
  { info := { stream := 0, line := 0, stamp := 3, sampled := 0, late := false, slowFill := false, since := 0 }, bytes := [], clip := false }

/-- Window 0 of core 0 with one free slot, exit 0 as given, and one metadata entry in its queue. -/
def wExit (cfg : Word) (x : Exit) : State :=
  let s := State.reset.setWindow 0 0 { State.reset.window 0 0 with cfg := 2 ^ 63 + 2 ^ 44, free := 1 }
  let s := s.setReg (lxcfgReg 0) cfg
  { s.setExit 0 x with hub := { (s.setExit 0 x).hub with rowMeta := [(0, [wRow.info])] } }

theorem witness_StreamWindows : let v : Word := 2 ^ 63
    let big := wExit 0 (State.reset.exit 0)
    fld v 62 61 ≠ 3 ∧ fld v 18 0 % 256 = 0 ∧ bitOf v 63 = true ∧ bitOf (State.reset.window 0 0).cfg 63 = false ∧
    State.reset.swRefused 0 0 (swMask v) = false ∧ State.reset.swRefused 0 0 (swMask (v + 0x7FF00)) = false ∧
    State.reset.swRefused 0 0 (swMask (v + 2 ^ 52 + 0x7FF00)) = true ∧ fld (big.window 0 0).cfg 43 40 = 0 ∧
    bitOf (big.window 0 0).cfg 63 = true := by
  decide +kernel

theorem witness_StreamExits : let on : Word := 2 ^ 63 + 2 ^ 29; let x := State.reset.exit 0
    let whole := { x with whole := true, free := 1 }
    lxEn on = true ∧ lxCols on = 1 ∧ lxCols (2 ^ 63) = 0 ∧ lxEn (State.reset.lxcfg 0) = false ∧
    (wExit 0 x).exitBad 0 on = false ∧ (wExit on whole).lxcfg 0 = on ∧ (wExit on whole).exit 0 = whole ∧
    (wExit on whole).hub.rowMeta.val (lxEntry on) [] = [wRow.info] ∧ lxRows (2 ^ 55) ≠ 1 ∧ lxHold on = 0 ∧
    (wExit on { whole with free := 0 }).exitFate 0 ≠ 2 ∧
    (let blocks := (wExit on { whole with free := 0 }).setWindow 0 0 { State.reset.window 0 0 with cfg := 2 ^ 63 + 2 ^ 62 }
     blocks.exitFate 0 = 2 ∧ (blocks.exit 0).free = 0 ∧ (blocks.exit 0).blocked = none) ∧
    fld (0x400 : Word) 19 9 ≠ fld (State.reset.lxdst 0) 19 9 := by
  decide +kernel

theorem witness_StreamBatches : let on : Word := 2 ^ 63 + 2 ^ 29 + 2 ^ 55; let x := State.reset.exit 0
    let b : Batch := { seq := 65535, rows := [wRow], pitch := 0, per := 1, core := 0, win := 0 }
    let s := wExit on { x with batch := [wRow], closed := [b] }
    let w := s.window 0 0
    let place := swBase w.cfg + (w.head + w.filled) % swSlots w.cfg * swSize w.cfg
    let lost := s.setPart 0 { s.part 0 with w0 := setFld (s.part 0).w0 31 16 0 }
    let held := wExit on { x with held := [wRow] }
    (s.exit 0).batch ≠ [] ∧ (s.exit 0).closed = [b] ∧ bitOf w.cfg 63 = true ∧ 1 ≤ w.free ∧
    (s.core 0).lmWiping place (swSize w.cfg) = false ∧ (s.core 0).lmFenced place (swSize w.cfg) = false ∧
    ((s.updHealth 0 (fun h => { h with lmfence := 0xFFFF })).core 0).lmFenced place (swSize w.cfg) = true ∧ lmOwned (s.part w.owner).banks place (swSize w.cfg) = true ∧
    lmOwned (lost.part w.owner).banks place (swSize w.cfg) = false ∧ s.away w.owner = false ∧ wRow.info.stamp < 2 ^ 32 ∧
    (held.exit 0).held = [wRow] ∧ (held.exit 0).blocked = none ∧ (held.exit 0).batch = [] ∧ lxRows on ≠ 1 ∧
    1 ≤ (held.window 0 0).free - ((held.exit 0).closed.filter (fun b => decide (b.core = 0 ∧ b.win = 0))).length := by
  decide +kernel

/-- A pattern fill of the own LM: eight bytes at 0x100, no debit. -/
def wFill : CpCmd :=
  { kind := .fillL, a := 0x100, b := 0x0102, c0 := 8 + 2 ^ 24, c1 := 0, c2 := 0, c3 := 0, rows := 1, idx := 0, priv := true
    ptroot := placeRoot, barKey := 0x30000, row := 0, col := 0, landed := 0, held := false }

/-- The slot of `w0` with a Carter queue. -/
def wCarter (l : List CpCmd) (run : Run) : State := w0.setMe { w0.me with run := run, cp := { w0.me.cp with queue := l } }

theorem witness_CarterChunks : let gs := w0.cur; let s := wCarter [wFill] .ready; let c := wFill
    let far := { c with kind := .l2g, b := 0x7FFFF }; let gap := w0.setPart 0 { w0.part 0 with w0 := setFld (w0.part 0).w0 31 16 0x7FFF }
    (w0.slot gs).cp.queue = [] ∧ (s.slot gs).cp.queue = [c] ∧ (s.slot gs).run = .ready ∧ c.row < c.rows ∧ c.tagen = false ∧
    c.dstRow c.row + c.col = ((0x100 : Nat) : Int) ∧ c.chunk 64 = 8 ∧ (s.core 0).health.gone = false ∧
    lmOwned (s.part 0).banks 0x100 8 = true ∧ (s.core 0).lmWiping 0x100 8 = false ∧ (s.core 0).lmStoreError 0x100 8 = none ∧
    ((w0.setSlot gs (w0.slot gs)).barDebit c.barKey 8).2 = false ∧
    far.srcRow far.row + far.col = ((0x7FFFF : Nat) : Int) ∧ lmOwned (s.part 0).banks 0x7FFFF (far.chunk 64) = false ∧
    lmOwned (gap.part 0).banks 0x77FFF 1 = true ∧ lmOwned (gap.part 0).banks 0x77FFF 2 = false ∧
    ((wCarter [{ c with held := true }] (.parked .fault)).slot gs).run = .parked .fault := by
  decide +kernel

/-- Core 0 with an injection entry that sends queue `q` of slot 0 to the east. -/
def wRoute (w : List QWord) : State :=
  let s := w0.setCore 0 { w0.core 0 with route := [(0, { RteEntry.reset with val := 2 ^ 63 + 2 * 2 ^ 60 })] }
  s.setSlot 0 { s.slot 0 with outq := s.me.outq.set 0 w }

/-- Core 0 with an arrival entry of link 2 and a word that arrives there now, its entry naming slot 0. -/
def wArrives (e : Word) (ptr : Nat) : State :=
  let w : PisteWord := { cycle := 0, link := 2, valid := true, data := 1, nxm := false, fmt := 0, ni := none }
  w0.setCore 0 { w0.core 0 with piste := [w], route := [(2 * 64, { RteEntry.reset with val := e, ptr := ptr })] }

theorem witness_PisteWords : let s := wRoute [{ val := 5, nxm := false, fmt := 1 }]
    let e := ((s.core 0).routeSettle s.now).route.val (s.now % 64) RteEntry.reset
    let at_ := fun (v : Word) (ptr : Nat) => ((((wArrives v ptr).core 0).routeSettle 0).route.val (2 * 64) RteEntry.reset)
    let q : Word := 2 ^ 63 + 2 ^ 58 + 3 * 2 ^ 52; let lm : Word := 2 ^ 63 + 2 ^ 59
    bitOf e.val 63 = true ∧ fld e.val 62 60 = 2 ∧ fld e.val 3 2 = 0 ∧ neighbour 0 2 = some 1 ∧
    (s.slot 0).outq[0]! = [{ val := 5, nxm := false, fmt := 1 }] ∧ ((wRoute []).slot 0).outq[0]! = [] ∧
    (∀ w ∈ ((wArrives q 0).core 0).piste, w.cycle ≤ (wArrives q 0).now ∧ w.valid = true ∧ w.nxm = (w0.slot 0).nxm) ∧
    bitOf (at_ 0 0).val 63 = false ∧ bitOf (at_ q 0).val 63 = true ∧ fld (at_ q 0).val 62 60 = 0 ∧ fld (at_ q 0).val 59 58 = 1 ∧
    fld (at_ q 0).val 57 54 = 0 ∧ ((w0.slot 0).inq[fld (at_ q 0).val 53 52]!).length < 4 ∧ fld (at_ lm 192).val 59 58 = 2 ∧
    lmOwned (w0.part 0).banks (at_ lm 192).ptr 32 = true ∧ fld (at_ lm 192).val 28 25 = 0 ∧ (at_ lm 192).ptr % 256 ≠ 224 := by
  decide +kernel

/-- A message of the slot of `w0` to itself, with the TIN that it names. -/
def wFlight (tin : Nat) (pos : FlightAt) (first : Option Nat) : Flight :=
  { fromTin := tin, part := 0, dstCore := 0, dstSlot := w0.cur, pos := pos, firstRefusal := first, halves := 0, launch := none
    counted := true, plan := false
    msg := { core := 0, slot := w0.cur, tin := tin, reason := 0, nxm := false, fmt := 0, utag := 9, words := [5], popped := 0 } }

/-- The slot with that message, and `n` messages in its inbox. -/
def wSends (n tin : Nat) (pos : FlightAt) (first : Option Nat) : State :=
  let s := w0.setMe { w0.me with flights := [wFlight tin pos first], inbox := List.replicate n (wFlight tin pos first).msg }
  { s with now := 4096 }

/-- An earlier message to the same destination still on its way, and the later one at its destination. -/
def wTwo : State :=
  let f := wFlight w0.me.tin .crossing none
  let s := wSends 0 w0.me.tin .sender none
  s.setMe { s.me with flights := [{ f with num := 1, plan := true }, { f with pos := .arrived, plan := true }] }

/-- A bank that a fence covers. -/
theorem witness_FencedArrival :
    (((wArrives (2 ^ 63 + 2 ^ 59) 192).updHealth 0 (fun h => { h with lmfence := 0xFFFF })).core 0).lmFenced 192 32 = true ∧
    ((wArrives (2 ^ 63 + 2 ^ 59) 192).core 0).lmFenced 192 32 = false := by
  decide +kernel

theorem witness_MessageDelivery : let gs := w0.cur; let tin := w0.me.tin; let f := wFlight tin .sender none
    let ok := wSends 0 tin .sender none; let full := wSends 8 tin .sender none; let late := wSends 8 tin .sender (some 0)
    let back := wSends 0 tin .senderBounce none
    (ok.core 0).health.gone = false ∧ ok.inCoreSet 0 0 = true ∧ (ok.part 0).slotMask.testBit w0.cur = true ∧
    (∀ k ∈ (ok.slot gs).task, k.part = 0) ∧ (ok.slotFor 0 gs).holds = true ∧ ok.nextMessage gs = some (0, f) ∧ (ok.slot gs).heldBack 0 f = false ∧
    ok.verdict f = .deliver ∧ ok.saved.seek 0 = none ∧ full.verdict f = .refuse ∧
    (wSends 0 (tin + 1) .sender none).verdict (wFlight (tin + 1) .sender none) = .bounce 1 ∧
    late.timedOut gs = some (0, wFlight tin .sender (some 0)) ∧ ok.timedOut gs = none ∧ ok.nextBounce gs = none ∧
    back.nextBounce gs = some (0, wFlight tin .senderBounce none) ∧ (back.slot gs).tin = tin ∧
    (back.slot gs).part = f.part ∧ (back.slot gs).holds = true ∧ (back.slot gs).inbox.length < 8 ∧
    ((wSends 8 tin .senderBounce none).slot gs).inbox.length = 8 ∧
    ((wTwo.nextMessage gs).map (·.1) = some 1 ∧ (wTwo.slot gs).heldBack 1 { f with pos := .arrived, plan := true } = true) ∧
    (wHealth { (State.reset.core 3).health with offline := true } |>.core 3).health.gone = true := by
  decide +kernel

theorem witness_TreesTilesEngines : let p : RedPacket := { tree := 0, epoch := 0, src := 1, lanes := 1, incomplete := false, present := 1, data := [3] }
    let e : Word := 2 ^ 63 + 2 ^ 62 + 2 ^ 61 + 2 ^ 60 + 2 ^ 43
    let n := { (State.reset.core 0).tree 0 with entry := e }
    let t : State := { State.reset.setTree 0 0 { n with left := some p, timer := some 0 } with now := 256 }
    let x : Sending := { dest := 0, tile := wTile, plan := false, put := 0, got := 0 }
    let ring := (wLatch none).setCore 1 { (wLatch none).core 1 with
      latch := { Latch.reset with holder := some 0, sending := some x, outstanding := 1 } }
    let ring := (ring.setSlot 0 { ring.slot 0 with mringPred := 1 })
    let m : MatrixWrite := { slot := 0, acc := 2, free := 0, done := 0, elems := List.replicate 1024 7 }
    let q := fun (i : Instr) (x : Word) => w0.setMe { w0.me with engq := [{ instr := i, words := [], pc := 0, srcs := [x], banks := [] }] }
    let start := fun (i : Instr) (x : Word) => ((startOf i).map (fun f => f [x] w0) : Option (Except Stop (Unit × State)))
    let how := fun (i : Instr) (x : Word) => (match start i x with
      | some (.ok _) => 0
      | some (.error (.wait ..)) => 1
      | some (.error (.fault ..)) => 2
      | none => 3 : Nat)
    bitOf e 63 = true ∧ treeHasL e = true ∧ treeLeft e = p.src ∧ treeHasR e = true ∧ n.left = none ∧ n.right = none ∧ n.frozen = false ∧ n.epoch = 0 ∧
    ((State.reset.core 0).tree 0).timer = none ∧ bitOf ((State.reset.core 0).tree 0).entry 63 = false ∧
    ((t.core 0).tree 0).timer = some 0 ∧ 0 + 256 * 2 ^ fld ((t.core 0).tree 0).entry 22 19 ≤ t.now ∧ treeRoot e = true ∧ n.result = none ∧ n.early = [] ∧
    (ring.core 1).latch.sending = some x ∧ ({ x with plan := true } : Sending).there = false ∧ x.there = true ∧ (ring.core 1).latch.holder = some 0 ∧
    (ring.core 0).spill = [] ∧ ring.tileFor 0 1 (ring.slot 16).part = some 0 ∧ ring.tileSpills 0 0 = false ∧ (ring.core 0).latch.bank0 = none ∧
    m.elems.length = 1024 ∧ ((State.reset.setCore 0 { State.reset.core 0 with matrix := [m] }).core 0).matrix = [m] ∧
    (q (.vXor 1 2 3) 0).me.engq ≠ [] ∧ how (.vXor 1 2 3) 0 = 0 ∧ how (.vld true 1 1) 1 = 2 ∧ (wTr true).me.tr.active = true ∧
    (wTr true).me.engq = [] := by
  decide +kernel

/-- A node of core 1 below the root at core 0, with its time up; the same with nothing else of its epoch, and frozen while its
parent has no room. -/
def wChild (frozen : Bool) (room : Bool) : State :=
  let e : Word := 2 ^ 63 + 2 ^ 59
  let p : RedPacket := { tree := 0, epoch := 0, src := 1, lanes := 1, incomplete := false, present := 1, data := [3] }
  let n := { (State.reset.core 1).tree 0 with entry := e, loc := some p, timer := some 0, frozen := frozen }
  let s := State.reset.setTree 1 0 n
  { s.setTree 0 0 { (s.core 0).tree 0 with entry := 2 ^ 63 + 2 ^ 61 + 2 ^ 43, left := if room then none else some p } with now := 256 }

theorem witness_TreeTimeouts : let n := ((wChild false true).core 1).tree 0
    n.timer = some 0 ∧ 0 + 256 * 2 ^ fld n.entry 22 19 ≤ (wChild false true).now ∧ bitOf n.entry 63 = true ∧ n.frozen = false ∧
    treeRoot n.entry = false ∧ (wChild false true).mayDeliver 1 0 = true ∧ n.early = [] ∧
    (((wChild true false).core 1).tree 0).frozen = true ∧ (wChild true false).mayDeliver 1 0 = false ∧
    ((((wChild true true).core 0).tree 0).timer = none ∧ (((wChild true true).core 0).tree 0).frozen = false ∧
      (((wChild true true).core 0).tree 0).parts.all Option.isSome = false) := by
  decide +kernel

/-- An engine start and a replay that read an uncorrectable register word, and ones that read none. -/
theorem witness_EngineErrors : let i : Instr := .vXor 1 2 3
    let bad := fun (s : State) => s.setCore 0 { s.core 0 with regBad := [unitPlace 0 (unitV 2)] }
    let q := w0.setMe { w0.me with engq := [{ instr := i, words := [], pc := 0, srcs := [], banks := [] }] }
    let waits := q.setMe { q.me with engq := [{ instr := .vDec8 1 2 0, words := [], pc := 0, srcs := [], banks := [] }] }
    let waits := waits.setCore 0 { waits.core 0 with tb := (waits.core 0).tb.put 0 { (waits.core 0).bank 0 with st := .sealing } }
    let rep := wTr true
    let how := fun (r : Except Stop (Unit × State)) => (match r with
      | .ok _ => 0
      | .error (.wait ..) => 1
      | .error (.fault ..) => 2 : Nat)
    ((bad q).core 0).unitsBad (w0.cur % 16) (startUnits i) = true ∧ (q.core 0).unitsBad (w0.cur % 16) (startUnits i) = false ∧
    ((startOf i).isSome = true ∧ (wAmo q).amoOpen 1 = true ∧ q.amoOpen q.cur = false) ∧
    (startOf (.vDec8 1 2 0)).map (fun f => how (f [] waits)) = some 1 ∧
    (rep.me.tr.buf[rep.me.tr.j]?).map (fun b => b.instr) = some i ∧ how (replayOp (rep.engineOf rep.cur true)) = 0 ∧
    ((bad rep).core 0).unitsBad (rep.cur % 16) (startUnits (renamed (rep.me.tr.p * rep.me.tr.stride) i)) = true ∧
    ((rep.core 0).unitsBad (rep.cur % 16) (startUnits (renamed (rep.me.tr.p * rep.me.tr.stride) i)) = false ∧ rep.me.engq = []) := by
  decide +kernel

/-- Whether an outcome is a next state. -/
def nexts (o : Host.Outcome State Fault Refusal) : Bool :=
  match o with
  | .next _ => true
  | _ => false

theorem witness_StepRunsDecoded : let s := State.reset.withFetchWord 16 0x02A5
    s.agenda = [] ∧ s.hub.safe = none ∧ s.phase = .issue ∧ (match s.nextIssue with
      | some p => (let u : State := { s with cur := s.turnSlot (p / 16) (p % 16) }
        decide ((u.core u.myCore).regBad = []) && (match u.fetchHalf u.me.pc with
         | (t, .ok h) => decide (h = 0x02A5 ∧ isPrefix h = false) && (match decodeWords [h] with
           | .ok c => decide (t.me.issues c = .run t.me.sig ∧ t.me.directions c.instr = true ∧ bitOf t.me.sw 9 = false ∧
              t.me.tr.capture = 0 ∧ c.fold.guard = none) && (match exec c.instr (t.latch [h] (isBlockEnder c.instr) t.me.sig) with
                | .next _ => true
                | _ => false)
           | _ => false)
         | _ => false))
      | none => false : Bool) = true ∧
    (match decodeWords [0xFE04, 0x02A5] with
     | .ok c => decide (c.fold.guard ≠ none) && (match w0.me.issues c with
        | .skip _ => true
        | _ => false) && (w0.setCore 0 { w0.core 0 with regBad := [unitPlace 0 (unitV 2)] }).unitsBad
          (condUnits (c.fold.guard.toList.map (·.cond)) ++ issueUnits (.vExt .s8 1 2 3)) == false
     | _ => false) = true ∧
    (w0.setCore 0 { w0.core 0 with regBad := [unitPlace 0 5] }).unitsBad (issueUnits (.add 2 5 5)) = true ∧
    w0.unitsBad (issueUnits (.add 2 5 5)) = false ∧
    (isPrefix 0xFE04 = true ∧ isPrefix 0xF7FF = false ∧ isPrefix 0xF800 = true) ∧
    ({ State.reset with agenda := [.safeFrames] } : State).agenda = [.safeFrames] ∧ State.reset.nextIssue = none := by
  decide +kernel

theorem witness_WholeMachine : (Instr.add 2 5 5).wf = true ∧ ownWords (.add 2 5 5) = true ∧
    Memory.wf [(1, 2), (5, 3)] = true ∧ State.reset.mem = [] ∧ nexts (step State.reset) = true ∧ State.reset.agenda = [] ∧
    (wHub (fun h => { h with safe := some (1, 0, false) })).hub.safe ≠ none := by
  decide +kernel

theorem witness_Frames : scalarDest (.add 2 5 5) = some 2 ∧ w0.me.owed = [] ∧ w0.me.inq[1]! = [] ∧ w0.amoOf w0.cur = none ∧
    nexts (exec (.add 2 5 5) w0) = true ∧
    ((w0.setMe { w0.me with inq := w0.me.inq.set 2 [{ val := 5, nxm := false, fmt := 0 }] }).me.inq[2]!).length = 1 := by
  decide +kernel

/-- `w0` after a store of one byte at a key: the core holds the line. -/
def wHolds (key : Nat) : State := w0.storeBytes 0 0 key true [1] (placeTable, ofN placeLeaf)

/-- The three cases of a store to a line, a near one and one of DRAM of another die: held, a miss off the die with a free
way, and uncached at its home. -/
theorem witness_StoreFrames : let k := 0x20000; let far := w0.groupBytes
    let h := wHolds k; let g := w0.atHome 0 k
    w0.homeDie k = dieOfCore 0 ∧ w0.homeDie far ≠ dieOfCore 0 ∧ k % 32 + 32 ≤ 32 ∧
    (h.l1 0 (k / 32) ≠ none ∧ (h.core 0).l1dBad = [] ∧ h.dirOf k = .exc 0 ∧ (h.slice (h.homeSlice k)).badData = [] ∧
      h.holdsLine k = true) ∧
    (wHolds far).l1 0 (far / 32) ≠ none ∧
    (w0.l1 0 (far / 32) = none ∧ (w0.atHome 0 far).mayCache 0 0 far = true ∧ 11 ∈ waysIn (w0.l1ways 0 0 % 4096) ∧
      (w0.core 0).l1At 11 (far / 32 % 4096) = none ∧ (w0.core 0).l1dBad = []) ∧
    (g.l1 0 (k / 32) = none ∧ g.dirOf k = .unc ∧ g.holdsLine k = true ∧ (g.slice (g.homeSlice k)).badData = []) := by
  decide +kernel

/-! ## Single steps and operations, with results that the specification works out -/

/-- The machine after an instruction, where it completes. -/
def after (i : Instr) (s : State) : State :=
  match exec i s with
  | .next t => t
  | _ => State.reset

/-- The table of R209. -/
theorem test_division : ([(7, -2), (-7, 2), (5, 0), (2 ^ 63, -1)] : List (Word × Word)).map (fun p =>
      [Instr.div 3 1 2, .rem 3 1 2, .divz 3 1 2, .remz 3 1 2].map (fun i => (after i (wG p.1 p.2)).me.g[3]!)) =
    [[-3, 1, 0, 7], [-3, -1, 0x7FFFFFFFFFFFFFFC, 1], [0xFFFFFFFFFFFFFFFF, 5, 0xFFFFFFFFFFFFFFFF, 5],
      [0x8000000000000000, 0, 0, 0x8000000000000000]] := by decide +kernel

/-- The chain of R198's example: its words, its folded fields and its signature stream. -/
theorem test_guarded_addi :
    ([[0xFA80, 0xFE08, 0xF9F6, 0x2934], [0xF9F6, 0xFE08, 0xFA80, 0x2934]] : List (List Half)).map (fun ws =>
      match decodeWords ws with
      | .ok c => (some c.instr, foldWord c.fold, imm32 c.instr c.fold, signatureStream c.instr c.fold)
      | .error _ => (none, 0, 0, [])) =
    List.replicate 2 (some (.addi 9 1 (-300)), 0x0289080021000000, 0xFFFFFED4,
      [0xD4, 0xFE, 0xFF, 0xFF, 0, 0, 0, 0x21, 0, 8, 0x89, 2, 9, 1]) := by decide +kernel

/-- The chains of R198's example that are refused, and the branch into the middle of one. -/
theorem test_refused_chains : (([[0xF9F6, 0xF9F6, 0xF9F6, 0xF9F6, 0x2934], [0xF9F6, 0x0000], [0xFC00, 0x2934], [0xFD60, 0x0000],
      [0xFE08, 0xA103]] : List (List Half)).map (fun ws =>
      match decodeWords ws with
      | .ok _ => none
      | .error e => some e)) =
      [some DecodeError.illegalPrefix, some .illegalPrefix, some .illegalPrefix, some .illegalOpcode, some .illegalPrefix] ∧
    decodesAs [([0x2934], .addi 1 1 (-12))] = true := by decide +kernel

/-- The fragment of chapter 9: each line's words decode to it. -/
theorem test_fragment : decodesAs [([0x310A], .movi 1 10), ([0x3200], .movi 2 0), ([0x0241], .add 2 2 1),
    ([0xC11F], .loop 1 (-1)), ([0xFC24, 0xF801, 0x5952], .cmpi .gt 1 2 50), ([0xF9FE, 0x2A4E], .addi 2 2 (-50)),
    ([0x2008], .tend), ([0xFC54, 0x8D48], .stZ64Ordered .rel .part 5 2 8),
    ([0xFC4B, 0xFA01, 0x2CD7], .amoFadd .acq .die true 4 6 7)] = true := by decide +kernel

/-- The stack of R221's example: calls 1 to 5 with g23 at 0x7F020 and SLIM 0x7F020, then a return. -/
theorem test_call_stack : let s := wG 0 0
    let s := s.setMe { s.me with g := s.me.g.set 23 0x7F000, sbase := 0x7F000, slim := 0x7F020 }
    let first := s.setMe { s.me with g := s.me.g.set 23 0x7F020 }
    (after (.calli 4) first).me.g[23]! = 0x7F018 ∧ (after (.calli 4) s).me.run = .parked .fault ∧
    (after .ret s).me.g[23]! = 0x7F008 := by decide +kernel

/-- Places of chapter 1, R64 and R88: core 2.5.3, and the line at 0x1_2345_DABC. -/
theorem test_places : meshRow 171 = 13 ∧ meshCol 171 = 3 ∧ clusterOf 171 = 41 ∧
    State.reset.channelOf 0x12345DABC = (1, 0x48D176BC) ∧ State.reset.homeSlice 0x12345DABC = 9 := by decide +kernel

/-- The walk of R76's example. -/
theorem test_walk : let s := State.reset.physWrite 0x400918 (bytesOf 8 0x404001)
    let s := s.physWrite 0x405158 (bytesOf 8 0x408001)
    let s := s.physWrite 0x408F10 (bytesOf 8 0x12345C00F)
    (match (s.walk 0 0 0 0x400000 0x123456789ABC).2 with
     | .leaf _ w _ => decide (w = 0x12345C00F)
     | _ => false) = true := by decide +kernel

/-- The Rice segment of R32's example: the four samples. -/
theorem test_rice : riceSegments 4 8 1 (bitsOf [0x02, 0xFF, 0x10, 0x40]) = some ([[0x10, 0x12, 0x11, 0x11]], []) := by decide +kernel

/-- The encoding table of R180. -/
theorem test_encode : let b := TBank.reset 0
    [0x3F980000, 0x3FA80001, 0x43F00000, 0x7F800000, 0x7FC00000].map (fun x => b.encode 256 false x) =
      [(0x3A, flNX), (0x3A, flNX), (0x7E, flOF), (0x7E, flOF), (0x7F, 0)] ∧
    ((TBank.reset 1).encode 256 true 0x7F800000).1 = 0x7C ∧ ((TBank.reset 1).encode 256 false 0x7F800000) = (0x7B, flOF) ∧
    b.decode false 0x3A = 0x1FD00 := by decide +kernel

/-- The block of R183's example: the sum is exact. -/
theorem test_block : accumulate 0 ([0x4580, 0x3F80, 0xC580].map bf16.decode) ([0x4580, 0x3F80, 0x4580].map bf16.decode) 127 127 =
    0x3F800000 := by decide +kernel

/-- The sums of R414's example under RNE. -/
theorem test_fadd : [0x3F800000, 0xCB800000, 0x3F800000].foldl (fun a x => (f32Add .rne a x).1) (f32Add .rne 0 0x4B800000).1 =
    0x3F800000 := by decide +kernel

/-- The write-backs of R93's example: two cores' dirty bytes of a line in state U meet at its home. -/
theorem test_u_merge : let line := fun (b : Nat) (m : BitVec 32) =>
      ({ st := .u, data := BitVec.ofNat 256 (b * 2 ^ 128), dirty := m, unfetched := 0, poison := false } : L1Line)
    let s := (State.reset.setCore 64 { State.reset.core 64 with l1d := [(0x1000, line 0x8877665544332211 0xFF0000)] })
    let s := s.setCore 65 { s.core 65 with l1d := [(0x1000, line 0xCAFEF0BEEF000000 0xF80000)] }
    ((s.flushU 64).flushU 65).peekNat 0x20010 8 = 0xCAFEF0BEEF332211 := by decide +kernel

end Sys2Proof.Tests
end

/-! # System registers

What the fields of a word are bit by bit, what `SYS.RD`, `SYS.WR` and `CAP.RD` end in, and the values and writes of the
numbered registers (R163 to R166, R315, R318). -/

namespace Sys2Proof.Machine

open Sys2Proof.Safety

/-! ## Fields and masks -/

theorem fld_testBit (x : Word) (hi lo i : Nat) :
    (fld x hi lo).testBit i = (decide (i < hi + 1 - lo) && x.getLsbD (lo + i)) := by
  simp [fld, nbits, Nat.testBit_mod_two_pow, Nat.testBit_div_two_pow, BitVec.getLsbD, Nat.add_comm]

/-- A field depends on its own bits alone. -/
theorem fld_congr {x y : Word} {hi lo : Nat} (h : ∀ i, lo ≤ i → i ≤ hi → x.getLsbD i = y.getLsbD i) :
    fld x hi lo = fld y hi lo := by
  refine Nat.eq_of_testBit_eq fun i => ?_
  rw [fld_testBit, fld_testBit]
  by_cases hi' : i < hi + 1 - lo
  · rw [h (lo + i) (by omega) (by omega)]
  · simp [hi']

/-- A field in its place is the word under the field's mask. -/
theorem ofN_fld_mul (x : Word) (hi lo : Nat) :
    ofN (fld x hi lo * 2 ^ lo) = x &&& ofN ((2 ^ (hi + 1 - lo) - 1) * 2 ^ lo) := by
  refine BitVec.eq_of_getLsbD_eq fun i hi' => ?_
  simp only [ofN, BitVec.getLsbD_and, BitVec.getLsbD_ofNat, Nat.testBit_mul_two_pow, fld_testBit, Nat.testBit_two_pow_sub_one]
  by_cases hlo : lo ≤ i
  · simp [hi', hlo, Bool.and_comm]
  · simp [hlo]

/-- The parts of a word under masks that share no bit add up to the word under both. -/
theorem and_add_and {x m n : Word} (h : m &&& n = 0) : (x &&& m) + (x &&& n) = x &&& (m ||| n) := by
  have disjoint : (x &&& m) &&& (x &&& n) = 0 := by
    calc (x &&& m) &&& (x &&& n) = (x &&& x) &&& (m &&& n) := by ac_rfl
      _ = 0 := by simp [h]
  rw [BitVec.add_eq_or_of_and_eq_zero _ _ disjoint, BitVec.and_or_distrib_left]

theorem maskWord_getLsbD (m : Nat) (new old : Word) {i : Nat} (hi : i < 64) :
    (maskWord m new old).getLsbD i = if m.testBit i then new.getLsbD i else old.getLsbD i := by
  simp only [maskWord, ofN, BitVec.getLsbD_or, BitVec.getLsbD_and, BitVec.getLsbD_not, BitVec.getLsbD_ofNat]
  cases m.testBit i <;> simp [hi]

/-- A field whose bits the mask takes is that of the new word. -/
theorem fld_maskWord_new {m hi lo : Nat} (new old : Word) (hhi : hi < 64)
    (h : ∀ i < 64, lo ≤ i → i ≤ hi → m.testBit i = true) : fld (maskWord m new old) hi lo = fld new hi lo :=
  fld_congr fun i hl hh => by rw [maskWord_getLsbD _ _ _ (by omega), h i (by omega) hl hh, if_pos rfl]

/-- A field whose bits the mask leaves out is that of the old word. -/
theorem fld_maskWord_old {m hi lo : Nat} (new old : Word) (hhi : hi < 64)
    (h : ∀ i < 64, lo ≤ i → i ≤ hi → m.testBit i = false) : fld (maskWord m new old) hi lo = fld old hi lo :=
  fld_congr fun i hl hh => by rw [maskWord_getLsbD _ _ _ (by omega), h i (by omega) hl hh]; rfl

theorem b2n_eq_toNat (b : Bool) : b2n b = b.toNat := by cases b <;> rfl

/-- The fields that a descriptor read keeps are four ranges of bits (R161). -/
theorem descRead_eq_and (x : Word) : descRead x = x &&& 0x0007FFFF00008C0F#64 := by
  have bit15 : b2n (bitOf x 15) = fld x 15 15 := by
    refine Nat.eq_of_testBit_eq fun i => ?_
    rw [b2n_eq_toNat, Nat.testBit_bool_toNat, fld_testBit, bitOf]
    cases i <;> simp
  have low : ofN (fld x 3 0) = x &&& 0xF#64 := by
    have h := ofN_fld_mul x 3 0
    rwa [Nat.pow_zero, Nat.mul_one] at h
  have sum (a b : Nat) : ofN (a + b) = ofN a + ofN b := BitVec.ofNat_add a b
  rw [descRead, bit15, sum, sum, sum, ofN_fld_mul, ofN_fld_mul, ofN_fld_mul, low,
    and_add_and (by decide), and_add_and (by decide), and_add_and (by decide)]
  rfl

/-! ## Operand reads -/

/-- Two slots that differ in no more than what a read of an operand pops (R155). -/
def Slot.PopsTo (x y : Slot) : Prop :=
  y = { x with inq := y.inq, inbox := y.inbox, q5 := y.q5, q7 := y.q7 }

theorem Slot.popInbox_popsTo (x : Slot) : x.PopsTo x.popInbox := by
  unfold Slot.popInbox
  split
  · rfl
  · split <;> rfl

section
variable {s t : State} {v w : Word} {f : Slot → Slot}

theorem pop_popsTo (h : (do updMe f; pure v) s = .ok (w, t)) (hf : s.me.PopsTo (f s.me)) : s.me.PopsTo t.me := by
  rw [M.bind_ok (updMe_apply f s)] at h
  cases h
  rwa [State.me_setMe]

/-- A pop of a typed word comes after the receiver's check (R173). -/
theorem checkedPop_popsTo {c : Bool} {code : Nat}
    (h : (do needL c code; updMe f; pure v) s = .ok (w, t)) (hf : s.me.PopsTo (f s.me)) : s.me.PopsTo t.me := by
  obtain ⟨_, _, check, h⟩ := M.bind_eq_ok.1 h
  obtain ⟨-, rfl⟩ := needL_eq_ok.1 check
  exact pop_popsTo h hf

/-- An operand read changes the executing slot by no more than a pop. -/
theorem readS_popsTo {n : Nat} (h : readS n s = .ok (w, t)) : s.me.PopsTo t.me := by
  rw [readS, M.bind_ok (me_apply s)] at h
  by_cases general : n < 24
  · rw [if_pos general] at h
    cases h
    rfl
  rw [if_neg general] at h
  by_cases queue : n < 28
  · rw [if_pos queue] at h
    cases hq : s.me.inq[n - 24]! with
    | nil => rw [hq] at h; cases h
    | cons q qs => rw [hq] at h; exact checkedPop_popsTo h rfl
  rw [if_neg queue] at h
  by_cases inbox : n = 28
  · rw [if_pos inbox] at h
    cases hq : s.me.inbox with
    | nil => rw [hq] at h; cases h
    | cons m ms => rw [hq] at h; exact checkedPop_popsTo h s.me.popInbox_popsTo
  rw [if_neg inbox] at h
  by_cases five : n = 29
  · rw [if_pos five] at h
    cases hq : s.me.q5 with
    | nil => rw [hq] at h; cases h
    | cons q qs => rw [hq] at h; exact pop_popsTo h rfl
  · rw [if_neg five] at h
    cases hq : s.me.q7 with
    | nil => rw [hq] at h; cases h
    | cons q qs => rw [hq] at h; exact pop_popsTo h rfl

end

/-- An operand read leaves the privilege as it is. -/
theorem readS_priv {n : Nat} {s t : State} {w : Word} (h : readS n s = .ok (w, t)) : t.me.priv = s.me.priv := by
  rw [readS_popsTo h]
  rfl

/-! ## The three instructions -/

/-- The wait for the engine that SW and TBSEL make passes where nothing stands before the instruction (R164, R263). -/
theorem settled_apply {n : Nat} {s : State} (h : settles n = true → EngineFree s) (k : M Unit) :
    (if settles n = true then engineIdle >>= fun _ => k else k) s = k s := by
  cases hn : settles n with
  | false => rfl
  | true =>
    obtain ⟨queue, treadle⟩ := h hn
    have idle : engineIdle s = .ok ((), s) := by
      rw [engineIdle, M.bind_ok (me_apply s)]
      exact needW_eq_ok.2 ⟨by simp [queue, treadle], rfl⟩
    rw [if_pos rfl, M.bind_ok idle]

/-- `SYS.RD` of a listed number gives its register (R315). -/
theorem sysRd_listed {s : State} {d : Reg} {n : Nat} {w : Word} (ht : Takes s [] [d.val] [] s)
    (hn : settles n = true → EngineFree s) (hr : s.sysReg n = some w) :
    exec (.sysRd d n) s = .next (puts s d.val w).commit := by
  refine runI_ok ?_
  rw [M.bind_ok (takes_nil.1 ht).1, hr]
  refine (settled_apply hn _).trans ((M.bind_ok (get_apply s)).trans ?_)
  rw [hr]
  rfl

/-- `SYS.RD` of a number that is not listed is refused (R166). -/
theorem sysRd_unlisted {s : State} {d : Reg} {n : Nat} (ht : Takes s [] [d.val] [] s) (hr : s.sysReg n = none) :
    exec (.sysRd d n) s = .next (s.takeFault { code := 1, addr := 0, loc := false, kind := 0, cause := 0, extra := [] }) := by
  refine runI_fault (keep := id) ?_
  rw [M.bind_ok (takes_nil.1 ht).1, hr]
  rfl

/-- `CAP.RD` gives the capability word that the low byte of its operand names (R318). -/
theorem capRd_listed {s t : State} {d a : Reg} {x : Word} (ht : Takes s [a.val] [d.val] [x] t) :
    exec (.capRd d a) s = .next (puts t d.val (t.capWord (x.toNat % 256))).commit := by
  obtain ⟨hready, hread⟩ := takes_one.1 ht
  have low : fld x 7 0 = x.toNat % 256 := by simp [fld, nbits]
  refine runI_ok ?_
  rw [M.bind_ok hready, M.bind_ok hread, M.bind_ok (get_apply t), writeS_apply, low]
  rfl

/-- `SYS.WR` of a listed number writes the register, or is refused where it would change an RWS bit at task privilege
(R166); a write of SW with a reserved format, which is ignored, is left out. -/
theorem sysWr_listed {s t : State} {a : Reg} {w old : Word} {n : Nat} (ht : Takes s [a.val] [] [w] t)
    (hn : settles n = true → EngineFree s) (hr : s.sysReg n = some old) (hf : n = 0 → badFormats w = false) :
    exec (.sysWr a n) s = .next (if s.me.priv = true ∨ (w ^^^ old) &&& ofN (rwsMask n) = 0 then (t.sysWrite n w).commit
      else s.takeFault { code := 3, addr := 0, loc := false, kind := 0, cause := 0, extra := [] }) := by
  obtain ⟨hready, hread⟩ := takes_one.1 ht
  have formats : ¬ (n = 0 ∧ badFormats w = true) := fun h => by simp [hf h.1] at h
  show execSysWr a n s = _
  rw [execSysWr, runI, M.bind_ok hready, hr]
  dsimp only
  rw [settled_apply hn, M.bind_ok hread, M.bind_ok (me_apply t), if_neg formats, readS_priv hread]
  split_ifs with allowed
  · rw [M.bind_ok (needP_eq_ok (u := ()).2 ⟨by simpa using allowed, rfl⟩)]
    rfl
  · rw [M.bind_apply, needP_apply, if_neg (by simpa using allowed)]
    rfl

section
variable {s t : State} {a : Reg} {w old : Word} {n : Nat}

/-- A write that the privilege allows. -/
theorem sysWr_allowed (ht : Takes s [a.val] [] [w] t) (hn : settles n = true → EngineFree s) (hr : s.sysReg n = some old)
    (hf : n = 0 → badFormats w = false) (hp : s.me.priv = true ∨ (w ^^^ old) &&& ofN (rwsMask n) = 0) :
    exec (.sysWr a n) s = .next (t.sysWrite n w).commit := by
  rw [sysWr_listed ht hn hr hf, if_pos hp]

/-- A write that would change an RWS bit at task privilege. -/
theorem sysWr_refused (ht : Takes s [a.val] [] [w] t) (hn : settles n = true → EngineFree s) (hr : s.sysReg n = some old)
    (hf : n = 0 → badFormats w = false) (hp : s.me.priv = false) (hw : (w ^^^ old) &&& ofN (rwsMask n) ≠ 0) :
    exec (.sysWr a n) s =
      .next (s.takeFault { code := 3, addr := 0, loc := false, kind := 0, cause := 0, extra := [] }) := by
  rw [sysWr_listed ht hn hr hf, if_neg (not_or.2 ⟨by simp [hp], hw⟩)]

/-- A register with no RWS bit is written at either privilege. -/
theorem sysWr_unmarked (ht : Takes s [a.val] [] [w] t) (hn : settles n = true → EngineFree s) (hr : s.sysReg n = some old)
    (h0 : n ≠ 0) (hm : rwsMask n = 0) : exec (.sysWr a n) s = .next (t.sysWrite n w).commit :=
  sysWr_allowed ht hn hr (fun h => absurd h h0) (.inr (by simp [hm, ofN]))

end

/-! ## The numbered registers (R165) -/

/-- The window, PTAG and capability registers stand in blocks beside the ones that are named singly. -/
theorem sysReg_block (s : State) {n : Nat} (h : 0x300 ≤ n) (h' : n ≠ 0x328) :
    s.sysReg n =
      if 0x300 ≤ n ∧ n < 0x308 then some (s.window s.myCore (n - 0x300)).cfg
      else if 0x308 ≤ n ∧ n < 0x310 then some 0
      else if 0x310 ≤ n ∧ n < 0x318 then
        some ((s.window s.myCore (n - 0x310)).status (s.windowSeq s.myCore (n - 0x310)))
      else if 0x320 ≤ n ∧ n < 0x328 then some (s.me.ptag[n - 0x320]!)
      else if 0xE00 ≤ n ∧ n < 0xF00 then some (s.capWord (n - 0xE00))
      else none := by
  unfold State.sysReg
  split
  case h_28 => rfl
  all_goals omega

section
variable (s : State) {i : Nat}

theorem sysReg_swcfg (h : i < 8) : s.sysReg (0x300 + i) = some (s.window s.myCore i).cfg := by
  rw [sysReg_block s (by omega) (by omega), if_pos (by omega), Nat.add_sub_cancel_left]

theorem sysReg_swrel (h : i < 8) : s.sysReg (0x308 + i) = some 0 := by
  rw [sysReg_block s (by omega) (by omega), if_neg (by omega), if_pos (by omega)]

theorem sysReg_swstat (h : i < 8) :
    s.sysReg (0x310 + i) = some ((s.window s.myCore i).status (s.windowSeq s.myCore i)) := by
  rw [sysReg_block s (by omega) (by omega), if_neg (by omega), if_neg (by omega), if_pos (by omega),
    Nat.add_sub_cancel_left]

theorem sysReg_ptag (h : i < 8) : s.sysReg (0x320 + i) = some (s.me.ptag[i]!) := by
  rw [sysReg_block s (by omega) (by omega), if_neg (by omega), if_neg (by omega), if_neg (by omega), if_pos (by omega),
    Nat.add_sub_cancel_left]

theorem sysReg_capWord (h : i < 256) : s.sysReg (0xE00 + i) = some (s.capWord i) := by
  rw [sysReg_block s (by omega) (by omega), if_neg (by omega), if_neg (by omega), if_neg (by omega), if_neg (by omega),
    if_pos (by omega), Nat.add_sub_cancel_left]

/-- Numbers in the gaps of the table and past its end. -/
theorem sysReg_unlisted {n : Nat}
    (h : n ∈ [0x007, 0x00E, 0x00F, 0x01A, 0x021, 0x042, 0x2FF, 0x318, 0x31F, 0x329, 0xDFF, 0xF00, 0xFFF]) :
    s.sysReg n = none := by
  simp only [List.mem_cons, List.not_mem_nil, or_false] at h
  rcases h with rfl | rfl | rfl | rfl | rfl | rfl | rfl | rfl | rfl | rfl | rfl | rfl | rfl <;> rfl

/-- Registers that a write leaves as they are: listed, with no RWS bit, and of no effect. -/
theorem sysWrite_shadow {n : Nat} (t : State) (w : Word)
    (h : n ∈ [0x005, 0x006, 0x00D, 0x010, 0x011, 0x012, 0x013, 0x014, 0x015, 0x016, 0x017, 0x018, 0x019, 0x040, 0x041,
      0x328, 0xE00, 0xE03, 0xEFF]) :
    (∃ old, s.sysReg n = some old) ∧ settles n = false ∧ rwsMask n = 0 ∧ n ≠ 0 ∧ t.sysWrite n w = t := by
  simp only [List.mem_cons, List.not_mem_nil, or_false] at h
  rcases h with rfl | rfl | rfl | rfl | rfl | rfl | rfl | rfl | rfl | rfl | rfl | rfl | rfl | rfl | rfl | rfl | rfl |
    rfl | rfl <;> exact ⟨⟨_, rfl⟩, rfl, rfl, by decide, rfl⟩

end

/-! ## Reads -/

/-- R315, R318: what `SYS.RD` and `CAP.RD` give. -/
theorem systemRegisterReads : Claims.SystemRegisterReads := by
  refine ⟨fun s d ht => ?_, fun s t d a x ht => capRd_listed ht⟩
  intro gives
  have settled {n : Nat} {w : Word} (hr : s.sysReg n = some w) (he : EngineFree s) : gives n w :=
    sysRd_listed ht (fun _ => he) hr
  have plain {n : Nat} {w : Word} (hr : s.sysReg n = some w) (hn : settles n = false) : gives n w :=
    sysRd_listed ht (fun h => by simp [hn] at h) hr
  have unsettled {n : Nat} (h : 0xC < n) : settles n = false := by simp [settles]; omega
  have desc {n : Nat} {w : Word} (hr : s.sysReg n = some (descRead w)) (hn : settles n = false) :
      gives n (w &&& 0x0007FFFF00008C0F#64) := plain (descRead_eq_and w ▸ hr) hn
  exact ⟨settled rfl, plain rfl rfl, plain rfl rfl, plain rfl rfl, plain rfl rfl, plain rfl rfl, plain rfl rfl,
    plain rfl rfl, plain rfl rfl, plain rfl rfl, plain rfl rfl, settled rfl, desc rfl rfl, desc rfl rfl, desc rfl rfl,
    plain rfl rfl, plain rfl rfl, plain rfl rfl, plain rfl rfl, plain rfl rfl, plain rfl rfl, plain rfl rfl,
    plain rfl rfl, plain rfl rfl, plain rfl rfl, plain rfl rfl, plain rfl rfl,
    fun i hi => ⟨plain (sysReg_swcfg s hi) (unsettled (by omega)), plain (sysReg_swrel s hi) (unsettled (by omega)),
      plain (sysReg_swstat s hi) (unsettled (by omega))⟩,
    fun i hi => plain (sysReg_ptag s hi) (unsettled (by omega)),
    fun i hi => plain (sysReg_capWord s hi) (unsettled (by omega)),
    fun n hn => sysRd_unlisted ht (sysReg_unlisted s hn)⟩

/-! ## Writes -/

theorem badFormats_eq_false {w : Word} (h₁ : fld w 26 23 ≠ 6) (h₂ : fld w 26 23 ≠ 7) (h₃ : fld w 22 19 ≠ 6)
    (h₄ : fld w 22 19 ≠ 7) : badFormats w = false := by
  simp [badFormats, h₁, h₂, h₃, h₄]

/-- SIGEN is SW's one RWS bit (R163). -/
theorem rwsMask_sw (w old : Word) : (w ^^^ old) &&& ofN (rwsMask 0x000) = 0 ↔ w.getLsbD 9 = old.getLsbD 9 := by
  have mask : ofN (rwsMask 0x000) = BitVec.twoPow 64 9 := by decide
  rw [mask, BitVec.and_twoPow, BitVec.getLsbD_xor]
  cases w.getLsbD 9 <;> cases old.getLsbD 9 <;> decide

/-- Every bit of SUBCNT and CLAMPCNT is marked RWS (R165). -/
theorem rwsMask_counter (w old : Word) : (w ^^^ old) &&& ofN (2 ^ 64 - 1) = 0 ↔ w = old := by
  have mask : ofN (2 ^ 64 - 1) = BitVec.allOnes 64 := by decide
  rw [mask, BitVec.and_allOnes]
  exact BitVec.xor_eq_zero_iff

theorem toNat_low19 (w : Word) : (ofN (w.toNat % 2 ^ 19)).toNat = w.toNat % 2 ^ 19 := by
  rw [ofN, BitVec.toNat_ofNat]
  omega

/-- A stack range in order is taken (R166). -/
theorem setStack_ordered {x : Slot} {lo hi : Word} (hl : lo.toNat % 8 = 0) (hh : hi.toNat % 8 = 0)
    (h : lo.toNat < hi.toNat) : x.setStack lo hi = { x with sbase := lo, slim := hi } :=
  if_pos ⟨hl, hh, h⟩

/-- A stack range out of order changes nothing (R166). -/
theorem setStack_unordered {x : Slot} {lo hi : Word} (h : hi.toNat ≤ lo.toNat) : x.setStack lo hi = x :=
  if_neg fun ⟨_, _, h'⟩ => absurd h' (by omega)

/-- A write of PTROOT takes ASN, ROOT and the valid bit and keeps the partition (R72). -/
theorem ptroot_fields (w old : Word) :
    let r := maskWord (rwsMask 0x020) w old
    fld r 63 48 = fld w 63 48 ∧ fld r 43 14 = fld w 43 14 ∧ fld r 47 44 = fld old 47 44 ∧ r.getLsbD 0 = w.getLsbD 0 :=
  ⟨fld_maskWord_new w old (by decide) (by decide), fld_maskWord_new w old (by decide) (by decide),
    fld_maskWord_old w old (by decide) (by decide), maskWord_getLsbD _ w old (by decide)⟩

/-- A write of SW takes its writable bits (R163). -/
theorem sysWrite_sw (t : State) {w : Word} (h : badFormats w = false) :
    t.sysWrite 0x000 w = t.setMe { t.me with sw := maskWord swWritable w t.me.sw } :=
  if_neg (by simp [h])

theorem sysWrite_sbase (t : State) (w : Word) :
    t.sysWrite 0x001 w = t.setMe (t.me.setStack (ofN (w.toNat % 2 ^ 19)) t.me.slim) := rfl

theorem sysWrite_slim (t : State) (w : Word) :
    t.sysWrite 0x002 w = t.setMe (t.me.setStack t.me.sbase (ofN (w.toNat % 2 ^ 19))) := rfl

/-- A write of a PTAG takes the low 48 bits (R165). -/
theorem sysWrite_ptag (t : State) (w : Word) {i : Nat} (h : i < 8) :
    t.sysWrite (0x320 + i) w =
      t.setMe { t.me with ptag := t.me.ptag.setIfInBounds i (BitVec.ofNat 64 (w.toNat % 2 ^ 48)) } := by
  interval_cases i <;> rfl

theorem rwsMask_ptag {i : Nat} (h : i < 8) : rwsMask (0x320 + i) = 0 := by
  interval_cases i <;> rfl

/-- R163, R164, R166, R315: what `SYS.WR` changes and when it is refused. -/
theorem systemRegisterWrites : Claims.SystemRegisterWrites := by
  intro s t a w ht ends refused
  have allowed {n : Nat} {old : Word} (hp : s.me.priv = true) (hr : s.sysReg n = some old) (hn : settles n = false)
      (h0 : n ≠ 0) : exec (.sysWr a n) s = .next (t.sysWrite n w).commit :=
    sysWr_allowed ht (fun h => by simp [hn] at h) hr (fun h => absurd h h0) (.inl hp)
  have unmarked {n : Nat} {old : Word} (hr : s.sysReg n = some old) (hn : settles n = true → EngineFree s)
      (h0 : n ≠ 0) (hm : rwsMask n = 0) : exec (.sysWr a n) s = .next (t.sysWrite n w).commit :=
    sysWr_unmarked ht hn hr h0 hm
  refine ⟨fun he h₁ h₂ h₃ h₄ => ?sw, fun hp hw hs hlt => ?sbase, fun hp hle => ?sbaseKept, fun hp hw hs hlt => ?slim,
    unmarked rfl nofun (by decide) rfl, unmarked rfl nofun (by decide) rfl, ?counters, ?countersRefused,
    unmarked rfl nofun (by decide) rfl, unmarked rfl nofun (by decide) rfl,
    fun he => unmarked rfl (fun _ => he) (by decide) rfl, fun hp => ?ptroot, fun i hi => ?ptag, fun n hn => ?shadow⟩
  case sw =>
    have formats : badFormats w = false := badFormats_eq_false h₁ h₂ h₃ h₄
    refine ⟨fun h => ?_, fun hp h => sysWr_refused ht (fun _ => he) rfl (fun _ => formats) hp
      fun h' => h ((rwsMask_sw ..).1 h')⟩
    exact (sysWr_allowed ht (fun _ => he) rfl (fun _ => formats) (h.imp_right (rwsMask_sw ..).2)).trans
      (by rw [sysWrite_sw t formats]; rfl)
  case sbase =>
    exact (allowed hp rfl rfl (by decide)).trans (by
      rw [sysWrite_sbase, setStack_ordered (by rwa [toNat_low19]) hs (by rwa [toNat_low19])]; rfl)
  case sbaseKept =>
    exact (allowed hp rfl rfl (by decide)).trans (by
      rw [sysWrite_sbase, setStack_unordered (by rwa [toNat_low19])])
  case slim =>
    exact (allowed hp rfl rfl (by decide)).trans (by
      rw [sysWrite_slim, setStack_ordered hs (by rwa [toNat_low19]) (by rwa [toNat_low19])]; rfl)
  case counters =>
    exact fun hp => ⟨allowed hp rfl rfl (by decide), allowed hp rfl rfl (by decide)⟩
  case countersRefused =>
    exact fun hp => ⟨fun h => sysWr_refused ht nofun rfl nofun hp fun h' => h ((rwsMask_counter ..).1 h'),
      fun h => sysWr_refused ht nofun rfl nofun hp fun h' => h ((rwsMask_counter ..).1 h')⟩
  case ptroot => exact ⟨_, allowed hp rfl rfl (by decide), ptroot_fields w t.me.ptroot⟩
  case ptag =>
    have hn : settles (0x320 + i) = false := by simp [settles]; omega
    exact (unmarked (sysReg_ptag s hi) (fun h => by simp [hn] at h) (by omega) (rwsMask_ptag hi)).trans
      (by rw [sysWrite_ptag t w hi])
  case shadow =>
    obtain ⟨⟨old, hr⟩, hs, hm, h0, same⟩ := sysWrite_shadow s t w hn
    exact (unmarked hr (fun h => by simp [hs] at h) h0 hm).trans (by rw [same])

/-- Settles O34: the reads and the writes of the system registers, each from what its instruction ends in. -/
theorem systemRegisters : Obligations.SystemRegisters := ⟨systemRegisterReads, systemRegisterWrites⟩

end Sys2Proof.Machine

namespace Sys2Proof.Machine

/-! # The state after reset -/

/-- No byte of an empty memory is listed, so that each reads as zero (R68, R118). -/
theorem memBytes_nil (a n : Nat) : memBytes [] a n = List.replicate n 0 := by
  induction n generalizing a with
  | zero => rfl
  | succ n ih => rw [memBytes, ih, List.replicate_succ]; rfl

/-- A core after wipe fences no bank. -/
theorem reset_lmFenced (o n : Nat) : Core.reset.lmFenced o n = false :=
  List.any_eq_false.2 fun b _ => by simp [Core.fenced, Core.reset, Health.reset, nbit]

/-- A core after wipe has no LM word in error, wherever one looks (R118). -/
theorem reset_lmError (o n : Nat) : Core.reset.lmError o n = none := by
  rw [Core.lmError, reset_lmFenced]
  simp [Core.reset]

/-- P0 alone is enabled after wipe (R377). -/
theorem reset_part_disabled {p : Nat} (h : p ≠ 0) : bitOf (State.reset.part p).w0 63 = false := by
  show bitOf (PartWords.reset p).w0 63 = false
  rw [PartWords.reset, if_neg h]
  rfl

/-- A gate entry after wipe is not valid. -/
theorem reset_gate_invalid (n : Nat) : (State.reset.gate n).valid = false := by
  show Gate.reset.valid = false
  decide

/-- Settles O53: each part of the reset state reads as its value after wipe. -/
theorem resetState : Obligations.ResetState :=
  ⟨fun _ => ⟨rfl, rfl, rfl, rfl⟩, fun _ => ⟨rfl, rfl⟩, fun _ o n => ⟨memBytes_nil o n, reset_lmError o n, rfl⟩,
    fun _ _ => ⟨rfl, rfl⟩, rfl, fun _ => reset_part_disabled, reset_gate_invalid, rfl, fun _ => rfl, rfl, rfl, rfl⟩

end Sys2Proof.Machine

/-! # Fields of words, and the hub's registers and parts

Which bits `setFld` replaces and which it keeps, what a register of the hub reads after a write of it or of another one, and
the parts of the hub read back after a replacement. -/

namespace Sys2Proof.Machine

/-! ## Replaced fields -/

/-- A number from the part above a field, the field, and the part below it. -/
theorem nat_split_field (n lo k : Nat) : n = 2 ^ lo * (2 ^ k * (n / 2 ^ (lo + k)) + n / 2 ^ lo % 2 ^ k) + n % 2 ^ lo := by
  rw [Nat.pow_add, ← Nat.div_div_eq_div_mul, Nat.div_add_mod, Nat.div_add_mod]

/-- The bits of a field come from the new value, the others stay. -/
theorem setFld_getLsbD (w : Word) (hi lo v : Nat) {i : Nat} (hi' : i < 64) :
    (setFld w hi lo v).getLsbD i = if lo ≤ i ∧ i < lo + (hi + 1 - lo) then v.testBit (i - lo) else w.getLsbD i := by
  obtain ⟨k, hk⟩ : ∃ k, k = hi + 1 - lo := ⟨_, rfl⟩
  have hsplit := nat_split_field w.toNat lo k
  have hval : setFld w hi lo v = BitVec.ofNat 64
      (2 ^ lo * (2 ^ k * (w.toNat / 2 ^ (lo + k)) + v % 2 ^ k) + w.toNat % 2 ^ lo) := by
    have hfld : fld w hi lo = w.toNat / 2 ^ lo % 2 ^ k := by rw [fld, nbits, hk]
    rw [setFld, hfld, ← hk]
    congr 1
    rw [Nat.mul_add, Nat.mul_comm _ (2 ^ lo), Nat.mul_comm (v % 2 ^ k)]
    rw [Nat.mul_add] at hsplit
    omega
  rw [hval, BitVec.getLsbD_ofNat, ← hk, BitVec.getLsbD]
  simp only [hi', decide_true, Bool.true_and]
  have hlow : w.toNat % 2 ^ lo < 2 ^ lo := Nat.mod_lt _ (Nat.two_pow_pos lo)
  conv_rhs => rw [hsplit]
  rw [Nat.testBit_two_pow_mul_add _ hlow, Nat.testBit_two_pow_mul_add _ hlow]
  have hv : v % 2 ^ k < 2 ^ k := Nat.mod_lt _ (Nat.two_pow_pos k)
  have hf : w.toNat / 2 ^ lo % 2 ^ k < 2 ^ k := Nat.mod_lt _ (Nat.two_pow_pos k)
  by_cases hbelow : i < lo
  · simp [hbelow, Nat.not_le.2 hbelow]
  rw [if_neg hbelow, Nat.testBit_two_pow_mul_add _ hv, Nat.testBit_two_pow_mul_add _ hf]
  by_cases hin : i - lo < k
  · rw [if_pos hin, if_pos (by omega), Nat.testBit_mod_two_pow, decide_eq_true hin, Bool.true_and]
  · rw [if_neg hin, if_neg (by omega)]
    simp [hbelow, hin]

theorem setFld_getLsbD_in {w : Word} {hi lo v i : Nat} (h : lo ≤ i) (h' : i ≤ hi) (h64 : i < 64) :
    (setFld w hi lo v).getLsbD i = v.testBit (i - lo) := by
  rw [setFld_getLsbD _ _ _ _ h64, if_pos (by omega)]

theorem setFld_getLsbD_out {w : Word} {hi lo v i : Nat} (h : i < lo ∨ hi < i) :
    (setFld w hi lo v).getLsbD i = w.getLsbD i := by
  by_cases h64 : i < 64
  · rw [setFld_getLsbD _ _ _ _ h64, if_neg (by omega)]
  · rw [BitVec.getLsbD_of_ge _ _ (by omega), BitVec.getLsbD_of_ge _ _ (by omega)]

/-- A field apart from the replaced one stays. -/
theorem fld_setFld_apart (w : Word) {hi lo h l : Nat} (v : Nat) (hd : h < lo ∨ hi < l) :
    fld (setFld w hi lo v) h l = fld w h l :=
  fld_congr fun _ _ _ => setFld_getLsbD_out (by omega)

theorem bitOf_setFld_apart (w : Word) {hi lo i : Nat} (v : Nat) (hd : i < lo ∨ hi < i) :
    bitOf (setFld w hi lo v) i = bitOf w i :=
  setFld_getLsbD_out hd

theorem bitOf_setFld_one (w : Word) {i : Nat} (h : i < 64) : bitOf (setFld w i i 1) i = true := by
  rw [bitOf, setFld_getLsbD_in (Nat.le_refl i) (Nat.le_refl i) h, Nat.sub_self]
  rfl

theorem bitOf_setFld_zero (w : Word) {hi lo i : Nat} (hl : lo ≤ i) (hh : i ≤ hi) : bitOf (setFld w hi lo 0) i = false := by
  rw [bitOf]
  by_cases h : i < 64
  · rw [setFld_getLsbD_in hl hh h, Nat.zero_testBit]
  · exact BitVec.getLsbD_of_ge _ _ (by omega)

/-- The second of two clears of one field changes nothing. -/
theorem setFld_setFld_same (w : Word) (hi lo u v : Nat) : setFld (setFld w hi lo u) hi lo v = setFld w hi lo v :=
  BitVec.eq_of_getLsbD_eq fun i h => by
    rw [setFld_getLsbD _ _ _ _ h, setFld_getLsbD _ _ _ _ h, setFld_getLsbD _ _ _ _ h]
    split <;> rfl

theorem fld_lt (w : Word) (hi lo : Nat) : fld w hi lo < 2 ^ (hi + 1 - lo) := Nat.mod_lt _ (Nat.two_pow_pos _)

theorem bitOf_eq_decide (w : Word) (i : Nat) : bitOf w i = decide (w.toNat / 2 ^ i % 2 = 1) := by
  rw [bitOf, BitVec.getLsbD, Nat.testBit_eq_decide_div_mod_eq]

/-! ## Steps of the hub's agents -/

/-- A step of which it is known what its operation leaves. -/
theorem exec_next {i : Instr} {s u v : State} (h : exec i s = .next u) (e : u = v) : exec i s = .next v :=
  h.trans (congrArg _ e)

/-! ## Registers that are plain storage -/

section
variable (s : State) (w : Word)

@[simp] theorem State.updHub_hub (f : Hub → Hub) : (s.updHub f).hub = f s.hub := rfl

@[simp] theorem State.reg_setReg_self (pa : Nat) : (s.setReg pa w).reg pa = w := SMap.val_put_self ..

theorem State.reg_setReg_ne {pa pb : Nat} (h : pa ≠ pb) : (s.setReg pb w).reg pa = s.reg pa := SMap.val_put_ne _ _ _ h

theorem State.reg_setReg (pa pb : Nat) : (s.setReg pb w).reg pa = if pa = pb then w else s.reg pa := SMap.val_put ..

/-- The registers of a state are those of any state with the same storage. -/
theorem State.reg_congr {s t : State} (h : s.hub.regs = t.hub.regs) (pa : Nat) : s.reg pa = t.reg pa := by
  rw [State.reg, h, State.reg]

end

/-! ## Parts of the hub -/

section
variable (s : State) (i j : Nat)

@[simp] theorem State.exit_setExit_self (x : Exit) : (s.setExit i x).exit i = x := SMap.val_put_self ..

theorem State.exit_setExit_ne (x : Exit) (h : j ≠ i) : (s.setExit i x).exit j = s.exit j := SMap.val_put_ne _ _ _ h

@[simp] theorem State.sensor_setSensor_self (x : SensorPort) : (s.setSensor i x).sensor i = x := SMap.val_put_self ..

@[simp] theorem State.element_setElement_self (x : Element) : (s.setElement i x).element i = x := SMap.val_put_self ..

theorem State.element_setElement_ne (x : Element) (h : j ≠ i) : (s.setElement i x).element j = s.element j :=
  SMap.val_put_ne _ _ _ h

@[simp] theorem State.window_setWindow_self (x : Window) : (s.setWindow i j x).window i j = x := by
  simp [State.window, State.setWindow]

end

end Sys2Proof.Machine

/-! # Stream windows and exits

What the windows' registers take, what a window that stops leaves at the exits, and the operations of an exit: a row batched,
held or dropped, a batch closed and delivered (R45 to R53, R118). -/

namespace Sys2Proof.Machine

/-! ## What a replacement leaves of the windows and exits -/

section
variable (s : State) (c n i : Nat)

@[simp] theorem State.window_setExit (j : Nat) (x : Exit) : (s.setExit j x).window c n = s.window c n := rfl
@[simp] theorem State.window_setReg (pa : Nat) (w : Word) : (s.setReg pa w).window c n = s.window c n := rfl
@[simp] theorem State.exit_setWindow (b m : Nat) (x : Window) : (s.setWindow b m x).exit i = s.exit i := rfl
@[simp] theorem State.lxcfg_setExit (j : Nat) (x : Exit) : (s.setExit j x).lxcfg i = s.lxcfg i := rfl
@[simp] theorem State.lxdst_setExit (j : Nat) (x : Exit) : (s.setExit j x).lxdst i = s.lxdst i := rfl

@[simp] theorem State.lxcfg_setReg_self (w : Word) : (s.setReg (lxcfgReg i) w).lxcfg i = w := s.reg_setReg_self w _
@[simp] theorem State.lxdst_setReg_self (w : Word) : (s.setReg (lxdstReg i) w).lxdst i = w := s.reg_setReg_self w _

@[simp] theorem State.lxcfg_setReg_lxdst (w : Word) : (s.setReg (lxdstReg i) w).lxcfg i = s.lxcfg i :=
  s.reg_setReg_ne w (by simp [lxdstReg])

@[simp] theorem State.lxdst_setReg_lxcfg (w : Word) : (s.setReg (lxcfgReg i) w).lxdst i = s.lxdst i :=
  s.reg_setReg_ne w (by simp [lxdstReg])

@[simp] theorem State.window_setSlot (gs : Nat) (x : Slot) : (s.setSlot gs x).window c n = s.window c n := by
  by_cases h : c = gs / 16
  · subst h
    simp [State.window, State.setSlot]
  · simp [State.window, State.setSlot, State.core_setCore_ne _ _ h]

/-- A core whose slots and scan stay keeps its slots as they read. -/
theorem State.slot_setCore {k : Core} (gs : Nat) (h : k.slots = (s.core c).slots) (h' : k.scan = (s.core c).scan) :
    (s.setCore c k).slot gs = s.slot gs := by
  by_cases hc : gs / 16 = c
  · subst hc
    simp [State.slot, Core.slot, Core.freshSlot, h, h']
  · simp [State.slot, State.core_setCore_ne _ _ hc]

@[simp] theorem State.slot_setWindow (gs : Nat) (x : Window) : (s.setWindow c n x).slot gs = s.slot gs :=
  s.slot_setCore c gs rfl rfl

theorem State.lm_setWindow (x : Window) : ((s.setWindow c n x).core c).lm = (s.core c).lm := by
  simp [State.setWindow]

end

/-! ## SWCFG and SWREL (R49, R50, R52) -/

section
variable (s : State) (c n : Nat) (v : Word)

theorem swEn_swMask : swEn (swMask v) = bitOf v 63 := bitOf_setFld_apart _ _ (by omega)
theorem swFate_swMask : swFate (swMask v) = fld v 62 61 := fld_setFld_apart _ _ (by omega)
theorem swSlots_swMask : swSlots (swMask v) = fld v 55 52 + 1 := congrArg (· + 1) (fld_setFld_apart _ _ (by omega))
theorem swBase_swMask : swBase (swMask v) = fld v 18 0 := fld_setFld_apart _ _ (by omega)

/-- A configuration that no window takes, or that this window cannot take now (R50). -/
theorem swcfg_refused (h : fld v 62 61 = 3 ∨ fld v 18 0 % 256 ≠ 0 ∨
    (bitOf v 63 = true ∧ (bitOf (s.window c n).cfg 63 = true ∨ s.swRefused c n (swMask v) = true))) :
    s.swcfg c n v = s.setWindow c n { s.window c n with cfgerr := true } := by
  have running : swEn (s.window c n).cfg = bitOf (s.window c n).cfg 63 := rfl
  refine if_pos ?_
  simp only [swEn_swMask, swFate_swMask, swBase_swMask, running, Bool.or_eq_true, decide_eq_true_eq, Bool.not_eq_true',
    decide_eq_false_iff_not, Bool.and_eq_true]
  tauto

section
variable {s c n v} (hfate : fld v 62 61 ≠ 3) (hbase : fld v 18 0 % 256 = 0)
include hfate hbase

/-- A window starts: every slot free, its row counter at zero, and the exits that name it told of its free count. -/
theorem swcfg_starts (hen : bitOf v 63 = true) (hold : bitOf (s.window c n).cfg 63 = false)
    (hok : s.swRefused c n (swMask v) = false) :
    let t := s.setWindow c n { s.window c n with
      cfg := swMask v, dropRows := 0, free := swSlots (swMask v), filled := 0, head := 0
      owner := (s.slotOwner c (swCslot (swMask v))).getD 0 }
    s.swcfg c n v = { t with later := t.later ++ (t.exitsTo c n).map Event.freeCountUpdate } := by
  have stopped : swEn (s.window c n).cfg = false := hold
  refine (if_neg ?_).trans (if_pos ?_)
  · simp [swFate_swMask, swBase_swMask, hfate, hbase, stopped, hok]
  · rw [swEn_swMask, hen]

/-- A window that runs stops. -/
theorem swcfg_stops (hen : bitOf v 63 = false) (hold : bitOf (s.window c n).cfg 63 = true) :
    s.swcfg c n v = s.stopWindow c n (swMask v) := by
  refine (if_neg ?_).trans ((if_neg ?_).trans (if_pos hold))
  · simp [swEn_swMask, swFate_swMask, swBase_swMask, hfate, hbase, hen]
  · simp [swEn_swMask, hen]

end

/-- One change, which once made stays made, at each of some exits. -/
theorem exit_foldl_setExit {g : Exit → Exit} (hg : ∀ x, g (g x) = g x) (l : List Nat) (i : Nat) :
    (l.foldl (fun u j => u.setExit j (g (u.exit j))) s).exit i = if i ∈ l then g (s.exit i) else s.exit i := by
  induction l generalizing s with
  | nil => simp
  | cons j l ih =>
    rw [List.foldl_cons, ih]
    by_cases hj : i = j
    · subst hj
      simp [hg]
    · simp [hj, State.exit_setExit_ne]

/-- An exit that is not listed stands as after wipe. -/
theorem exit_of_not_listed {s : State} {i : Nat} (h : i ∉ s.hub.exits.map (·.1)) : s.exit i = Exit.reset := by
  rw [State.exit]
  generalize s.hub.exits = m at h ⊢
  induction m with
  | nil => rfl
  | cons e m ih =>
    rw [List.map_cons, List.mem_cons, not_or] at h
    rw [SMap.val, if_neg h.1, ih h.2]

/-- An exit whose open rows are gone and which sees no free slot. -/
def Exit.emptied (x : Exit) : Exit := { x with batch := [], held := [], blocked := none, free := 0 }

theorem Exit.uncloses_uncloses (x : Exit) : (x.uncloses c n).uncloses c n = x.uncloses c n := by
  simp [Exit.uncloses]

/-- What a window that stops leaves of an exit (R50). -/
theorem stopWindow_exit (cfg : Word) (i : Nat) :
    (s.stopWindow c n cfg).exit i = (if i ∈ s.exitsTo c n then (s.exit i).emptied else s.exit i).uncloses c n := by
  unfold State.stopWindow
  dsimp only
  rw [State.exit_setWindow, exit_foldl_setExit _ (g := (·.uncloses c n)) (Exit.uncloses_uncloses c n)]
  have emptied := exit_foldl_setExit s (g := Exit.emptied) (fun _ => rfl) (s.exitsTo c n) i
  unfold Exit.emptied at emptied ⊢
  rw [← emptied]
  split
  · rfl
  · rename_i h
    rw [exit_of_not_listed h]
    rfl

/-- A release of filled slots by the slot that the window names (R52). -/
theorem swrel_own {s : State} {c n slot : Nat} {v : Word} (h : fld (s.window c n).cfg 43 40 = slot) :
    let x := s.window c n
    let k := min (fld v 4 0) x.filled
    let t := s.setWindow c n { x with
      filled := x.filled - k, free := x.free + k, head := (x.head + k) % swSlots x.cfg
      ovrel := x.ovrel || decide (x.filled < fld v 4 0) }
    s.swrel c slot n v = { t with later := t.later ++ (t.exitsTo c n).map Event.freeCountUpdate } :=
  if_pos h

end

/-! ## LXCFG and LXDST (R45) -/

section
variable (s : State) (i : Nat) (w : Word)

/-- A configuration without the fields that may change while EN stays 1. -/
def lxFixed (w : Word) : Word := setFld (setFld (setFld (setFld w 63 63 0) 28 21 0) 19 12 0) 7 0 0

theorem lxFixed_disable : lxFixed (setFld w 63 63 0) = lxFixed w := by
  unfold lxFixed
  rw [setFld_setFld_same]

theorem lxcfgWrite_moved (h : lxEn (s.lxcfg i) = true) (h' : lxFixed w ≠ lxFixed (s.lxcfg i)) :
    s.lxcfgWrite i w = s.exitCfgErr i :=
  if_pos (by rw [h, Bool.true_and, Bool.not_eq_true', decide_eq_false_iff_not]; exact h')

section
variable {s i w} (hfixed : lxEn (s.lxcfg i) = true → lxFixed w = lxFixed (s.lxcfg i))
include hfixed

theorem lxcfg_not_moved : ¬ (lxEn (s.lxcfg i) && !decide (lxFixed w = lxFixed (s.lxcfg i))) = true := by
  rw [Bool.and_eq_true, Bool.not_eq_true', decide_eq_false_iff_not]
  exact fun ⟨he, hne⟩ => hne (hfixed he)

theorem lxcfgWrite_bad (h : lxEn w = true) (hbad : s.exitBad i w = true) : s.lxcfgWrite i w = s.exitCfgErr i :=
  (if_neg (lxcfg_not_moved hfixed)).trans (if_pos (by simp [h, hbad]))

theorem lxcfgWrite_taken (h : lxEn w = false ∨ s.exitBad i w = false) :
    let u := s.setReg (lxcfgReg i) w
    let x := s.exit i
    s.lxcfgWrite i w =
      if lxEn w && !lxEn (s.lxcfg i) then
        let u := u.setExit i { x with seq := 0, hold := lxHold w, wait := lxWait w }
        { u with agenda := u.agenda ++ [.freeCountUpdate i, .exitRowComplete i] }
      else if lxEn (s.lxcfg i) && !lxEn w then
        (u.setExit i { x with batch := [], held := [], blocked := none }).dropRows i
          (x.batch.length + x.held.length + x.blocked.toList.length)
      else u :=
  (if_neg (lxcfg_not_moved hfixed)).trans (if_neg (by rw [Bool.and_eq_true]; rintro ⟨h₁, h₂⟩; simp [h₁, h₂] at h))

end

/-- A refused write sets CFGERR and changes no field of the registers. -/
theorem exitCfgErr_fields : (s.exitCfgErr i).lxcfg i = s.lxcfg i ∧ bitOf ((s.exitCfgErr i).lxdst i) 1 = true ∧
    fld ((s.exitCfgErr i).lxdst i) 19 9 = fld (s.lxdst i) 19 9 := by
  unfold State.exitCfgErr
  rw [State.lxcfg_setReg_lxdst, State.lxdst_setReg_self]
  exact ⟨rfl, bitOf_setFld_one _ (by omega), fld_setFld_apart _ _ (by omega)⟩

/-- Whatever stands, an enabled configuration with no columns is refused. -/
theorem lxcfgWrite_no_columns (h : lxEn w = true) (hcols : lxCols w = 0) : s.lxcfgWrite i w = s.exitCfgErr i := by
  by_cases hfixed : lxEn (s.lxcfg i) = true → lxFixed w = lxFixed (s.lxcfg i)
  · exact lxcfgWrite_bad hfixed h (by simp [State.exitBad, hcols])
  · obtain ⟨he, hne⟩ := Classical.not_imp.1 hfixed
    exact lxcfgWrite_moved s i w he hne

/-- LXDST as a write leaves it: CORE and WIN, then the two flags. -/
theorem lxdst_fields {f : Nat} (a b : Bool) (hf : f < 2 ^ 11) :
    let r := ofN (f * 512 + b2n a * 2 + b2n b)
    fld r 19 9 = f ∧ bitOf r 1 = a ∧ bitOf r 0 = b := by
  cases a <;> cases b <;> simp [fld, nbits, bitOf_eq_decide, ofN, b2n] <;> omega

theorem lxdstWrite_moved (h : lxEn (s.lxcfg i) = true) (h' : fld w 19 9 ≠ fld (s.lxdst i) 19 9) :
    s.lxdstWrite i w = s.exitCfgErr i :=
  if_pos (by simp [h, h'])

theorem lxdstWrite_taken (h : lxEn (s.lxcfg i) = false) :
    s.lxdstWrite i w = s.setReg (lxdstReg i)
      (ofN (fld w 19 9 * 512 + b2n (bitOf (s.lxdst i) 1 && !bitOf w 1) * 2 + b2n (bitOf (s.lxdst i) 0 && !bitOf w 0))) :=
  if_neg (by simp [h])

end

/-! ## Rows at an exit (R46 to R48, R53) -/

section
variable {s : State} {i : Nat} {r : Row}

theorem closeFor_empty (m : RowMeta) (h : (s.exit i).batch = []) : s.closeFor i m = s := by
  unfold State.closeFor
  rw [h]
  rfl

/-- The first row of a batch of more than one. -/
theorem addRow_first (h : (s.exit i).batch = []) (hrows : lxRows (s.lxcfg i) ≠ 1) :
    s.addRow i r = s.setExit i { s.exit i with batch := [r], batchSince := s.localNs } := by
  unfold State.addRow
  simp [h, hrows.symm]

/-- With no place to hold it, a row that finds no slot is dropped. -/
theorem holdRow_no_hold (h : (s.exit i).hold = 0) : s.holdRow i r = s.dropRows i 1 := by
  simp [State.holdRow, h]

theorem placeRow_none (h : (s.exit i).blocked = none) : s.placeRow i = s := by
  unfold State.placeRow
  rw [h]

section
variable (hr : (s.exit i).blocked = some r) (hb : (s.exit i).batch = []) (hh : (s.exit i).held = [])
include hr hb hh

/-- A whole row at an exit that has no others. -/
theorem placeRow_alone : s.placeRow i =
    if s.exitFate i = 2 ∧ (s.exit i).free = 0 ∧ (s.exit i).hold = 0 then s
    else if 0 < (s.exit i).free then (s.setExit i { s.exit i with blocked := none }).addRow i r
    else (s.setExit i { s.exit i with blocked := none }).holdRow i r := by
  unfold State.placeRow
  rw [hr]
  simp [closeFor_empty _ hb, State.rowBlocked, State.exitFree, hh, and_assoc]

theorem placeRow_batched (hfree : 0 < (s.exit i).free) (hrows : lxRows (s.lxcfg i) ≠ 1) :
    s.placeRow i = (s.setExit i { s.exit i with blocked := none }).setExit i
      { s.exit i with blocked := none, batch := [r], batchSince := s.localNs } := by
  rw [placeRow_alone hr hb hh, if_neg (by omega), if_pos hfree,
    addRow_first (by rwa [State.exit_setExit_self]) (by rwa [State.lxcfg_setExit]), State.exit_setExit_self]
  rfl

theorem placeRow_dropped (hfree : (s.exit i).free = 0) (hhold : (s.exit i).hold = 0) (hfate : s.exitFate i ≠ 2) :
    s.placeRow i = (s.setExit i { s.exit i with blocked := none }).dropRows i 1 := by
  rw [placeRow_alone hr hb hh, if_neg fun h => hfate h.1, if_neg (by omega),
    holdRow_no_hold (by rwa [State.exit_setExit_self])]

theorem placeRow_blocked (hfree : (s.exit i).free = 0) (hhold : (s.exit i).hold = 0) (hfate : s.exitFate i = 2) :
    s.placeRow i = s := by
  rw [placeRow_alone hr hb hh, if_pos ⟨hfate, hfree, hhold⟩]

end

end

/-- The row that comes out whole, with its metadata (R46, R47, R401). -/
def State.wholeRow (s : State) (i : Nat) (m : RowMeta) : Row :=
  let x := s.exit i
  let kept := keptBytes (s.lxcfg i) (if x.spoiled then List.replicate x.row.length m.fill else x.row.reverse)
  { info := { m with late := m.late || x.spoiled }, bytes := kept.1, clip := kept.2 || x.skip }

/-- The exit with that row taken up. -/
def State.takenUp (s : State) (i : Nat) (m : RowMeta) : Exit :=
  { s.exit i with row := [], whole := false, spoiled := false, hold := lxHold (s.lxcfg i), wait := lxWait (s.lxcfg i)
                  blocked := some (s.wholeRow i m) }

/-- A state in which a whole row has taken its metadata and is not yet placed. -/
structure State.TakesRow (s : State) (i : Nat) (m : RowMeta) (ms : List RowMeta) (t : State) : Prop where
  exit : t.exit i = s.takenUp i m
  rowMeta : t.hub.rowMeta.val (lxEntry (s.lxcfg i)) [] = ms
  regs : t.hub.regs = s.hub.regs
  window : ∀ c n, t.window c n = s.window c n
  now : t.localNs = s.localNs

theorem rowComplete_idle {s : State} {i : Nat} (h : lxEn (s.lxcfg i) = false ∨ (s.exit i).whole = false ∨
    (s.exit i).blocked ≠ none ∨ s.hub.rowMeta.val (lxEntry (s.lxcfg i)) [] = []) : s.rowComplete i = s := by
  unfold State.rowComplete
  dsimp only
  split
  · rfl
  · rename_i hbusy
    rcases h with h | h | h | h
    · simp [h] at hbusy
    · simp [h] at hbusy
    · simp [Option.isSome_iff_ne_none.2 h] at hbusy
    · rw [h]

/-- A row that is whole takes the oldest metadata and is placed. -/
theorem rowComplete_takes {s : State} {i : Nat} {m : RowMeta} {ms : List RowMeta} (hen : lxEn (s.lxcfg i) = true)
    (hwhole : (s.exit i).whole = true) (hfree : (s.exit i).blocked = none)
    (hm : s.hub.rowMeta.val (lxEntry (s.lxcfg i)) [] = m :: ms) :
    ∃ u, s.TakesRow i m ms u ∧ s.rowComplete i = u.placeRow i := by
  unfold State.rowComplete
  dsimp only
  rw [if_neg (by simp [hen, hwhole, hfree]), hm]
  refine ⟨_, ⟨?_, SMap.val_put_self .., ?_, fun c n => ?_, ?_⟩, rfl⟩
  · exact SMap.val_put_self ..
  all_goals split <;> rfl

/-- The exit's window with its FATE, and its configuration, as before the row took its metadata. -/
theorem State.TakesRow.same {s u : State} {i : Nat} {m : RowMeta} {ms : List RowMeta} (h : s.TakesRow i m ms u) :
    u.lxcfg i = s.lxcfg i ∧ u.lxdst i = s.lxdst i ∧ u.exitFate i = s.exitFate i := by
  have hdst : u.lxdst i = s.lxdst i := State.reg_congr h.regs _
  exact ⟨State.reg_congr h.regs _, hdst, by rw [State.exitFate, hdst, h.window, State.exitFate]⟩

end Sys2Proof.Machine

/-! # Batches and the stream exits' statement (R48 to R53, R118) -/

namespace Sys2Proof.Machine

/-! ## Batches (R48, R51, R52) -/

theorem SMap.seek_of_not_has {α : Type} {m : SMap α} {k : Nat} (h : m.has k = false) : m.seek k = none := by
  induction m with
  | nil => rfl
  | cons e m ih =>
    simp only [SMap.has, List.any_cons, Bool.or_eq_false_iff, decide_eq_false_iff_not] at h
    rw [SMap.seek, if_neg fun hk => h.1 hk.symm, ih h.2]

section
variable {s : State} {i : Nat}

theorem closeBatch_empty (h : (s.exit i).batch = []) : s.closeBatch i = s :=
  if_pos (by rw [h]; rfl)

/-- The open batch takes the sequence number and waits for delivery. -/
theorem closeBatch_open (h : (s.exit i).batch ≠ []) :
    let x := s.exit i
    let t := s.setExit i { x with
      batch := []
      closed := x.closed ++ [{ seq := x.seq, rows := x.batch, pitch := lxPitch (s.lxcfg i), per := lxRows (s.lxcfg i)
                               core := lxCore (s.lxdst i), win := lxWin (s.lxdst i) }]
      seq := (x.seq + 1) % 65536, free := x.free - 1 }
    s.closeBatch i = { t with agenda := t.agenda ++ [.batchDeliver i] } :=
  if_neg (by simpa using h)

/-- The oldest metadata goes, and its row counts as dropped at the exit's window (R47). -/
theorem metaTimeout_some {m : RowMeta} {ms : List RowMeta} (h : s.hub.rowMeta.val (lxEntry (s.lxcfg i)) [] = m :: ms) :
    s.metaTimeout i = (((s.updHub fun h => { h with rowMeta := h.rowMeta.put (lxEntry (s.lxcfg i)) ms }).setReg (lxdstReg i)
      (setFld (s.lxdst i) 0 0 1)).setWindow (lxCore (s.lxdst i)) (lxWin (s.lxdst i))
        ((s.window (lxCore (s.lxdst i)) (lxWin (s.lxdst i))).drop 1)) := by
  have core (w : Word) : lxCore (setFld w 0 0 1) = lxCore w := fld_setFld_apart _ _ (by omega)
  have win (w : Word) : lxWin (setFld w 0 0 1) = lxWin w := fld_setFld_apart _ _ (by omega)
  unfold State.metaTimeout
  dsimp only
  rw [h]
  simp only [State.dropRows, State.exitWindow, State.lxdst_setReg_self, core, win, State.window_setReg]
  rfl

theorem metaTimeout_none (h : s.hub.rowMeta.val (lxEntry (s.lxcfg i)) [] = []) : s.metaTimeout i = s := by
  unfold State.metaTimeout
  dsimp only
  rw [h]

end

/-- The slot of the window that takes the next batch, and its place in LM. -/
def Window.slotNext (x : Window) : Nat := (x.head + x.filled) % swSlots x.cfg
def Window.place (x : Window) : Nat := swBase x.cfg + x.slotNext * swSize x.cfg

theorem Window.slotNext_lt (x : Window) : x.slotNext < 16 := by
  have := fld_lt x.cfg 55 52
  have : x.slotNext < swSlots x.cfg := Nat.mod_lt _ (Nat.succ_pos _)
  unfold swSlots at this
  omega

/-- The tag of a batch: the stamp of its first row over its sequence number (R51). -/
def Batch.tag (b : Batch) : Nat :=
  (match b.rows with
    | r :: _ => r.info.stamp
    | [] => 0) * 65536 + b.seq

/-- The descriptor of a batch that lands in a window (R52). -/
def Batch.descriptor (b : Batch) (x : Window) : Word :=
  ofN (b.win * 2 ^ 59 + x.slotNext * 2 ^ 55 + batchFlags b.rows b.per (decide (0 < x.dropped)) * 2 ^ 48 + b.tag)

theorem batchFlags_lt (rows : List Row) (per : Nat) (gap : Bool) : batchFlags rows per gap < 2 ^ 7 := by
  have bit (b : Bool) : b2n b ≤ 1 := by cases b <;> decide
  have h₁ := bit (rows.any fun r => r.info.late)
  have h₂ := bit (rows.any fun r => r.info.slowFill)
  have h₃ := bit (decide (rows.length < per))
  have h₄ := bit gap
  have h₅ := bit (rows.any (·.clip))
  unfold batchFlags
  omega

/-- Four numbers side by side in a word. -/
theorem fld_packed {a b c d : Nat} (ha : a < 2 ^ 5) (hb : b < 2 ^ 4) (hc : c < 2 ^ 7) (hd : d < 2 ^ 48) :
    let w := ofN (a * 2 ^ 59 + b * 2 ^ 55 + c * 2 ^ 48 + d)
    fld w 63 59 = a ∧ fld w 58 55 = b ∧ fld w 47 16 = d / 2 ^ 16 ∧ fld w 15 0 = d % 2 ^ 16 := by
  simp only [fld, nbits, ofN, BitVec.toNat_ofNat]
  omega

/-- The fields of a descriptor whose parts are in range. -/
theorem descriptor_fields {b : Batch} {x : Window} {r : Row} {rs : List Row} (hrows : b.rows = r :: rs)
    (hstamp : r.info.stamp < 2 ^ 32) (hseq : b.seq < 2 ^ 16) (hwin : b.win < 8) :
    let d := b.descriptor x
    fld d 63 59 = b.win ∧ fld d 58 55 = x.slotNext ∧ fld d 47 16 = r.info.stamp ∧ fld d 15 0 = b.seq := by
  have tag : b.tag = r.info.stamp * 65536 + b.seq := by simp [Batch.tag, hrows]
  obtain ⟨hw, hs, ht, hq⟩ := fld_packed (a := b.win) (d := b.tag) (by omega) x.slotNext_lt
    (batchFlags_lt b.rows b.per (decide (0 < x.dropped))) (by omega)
  exact ⟨hw, hs, ht.trans (by omega), hq.trans (by omega)⟩

/-- A core that holds other LM bytes and tags, its slots and all else as before. -/
def Core.SameSlots (k l : Core) : Prop := l.slots = k.slots ∧ l.scan = k.scan ∧ l.windows = k.windows

theorem Core.SameSlots.setTags (k : Core) (f : Nat → Nat) (g : Nat → BitVec 48) (l : List Nat) :
    k.SameSlots (l.foldl (fun k t => k.setTag (f t) (g t)) k) := by
  induction l generalizing k with
  | nil => exact ⟨rfl, rfl, rfl⟩
  | cons t l ih => exact ih (k.setTag (f t) (g t))

/-- A core in whose LM a batch has landed, with the tags of its blocks (R51, R121). -/
def Batch.landed (b : Batch) (x : Window) (k : Core) : Core :=
  (List.range (swSize x.cfg / 256)).foldl (fun k t => k.setTag (x.place / 256 + t) (BitVec.ofNat 48 b.tag))
    (k.lmStore x.place (batchHeader b.tag b.pitch x.dropped (batchFlags b.rows b.per (decide (0 < x.dropped))) b.rows ++
      b.rows.flatMap (·.bytes)))

theorem Batch.landed_sameSlots (b : Batch) (x : Window) (k : Core) : k.SameSlots (b.landed x k) :=
  Core.SameSlots.setTags (k.lmStore _ _) _ _ _

section
variable {s : State} {i : Nat} {b : Batch} {rest : List Batch}

/-- The oldest closed batch waits, is dropped, or lands (R52). -/
theorem batchDeliver_cons (hb : (s.exit i).closed = b :: rest) :
    let x := s.window b.core b.win
    let u := s.setExit i { s.exit i with closed := rest }
    let t := u.setWindow b.core b.win (x.drop b.rows.length)
    s.batchDeliver i =
      if !swEn x.cfg ∨ x.free = 0 ∨ (s.core b.core).lmWiping x.place (swSize x.cfg) then s
      else if !lmOwned (s.part x.owner).banks x.place (swSize x.cfg) || (s.core b.core).lmFenced x.place (swSize x.cfg) then
        { t with later := t.later ++ [.freeCountUpdate i] }
      else ((u.setCore b.core (b.landed x (s.core b.core))).setWindow b.core b.win x.fill).pushQ5 x.owner
        (b.core * 16 + swCslot x.cfg) (b.descriptor x) := by
  unfold State.batchDeliver
  rw [hb]
  rfl

theorem batchDeliver_none (h : (s.exit i).closed = []) : s.batchDeliver i = s := by
  unfold State.batchDeliver
  rw [h]

/-- A slot of a partition that is switched in takes the descriptor itself (R50). -/
theorem pushQ5_present {p : Nat} (gs : Nat) (d : Word) (h : s.away p = false) :
    s.pushQ5 p gs d = (s.setSlot gs { s.slot gs with q5 := (s.slot gs).q5 ++ [d] }).signalNext gs := by
  have here : s.slotFor p gs = s.slot gs := by rw [State.slotFor, SMap.seek_of_not_has h]
  unfold State.pushQ5
  dsimp only
  rw [if_neg (by simp [h]), here]

/-- The slot's q5 is longer by the descriptor, and no window has changed. -/
theorem pushQ5_present_reads {p : Nat} (gs : Nat) (d : Word) (h : s.away p = false) :
    ((s.pushQ5 p gs d).slot gs).q5 = (s.slot gs).q5 ++ [d] ∧ (∀ c n, (s.pushQ5 p gs d).window c n = s.window c n) ∧
    (s.pushQ5 p gs d).hub = s.hub := by
  rw [pushQ5_present gs d h]
  simp [State.signalNext]

section
variable {x : Window} (hb : (s.exit i).closed = b :: rest) (hx : s.window b.core b.win = x) (hen : bitOf x.cfg 63 = true)
  (hfree : 1 ≤ x.free) (hwipe : (s.core b.core).lmWiping x.place (swSize x.cfg) = false)
include hb hx hen hfree hwipe

/-- Neither a disabled nor a full window, nor a wipe, keeps the batch at the exit. -/
theorem batchDeliver_goes :
    let u := s.setExit i { s.exit i with closed := rest }
    let t := u.setWindow b.core b.win (x.drop b.rows.length)
    s.batchDeliver i =
      if !lmOwned (s.part x.owner).banks x.place (swSize x.cfg) || (s.core b.core).lmFenced x.place (swSize x.cfg) then
        { t with later := t.later ++ [.freeCountUpdate i] }
      else ((u.setCore b.core (b.landed x (s.core b.core))).setWindow b.core b.win x.fill).pushQ5 x.owner
        (b.core * 16 + swCslot x.cfg) (b.descriptor x) := by
  subst hx
  exact (batchDeliver_cons hb).trans (if_neg (by simp [swEn, hen, hwipe, Nat.ne_of_gt hfree]))

/-- Where the bank is not the partition's any more, or is fenced, the rows are dropped (R118, R405). -/
theorem batchDeliver_drops (hbank : lmOwned (s.part x.owner).banks x.place (swSize x.cfg) = false ∨
      (s.core b.core).lmFenced x.place (swSize x.cfg) = true) :
    let t := (s.setExit i { s.exit i with closed := rest }).setWindow b.core b.win (x.drop b.rows.length)
    s.batchDeliver i = { t with later := t.later ++ [.freeCountUpdate i] } :=
  (batchDeliver_goes hb hx hen hfree hwipe).trans (if_pos (by simpa using hbank))

/-- In an owned bank the batch takes the window's next slot, and its descriptor goes to the window's CSLOT (R52). -/
theorem batchDeliver_lands (hown : lmOwned (s.part x.owner).banks x.place (swSize x.cfg) = true)
    (hfence : (s.core b.core).lmFenced x.place (swSize x.cfg) = false) (haway : s.away x.owner = false) :
    let t := s.batchDeliver i
    let gs := b.core * 16 + swCslot x.cfg
    (t.exit i).closed = rest ∧ t.window b.core b.win = x.fill ∧ (t.slot gs).q5 = (s.slot gs).q5 ++ [b.descriptor x] := by
  obtain ⟨u, hu⟩ : ∃ u, u = s.setExit i { s.exit i with closed := rest } := ⟨_, rfl⟩
  obtain ⟨k, hk⟩ : ∃ k, k = b.landed x (s.core b.core) := ⟨_, rfl⟩
  obtain ⟨slots, scan, -⟩ : (u.core b.core).SameSlots k := by rw [hk, hu]; exact b.landed_sameSlots x _
  have lands : s.batchDeliver i = ((u.setCore b.core k).setWindow b.core b.win x.fill).pushQ5 x.owner
      (b.core * 16 + swCslot x.cfg) (b.descriptor x) := by
    rw [batchDeliver_goes hb hx hen hfree hwipe, if_neg (by simp [hown, hfence]), hu, hk]
  obtain ⟨queue, window, hub⟩ := pushQ5_present_reads (s := (u.setCore b.core k).setWindow b.core b.win x.fill)
    (b.core * 16 + swCslot x.cfg) (b.descriptor x) (p := x.owner) (by rw [hu]; exact haway)
  rw [State.slot_setWindow, State.slot_setCore _ _ _ slots scan] at queue
  have exit : ((u.setCore b.core k).setWindow b.core b.win x.fill).exit i = u.exit i := rfl
  dsimp only
  rw [lands, State.exit, hub, window, State.window_setWindow_self, queue]
  refine ⟨(congrArg Exit.closed exit).trans ?_, rfl, ?_⟩
  · rw [hu, State.exit_setExit_self]
  · rw [hu]
    rfl

end

/-! ## The free count reaches the exit (R52, R53) -/

/-- The free slots of an exit's window, less the batches of the exit on their way to it. -/
def State.freeAtExit (s : State) (i : Nat) : Nat :=
  (s.window (lxCore (s.lxdst i)) (lxWin (s.lxdst i))).free -
    ((s.exit i).closed.filter fun b => decide (b.core = lxCore (s.lxdst i) ∧ b.win = lxWin (s.lxdst i))).length

theorem freeUpdate_eq (s : State) (i : Nat) :
    s.freeUpdate i = ((s.setExit i { s.exit i with free := s.freeAtExit i }).takeHeld i (s.exit i).held.length).placeRow i := rfl

section
variable (hblocked : (s.exit i).blocked = none)
include hblocked

theorem freeUpdate_idle (hheld : (s.exit i).held = []) :
    s.freeUpdate i = s.setExit i { s.exit i with free := s.freeAtExit i } := by
  rw [freeUpdate_eq, hheld]
  exact placeRow_none (by rw [List.length_nil, State.takeHeld, State.exit_setExit_self]; exact hblocked)

/-- One held row, with a free slot for it and no batch open. -/
theorem freeUpdate_takes_held {r : Row} (hheld : (s.exit i).held = [r]) (hbatch : (s.exit i).batch = [])
    (hfree : 1 ≤ s.freeAtExit i) (hrows : lxRows (s.lxcfg i) ≠ 1) :
    (s.freeUpdate i).exit i =
      { s.exit i with free := s.freeAtExit i, held := [], batch := [r], batchSince := s.localNs } := by
  obtain ⟨u, hu⟩ : ∃ u, u = s.setExit i { s.exit i with free := s.freeAtExit i } := ⟨_, rfl⟩
  have exit : u.exit i = { s.exit i with free := s.freeAtExit i } := by rw [hu, State.exit_setExit_self]
  have cfg : u.lxcfg i = s.lxcfg i := by rw [hu, State.lxcfg_setExit]
  have taken : u.takeHeld i 1 = (u.setExit i { u.exit i with held := [] }).addRow i r := by
    have held : (u.exit i).held = [r] := by rw [exit, ← hheld]
    have batch : (u.exit i).batch = [] := by rw [exit]; exact hbatch
    have free : u.exitFree i = true := by rw [State.exitFree, exit]; exact decide_eq_true hfree
    simp only [State.takeHeld, held, closeFor_empty r.info batch, free, if_true]
  rw [freeUpdate_eq, hheld, ← hu, List.length_singleton, taken,
    addRow_first (by rw [State.exit_setExit_self, exit]; exact hbatch) (by rwa [State.lxcfg_setExit, cfg])]
  rw [placeRow_none] <;> rw [State.exit_setExit_self, State.exit_setExit_self, exit]
  · rw [hu]
    rfl
  · exact hblocked

end

end

end Sys2Proof.Machine

namespace Sys2Proof.Machine

/-- Settles O50: the windows' registers, the exits' registers, and the steps of an exit, each by what the operation leaves. -/
theorem streamExits : Obligations.StreamExits := by
  refine ⟨fun s c n v => ⟨?refused, ?starts, ?stops⟩, fun s c slot n v => ⟨fun h => ?foreign, fun h => ?released⟩,
    fun s i w _ => ⟨?noColumns, ?enabled, ?disabled, ?cleared, ?moved, ?aimed⟩, fun s i _ =>
      ⟨?idle, fun m ms hen hwhole hblocked hm hbatch hheld => ⟨?batched, ?dropped, ?blocked⟩, ?noBatch, ?closes, ?noMeta, ?timeout,
        ?noClosed, fun b rest hb => ⟨?waits, ?delivers⟩, ?idleUpdate, ?takesHeld⟩⟩
  case refused => exact fun h => exec_next rfl (swcfg_refused s c n v h)
  case starts =>
    intro hfate hbase hen hold hok
    refine ⟨_, exec_next rfl (swcfg_starts hfate hbase hen hold hok), ?_⟩
    have window := s.window_setWindow_self c n
    exact ⟨congrArg Window.cfg (window _), (congrArg Window.free (window _)).trans (swSlots_swMask v),
      congrArg Window.filled (window _), congrArg Window.dropRows (window _), (congrArg Window.dropped (window _)).trans rfl, rfl⟩
  case stops =>
    intro hfate hbase hen hold
    refine ⟨_, exec_next rfl (swcfg_stops hfate hbase hen hold), ?_⟩
    have window : ∃ x : Window, (s.stopWindow c n (swMask v)).window c n =
        { x with cfg := swMask v, free := 0, filled := 0, head := 0 } := ⟨_, State.window_setWindow_self ..⟩
    obtain ⟨x, window⟩ := window
    rw [window]
    refine ⟨(swEn_swMask v).trans hen, rfl, rfl, fun i _ => ?_⟩
    rw [stopWindow_exit]
    refine ⟨by split <;> rfl, fun hi => ?_⟩
    rw [if_pos hi]
    exact ⟨rfl, rfl, rfl, rfl⟩
  case foreign => exact exec_next rfl (if_neg h)
  case released =>
    refine ⟨_, exec_next rfl (swrel_own h), ?_⟩
    have window := s.window_setWindow_self c n
    exact ⟨(congrArg Window.filled (window _)).trans (by dsimp only; omega), congrArg Window.free (window _),
      congrArg Window.ovrel (window _), rfl⟩
  case noColumns =>
    intro hen hcols
    obtain ⟨cfg, err, -⟩ := exitCfgErr_fields s i
    exact ⟨_, exec_next rfl (lxcfgWrite_no_columns s i w hen hcols), cfg, err⟩
  case enabled =>
    intro hen hold hok
    refine ⟨_, exec_next rfl (lxcfgWrite_taken (by simp [hold]) (.inr hok)), ?_⟩
    rw [if_pos (by simp [hen, hold])]
    have exit := (s.setReg (lxcfgReg i) w).exit_setExit_self i
    exact ⟨s.lxcfg_setReg_self i w, congrArg Exit.seq (exit _), congrArg Exit.hold (exit _), congrArg Exit.wait (exit _), rfl⟩
  case disabled =>
    intro hen hold
    refine ⟨_, exec_next rfl (lxcfgWrite_taken (by simp [hold]) (.inl hen)), ?_⟩
    rw [if_neg (by simp [hen]), if_neg (by simp [hold])]
    exact ⟨s.lxcfg_setReg_self i w, rfl⟩
  case cleared =>
    intro hold hw
    have hen : lxEn w = false := hw ▸ bitOf_setFld_zero _ (by omega) (by omega)
    refine ⟨_, exec_next rfl (lxcfgWrite_taken (fun _ => hw ▸ lxFixed_disable _) (.inl hen)), ?_⟩
    rw [if_neg (by simp [hen]), if_pos (by simp [hold, hen])]
    have exit := (s.setReg (lxcfgReg i) w).exit_setExit_self i
    refine ⟨s.lxcfg_setReg_self i w, congrArg Exit.batch (exit _), congrArg Exit.held (exit _), congrArg Exit.blocked (exit _), ?_⟩
    simp only [State.dropRows, State.exitWindow, State.lxdst_setExit, State.lxdst_setReg_lxcfg, State.window_setWindow_self,
      State.window_setExit, State.window_setReg]
  case moved =>
    intro hold hmoved
    obtain ⟨-, err, same⟩ := exitCfgErr_fields s i
    exact ⟨_, exec_next rfl (lxdstWrite_moved s i w hold hmoved), same, err⟩
  case aimed =>
    intro hold
    refine ⟨_, exec_next rfl (lxdstWrite_taken s i w hold), ?_⟩
    rw [State.lxdst_setReg_self]
    exact lxdst_fields _ _ (fld_lt w 19 9)
  case idle => exact fun h => exec_next rfl (rowComplete_idle h)
  case batched =>
    intro hfree hrows
    obtain ⟨u, hu, hplace⟩ := rowComplete_takes hen hwhole hblocked hm
    refine ⟨_, s.wholeRow i m, exec_next rfl (hplace.trans (placeRow_batched (r := s.wholeRow i m) ?_ ?_ ?_ ?_ ?_)), ⟨rfl, rfl⟩, ?_⟩
    · rw [hu.exit]; rfl
    · rw [hu.exit]; exact hbatch
    · rw [hu.exit]; exact hheld
    · rw [hu.exit]; exact hfree
    · rwa [hu.same.1]
    · rw [State.exit_setExit_self, hu.exit]
      exact ⟨rfl, rfl, rfl, hu.rowMeta, hu.now, rfl, rfl⟩
  case dropped =>
    intro hfree hhold hfate
    obtain ⟨u, hu, hplace⟩ := rowComplete_takes hen hwhole hblocked hm
    obtain ⟨-, dst, fate⟩ := hu.same
    refine ⟨_, exec_next rfl (hplace.trans (placeRow_dropped (r := s.wholeRow i m) ?_ ?_ ?_ ?_ ?_ ?_)), ?_⟩
    · rw [hu.exit]; rfl
    · rw [hu.exit]; exact hbatch
    · rw [hu.exit]; exact hheld
    · rw [hu.exit]; exact hfree
    · rw [hu.exit]; exact hhold
    · rwa [fate]
    · simp only [State.dropRows, State.exitWindow, State.lxdst_setExit, dst, State.exit_setWindow, State.exit_setExit_self,
        State.window_setWindow_self, State.window_setExit, hu.window, hu.exit]
      exact ⟨hbatch, hheld, hu.rowMeta, trivial⟩
  case blocked =>
    intro hfree hhold hfate
    obtain ⟨u, hu, hplace⟩ := rowComplete_takes hen hwhole hblocked hm
    refine ⟨u, s.wholeRow i m, exec_next rfl (hplace.trans (placeRow_blocked (r := s.wholeRow i m) ?_ ?_ ?_ ?_ ?_ ?_)),
      ⟨rfl, rfl⟩, ?_⟩
    · rw [hu.exit]; rfl
    · rw [hu.exit]; exact hbatch
    · rw [hu.exit]; exact hheld
    · rw [hu.exit]; exact hfree
    · rw [hu.exit]; exact hhold
    · rwa [hu.same.2.2]
    · rw [hu.exit]
      exact ⟨rfl, hbatch, hu.rowMeta, hu.window _ _⟩
  case noBatch => exact fun h => exec_next rfl (closeBatch_empty h)
  case closes =>
    intro h
    refine ⟨_, exec_next rfl (closeBatch_open h), ?_⟩
    have exit := s.exit_setExit_self i
    exact ⟨congrArg Exit.batch (exit _), congrArg Exit.closed (exit _), congrArg Exit.seq (exit _),
      congrArg Exit.free (exit _), rfl⟩
  case noMeta => exact fun h => exec_next rfl (metaTimeout_none h)
  case timeout =>
    intro m ms h
    refine ⟨_, exec_next rfl (metaTimeout_some h), SMap.val_put_self .., ?_, State.window_setWindow_self ..⟩
    exact (congrArg (bitOf · 0) (State.lxdst_setReg_self _ i _)).trans (bitOf_setFld_one _ (by omega))
  case noClosed => exact fun h => exec_next rfl (batchDeliver_none h)
  case waits =>
    intro h
    refine exec_next rfl ((batchDeliver_cons hb).trans (if_pos ?_))
    exact h.imp_left fun h => by simp [swEn, h]
  case delivers =>
    intro hen hfree hwipe
    refine ⟨fun hbank => ⟨_, exec_next rfl (batchDeliver_drops hb rfl hen hfree hwipe hbank), ?_⟩, fun hown hfence haway => ?_⟩
    · exact ⟨congrArg Exit.closed (State.exit_setExit_self ..), State.window_setWindow_self .., State.lm_setWindow .., rfl⟩
    · obtain ⟨closed, window, queue⟩ := batchDeliver_lands hb rfl hen hfree hwipe hown hfence haway
      exact ⟨_, _, rfl, closed, congrArg Window.filled window, congrArg Window.free window, congrArg Window.dropped window,
        queue, fun _ _ => descriptor_fields⟩
  case idleUpdate => exact fun hheld hblocked => exec_next rfl (freeUpdate_idle hblocked hheld)
  case takesHeld =>
    intro r hheld hblocked hbatch hfree hrows
    refine ⟨_, rfl, ?_⟩
    rw [freeUpdate_takes_held hblocked hheld hbatch hfree hrows]
    exact ⟨rfl, rfl, rfl⟩

end Sys2Proof.Machine

/-! # Sensor ports

What the operations of a sensor port leave of the port, of its staging and of the rows that wait to enter the array (R27 to
R37, R44, R60). -/

namespace Sys2Proof.Machine

/-! ## Counters -/

section
variable (x : SensorPort) (k n : Nat)

@[simp] theorem SensorPort.count_self : (x.count k n).counters.val k 0 = min (2 ^ 32 - 1) (x.counters.val k 0 + n) :=
  SMap.val_put_self ..

theorem SensorPort.count_ne {j : Nat} (h : j ≠ k) : (x.count k n).counters.val j 0 = x.counters.val j 0 :=
  SMap.val_put_ne _ _ _ h

end

/-! ## PAUSE (R44) -/

/-- A port that has gone on or off PAUSE, or has not: all but its PAUSE state and the count of PAUSE frames is as before. -/
structure SensorPort.SameWork (x y : SensorPort) : Prop where
  eq : y = { x with paused := y.paused, counters := y.counters }
  counters : ∀ k, k ≠ skPauseSent → y.counters.val k 0 = x.counters.val k 0

section
variable {x y : SensorPort} (h : x.SameWork y)
include h

theorem SensorPort.SameWork.records : y.records = x.records := by rw [h.eq]
theorem SensorPort.SameWork.slowq : y.slowq = x.slowq := by rw [h.eq]
theorem SensorPort.SameWork.times : y.times = x.times := by rw [h.eq]

end

section
variable (s : State) (p : Nat)

/-- A PAUSE frame with a time leaves, and the port is on PAUSE or off. -/
def State.sendsPause (quanta : Nat) (on : Bool) : State :=
  (s.setSensor p ({ s.sensor p with paused := on }.count skPauseSent 1)).updHub
    (fun h => { h with out := h.out ++ [.pause p quanta] })

theorem pauseCheck_eq : s.pauseCheck p =
    if spPause (s.spcfg p) && !(s.sensor p).paused && decide (131072 - s.staged p < 19200) then s.sendsPause p 0xFFFF true
    else if (s.sensor p).paused && decide (38400 ≤ 131072 - s.staged p) then s.sendsPause p 0 false
    else s := rfl

/-- A PAUSE check touches the hub alone: its output, and one port's PAUSE state and count. -/
theorem pauseCheck_keeps : (s.sensor p).SameWork ((s.pauseCheck p).sensor p) ∧ (s.pauseCheck p).hub.feed = s.hub.feed ∧
    (s.pauseCheck p).hub.regs = s.hub.regs := by
  have sends (quanta : Nat) (on : Bool) : (s.sendsPause p quanta on).sensor p =
      { s.sensor p with paused := on }.count skPauseSent 1 := State.sensor_setSensor_self ..
  have counted (on : Bool) : (s.sensor p).SameWork ({ s.sensor p with paused := on }.count skPauseSent 1) :=
    ⟨rfl, fun _ => SensorPort.count_ne _ _ _⟩
  rw [pauseCheck_eq]
  split
  · exact ⟨sends .. ▸ counted _, rfl, rfl⟩
  split
  · exact ⟨sends .. ▸ counted _, rfl, rfl⟩
  · exact ⟨⟨rfl, fun _ _ => rfl⟩, rfl, rfl⟩

variable {s p}

/-- A port that is not on PAUSE, and that may not or need not send it. -/
theorem pauseCheck_quiet (hp : (s.sensor p).paused = false) (h : spPause (s.spcfg p) = false ∨ 19200 ≤ 131072 - s.staged p) :
    s.pauseCheck p = s := by
  rw [pauseCheck_eq, if_neg, if_neg (by simp [hp])]
  rcases h with h | h
  · simp [h]
  · simp [Nat.not_lt.2 h]

theorem pauseCheck_starts (hp : (s.sensor p).paused = false) (he : spPause (s.spcfg p) = true)
    (h : 131072 - s.staged p < 19200) : s.pauseCheck p = s.sendsPause p 0xFFFF true := by
  rw [pauseCheck_eq, if_pos (by simp [hp, he, h])]

theorem pauseCheck_ends (hp : (s.sensor p).paused = true) (h : 38400 ≤ 131072 - s.staged p) :
    s.pauseCheck p = s.sendsPause p 0 false := by
  rw [pauseCheck_eq, if_neg (by simp [hp]), if_pos (by simp [hp, h])]

/-- After a PAUSE frame the port is on PAUSE or off as it says, with the same records. -/
theorem sendsPause_fields (s : State) (p quanta : Nat) (on : Bool) :
    let t := s.sendsPause p quanta on
    (t.sensor p).paused = on ∧ (t.sensor p).records = (s.sensor p).records ∧ t.hub.out = s.hub.out ++ [.pause p quanta] := by
  have port : (s.sendsPause p quanta on).sensor p = { s.sensor p with paused := on }.count skPauseSent 1 :=
    State.sensor_setSensor_self ..
  dsimp only
  rw [port]
  exact ⟨rfl, rfl, rfl⟩

end

/-! ## Frames, and the check of a record (R27, R28, R32, R33) -/

section
variable (s : State) (p : Nat)

/-- A damaged frame counts in FCSERR alone. -/
theorem sensorReceive_damaged (f : List Byte) : s.sensorReceive p f false = s.setSensor p ((s.sensor p).count 16 1) := rfl

/-- The checks of a sound frame in their order, and the counter of each. -/
theorem sensorReceive_sound (f : List Byte) :
    let x := s.sensor p
    s.sensorReceive p f true =
      if 9596 < f.length then s.setSensor p (x.count 17 1)
      else if (sensorParts f).1 ≠ fld (s.reg (spBase p)) 47 32 then s.setSensor p (x.count 18 1)
      else if 38400 < (x.fifo.map (·.size)).sum + f.length + 4 then
        s.setSensor p ((x.count 15 1).count 14 (payloadRows (sensorParts f).2 300))
      else s.setSensor p { x with
        fifo := x.fifo ++ [{ rest := (sensorParts f).2, arrived := s.gptp 0, scan := s.hub.scan, size := f.length + 4 }] } :=
  rfl

variable {s p}

theorem recordCheck_waits (h : (s.sensor p).fifo = [] ∨ ∃ r ∈ (s.sensor p).records, r.started = none) :
    s.recordCheck p = s := by
  unfold State.recordCheck
  dsimp only
  split
  · rfl
  · rename_i hfifo
    obtain ⟨r, hr, hn⟩ := h.resolve_left (by simp [hfifo])
    exact if_pos (List.any_eq_true.2 ⟨r, hr, by simp [hn]⟩)

/-- The record that a port accepts at the head of a frame, which then waits for staging (R32, R37). -/
def State.accepted (s : State) (p : Nat) (f : SkFrame) : SkRecord :=
  { header := f.rest.take 32, payload := (f.rest.drop 32).take (skPaylen f.rest)
    stamp := if s.stampSrc p then f.scan else s.scanOf (skSampled f.rest)
    arrived := f.arrived, slowMult := spSlow (s.spcfg p)
    place := fld (s.reg (spBase p + 8)) 15 0, started := none, runs := [], ended := none }

section
variable {f : SkFrame} {rest : List SkFrame} (hf : (s.sensor p).fifo = f :: rest)
  (hr : ∀ r ∈ (s.sensor p).records, r.started ≠ none)
include hf hr

/-- With no record waiting for staging the next one of the oldest frame is checked. -/
theorem recordCheck_looks :
    let x := s.sensor p
    let next := { x with fifo := { f with rest := f.rest.drop (skSpan f.rest) } :: rest }
    s.recordCheck p = match s.checkRecord p f.rest f.arrived with
      | .done => s.setSensor p { x with fifo := rest }
      | .reject k skip => s.setSensor p (((if skip then next else { x with fifo := rest }).count k 1).count skLostRows (skRows f.rest))
      | .pass => s.setSensor p (({ next with records := x.records ++ [s.accepted p f] } : SensorPort).count skRecords 1) := by
  have started : ¬ (s.sensor p).records.any (fun r => r.started.isNone) = true := by
    simpa [Option.isSome_iff_ne_none] using hr
  unfold State.recordCheck
  dsimp only
  rw [hf]
  exact if_neg started

end

theorem checkRecord_done {l : List Byte} (at_ : Nat) (h : l = [] ∨ skMagic l = 0) : s.checkRecord p l at_ = .done := if_pos h

theorem checkRecord_bad_magic {l : List Byte} (at_ : Nat) (hl : l ≠ []) (h0 : skMagic l ≠ 0) (hm : skMagic l ≠ 0x4B53) :
    s.checkRecord p l at_ = .reject 0 false := (if_neg (not_or.2 ⟨hl, h0⟩)).trans (if_pos hm)

end

/-! ## SPCFG (R60) -/

/-- SPCFG as a write leaves it. -/
theorem spcfg_fields {a c : Nat} (b d : Bool) (ha : a < 2 ^ 16) (hc : c < 2 ^ 8) :
    let r := ofN (a * 2 ^ 32 + b2n b * 2 ^ 31 + c * 256 + b2n d)
    spType r = a ∧ spPause r = b ∧ spSlow r = c ∧ bitOf r 0 = d := by
  cases b <;> cases d <;> simp [spType, spPause, spSlow, fld, nbits, bitOf_eq_decide, ofN, b2n] <;> omega

/-- SPCFG after a write that is taken. -/
def State.spcfgNew (s : State) (p : Nat) (w : Word) : Word :=
  ofN (spType w * 2 ^ 32 + b2n (spPause w) * 2 ^ 31 + spSlow w * 256 + b2n (bitOf (s.spcfg p) 0 && !bitOf w 0))

/-- The port after it: with its counters cleared where CLR is set. -/
def State.spcfgPort (s : State) (p : Nat) (w : Word) : SensorPort :=
  if bitOf w 1 then { s.sensor p with counters := [] } else s.sensor p

section
variable {s : State} {p : Nat} {w : Word}

/-- A write that is taken writes the register and the port, and checks for PAUSE. -/
theorem spcfgWrite_taken (h : 8 ≤ fld w 15 8) :
    ∃ u : State, s.spcfgWrite p w = u.pauseCheck p ∧ u.spcfg p = s.spcfgNew p w ∧ u.sensor p = s.spcfgPort p w ∧
      u.staged p = s.staged p ∧ u.hub.out = s.hub.out := by
  have taken : s.spcfgWrite p w = ((if bitOf w 1 then (s.setReg (spBase p) (s.spcfgNew p w)).setSensor p
      { (s.setReg (spBase p) (s.spcfgNew p w)).sensor p with counters := [] }
      else s.setReg (spBase p) (s.spcfgNew p w)).pauseCheck p) := if_neg (Nat.not_lt.2 h)
  refine ⟨_, taken, ?_⟩
  unfold State.spcfgPort
  have reg := s.reg_setReg_self (s.spcfgNew p w) (spBase p)
  split
  · refine ⟨reg, State.sensor_setSensor_self .., ?_, rfl⟩
    simp only [State.staged, State.stagedRuns, State.sensor_setSensor_self]
    rfl
  · exact ⟨reg, rfl, rfl, rfl⟩

end

/-! ## Staging (R33, R44) -/

/-- The first record that waits is the one that takes staging. -/
theorem allocFirst_append (now : Nat) (runs : List (Nat × Nat)) {l₁ : List SkRecord} {r : SkRecord} (l₂ : List SkRecord)
    (h₁ : ∀ q ∈ l₁, q.started ≠ none) (hr : r.started = none) :
    allocFirst now runs (l₁ ++ r :: l₂) = l₁ ++ { r with started := some now, runs := runs } :: l₂ := by
  induction l₁ with
  | nil => exact if_neg (by simp [hr])
  | cons q l₁ ih =>
    rw [List.forall_mem_cons] at h₁
    rw [List.cons_append, allocFirst, if_pos (Option.isSome_iff_ne_none.2 h₁.1), ih h₁.2, List.cons_append]

section
variable {s : State} {p : Nat}

theorem stagingAllocate_idle (h : ∀ r ∈ (s.sensor p).records, r.started ≠ none) : s.stagingAllocate p = s := by
  have none : (s.sensor p).records.find? (fun r => r.started.isNone) = none :=
    List.find?_eq_none.2 fun r hr => by simp [h r hr]
  unfold State.stagingAllocate
  dsimp only
  rw [none]

theorem stagingAllocate_first {l₁ l₂ : List SkRecord} {r : SkRecord} (hx : (s.sensor p).records = l₁ ++ r :: l₂)
    (h₁ : ∀ q ∈ l₁, q.started ≠ none) (hr : r.started = none) :
    s.stagingAllocate p = if s.staged p + skDecoded r.header ≤ 131072 then
        (s.setSensor p { s.sensor p with records := l₁ ++
          { r with started := some s.now, runs := s.freeRuns p (skDecoded r.header) } :: l₂ }).pauseCheck p
      else s.pauseCheck p := by
  have first : (s.sensor p).records.find? (fun r => r.started.isNone) = some r := by
    rw [hx, List.find?_append, List.find?_eq_none.2 fun q hq => by simp [h₁ q hq], List.find?_cons, hr]
    rfl
  unfold State.stagingAllocate
  dsimp only
  rw [first, hx]
  dsimp only
  rw [allocFirst_append _ _ _ h₁ hr]

end

end Sys2Proof.Machine

namespace Sys2Proof.Machine

/-! ## Decode lanes, the slow lane, and rows for the array (R34 to R37) -/

section
variable (s : State) (p : Nat) (r : SkRecord) (late slow : Bool)

/-- A row for array row `a` queues behind those that wait there. -/
def State.feedOne (s : State) (a : Nat) (f : FeedRow) : State :=
  s.updHub (fun h => { h with feed := h.feed.put a (h.feed.val a [] ++ [f]) })

/-- The array row of the row of a record that has one (R37). -/
def oneRowAt (p : Nat) (r : SkRecord) : Nat := 2 * p + skLine r.header % 2 ^ 32 % 2

theorem queueRows_one (h : skRows r.header = 1) :
    s.queueRows p r late slow = s.feedOne (oneRowAt p r) (feedRowOf r late slow 0) := by
  rw [State.queueRows, h]
  rfl

/-- Rows that queue leave the sensor ports as they are. -/
theorem queueRows_sensors : (s.queueRows p r late slow).hub.sensors = s.hub.sensors := by
  unfold State.queueRows
  generalize List.range (skRows r.header) = l
  induction l generalizing s with
  | nil => rfl
  | cons j l ih => exact ih _

/-- Staging lies in element memories alone. -/
theorem stagePut_hub (runs : List (Nat × Nat)) (bs : List Byte) :
    (s.stagePut p runs bs).hub.sensors = s.hub.sensors ∧ (s.stagePut p runs bs).hub.feed = s.hub.feed := by
  induction runs generalizing s bs with
  | nil => exact ⟨rfl, rfl⟩
  | cons e runs ih => exact ih _ _

/-- A port whose oldest record is still in its lane has no rows to queue. -/
theorem queueEnded_waits {q : SkRecord} {rest : List SkRecord} (h : (s.sensor p).records = q :: rest) (hq : q.ended = none)
    (fuel : Nat) : s.queueEnded p fuel = s := by
  cases fuel with
  | zero => rfl
  | succ fuel => simp only [State.queueEnded, h, hq]

/-- The only record of a port has left its lane: its rows queue, and no record is left. -/
theorem queueEnded_only {e : SkEnd} (h : (s.sensor p).records = [r]) (he : r.ended = some e) :
    let x := s.sensor p
    let t := s.queueEnded p 1
    t.sensor p = { x with records := [] } ∧
      (skRows r.header = 1 → t.hub.feed.val (oneRowAt p r) [] =
        s.hub.feed.val (oneRowAt p r) [] ++ [feedRowOf r (decide (e = .placeholders)) false 0]) := by
  have queued : s.queueEnded p 1 =
      (s.setSensor p { s.sensor p with records := [] }).queueRows p r (decide (e = .placeholders)) false := by
    simp only [State.queueEnded, h, he]
  dsimp only
  rw [queued]
  refine ⟨?_, fun hrows => ?_⟩
  · rw [State.sensor, queueRows_sensors]
    exact State.sensor_setSensor_self ..
  · rw [queueRows_one _ _ _ _ _ hrows]
    exact SMap.val_put_self ..

end

section
variable {f : SkRecord → Bool} {g : SkRecord → SkRecord}

theorem replaceFirst_append {l₁ : List SkRecord} {r : SkRecord} (l₂ : List SkRecord) (h₁ : ∀ q ∈ l₁, f q = false)
    (hr : f r = true) : replaceFirst f g (l₁ ++ r :: l₂) = l₁ ++ g r :: l₂ := by
  induction l₁ with
  | nil => exact if_pos hr
  | cons q l₁ ih =>
    rw [List.forall_mem_cons] at h₁
    rw [List.cons_append, replaceFirst, if_neg (by simp [h₁.1]), ih h₁.2, List.cons_append]

theorem find?_append_of_first {l₁ : List SkRecord} {r : SkRecord} (l₂ : List SkRecord) (h₁ : ∀ q ∈ l₁, f q = false)
    (hr : f r = true) : (l₁ ++ r :: l₂).find? f = some r := by
  rw [List.find?_append, List.find?_eq_none.2 fun q hq => by simp [h₁ q hq], List.find?_cons, hr]
  rfl

end

/-- Placeholders stand in for a record of which nothing is left in staging. -/
def SkRecord.lost (r : SkRecord) : SkRecord := { r with ended := some .placeholders, runs := [] }

/-- The port after the decode of one of its records: with the time of a decode or the count of an error, and the record
ended. -/
def SensorPort.decoded (x : SensorPort) (n : Nat) (records : List SkRecord) : SensorPort := { x.timed n with records := records }
def SensorPort.failed (x : SensorPort) (records : List SkRecord) : SensorPort :=
  { x.count skDecodeError 1 with records := records }

section
variable {s : State} {p n : Nat} {l₁ l₂ : List SkRecord} {r : SkRecord}

theorem decodeDone_none (h : ∀ r ∈ (s.sensor p).records, r.takes n = false) : s.decodeDone p n = s := by
  have none : (s.sensor p).records.find? (·.takes n) = none := List.find?_eq_none.2 fun r hr => by simp [h r hr]
  unfold State.decodeDone
  dsimp only
  rw [none]

section
variable (hx : (s.sensor p).records = l₁ ++ r :: l₂) (h₁ : ∀ q ∈ l₁, q.takes n = false) (hr : r.takes n = true)
include hx h₁ hr

/-- The decode of a record that decodes leaves its rows in staging; then the ended records go on, and PAUSE is checked. -/
theorem decodeDone_decodes {rows : List (List Nat)} (hd : decodeRecord r.header r.payload = some rows) :
    ∃ u : State, s.decodeDone p n = (u.queueEnded p (s.sensor p).records.length).pauseCheck p ∧
      u.sensor p = (s.sensor p).decoded n (l₁ ++ { r with ended := some .decoded } :: l₂) ∧ u.hub.feed = s.hub.feed := by
  unfold State.decodeDone
  dsimp only
  rw [hx, find?_append_of_first l₂ h₁ hr]
  dsimp only
  rw [hd, replaceFirst_append l₂ h₁ hr]
  refine ⟨_, rfl, ?_, (stagePut_hub ..).2⟩
  rw [State.sensor, (stagePut_hub ..).1]
  exact State.sensor_setSensor_self ..

/-- One that does not decode is counted, and placeholders replace it. -/
theorem decodeDone_fails (hd : decodeRecord r.header r.payload = none) :
    ∃ u : State, s.decodeDone p n = (u.queueEnded p (s.sensor p).records.length).pauseCheck p ∧
      u.sensor p = (s.sensor p).failed (l₁ ++ r.lost :: l₂) ∧ u.hub.feed = s.hub.feed := by
  unfold State.decodeDone
  dsimp only
  rw [hx, find?_append_of_first l₂ h₁ hr]
  dsimp only
  rw [hd, replaceFirst_append (g := (·.ends .placeholders)) l₂ h₁ hr]
  dsimp only
  exact ⟨_, rfl, State.sensor_setSensor_self .., rfl⟩

end

theorem slowMove_none (h : ∀ r ∈ (s.sensor p).records, s.overdue p r = false) : s.slowMove p = s := by
  have none : (s.sensor p).records.find? (s.overdue p) = none := List.find?_eq_none.2 fun r hr => by simp [h r hr]
  unfold State.slowMove
  dsimp only
  rw [none]

/-- The port after an overdue record has left its fast lane: it queues for the slow lane, or that is full (R35). -/
def State.movedSlow (s : State) (p : Nat) (r : SkRecord) : SensorPort :=
  let x := s.sensor p
  if x.slowq.length < 4 then { x with slowq := x.slowq ++ [{ r with started := if x.slowq.isEmpty then some s.now else none }] }
  else x.count skSlowFull 1

section
variable (hx : (s.sensor p).records = [r]) (hr : s.overdue p r = true)
include hx hr

theorem slowMove_only : s.slowMove p =
    ((s.setSensor p { s.movedSlow p r with records := [r.lost] }).queueEnded p 1).pauseCheck p := by
  have first := find?_append_of_first (l₁ := []) [] nofun hr
  have replaced := replaceFirst_append (g := (·.ends .placeholders)) (l₁ := []) [] nofun hr
  rw [List.nil_append] at first replaced
  unfold State.slowMove State.movedSlow
  dsimp only
  rw [hx, first]
  dsimp only
  rw [replaced]
  split <;> rfl

/-- Placeholders enter the array for the only record of a port, which leaves its fast lane. -/
theorem slowMove_leaves :
    let t := s.slowMove p
    SensorPort.SameWork { s.movedSlow p r with records := [] } (t.sensor p) ∧
      (skRows r.header = 1 → t.hub.feed.val (oneRowAt p r) [] =
        s.hub.feed.val (oneRowAt p r) [] ++ [feedRowOf r true false 0]) := by
  obtain ⟨u, hu⟩ : ∃ u, u = s.setSensor p { s.movedSlow p r with records := [r.lost] } := ⟨_, rfl⟩
  have port : u.sensor p = { s.movedSlow p r with records := [r.lost] } := by rw [hu, State.sensor_setSensor_self]
  obtain ⟨left, queued⟩ := queueEnded_only u p r.lost (congrArg SensorPort.records port) rfl
  obtain ⟨same, feed, -⟩ := pauseCheck_keeps (u.queueEnded p 1) p
  dsimp only
  rw [slowMove_only hx hr, ← hu]
  refine ⟨?_, fun hrows => (congrArg (SMap.val · _ []) feed).trans ((queued hrows).trans ?_)⟩
  · rwa [left, port] at same
  · rw [hu]
    rfl

end

end

end Sys2Proof.Machine

namespace Sys2Proof.Machine

section
variable {s : State} {p : Nat} {r : SkRecord} {rest : List SkRecord}

theorem slowEnd_none (h : (s.sensor p).slowq = []) : s.slowEnd p = s := by
  unfold State.slowEnd
  dsimp only
  rw [h]

section
variable (hq : (s.sensor p).slowq = r :: rest)
include hq

/-- A slow record that does not decode is counted. -/
theorem slowEnd_fails (hd : decodeRecord r.header r.payload = none) :
    s.slowEnd p = (s.setSensor p ({ s.sensor p with slowq := allocHead s.now rest }.count skDecodeError 1)).pauseCheck p := by
  unfold State.slowEnd
  dsimp only
  rw [hq]
  dsimp only
  rw [hd]

/-- One that decodes is counted when it is stale; else its rows enter with the slow-fill mark. -/
theorem slowEnd_decodes {rows : List (List Nat)} (hd : decodeRecord r.header r.payload = some rows) :
    let y := { s.sensor p with slowq := allocHead s.now rest }
    s.slowEnd p =
      if s.slowStale p < (s.hub.scan + 2 ^ 32 - r.stamp) % 2 ^ 32 then (s.setSensor p (y.count skSlowStale 1)).pauseCheck p
      else (((s.setSensor p y).stagePut p r.runs (decodedBytes r.header rows)).queueRows p r false true).pauseCheck p := by
  unfold State.slowEnd
  dsimp only
  rw [hq]
  dsimp only
  rw [hd]

end

end

/-- R27, R28, R33 to R36, R44, R60: what the steps of a sensor port do. -/
theorem sensorPorts : Claims.SensorPorts := by
  refine ⟨fun s p f => ?frames, fun s p w => ⟨fun h => ?refused, fun h => ?taken, rfl⟩,
    fun s p => ⟨fun h => ?noFrame, fun h => ?recordWaits, fun f rest hf hr => ⟨?listEnds, ?badMagic, ?passes⟩⟩,
    fun s p => ⟨?noneWaits, fun l₁ r l₂ hx h₁ hr => ⟨fun hp he => ⟨?allocates, ?full⟩, ?pauses⟩⟩,
    fun s p n => ⟨?noneDone, fun r hx hr hrows => ⟨?decodes, ?fails⟩, fun q l₁ r l₂ hx h₁ hq hr => ⟨?decodesBehind, ?failsBehind⟩⟩,
    fun s p => ⟨?noneOverdue, fun r hx hr => ⟨?queues, ?slowFull, ?placeholder⟩, ?noSlow, fun r rs hq => ⟨?slowFails, ?slowDecodes⟩⟩⟩
  case frames =>
    intro x one e full
    have port (y : SensorPort) : (s.setSensor p y).sensor p = y := State.sensor_setSensor_self ..
    refine ⟨⟨_, exec_next rfl (sensorReceive_damaged s p f), ?_⟩, fun hlen => ⟨_, exec_next rfl (sensorReceive_sound s p f), ?_⟩,
      fun hlen htype => ⟨_, exec_next rfl (sensorReceive_sound s p f), ?_⟩,
      fun hlen htype hfull => ⟨_, exec_next rfl (sensorReceive_sound s p f), ?_⟩,
      fun hlen htype hroom => exec_next rfl ((sensorReceive_sound s p f).trans ?_)⟩
    · rw [port]
      exact ⟨SensorPort.count_self .., rfl⟩
    · rw [if_pos hlen, port]
      exact ⟨SensorPort.count_self .., rfl⟩
    · rw [if_neg (Nat.not_lt.2 hlen), if_pos htype, port]
      exact ⟨SensorPort.count_self .., rfl⟩
    · rw [if_neg (Nat.not_lt.2 hlen), if_neg (not_not.2 htype), if_pos hfull, port]
      exact ⟨(SensorPort.count_ne _ _ _ (by decide)).trans (SensorPort.count_self ..), rfl⟩
    · rw [if_neg (Nat.not_lt.2 hlen), if_neg (not_not.2 htype), if_neg hroom]
  case refused =>
    refine ⟨_, exec_next rfl (if_pos h), ?_⟩
    have reg := s.reg_setReg_self (setFld (s.spcfg p) 0 0 1) (spBase p)
    exact ⟨(congrArg (bitOf · 0) reg).trans (bitOf_setFld_one _ (by omega)),
      (congrArg (fld · 63 1) reg).trans (fld_setFld_apart _ _ (by omega))⟩
  case taken =>
    intro x free quiet
    obtain ⟨u, hu, reg, port, staged, out⟩ := spcfgWrite_taken (s := s) (p := p) h
    obtain ⟨type, pause, slow, err⟩ := spcfg_fields (spPause w) (bitOf (s.spcfg p) 0 && !bitOf w 0)
      (fld_lt w 47 32) (fld_lt w 15 8)
    have paused : (u.sensor p).paused = x.paused := by rw [port, State.spcfgPort]; split <;> rfl
    have enabled : spPause (u.spcfg p) = bitOf w 31 := by rw [reg]; exact pause
    have cfg : (u.pauseCheck p).spcfg p = s.spcfgNew p w :=
      (State.reg_congr (pauseCheck_keeps u p).2.2 _).trans reg
    have idle (hquiet : quiet) : u.pauseCheck p = u :=
      pauseCheck_quiet (paused.trans hquiet.1) (hquiet.2.imp enabled.trans fun hfree => by rwa [staged])
    refine ⟨_, exec_next rfl hu, ?_⟩
    rw [cfg]
    refine ⟨type, pause, slow, err, fun hclr hquiet => ?_, fun hclr hquiet => ?_, fun hen hp hfree => ?_, fun hp hfree => ?_⟩
    · rw [idle hquiet, port, State.spcfgPort, if_pos hclr]
    · rw [idle hquiet, port, State.spcfgPort, if_neg (by simp [hclr])]
    · rw [pauseCheck_starts (paused.trans hp) (enabled.trans hen) (by rwa [staged])]
      obtain ⟨on, -, sent⟩ := sendsPause_fields u p 0xFFFF true
      exact ⟨on, sent.trans (by rw [out])⟩
    · rw [pauseCheck_ends (paused.trans hp) (by rwa [staged])]
      obtain ⟨on, -, sent⟩ := sendsPause_fields u p 0 false
      exact ⟨on, sent.trans (by rw [out])⟩
  case noFrame => exact exec_next rfl (recordCheck_waits (.inl h))
  case recordWaits => exact exec_next rfl (recordCheck_waits (.inr h))
  case listEnds =>
    intro h
    refine exec_next rfl ((recordCheck_looks hf hr).trans ?_)
    rw [checkRecord_done _ h]
  case badMagic =>
    intro hl h0 hm
    refine ⟨_, exec_next rfl (recordCheck_looks hf hr), ?_⟩
    rw [checkRecord_bad_magic _ hl h0 hm]
    dsimp only
    rw [State.sensor_setSensor_self]
    exact ⟨rfl, rfl, (SensorPort.count_ne _ _ _ (by decide)).trans (SensorPort.count_self ..)⟩
  case passes =>
    intro h
    refine ⟨_, s.accepted p f, exec_next rfl (recordCheck_looks hf hr), ?_⟩
    rw [h]
    dsimp only
    rw [State.sensor_setSensor_self]
    exact ⟨rfl, rfl, rfl, rfl, rfl, rfl, rfl, rfl, SensorPort.count_self ..⟩
  case noneWaits => exact fun h => exec_next rfl (stagingAllocate_idle h)
  case allocates =>
    intro hfits
    refine exec_next rfl ((stagingAllocate_first hx h₁ hr).trans ((if_pos hfits).trans (pauseCheck_quiet ?_ (.inl he))))
    rw [State.sensor_setSensor_self]
    exact hp
  case full =>
    intro hfull
    exact exec_next rfl ((stagingAllocate_first hx h₁ hr).trans
      ((if_neg (Nat.not_le.2 hfull)).trans (pauseCheck_quiet hp (.inl he))))
  case pauses =>
    intro hp he hfull hfree
    refine ⟨_, exec_next rfl ((stagingAllocate_first hx h₁ hr).trans
      ((if_neg (Nat.not_le.2 hfull)).trans (pauseCheck_starts hp he hfree))), sendsPause_fields s p 0xFFFF true⟩
  case noneDone => exact fun h => exec_next rfl (decodeDone_none h)
  case decodes =>
    intro rows hd
    obtain ⟨u, hu, port, feed⟩ := decodeDone_decodes (l₁ := []) hx nofun hr hd
    obtain ⟨left, queued⟩ := queueEnded_only u p { r with ended := some .decoded } (congrArg SensorPort.records port) rfl
    obtain ⟨same, feed', -⟩ := pauseCheck_keeps (u.queueEnded p 1) p
    rw [hx] at hu
    refine ⟨_, exec_next rfl hu, same.records.trans (by rw [left]), same.times.trans (by rw [left, port]; rfl), ?_⟩
    exact (congrArg (SMap.val · _ []) feed').trans ((queued hrows).trans (by rw [feed]; rfl))
  case fails =>
    intro hd
    obtain ⟨u, hu, port, feed⟩ := decodeDone_fails (l₁ := []) hx nofun hr hd
    obtain ⟨left, queued⟩ := queueEnded_only u p r.lost (congrArg SensorPort.records port) rfl
    obtain ⟨same, feed', -⟩ := pauseCheck_keeps (u.queueEnded p 1) p
    rw [hx] at hu
    refine ⟨_, exec_next rfl hu, same.records.trans (by rw [left]), same.times.trans (by rw [left, port]; rfl),
      (same.counters 11 (by decide)).trans ?_, ?_⟩
    · rw [left, port]
      exact SensorPort.count_self ..
    · exact (congrArg (SMap.val · _ []) feed').trans ((queued hrows).trans (by rw [feed]; rfl))
  case decodesBehind =>
    intro rows hd
    obtain ⟨u, hu, port, feed⟩ := decodeDone_decodes (l₁ := q :: l₁) hx h₁ hr hd
    obtain ⟨same, feed', -⟩ := pauseCheck_keeps u p
    rw [queueEnded_waits u p (congrArg SensorPort.records port) hq] at hu
    exact ⟨_, exec_next rfl hu, same.records.trans (congrArg SensorPort.records port), feed'.trans feed⟩
  case failsBehind =>
    intro hd
    obtain ⟨u, hu, port, feed⟩ := decodeDone_fails (l₁ := q :: l₁) hx h₁ hr hd
    obtain ⟨same, feed', -⟩ := pauseCheck_keeps u p
    rw [queueEnded_waits u p (congrArg SensorPort.records port) hq] at hu
    exact ⟨_, exec_next rfl hu, same.records.trans (congrArg SensorPort.records port), feed'.trans feed⟩
  case noneOverdue => exact fun h => exec_next rfl (slowMove_none h)
  case queues =>
    intro hroom
    obtain ⟨same, -⟩ := slowMove_leaves hx hr
    rw [State.movedSlow, if_pos hroom] at same
    exact ⟨_, rfl, same.records, same.slowq.trans (by simp)⟩
  case slowFull =>
    intro hfull
    obtain ⟨same, -⟩ := slowMove_leaves hx hr
    rw [State.movedSlow, if_neg (Nat.not_lt.2 hfull)] at same
    exact ⟨_, rfl, same.records, same.slowq, (same.counters 12 (by decide)).trans (SensorPort.count_self ..)⟩
  case placeholder => exact fun hrows => ⟨_, rfl, (slowMove_leaves hx hr).2 hrows⟩
  case noSlow => exact fun h => exec_next rfl (slowEnd_none h)
  case slowFails =>
    intro hd
    obtain ⟨same, feed, -⟩ := pauseCheck_keeps (s.setSensor p
      (({ s.sensor p with slowq := allocHead s.now rs } : SensorPort).count skDecodeError 1)) p
    rw [State.sensor_setSensor_self] at same
    exact ⟨_, exec_next rfl (slowEnd_fails hq hd), same.slowq, (same.counters 11 (by decide)).trans (SensorPort.count_self ..), feed⟩
  case slowDecodes =>
    intro rows hd age
    refine ⟨fun hold => ?_, fun hfresh hrows => ?_⟩
    · obtain ⟨same, feed, -⟩ := pauseCheck_keeps (s.setSensor p
        (({ s.sensor p with slowq := allocHead s.now rs } : SensorPort).count skSlowStale 1)) p
      rw [State.sensor_setSensor_self] at same
      exact ⟨_, exec_next rfl ((slowEnd_decodes hq hd).trans (if_pos hold)), same.slowq,
        (same.counters 13 (by decide)).trans (SensorPort.count_self ..), feed⟩
    · refine ⟨_, exec_next rfl ((slowEnd_decodes hq hd).trans (if_neg (Nat.not_lt.2 hfresh))), ?_⟩
      obtain ⟨sensors, feed⟩ := stagePut_hub (s.setSensor p { s.sensor p with slowq := allocHead s.now rs }) p r.runs
        (decodedBytes r.header rows)
      obtain ⟨u, hu⟩ : ∃ u, u = (s.setSensor p { s.sensor p with slowq := allocHead s.now rs }).stagePut p r.runs
        (decodedBytes r.header rows) := ⟨_, rfl⟩
      rw [← hu] at sensors feed ⊢
      rw [queueRows_one _ _ _ _ _ hrows]
      obtain ⟨same, feed', -⟩ := pauseCheck_keeps (u.feedOne (oneRowAt p r) (feedRowOf r false true 0)) p
      have port : (u.feedOne (oneRowAt p r) (feedRowOf r false true 0)).sensor p =
          { s.sensor p with slowq := allocHead s.now rs } := by
        show u.sensor p = _
        rw [State.sensor, sensors]
        exact State.sensor_setSensor_self ..
      refine ⟨same.slowq.trans (congrArg SensorPort.slowq port), (congrArg (SMap.val · _ []) feed').trans ?_⟩
      exact (SMap.val_put_self ..).trans (by rw [feed]; rfl)

end Sys2Proof.Machine

/-! # The Loom array

The registers of an element, its stages, and the lanes of the plain operations (R38 to R44). -/

namespace Sys2Proof.Machine

/-! ## Registers of an element (R41, R42) -/

section
variable (s : State) (n : Nat)

@[simp] theorem State.lectl_setReg_self (w : Word) : (s.setReg (lectlBase + 8 * n) w).lectl n = w := s.reg_setReg_self w _

@[simp] theorem State.stageWord_setReg_self (k : Nat) (w : Word) :
    (s.setReg (stageBase + 512 * n + 8 * k) w).stageWord n k = w := s.reg_setReg_self w _

/-- LECTL of an element and the stage words stand apart. -/
theorem lectl_ne_stageWord {m : Nat} (k : Nat) (h : n < 256) : lectlBase + 8 * n ≠ stageBase + 512 * m + 8 * k := by
  unfold lectlBase stageBase
  omega

/-- LECTL as a write leaves it. -/
theorem lectl_fields {m : Nat} (run cfg mem : Bool) (hm : m < 2 ^ 6) :
    let r := ofN (b2n run * 2 ^ 63 + b2n cfg * 128 + b2n mem * 64 + m)
    bitOf r 63 = run ∧ bitOf r 7 = cfg ∧ bitOf r 6 = mem ∧ fld r 5 0 = m := by
  cases run <;> cases cfg <;> cases mem <;> simp [fld, nbits, bitOf_eq_decide, ofN, b2n] <;> omega

/-- Whether a write starts the element, and whether one of its stage words keeps it from starting. -/
def State.refusesStart (s : State) (n : Nat) (w : Word) : Bool :=
  bitOf w 63 && !bitOf (s.lectl n) 63 &&
    (List.range ((if bitOf (s.lectl n) 63 then fld (s.lectl n) 5 0 else fld w 5 0) + 1)).any
      fun k => stageBad (n / 16) (n % 16) (s.stageWord n k)

/-- What a write of LECTL leaves: the register field by field, and the element, which starts at stage 0 or stays. -/
theorem lectlWrite_leaves (w : Word) :
    let old := s.lectl n
    let t := s.lectlWrite n w
    bitOf (t.lectl n) 63 = (bitOf w 63 && !s.refusesStart n w) ∧
    bitOf (t.lectl n) 7 = ((bitOf old 7 && !bitOf w 7) || (bitOf old 63 && !decide (fld w 5 0 = fld old 5 0)) ||
      s.refusesStart n w) ∧
    bitOf (t.lectl n) 6 = (bitOf old 6 && !bitOf w 6) ∧
    fld (t.lectl n) 5 0 = (if bitOf old 63 then fld old 5 0 else fld w 5 0) ∧
    t.element n = if bitOf w 63 && !bitOf old 63 && !s.refusesStart n w then { s.element n with stage := 0 }
      else s.element n := by
  intro old t
  have field : (if bitOf old 63 then fld old 5 0 else fld w 5 0) < 2 ^ 6 := by split <;> exact fld_lt _ 5 0
  obtain ⟨run, cfg, mem, nm1⟩ := lectl_fields (bitOf w 63 && !s.refusesStart n w)
    ((bitOf old 7 && !bitOf w 7) || (bitOf old 63 && !decide (fld w 5 0 = fld old 5 0)) || s.refusesStart n w)
    (bitOf old 6 && !bitOf w 6) field
  obtain ⟨u, hu⟩ : ∃ u, u = s.setReg (lectlBase + 8 * n) (ofN (b2n (bitOf w 63 && !s.refusesStart n w) * 2 ^ 63 +
    b2n ((bitOf old 7 && !bitOf w 7) || (bitOf old 63 && !decide (fld w 5 0 = fld old 5 0)) || s.refusesStart n w) * 128 +
    b2n (bitOf old 6 && !bitOf w 6) * 64 + if bitOf old 63 then fld old 5 0 else fld w 5 0)) := ⟨_, rfl⟩
  have leaves : t = if bitOf w 63 && !bitOf old 63 && !s.refusesStart n w then
      u.setElement n { u.element n with stage := 0 } else u := by rw [hu]; rfl
  have reg : t.lectl n = u.lectl n := by rw [leaves]; split <;> rfl
  have element : u.element n = s.element n := by rw [hu]; rfl
  rw [reg, hu, State.lectl_setReg_self]
  refine ⟨run, cfg, mem, nm1, ?_⟩
  rw [leaves]
  split
  · rw [State.element_setElement_self, element]
  · exact element

variable {s n} {r c : Nat} {w : Word}

theorem element_place (hc : c < 16) : (16 * r + c) / 16 = r ∧ (16 * r + c) % 16 = c := by omega

/-- No start, or good stage words, and nothing is refused. -/
theorem refusesStart_false (h : bitOf w 63 = false ∨ bitOf (s.lectl n) 63 = true ∨
    ∀ j, j ≤ fld w 5 0 → stageBad (n / 16) (n % 16) (s.stageWord n j) = false) : s.refusesStart n w = false := by
  unfold State.refusesStart
  rcases h with h | h | h
  · simp [h]
  · simp [h]
  · by_cases hrun : bitOf (s.lectl n) 63 = true
    · simp [hrun]
    · rw [if_neg hrun, Bool.and_eq_false_iff]
      refine .inr (List.any_eq_false.2 fun j hj => ?_)
      rw [h j (Nat.lt_succ_iff.1 (List.mem_range.1 hj))]
      exact Bool.false_ne_true

theorem refusesStart_true (hw : bitOf w 63 = true) (hrun : bitOf (s.lectl n) 63 = false) {j : Nat} (hj : j ≤ fld w 5 0)
    (hbad : stageBad (n / 16) (n % 16) (s.stageWord n j) = true) : s.refusesStart n w = true := by
  unfold State.refusesStart
  rw [hw, hrun, if_neg Bool.false_ne_true]
  exact List.any_eq_true.2 ⟨j, List.mem_range.2 (Nat.lt_succ_iff.2 hj), hbad⟩

end

/-! ## Lanes of a word (R43) -/

/-- Numbers side by side, the first lowest, each cut to a number of values. -/
def packed (b : Nat) (l : List Nat) : Nat := l.foldr (fun x acc => x % b + acc * b) 0

theorem packed_lt {b : Nat} (hb : 0 < b) (l : List Nat) : packed b l < b ^ l.length := by
  induction l with
  | nil => exact Nat.one_pos
  | cons x l ih =>
    have hx := Nat.mod_lt x hb
    calc x % b + packed b l * b < b + packed b l * b := by omega
      _ = (packed b l + 1) * b := by ring
      _ ≤ b ^ l.length * b := Nat.mul_le_mul_right b ih
      _ = b ^ (x :: l).length := by rw [List.length_cons, Nat.pow_succ]

theorem packed_at {b : Nat} (hb : 0 < b) (l : List Nat) {i : Nat} (hi : i < l.length) :
    packed b l / b ^ i % b = l[i] % b := by
  induction l generalizing i with
  | nil => exact absurd hi (Nat.not_lt_zero i)
  | cons x l ih =>
    have step : packed b (x :: l) = x % b + b * packed b l := by rw [packed, List.foldr_cons, Nat.mul_comm b]; rfl
    cases i with
    | zero => simp [step, Nat.add_mul_mod_self_left]
    | succ i =>
      rw [step, Nat.pow_succ, Nat.mul_comm (b ^ i), ← Nat.div_div_eq_div_mul, Nat.add_mul_div_left _ _ hb,
        Nat.div_eq_of_lt (Nat.mod_lt x hb), Nat.zero_add, ih (Nat.lt_of_succ_lt_succ hi)]
      rfl

/-- A lane of a word that is made of lanes. -/
theorem ofWordLanes_at {w : Nat} {l : List Nat} (hl : w * l.length = 64) {i : Nat} (hi : i < l.length) :
    (ofWordLanes w l).toNat / 2 ^ (w * i) % 2 ^ w = l[i] % 2 ^ w := by
  have bound : packed (2 ^ w) l < 2 ^ 64 := by
    have := packed_lt (Nat.two_pow_pos w) l
    rwa [← Nat.pow_mul, hl] at this
  have val : (ofWordLanes w l).toNat = packed (2 ^ w) l := by
    rw [ofWordLanes, ofN, BitVec.toNat_ofNat]
    exact Nat.mod_eq_of_lt bound
  rw [val, Nat.pow_mul, packed_at (Nat.two_pow_pos w) l hi]

/-- Lane `i` of a word. -/
def laneOf (w : Nat) (x : Word) (i : Nat) : Nat := x.toNat / 2 ^ (w * i) % 2 ^ w

theorem laneOf_lt (w : Nat) (x : Word) (i : Nat) : laneOf w x i < 2 ^ w := Nat.mod_lt _ (Nat.two_pow_pos w)

/-- The four lane widths divide the word. -/
theorem laneWidth_mul (w : Word) : laneWidth (stLanes w) * (64 / laneWidth (stLanes w)) = 64 := by
  have h : stLanes w < 4 := fld_lt w 40 39
  interval_cases stLanes w <;> rfl

/-- An operation that goes lane by lane gives in each lane the operation's result on the sources' lanes. -/
theorem stageResult_lane {w e a b : Word} {op i : Nat} (hop : stOp w = op) (hplain : op ≤ 16)
    (hi : i < 64 / laneWidth (stLanes w)) :
    let lw := laneWidth (stLanes w)
    laneOf lw (stageResult w e a b) i = laneOp op lw (stImm w) (laneOf lw a i) (laneOf lw b i) % 2 ^ lw := by
  intro lw
  have plain : stageResult w e a b = ofWordLanes lw (((wordLanes lw a).zip (wordLanes lw b)).map
      fun x => laneOp op lw (stImm w) x.1 x.2) := by
    unfold stageResult
    rw [hop]
    dsimp only
    split
    case h_7 => rfl
    all_goals omega
  have length : (((wordLanes lw a).zip (wordLanes lw b)).map fun x => laneOp op lw (stImm w) x.1 x.2).length = 64 / lw := by
    simp [wordLanes]
  rw [plain, laneOf, ofWordLanes_at (by rw [length]; exact laneWidth_mul w) (by rw [length]; exact hi)]
  simp [wordLanes, laneOf]

end Sys2Proof.Machine

namespace Sys2Proof.Machine

/-! ## Stages (R39, R43, R44) -/

/-- An element after a stage, at its next stage. -/
theorem stageDone_element (s : State) (n : Nat) (x : Element) :
    (s.stageDone n x).element n = { x with stage := if x.stage = fld (s.lectl n) 5 0 then 0 else x.stage + 1 } :=
  State.element_setElement_self ..

section
variable {s : State} {n : Nat} {w : Word} (hw : s.stageWord n (s.element n).stage = w)

theorem loomStage_stopped (h : bitOf (s.lectl n) 63 = false) : s.loomStage n = s := if_pos (by simp [h])

section
variable (hrun : bitOf (s.lectl n) 63 = true)
include hw hrun

theorem loomStage_nop (h : stOp w = 0) : s.loomStage n = s.stageDone n (s.element n) :=
  (if_neg (by simp [hrun])).trans (if_pos (hw ▸ h))

theorem loomStage_empty (hop : stOp w ≠ 0) (hsa : stSa w < 4) (hlink : (s.element n).link (stSa w) = []) :
    s.loomStage n = s := by
  have source (reg : Nat) : stageSource (s.element n) w (stSa w) reg = none := by
    rw [stageSource, if_pos hsa, hlink]
  unfold State.loomStage
  dsimp only
  rw [hw, if_neg (by simp [hrun]), if_neg hop, source]

/-- A stage whose sources are both registers. -/
theorem loomStage_registers (hop : stOp w ≠ 0) (hsa : stSa w = 4) (hsb : stSb w = 4) :
    let x := s.element n
    let a := x.e.val (fld w 49 47) 0
    let b := x.e.val (fld w 46 44) 0
    s.loomStage n =
      if stDst w < 4 && !decide (stOp w = 24) && !s.linkRoom n (stDst w) then s
      else if stOp w = 23 ∨ stOp w = 24 then
        let step := ofI (sext 32 (stImm w))
        let r := if stOp w = 23 then 7 else 6
        let o := (x.e.val r 0).toNat
        if o % 8 ≠ 0 ∨ 0x18000 < o + 8 then s.stageStop n
        else if stOp w = 23 then
          let err := x.error o 8
          let data := if err then Config.freeWord s.fresh else ofN (ofBytes (memBytes x.mem o 8))
          let u := if err then { s with fresh := s.fresh + 1 } else s
          let t := u.stageWriteDst n { x with spoiled := x.spoiled || err } w { data := data, eor := false, spoiled := false }
          t.stageDone n { t.element n with e := (t.element n).e.put r ((t.element n).e.val r 0 + step) }
        else
          s.stageDone n { x.write o (bytesOf 8 a.toNat) with e := x.e.put r (x.e.val r 0 + step) }
      else
        let t := s.stageWriteDst n x w { data := stageResult w (x.e.val 0 0) a b, eor := false, spoiled := false }
        t.stageDone n (t.element n) := by
  have source (reg : Nat) : stageSource (s.element n) w 4 reg = some ({ data := (s.element n).e.val reg 0, eor := false },
      s.element n) := rfl
  unfold State.loomStage
  dsimp only
  rw [hw, if_neg (by simp [hrun]), if_neg hop, hsa, source]
  dsimp only
  rw [hsb, source]
  rfl

/-- A plain operation from registers to a register. -/
theorem loomStage_plain (h1 : 1 ≤ stOp w) (h22 : stOp w ≤ 22) (hsa : stSa w = 4) (hsb : stSb w = 4) (hdst : stDst w = 4) :
    let x := s.element n
    let v := stageResult w (x.e.val 0 0) (x.e.val (fld w 49 47) 0) (x.e.val (fld w 46 44) 0)
    let u := s.setElement n { x with e := x.e.put (fld w 43 41) v }
    s.loomStage n = u.stageDone n (u.element n) := by
  intro x v u
  have dst : s.stageWriteDst n x w { data := v, eor := false, spoiled := false } = u := by
    unfold State.stageWriteDst
    simp only [hdst]
    rfl
  refine (loomStage_registers hw hrun (by omega) hsa hsb).trans ?_
  rw [if_neg (by simp [hdst]), if_neg (by omega)]
  dsimp only
  rw [dst]

section
variable (hop : stOp w = 24) (hsa : stSa w = 4) (hsb : stSb w = 4)
include hop hsa hsb

theorem loomStage_store_outside
    (h : ((s.element n).e.val 6 0).toNat % 8 ≠ 0 ∨ 0x18000 < ((s.element n).e.val 6 0).toNat + 8) :
    s.loomStage n = s.stageStop n := by
  refine (loomStage_registers hw hrun (by omega) hsa hsb).trans ?_
  rw [if_neg (by simp [hop]), if_pos (.inr hop)]
  simp only [hop]
  exact if_pos h

/-- A store puts its source at e6, which moves on by IMM. -/
theorem loomStage_store (h : ((s.element n).e.val 6 0).toNat % 8 = 0) (h' : ((s.element n).e.val 6 0).toNat + 8 ≤ 0x18000) :
    let x := s.element n
    let o := (x.e.val 6 0).toNat
    s.loomStage n = s.stageDone n { x.write o (bytesOf 8 (x.e.val (fld w 49 47) 0).toNat) with
      e := x.e.put 6 (x.e.val 6 0 + ofI (sext 32 (stImm w))) } := by
  refine (loomStage_registers hw hrun (by omega) hsa hsb).trans ?_
  rw [if_neg (by simp [hop]), if_pos (.inr hop)]
  simp only [hop]
  exact if_neg (not_or.2 ⟨not_not.2 h, Nat.not_lt.2 h'⟩)

end

end

end

/-- The sign extension of a 32-bit pattern. -/
theorem sext_32 {x : Nat} (h : x < 2 ^ 32) : sext 32 x = (BitVec.ofNat 32 x).toInt := by
  rw [sext, BitVec.toInt_eq_toNat_cond, BitVec.toNat_ofNat, Nat.mod_eq_of_lt h]
  split <;> split <;> omega

/-- R39 to R44: what the steps of an element do. -/
theorem loomArray : Claims.LoomArray := by
  refine ⟨fun s r c k w hr hc hk => ⟨fun hrun => ?written, fun hrun => ?ignored, fun hrun hw => ⟨fun hgood => ?starts,
    fun j hj hbad => ?refuses⟩, fun hw => ?stops, fun hw hrun hmoved => ?moved⟩, fun s r c => ⟨fun hrun => ?stopped, fun hrun =>
      ⟨fun hop => ?nop, fun hop hsa hlink => ?empty, fun h1 h22 hsa hsb hdst => ?plain, fun hop hsa hsb => ⟨fun h => ?outside,
        fun h h' => ?store⟩⟩⟩, fun w a b i => ?lanes⟩
  case written =>
    refine ⟨_, exec_next rfl (if_neg (by simp [hrun])), State.stageWord_setReg_self .., ?_⟩
    exact State.reg_setReg_ne _ _ (lectl_ne_stageWord _ k (by omega))
  case ignored =>
    refine ⟨_, exec_next rfl (if_pos hrun), State.reg_setReg_ne _ _ (lectl_ne_stageWord _ k (by omega)).symm, ?_⟩
    rw [State.lectl_setReg_self]
    exact ⟨bitOf_setFld_one _ (by omega), (bitOf_setFld_apart _ _ (by omega)).trans hrun⟩
  case starts =>
    obtain ⟨hrow, hcol⟩ := element_place (r := r) hc
    have good : s.refusesStart (16 * r + c) w = false := refusesStart_false (.inr (.inr (by rwa [hrow, hcol])))
    obtain ⟨run, -, -, nm1, element⟩ := lectlWrite_leaves s (16 * r + c) w
    rw [good, hw] at run
    rw [good, hw, hrun, if_pos (by rfl)] at element
    rw [hrun] at nm1
    exact ⟨_, rfl, run, nm1, congrArg Element.stage element, (congrArg Element.e element).trans rfl⟩
  case refuses =>
    obtain ⟨hrow, hcol⟩ := element_place (r := r) hc
    have bad : s.refusesStart (16 * r + c) w = true := refusesStart_true hw hrun hj (by rwa [hrow, hcol])
    obtain ⟨run, cfg, -, -, element⟩ := lectlWrite_leaves s (16 * r + c) w
    rw [bad, hw] at run
    rw [bad, Bool.or_true] at cfg
    rw [bad, if_neg (by simp)] at element
    exact ⟨_, rfl, run, cfg, element⟩
  case stops =>
    obtain ⟨run, -, mem, -⟩ := lectlWrite_leaves s (16 * r + c) w
    rw [hw, Bool.false_and] at run
    exact ⟨_, rfl, run, mem⟩
  case moved =>
    obtain ⟨run, cfg, -, nm1, -⟩ := lectlWrite_leaves s (16 * r + c) w
    rw [hw, refusesStart_false (.inr (.inl hrun))] at run
    rw [hrun, decide_eq_false hmoved] at cfg
    rw [hrun] at nm1
    exact ⟨_, rfl, run, cfg.trans (by simp), nm1⟩
  case stopped => exact exec_next rfl (loomStage_stopped hrun)
  case nop => exact exec_next rfl (loomStage_nop rfl hrun hop)
  case empty => exact exec_next rfl (loomStage_empty rfl hrun hop hsa hlink)
  case plain =>
    refine ⟨_, exec_next rfl (loomStage_plain rfl hrun h1 h22 hsa hsb hdst), ?_⟩
    rw [stageDone_element, State.element_setElement_self]
    exact ⟨rfl, rfl, fun m hm => (State.element_setElement_ne _ _ _ _ hm).trans (State.element_setElement_ne _ _ _ _ hm)⟩
  case outside =>
    refine ⟨_, exec_next rfl (loomStage_store_outside rfl hrun hop hsa hsb h), ?_⟩
    unfold State.stageStop
    rw [State.lectl_setReg_self]
    exact ⟨(bitOf_setFld_apart _ _ (by omega)).trans (bitOf_setFld_zero _ (by omega) (by omega)), bitOf_setFld_one _ (by omega), rfl⟩
  case store =>
    refine ⟨_, exec_next rfl (loomStage_store rfl hrun hop hsa hsb h h'), ?_⟩
    rw [stageDone_element]
    refine ⟨(SMap.val_put_self ..).trans ?_, rfl⟩
    rw [ofI, stImm, sext_32 (fld_lt _ 31 0)]
  case lanes =>
    intro lw hi x y z e
    have lane {op : Nat} (hop : stOp w = op) (hplain : op ≤ 16) : z e = laneOp op lw (stImm w) x y % 2 ^ lw :=
      stageResult_lane hop hplain hi
    have hx : x < 2 ^ lw := laneOf_lt lw a i
    have hy : y < 2 ^ lw := laneOf_lt lw b i
    refine ⟨fun h => ?_, fun h => ?_, fun h => ?_, fun h => ?_, fun h => ?_, fun h => ?_, fun h => ?_, fun h => ?_⟩ <;>
      rw [lane h (by decide), laneOp]
    · exact Nat.mod_eq_of_lt hx
    · rw [Nat.mod_add_mod, Nat.sub_add_cancel (by omega), Nat.add_mod_right, Nat.mod_eq_of_lt hx]
    · exact Nat.mod_eq_of_lt (Nat.and_lt_two_pow _ hy)
    · exact Nat.mod_eq_of_lt (Nat.or_lt_two_pow hx hy)
    · exact Nat.mod_eq_of_lt (Nat.xor_lt_two_pow hx hy)
    · split
      · exact Nat.mod_eq_of_lt (Nat.sub_lt (Nat.two_pow_pos lw) Nat.one_pos)
      · exact Nat.zero_mod _

/-- Settles O49: the sensor ports' steps and the array's. -/
theorem sensorAndLoomSteps : Obligations.SensorAndLoomSteps := ⟨sensorPorts, loomArray⟩

end Sys2Proof.Machine

/-! # Bytes of the process image, and the TSN ports' way in

What a write of bytes leaves at every address, and what a received frame does: the counters, the checks of a filter, and the
commit to its region (R21, R23, R62). -/

namespace Sys2Proof.Machine

/-! ## Bytes -/

theorem memByte_memPut (m : List Host.Cell) (a x : Nat) (b : Byte) :
    memByte (memPut m a b) x = if x = a then b else memByte m x := by
  unfold memByte memPut
  split
  · rename_i hb
    split
    · rename_i hx
      rw [hx, hb]
      exact SMap.val_del_self ..
    · rename_i hx
      exact SMap.val_del_ne _ _ hx
  · exact SMap.val_put ..

/-- The bytes written stand at their addresses, every other byte as before. -/
theorem memByte_memWrite (m : List Host.Cell) (a x : Nat) (bs : List Byte) :
    memByte (memWrite m a bs) x = if a ≤ x ∧ x < a + bs.length then bs.getD (x - a) 0 else memByte m x := by
  induction bs generalizing m a with
  | nil => exact (if_neg (by rw [List.length_nil]; omega)).symm
  | cons b bs ih =>
    rw [memWrite, ih, memByte_memPut, List.length_cons]
    by_cases hx : x = a
    · subst hx
      rw [if_neg (by omega), if_pos rfl, if_pos (by omega), Nat.sub_self]
      rfl
    · rw [if_neg hx]
      by_cases hin : a + 1 ≤ x ∧ x < a + 1 + bs.length
      · rw [if_pos hin, if_pos (by omega), show x - a = x - (a + 1) + 1 by omega, List.getD_cons_succ]
      · rw [if_neg hin, if_neg (by omega)]

section
variable (h : Hub) (buf off i : Nat) (bs : List Byte)

/-- The bytes of a write to the image, and those beside it in the same buffer. -/
theorem imageByte_imageWrite : (h.imageWrite buf off bs).imageByte buf i =
    if off ≤ i ∧ i < off + bs.length then bs.getD (i - off) 0 else h.imageByte buf i := by
  unfold Hub.imageByte Hub.imageWrite
  dsimp only
  rw [memByte_memWrite]
  by_cases hin : off ≤ i ∧ i < off + bs.length
  · rw [if_pos (by omega), if_pos hin, Nat.add_sub_add_left]
  · rw [if_neg (by omega), if_neg hin]

end

/-! ## Counters of TSN objects -/

section
variable (s : State) {pa pb : Nat}

theorem tsnCount_self : (s.tsnCount pa).reg pa = s.reg pa + 1 := s.reg_setReg_self _ _

theorem tsnCount_ne (h : pa ≠ pb) : (s.tsnCount pb).reg pa = s.reg pa := s.reg_setReg_ne _ h

/-- Two states that differ in no more than registers that are counters: those of the ports, and those of the filters. -/
structure State.CountsTo (s t : State) : Prop where
  hub : t.hub = { s.hub with regs := t.hub.regs }
  objects : ∀ pa, tsnBase + 0x4000 ≤ pa → pa < tsnBase + 0x70000 → t.reg pa = s.reg pa

theorem State.CountsTo.trans {s t u : State} (h : s.CountsTo t) (h' : t.CountsTo u) : s.CountsTo u :=
  ⟨by rw [h'.hub, h.hub], fun pa lo hi => (h'.objects pa lo hi).trans (h.objects pa lo hi)⟩

theorem tsnCount_countsTo (h : pa < tsnBase + 0x4000 ∨ tsnBase + 0x70000 ≤ pa) : s.CountsTo (s.tsnCount pa) :=
  ⟨rfl, fun _ _ _ => s.reg_setReg_ne _ (by omega)⟩

section
variable {s} {t : State} (h : s.CountsTo t)
include h

theorem State.CountsTo.image : t.hub.image = s.hub.image := by rw [h.hub]
theorem State.CountsTo.regions : t.hub.regions = s.hub.regions := by rw [h.hub]

theorem State.CountsTo.filterWord {k : Nat} (hk : k < 512) : t.reg (filterReg k + 8) = s.reg (filterReg k + 8) :=
  h.objects _ (by unfold filterReg; omega) (by unfold filterReg; omega)

/-- A stream gate stands as before. -/
theorem State.CountsTo.gateOpen {g : Nat} (hg : g < 256) : t.gateOpen g = s.gateOpen g := by
  have word : t.reg (sgReg g) = s.reg (sgReg g) := h.objects _ (by unfold sgReg; omega) (by unfold sgReg; omega)
  rw [State.gateOpen, word, h.hub]
  rfl

/-- So does the table of recovered streams. -/
theorem State.CountsTo.recoveredOf (k : Nat) : t.recoveredOf k = s.recoveredOf k := by
  refine List.find?_congr fun r hr => ?_
  have hr' := List.mem_range.1 hr
  rw [h.objects (recovReg r) (by unfold recovReg; omega) (by unfold recovReg; omega)]

end

end

/-! ## A frame that no filter takes (R21, R62) -/

section
variable {s : State} {port : Nat} {f : List Byte}

theorem tsnReceive_out_of_service (ok : Bool) (h : bitOf (s.reg (tpReg port 0)) 63 = false) : s.tsnReceive port f ok = s :=
  if_pos (by simp [h])

section
variable (h : bitOf (s.reg (tpReg port 0)) 63 = true)
include h

theorem tsnReceive_damaged :
    s.tsnReceive port f false = (s.tsnCount (tpReg port 0x100)).tsnCount (tpReg port 0x110) :=
  (if_neg (by simp [h])).trans (if_pos rfl)

/-- A sound frame is counted and taken apart. -/
theorem tsnReceive_bad_tag (hf : frameParts f = none) :
    s.tsnReceive port f true = (s.tsnCount (tpReg port 0x100)).tsnCount (tpReg port 0x118) := by
  unfold State.tsnReceive
  dsimp only
  rw [if_neg (by simp [h]), if_neg (by simp), hf]
  rfl

section
variable {p : FrameParts} (hf : frameParts f = some p)
include hf

/-- What becomes of a frame by its EtherType. -/
theorem tsnReceive_parts :
    let u := s.tsnCount (tpReg port 0x100)
    s.tsnReceive port f true =
      if p.etype = 0x88F7 then (u.announce p.payload).ptpSync p.payload
      else if p.etype = 0x88B6 then u
      else (u.filterOf port p).elim (u.tsnCount (tpReg port 0x120)) fun k => u.filtered k p := by
  unfold State.tsnReceive
  dsimp only
  rw [if_neg (by simp [h]), if_neg (by simp), hf]
  dsimp only
  simp only [tpRxFrames, tpRxDrop]
  refine if_congr Iff.rfl rfl (if_congr Iff.rfl rfl ?_)
  cases State.filterOf _ port p with
  | none => rfl
  | some k => rfl

end

end

/-- An Announce changes no register and nothing of the image or of a domain's time. -/
theorem announce_keeps (s : State) (l : List Byte) :
    (s.announce l).hub = { s.hub with announced := (s.announce l).hub.announced } := by
  unfold State.announce
  dsimp only
  split
  · rfl
  split
  · rfl
  split <;> rfl

/-- A Sync or Follow_Up changes domain 1 alone. -/
theorem ptpSync_keeps (s : State) (l : List Byte) : (s.ptpSync l).hub.regs = s.hub.regs ∧
    (s.ptpSync l).hub.image = s.hub.image ∧ (s.ptpSync l).hub.regions = s.hub.regions ∧
    (s.ptpSync l).hub.ptp.val 0 0 = s.hub.ptp.val 0 0 := by
  unfold State.ptpSync
  dsimp only
  split
  · exact ⟨rfl, rfl, rfl, rfl⟩
  · exact ⟨rfl, rfl, rfl, SMap.val_put_ne _ _ _ (by decide)⟩

end

/-! ## A frame at its filter (R23, R62) -/

section
variable {s : State} {k : Nat} {p : FrameParts} (hk : k < 512)
include hk

/-- A frame longer than the largest SDU. -/
theorem filtered_long (h0 : fld (s.reg (filterReg k + 8)) 31 16 ≠ 0)
    (h : fld (s.reg (filterReg k + 8)) 31 16 < p.payload.length) :
    s.filtered k p = (s.tsnCount (filterCtr k)).tsnCount (filterCtr k + 24) := by
  have counts := tsnCount_countsTo s (pa := filterCtr k) (.inr (by unfold filterCtr; omega))
  refine if_pos ?_
  rw [counts.filterWord hk]
  exact ⟨h0, h⟩

section
variable (hlen : fld (s.reg (filterReg k + 8)) 31 16 = 0 ∨ p.payload.length ≤ fld (s.reg (filterReg k + 8)) 31 16)
include hlen

/-- A frame at a closed stream gate. -/
theorem filtered_closed (h : s.gateOpen (fld (s.reg (filterReg k + 8)) 61 54) = false) :
    s.filtered k p = (s.tsnCount (filterCtr k)).tsnCount (filterCtr k + 16) := by
  have counts := tsnCount_countsTo s (pa := filterCtr k) (.inr (by unfold filterCtr; omega))
  unfold State.filtered
  dsimp only
  rw [counts.filterWord hk, counts.gateOpen (fld_lt _ 61 54), if_neg (by omega), h]
  exact if_pos rfl

/-- A frame that passes, at a filter with neither meter nor recovered stream. -/
theorem filtered_passes (h : s.gateOpen (fld (s.reg (filterReg k + 8)) 61 54) = true)
    (hmeter : bitOf (s.reg (filterReg k + 8)) 62 = false) (hrec : s.recoveredOf k = none ∨ p.seq = none) :
    s.filtered k p = ((s.tsnCount (filterCtr k)).tsnCount (filterCtr k + 8)).commitRegion k p.payload := by
  have counts := tsnCount_countsTo s (pa := filterCtr k) (.inr (by unfold filterCtr; omega))
  have passes := counts.trans (tsnCount_countsTo (s.tsnCount (filterCtr k)) (pa := filterCtr k + 8)
    (.inr (by unfold filterCtr; omega)))
  have unmetered : (s.tsnCount (filterCtr k)).metered k p.payload.length = (s.tsnCount (filterCtr k), true) := by
    refine if_pos ?_
    rw [counts.filterWord hk, hmeter]
    rfl
  unfold State.filtered
  dsimp only
  rw [counts.filterWord hk, counts.gateOpen (fld_lt _ 61 54), if_neg (by omega), h, if_neg (by simp), unmetered]
  dsimp only
  rw [passes.recoveredOf]
  rcases hrec with hrec | hrec
  · rw [hrec]
  · rw [hrec]
    cases s.recoveredOf k <;> rfl

end

end

/-! ## Commits (R23, R25) -/

section
variable (s : State) (k : Nat) (l : List Byte)

theorem commitRegion_regs : (s.commitRegion k l).hub.regs = s.hub.regs := by
  unfold State.commitRegion
  dsimp only
  split
  · rfl
  split <;> rfl

variable {s k l}

theorem commitRegion_unbound (h : bindValid (s.hub.region k).bound = false) : s.commitRegion k l = s := if_pos (by simp [h])

section
variable (h : bindValid (s.hub.region k).bound = true)
include h

theorem commitRegion_oversize (hlen : bindLen (s.hub.region k).bound < l.length) :
    s.commitRegion k l = s.setRegion k { s.hub.region k with oversize := true } :=
  (if_neg (by simp [h])).trans (if_pos hlen)

/-- A payload that fits: the region has its commit, and its back buffer the payload and then zeros. -/
theorem commitRegion_fits (hlen : l.length ≤ bindLen (s.hub.region k).bound) :
    let r := s.hub.region k
    let t := s.commitRegion k l
    t.hub.region k = { r with commit := some l.length, commits := (r.commits + 1) % 2 ^ 32 } ∧
      ∀ i, i < bindLen r.bound → t.hub.imageByte (b2n (!r.sel)) (bindOff r.bound + i) = l.getD i 0 := by
  intro r t
  have commits : t = (s.updHub (fun h => h.imageWrite (b2n (!r.sel)) (bindOff r.bound)
      (l ++ List.replicate (bindLen r.bound - l.length) 0))).setRegion k
        { r with commit := some l.length, commits := (r.commits + 1) % 2 ^ 32 } :=
    (if_neg (by simp [h])).trans (if_neg (Nat.not_lt.2 hlen))
  rw [commits]
  refine ⟨SMap.val_put_self .., fun i hi => (imageByte_imageWrite ..).trans ?_⟩
  rw [if_pos (by simp; omega), Nat.add_sub_cancel_left]
  by_cases hil : i < l.length
  · rw [List.getD_append _ _ _ _ hil]
  · rw [List.getD_append_right _ _ _ _ (Nat.not_lt.1 hil), List.getD_eq_default _ _ (Nat.not_lt.1 hil)]
    exact List.getD_replicate _ (by omega)

end

end

end Sys2Proof.Machine

/-! # Gate control lists and gPTP (R62)

A list that starts, its intervals, and the control words of ports and stream gates. -/

namespace Sys2Proof.Machine

/-! ## The start of a list -/

/-- Gate states of an entry of a port's list, or of a stream gate's. -/
def entryGates (port : Bool) (w : Word) : Nat := if port then fld w 63 56 else fld w 63 63

theorem listEntry_gates (s : State) (l : GateList) (port : Bool) (i : Nat) :
    (s.listEntry l port i).1 = entryGates port (s.reg (l.list + l.oper + 8 * i)) := rfl

/-- An object whose control words lie below its lists, and whose lists do not meet. -/
structure GateList.Apart (l : GateList) : Prop where
  base : l.base + 24 < l.list
  oper : 8 * l.entries ≤ l.oper

theorem qbvOf_apart {t : Nat} (h : t < 4) : (qbvOf t).Apart :=
  ⟨by simp only [qbvOf, tpReg, qbvList]; omega, by simp only [qbvOf]; omega⟩

theorem sgOf_apart {g : Nat} (h : g < 256) : (sgOf g).Apart :=
  ⟨by simp only [sgOf, sgReg, sgList]; omega, by simp only [sgOf]; omega⟩

/-- An entry of the admin list copied to the operational one. -/
def State.copyEntry (l : GateList) (s : State) (i : Nat) : State :=
  if s.reg (l.list + 8 * i) = s.reg (l.list + l.oper + 8 * i) then s
  else s.setReg (l.list + l.oper + 8 * i) (s.reg (l.list + 8 * i))

section
variable (s : State) (l : GateList)

theorem copyEntry_reg (i pa : Nat) : (s.copyEntry l i).reg pa =
    if pa = l.list + l.oper + 8 * i then s.reg (l.list + 8 * i) else s.reg pa := by
  unfold State.copyEntry
  split
  · rename_i same
    split
    · rename_i hpa
      rw [hpa, same]
    · rfl
  · exact State.reg_setReg ..

/-- A register that is no operational entry stays. -/
theorem copies_outside {pa : Nat} (is : List Nat) (h : ∀ i ∈ is, pa ≠ l.list + l.oper + 8 * i) :
    (is.foldl (State.copyEntry l) s).reg pa = s.reg pa := by
  induction is generalizing s with
  | nil => rfl
  | cons j is ih =>
    rw [List.forall_mem_cons] at h
    rw [List.foldl_cons, ih _ h.2, copyEntry_reg, if_neg h.1]

/-- An operational entry is the admin entry of its number. -/
theorem copies_entry (hl : l.Apart) (is : List Nat) (his : ∀ i ∈ is, i < l.entries) {i : Nat} (hi : i ∈ is) :
    (is.foldl (State.copyEntry l) s).reg (l.list + l.oper + 8 * i) = s.reg (l.list + 8 * i) := by
  induction is generalizing s with
  | nil => exact absurd hi List.not_mem_nil
  | cons j is ih =>
    rw [List.forall_mem_cons] at his
    have oper := hl.oper
    rw [List.foldl_cons]
    by_cases hmem : i ∈ is
    · have hi' := his.2 i hmem
      rw [ih _ his.2 hmem, copyEntry_reg, if_neg (by omega)]
    · obtain rfl : i = j := (List.mem_cons.1 hi).resolve_right hmem
      rw [copies_outside _ _ _ fun k hk => by have : i ≠ k := fun h => hmem (h ▸ hk); omega, copyEntry_reg, if_pos rfl]

variable (port : Bool) (len t0 : Nat)

/-- The admin list becomes the operational one, with its base time and cycle, and its first interval begins. -/
theorem startList_leaves {l : GateList} (hl : l.Apart) (hn : 0 < l.entries) :
    let t := (s.startList l port len t0).1
    let p := (s.startList l port len t0).2
    p.running = true ∧ p.entry = 0 ∧ p.len = len ∧ p.gates = entryGates port (s.reg l.list) ∧
    (∀ i, i < l.entries → t.reg (l.list + l.oper + 8 * i) = s.reg (l.list + 8 * i)) ∧
    t.reg (l.base + 16) = s.reg l.base ∧ t.reg (l.base + 24) = s.reg (l.base + 8) := by
  have base := hl.base
  obtain ⟨u, hu⟩ : ∃ u, u = (List.range l.entries).foldl (State.copyEntry l) s := ⟨_, rfl⟩
  have control {pa : Nat} (h : pa < l.list) : u.reg pa = s.reg pa := by
    rw [hu]
    exact copies_outside _ _ _ fun i _ => by omega
  have entry {i : Nat} (h : i < l.entries) : u.reg (l.list + l.oper + 8 * i) = s.reg (l.list + 8 * i) := by
    rw [hu]
    exact copies_entry s l hl _ (fun _ hi => List.mem_range.1 hi) (List.mem_range.2 h)
  obtain ⟨t, ht⟩ : ∃ t, t = (u.setReg (l.base + 16) (u.reg l.base)).setReg (l.base + 24) (u.reg (l.base + 8)) := ⟨_, rfl⟩
  have starts : s.startList l port len t0 = (t, {
      entry := 0, until_ := t0 + min (t.listEntry l port 0).2 (fld (t.reg (l.base + 8)) 29 0), gates := (t.listEntry l port 0).1, cycle0 := t0, running := true, len := len }) := by
    rw [ht, hu]
    rfl
  have oper {i : Nat} (h : i < l.entries) : t.reg (l.list + l.oper + 8 * i) = s.reg (l.list + 8 * i) := by
    rw [ht, State.reg_setReg_ne _ _ (by omega), State.reg_setReg_ne _ _ (by omega), entry h]
  rw [starts]
  refine ⟨rfl, rfl, rfl, ?_, fun i => oper, ?_, ?_⟩
  · exact (listEntry_gates t l port 0).trans (congrArg _ (oper hn))
  · rw [ht, State.reg_setReg_ne _ _ (by omega), State.reg_setReg_self, control (by omega)]
  · rw [ht, State.reg_setReg_self, control (by omega)]

/-- The next interval: the next cycle, the next entry, or the last state up to the end of the cycle. -/
theorem nextInterval_cases (p : ListPos) :
    let q := s.nextInterval l port p
    let e := p.cycle0 + fld (s.reg (l.base + 24)) 29 0
    (e ≤ p.until_ → q.entry = 0 ∧ q.cycle0 = e ∧ q.gates = entryGates port (s.reg (l.list + l.oper))) ∧
    (p.until_ < e → p.entry + 1 < p.len → q.entry = p.entry + 1 ∧ q.until_ ≤ e ∧
      q.gates = entryGates port (s.reg (l.list + l.oper + 8 * (p.entry + 1)))) ∧
    (p.until_ < e → p.len ≤ p.entry + 1 → q.until_ = e ∧ q.gates = p.gates) := by
  intro q e
  refine ⟨fun h => ?_, fun h h' => ?_, fun h h' => ?_⟩
  · have next : q = { p with entry := 0, cycle0 := e, until_ := e + min (s.listEntry l port 0).2 (fld (s.reg (l.base + 24)) 29 0)
                             gates := (s.listEntry l port 0).1 } := if_pos h
    rw [next]
    exact ⟨rfl, rfl, rfl⟩
  · have next : q = { p with entry := p.entry + 1, until_ := min (p.until_ + (s.listEntry l port (p.entry + 1)).2) e
                             gates := (s.listEntry l port (p.entry + 1)).1 } := (if_neg (Nat.not_le.2 h)).trans (if_pos h')
    rw [next]
    exact ⟨rfl, Nat.min_le_right _ _, rfl⟩
  · have next : q = { p with entry := p.len, until_ := e } := (if_neg (Nat.not_le.2 h)).trans (if_neg (Nat.not_lt.2 h'))
    rw [next]
    exact ⟨rfl, rfl⟩

end

/-! ## Control words -/

section
variable {s : State} {l : GateList} {len : Nat} {change : Bool}

theorem listWriteBad_iff : s.listWriteBad l len change = true ↔
    len = 0 ∨ l.entries < len ∨ (change = true ∧ fld (s.reg (l.base + 8)) 29 0 < 1000) := by
  simp [State.listWriteBad, or_assoc]

end

section
variable {s : State} {port g : Nat} {w : Word}

/-- QBVCTL without its reserved bits. -/
def qbvMask (w : Word) : Word := setFld (setFld (setFld w 62 61 0) 52 43 0) 31 0 0

theorem qbvMask_fields (w : Word) : bitOf (qbvMask w) 63 = bitOf w 63 ∧ fld (qbvMask w) 60 53 = fld w 60 53 ∧
    fld (qbvMask w) 42 32 = fld w 42 32 := by
  unfold qbvMask
  refine ⟨?_, ?_, ?_⟩
  · rw [bitOf_setFld_apart _ _ (by omega), bitOf_setFld_apart _ _ (by omega), bitOf_setFld_apart _ _ (by omega)]
  · rw [fld_setFld_apart _ _ (by omega), fld_setFld_apart _ _ (by omega), fld_setFld_apart _ _ (by omega)]
  · rw [fld_setFld_apart _ _ (by omega), fld_setFld_apart _ _ (by omega), fld_setFld_apart _ _ (by omega)]

theorem qbvWrite_bad (h : fld w 42 32 = 0 ∨ 1024 < fld w 42 32 ∨
    (bitOf w 62 = true ∧ fld (s.reg (tpReg port 0x18)) 29 0 < 1000)) : s.qbvWrite port w = s.hubErr :=
  if_pos (listWriteBad_iff.2 h)

/-- A control word that is taken, and CHANGE waits for the instant of its list. -/
theorem qbvWrite_good (h : ¬ (fld w 42 32 = 0 ∨ 1024 < fld w 42 32 ∨
    (bitOf w 62 = true ∧ fld (s.reg (tpReg port 0x18)) 29 0 < 1000))) :
    (s.qbvWrite port w).reg (tpReg port 8) = qbvMask w ∧
      (s.qbvWrite port w).hub.qbvPending.val port false = (bitOf w 62 || s.hub.qbvPending.val port false) := by
  have taken : s.qbvWrite port w = if bitOf w 62 then (s.setReg (tpReg port 8) (qbvMask w)).updHub
      (fun h => { h with qbvPending := h.qbvPending.put port true }) else s.setReg (tpReg port 8) (qbvMask w) :=
    if_neg (mt listWriteBad_iff.1 h)
  rw [taken]
  cases bitOf w 62
  · exact ⟨s.reg_setReg_self _ _, rfl⟩
  · exact ⟨s.reg_setReg_self _ _, SMap.val_put_self ..⟩

/-- The control word of a stream gate without its reserved bits. -/
def sgMask (w : Word) : Word := setFld (setFld (setFld w 62 61 0) 59 39 0) 31 0 0

theorem sgMask_fields (w : Word) : bitOf (sgMask w) 63 = bitOf w 63 ∧ bitOf (sgMask w) 60 = bitOf w 60 ∧
    fld (sgMask w) 38 32 = fld w 38 32 := by
  unfold sgMask
  refine ⟨?_, ?_, ?_⟩
  · rw [bitOf_setFld_apart _ _ (by omega), bitOf_setFld_apart _ _ (by omega), bitOf_setFld_apart _ _ (by omega)]
  · rw [bitOf_setFld_apart _ _ (by omega), bitOf_setFld_apart _ _ (by omega), bitOf_setFld_apart _ _ (by omega)]
  · rw [fld_setFld_apart _ _ (by omega), fld_setFld_apart _ _ (by omega), fld_setFld_apart _ _ (by omega)]

theorem streamGateWrite_bad (h : fld w 38 32 = 0 ∨ 64 < fld w 38 32 ∨
    (bitOf w 62 = true ∧ fld (s.reg (sgReg g + 16)) 29 0 < 1000)) : s.streamGateWrite g w = s.hubErr :=
  if_pos (listWriteBad_iff.2 h)

theorem streamGateWrite_good (h : ¬ (fld w 38 32 = 0 ∨ 64 < fld w 38 32 ∨
    (bitOf w 62 = true ∧ fld (s.reg (sgReg g + 16)) 29 0 < 1000))) :
    (s.streamGateWrite g w).reg (sgReg g) = sgMask w ∧
      (s.streamGateWrite g w).hub.sgPending.val g false = (bitOf w 62 || s.hub.sgPending.val g false) := by
  have taken : s.streamGateWrite g w = if bitOf w 62 then (s.setReg (sgReg g) (sgMask w)).updHub
      (fun h => { h with sgPending := h.sgPending.put g true }) else s.setReg (sgReg g) (sgMask w) :=
    if_neg (mt listWriteBad_iff.1 h)
  rw [taken]
  cases bitOf w 62
  · exact ⟨s.reg_setReg_self _ _, rfl⟩
  · exact ⟨s.reg_setReg_self _ _, SMap.val_put_self ..⟩

/-! ## Lists that become operational, and the ends of their intervals -/

/-- A port's pending list starts; it no longer pends. -/
theorem qbvActivate_starts (h : s.hub.qbvPending.val port false = true) :
    ∃ t0 r, s.startList (qbvOf port) true (fld (s.reg (tpReg port 8)) 42 32) t0 = r ∧
      s.qbvActivate port = r.1.updHub
        (fun h => { h with qbvPending := h.qbvPending.del port, qbvPos := h.qbvPos.put port r.2 }) :=
  ⟨_, _, rfl, if_pos h⟩

theorem streamGateActivate_starts (h : s.hub.sgPending.val g false = true) :
    ∃ t0 r, s.startList (sgOf g) false (fld (s.reg (sgReg g)) 38 32) t0 = r ∧
      s.streamGateActivate g = r.1.updHub
        (fun h => { h with sgPending := h.sgPending.del g, sgPos := h.sgPos.put g r.2 }) :=
  ⟨_, _, rfl, if_pos h⟩

theorem qbvNext_running (h : (s.hub.qbvPos.val port ListPos.reset).running = true) :
    (s.qbvNext port).hub.qbvPos.val port ListPos.reset =
      s.nextInterval (qbvOf port) true (s.hub.qbvPos.val port ListPos.reset) := by
  unfold State.qbvNext
  rw [if_pos h]
  exact SMap.val_put_self ..

theorem streamGateNext_running (h : (s.hub.sgPos.val g ListPos.reset).running = true) :
    (s.streamGateNext g).hub.sgPos.val g ListPos.reset =
      s.nextInterval (sgOf g) false (s.hub.sgPos.val g ListPos.reset) := by
  unfold State.streamGateNext
  rw [if_pos h]
  exact SMap.val_put_self ..

end

/-! ## Sync and Follow_Up (R22) -/

section
variable (s : State) (d : Nat)

/-- Both frames of a port counted. -/
def State.countsSync (s : State) (t : Nat) : State := (s.tsnCount (tpReg t tpTxFrames)).tsnCount (tpReg t tpTxFrames)

theorem tpReg_inj {t u o : Nat} : tpReg t o = tpReg u o ↔ t = u := by
  unfold tpReg
  omega

/-- Each of some ports, named once, counts two frames more. -/
theorem countsSync_foldl (ts : List Nat) (hts : ts.Nodup) (p : Nat) :
    (ts.foldl State.countsSync s).reg (tpReg p 0x108) = s.reg (tpReg p 0x108) + if p ∈ ts then 2 else 0 := by
  induction ts generalizing s with
  | nil => simp
  | cons t ts ih =>
    obtain ⟨hmem, hts⟩ := List.nodup_cons.1 hts
    rw [List.foldl_cons, ih _ hts, State.countsSync]
    by_cases hp : p = t
    · subst hp
      rw [if_neg hmem, if_pos List.mem_cons_self]
      have place : tpReg p 0x108 = tpReg p tpTxFrames := rfl
      rw [place, tsnCount_self, tsnCount_self]
      ring
    · have hne : tpReg p 0x108 ≠ tpReg t tpTxFrames := mt tpReg_inj.1 hp
      rw [tsnCount_ne _ hne, tsnCount_ne _ hne]
      simp [hp]

/-- The counts leave the time and the output alone. -/
theorem countsSync_foldl_hub (ts : List Nat) :
    (ts.foldl State.countsSync s).hub.out = s.hub.out ∧ (ts.foldl State.countsSync s).gptp d = s.gptp d := by
  induction ts generalizing s with
  | nil => exact ⟨rfl, rfl⟩
  | cons t ts ih => exact ih (s.countsSync t)

variable {s d}

theorem gptpSync_not_gm (h : s.isGm d = false) : s.gptpSync d = s := if_neg (by simp [h])

/-- The ports in service. -/
def State.portsUp (s : State) : List Nat := (List.range 4).filter fun t => bitOf (s.reg (tpReg t 0)) 63

theorem gptpSync_gm (h : s.isGm d = true) :
    s.gptpSync d = (s.portsUp.foldl State.countsSync s).updHub
      (fun h => { h with out := h.out ++ s.portsUp.map (fun t => Output.gptpSync t d ((s.portsUp.foldl State.countsSync s).gptp d)) }) := by
  refine if_pos ?_
  have runs : bitOf (s.reg (domainReg d)) 63 = true := by
    unfold State.isGm at h
    simp only [Bool.and_eq_true] at h
    exact h.1.1
  rw [runs, h]
  rfl

end

end Sys2Proof.Machine

namespace Sys2Proof.Machine

/-! # The TSN ports' statement -/

theorem filterOf_lt {s : State} {port k : Nat} {p : FrameParts} (h : s.filterOf port p = some k) : k < 512 := by
  unfold State.filterOf at h
  exact List.mem_range.1 (List.mem_of_find?_eq_some h)

section
variable {s : State} {port : Nat} {f : List Byte} {p : FrameParts} {k : Nat} (hport : port < 4)
  (hon : bitOf (s.reg (tpReg port 0)) 63 = true) (hf : frameParts f = some p) (hgptp : p.etype ≠ 0x88F7)
  (hpair : p.etype ≠ 0x88B6) (hk : (s.tsnCount (tpReg port 0x100)).filterOf port p = some k)
include hport hon hf hgptp hpair hk

/-- A frame that a filter matches, when it takes one of the ways of R62 through the filter. -/
theorem matched_frame : s.tsnReceive port f true = (s.tsnCount (tpReg port 0x100)).filtered k p ∧
    s.CountsTo (s.tsnCount (tpReg port 0x100)) ∧ k < 512 ∧
    (∀ o, (s.tsnCount (tpReg port 0x100)).reg (filterCtr k + o) = s.reg (filterCtr k + o)) := by
  refine ⟨?_, tsnCount_countsTo s (.inl (by unfold tpReg; omega)), filterOf_lt hk, fun o => ?_⟩
  · rw [tsnReceive_parts hon hf, if_neg hgptp, if_neg hpair, hk]
    rfl
  · exact tsnCount_ne s (by unfold filterCtr tpReg; omega)

end

/-- R21 to R23, R62: what the steps of the TSN ports do. -/
theorem tsnPorts : Claims.TsnPorts := by
  refine ⟨fun s port f ok h => ?outOfService, fun s port f hport hon => ⟨?damaged, ?badTag, fun p hf => ⟨?pair, ?gptp,
    fun hgptp hpair => ⟨?unmatched, fun k hk => ⟨?long, ?closed, ?passes⟩⟩⟩⟩,
    fun s port w hport => ⟨?portLong, ?portEmpty, ?portNoCycle, ?portTaken, ?portNoList, ?portStarts, ?portIdle, ?portNext⟩,
    fun s g w hg => ⟨?gateLong, ?gateEmpty, ?gateNoCycle, ?gateTaken, ?gateNoList, ?gateStarts, ?gateIdle, ?gateNext⟩,
    fun s d => ⟨?latch, ?notGm, ?gm, ?recovery⟩⟩
  case outOfService => exact exec_next rfl (tsnReceive_out_of_service ok h)
  case damaged =>
    refine ⟨_, exec_next rfl (tsnReceive_damaged hon), ?_, ?_, rfl, rfl⟩
    · rw [tsnCount_ne _ (by unfold tpReg; omega), tsnCount_self]
    · rw [tsnCount_self, tsnCount_ne _ (by unfold tpReg; omega)]
  case badTag =>
    intro hf
    refine ⟨_, exec_next rfl (tsnReceive_bad_tag hon hf), ?_, rfl⟩
    rw [tsnCount_self, tsnCount_ne _ (by unfold tpReg; omega)]
  case pair =>
    intro htype
    refine exec_next rfl ((tsnReceive_parts hon hf).trans ?_)
    rw [if_neg (by omega), if_pos htype]
    rfl
  case gptp =>
    intro htype
    obtain ⟨regs, image, regions, ptp⟩ := ptpSync_keeps ((s.tsnCount (tpReg port 0x100)).announce p.payload) p.payload
    rw [announce_keeps] at regs image regions ptp
    exact ⟨_, exec_next rfl ((tsnReceive_parts hon hf).trans (if_pos htype)), regs, image, regions, ptp⟩
  case unmatched =>
    intro hk
    have none : s.tsnReceive port f true = (s.tsnCount (tpReg port 0x100)).tsnCount (tpReg port 0x120) := by
      have unfiltered : (s.tsnCount (tpReg port 0x100)).filterOf port p = none := hk
      rw [tsnReceive_parts hon hf, if_neg hgptp, if_neg hpair, unfiltered]
      rfl
    refine ⟨_, exec_next rfl none, ?_, rfl⟩
    rw [tsnCount_self, tsnCount_ne _ (by unfold tpReg; omega)]
  case long =>
    intro h0 hlong
    obtain ⟨taken, counts, hk', ctr⟩ := matched_frame hport hon hf hgptp hpair hk
    rw [← counts.filterWord hk'] at h0 hlong
    refine ⟨_, exec_next rfl (taken.trans (filtered_long hk' h0 hlong)), ?_, ?_, rfl⟩
    · rw [tsnCount_ne _ (by omega), tsnCount_self, ← Nat.add_zero (filterCtr k), ctr]
    · rw [tsnCount_self, tsnCount_ne _ (by omega), ctr]
  case closed =>
    intro hlen hclosed
    obtain ⟨taken, counts, hk', ctr⟩ := matched_frame hport hon hf hgptp hpair hk
    rw [← counts.gateOpen (fld_lt _ 61 54), ← counts.filterWord hk'] at hclosed
    rw [← counts.filterWord hk'] at hlen
    refine ⟨_, exec_next rfl (taken.trans (filtered_closed hk' hlen hclosed)), ?_, ?_, rfl⟩
    · rw [tsnCount_ne _ (by omega), tsnCount_self, ← Nat.add_zero (filterCtr k), ctr]
    · rw [tsnCount_self, tsnCount_ne _ (by omega), ctr]
  case passes =>
    intro hlen hopen hmeter hrec
    obtain ⟨taken, counts, hk', ctr⟩ := matched_frame hport hon hf hgptp hpair hk
    rw [← counts.gateOpen (fld_lt _ 61 54), ← counts.filterWord hk'] at hopen
    rw [← counts.filterWord hk'] at hlen hmeter
    rw [← counts.recoveredOf] at hrec
    obtain ⟨u, hu⟩ : ∃ u, u = s.tsnCount (tpReg port 0x100) := ⟨_, rfl⟩
    rw [← hu] at taken counts ctr hopen hlen hmeter hrec
    obtain ⟨v, hv⟩ : ∃ v, v = (u.tsnCount (filterCtr k)).tsnCount (filterCtr k + 8) := ⟨_, rfl⟩
    have passed : u.filtered k p = v.commitRegion k p.payload := by rw [hv, filtered_passes hk' hlen hopen hmeter hrec]
    have counted : s.CountsTo v := by
      rw [hv]
      exact counts.trans ((tsnCount_countsTo u (.inr (by unfold filterCtr; omega))).trans
        (tsnCount_countsTo _ (.inr (by unfold filterCtr; omega))))
    have region : v.hub.region k = s.hub.region k := by rw [Hub.region, counted.regions, Hub.region]
    refine ⟨_, exec_next rfl (taken.trans passed), ?_, ?_, fun h => ?_, fun h hlong => ?_, fun h hfits => ?_⟩
    · rw [State.reg_congr (commitRegion_regs v k _), hv, tsnCount_ne _ (by omega), tsnCount_self, ← Nat.add_zero (filterCtr k), ctr]
    · rw [State.reg_congr (commitRegion_regs v k _), hv, tsnCount_self, tsnCount_ne _ (by omega), ctr]
    · rw [commitRegion_unbound (by rw [region]; exact h)]
      exact ⟨counted.image, counted.regions⟩
    · rw [commitRegion_oversize (by rw [region]; exact h) (by rw [region]; exact hlong), region]
      exact ⟨SMap.val_put_self .., counted.image⟩
    · have fits := commitRegion_fits (s := v) (k := k) (l := p.payload) (by rw [region]; exact h) (by rw [region]; exact hfits)
      rwa [region] at fits
  case portLong => exact fun h => exec_next rfl (qbvWrite_bad (.inr (.inl h)))
  case portEmpty => exact fun h => exec_next rfl (qbvWrite_bad (.inl h))
  case portNoCycle => exact fun h h' => exec_next rfl (qbvWrite_bad (.inr (.inr ⟨h, h'⟩)))
  case portTaken =>
    intro h1 h2 hcycle
    have good : ¬ (fld w 42 32 = 0 ∨ 1024 < fld w 42 32 ∨
        (bitOf w 62 = true ∧ fld (s.reg (tpReg port 0x18)) 29 0 < 1000)) := by
      rintro (h | h | ⟨h, h'⟩)
      · omega
      · omega
      · exact Nat.not_lt.2 (hcycle h) h'
    obtain ⟨reg, pending⟩ := qbvWrite_good good
    obtain ⟨v, init, len⟩ := qbvMask_fields w
    refine ⟨_, rfl, ?_, ?_, ?_, pending⟩
    · exact (congrArg (bitOf · 63) reg).trans v
    · exact (congrArg (fld · 60 53) reg).trans init
    · exact (congrArg (fld · 42 32) reg).trans len
  case portNoList => exact fun h => exec_next rfl (if_neg (by simp [h]))
  case portStarts =>
    intro h
    obtain ⟨t0, r, hr, starts⟩ := qbvActivate_starts h
    have leaves := startList_leaves s true (fld (s.reg (tpReg port 8)) 42 32) t0
      (qbvOf_apart hport) (by simp only [qbvOf]; omega)
    rw [hr] at leaves
    obtain ⟨run, entry, len, gates, copied, base, cycle⟩ := leaves
    have pos (p : ListPos) (m : SMap ListPos) : (m.put port p).val port ListPos.reset = p := SMap.val_put_self ..
    refine ⟨_, exec_next rfl starts, SMap.val_del_self .., ?_, ?_, ?_, ?_, copied, base, cycle⟩
    · exact (congrArg ListPos.running (pos _ _)).trans run
    · exact (congrArg ListPos.entry (pos _ _)).trans entry
    · exact (congrArg ListPos.len (pos _ _)).trans len
    · exact (congrArg ListPos.gates (pos _ _)).trans gates
  case portIdle => exact fun h => exec_next rfl (if_neg (by simp [h]))
  case portNext =>
    intro p hp hrun
    subst hp
    exact ⟨_, _, rfl, qbvNext_running hrun, nextInterval_cases s (qbvOf port) true _⟩
  case gateLong => exact fun h => exec_next rfl (streamGateWrite_bad (.inr (.inl h)))
  case gateEmpty => exact fun h => exec_next rfl (streamGateWrite_bad (.inl h))
  case gateNoCycle => exact fun h h' => exec_next rfl (streamGateWrite_bad (.inr (.inr ⟨h, h'⟩)))
  case gateTaken =>
    intro h1 h2 hcycle
    have good : ¬ (fld w 38 32 = 0 ∨ 64 < fld w 38 32 ∨
        (bitOf w 62 = true ∧ fld (s.reg (sgReg g + 16)) 29 0 < 1000)) := by
      rintro (h | h | ⟨h, h'⟩)
      · omega
      · omega
      · exact Nat.not_lt.2 (hcycle h) h'
    obtain ⟨reg, pending⟩ := streamGateWrite_good good
    obtain ⟨v, init, len⟩ := sgMask_fields w
    refine ⟨_, rfl, ?_, ?_, ?_, pending⟩
    · exact (congrArg (bitOf · 63) reg).trans v
    · exact (congrArg (bitOf · 60) reg).trans init
    · exact (congrArg (fld · 38 32) reg).trans len
  case gateNoList => exact fun h => exec_next rfl (if_neg (by simp [h]))
  case gateStarts =>
    intro h
    obtain ⟨t0, r, hr, starts⟩ := streamGateActivate_starts h
    have leaves := startList_leaves s false (fld (s.reg (sgReg g)) 38 32) t0
      (sgOf_apart hg) (by simp only [sgOf]; omega)
    rw [hr] at leaves
    obtain ⟨run, entry, len, gates, copied, base, cycle⟩ := leaves
    have pos (p : ListPos) (m : SMap ListPos) : (m.put g p).val g ListPos.reset = p := SMap.val_put_self ..
    refine ⟨_, exec_next rfl starts, SMap.val_del_self .., ?_, ?_, ?_, ?_, copied, base, cycle⟩
    · exact (congrArg ListPos.running (pos _ _)).trans run
    · exact (congrArg ListPos.entry (pos _ _)).trans entry
    · exact (congrArg ListPos.len (pos _ _)).trans len
    · exact (congrArg ListPos.gates (pos _ _)).trans gates
  case gateIdle => exact fun h => exec_next rfl (if_neg (by simp [h]))
  case gateNext =>
    intro p hp hrun
    subst hp
    exact ⟨_, _, rfl, streamGateNext_running hrun, nextInterval_cases s (sgOf g) false _⟩
  case latch => exact ⟨_, rfl, SMap.val_put_self ..⟩
  case notGm => exact fun h => exec_next rfl (gptpSync_not_gm h)
  case gm =>
    intro h
    obtain ⟨out, time⟩ := countsSync_foldl_hub s d s.portsUp
    refine ⟨_, exec_next rfl (gptpSync_gm h), ?_, fun p hp => ?_⟩
    · rw [time, State.updHub_hub, out]
      rfl
    · refine (countsSync_foldl s s.portsUp (List.nodup_range.filter _) p).trans ?_
      have up : p ∈ s.portsUp ↔ bitOf (s.reg (tpReg p 0)) 63 = true := by simp [State.portsUp, hp]
      simp only [up]
  case recovery => rfl

end Sys2Proof.Machine

/-! # The process image's registers, the result view, and egress (R23, R24, R54 to R57, R61, R428) -/

namespace Sys2Proof.Machine

/-! ## PISPLIT and PIBIND -/

section
variable {s : State}

theorem bindingMeets_iff {but : Option Nat} {lo hi : Nat} : s.bindingMeets but lo hi = true ↔
    ∃ f, f < 512 ∧ some f ≠ but ∧ bindValid (s.reg (pibindReg f)) = true ∧ bindOff (s.reg (pibindReg f)) < hi ∧
      lo < bindOff (s.reg (pibindReg f)) + bindLen (s.reg (pibindReg f)) := by
  simp [State.bindingMeets, and_assoc]

/-- What stands against a split at `n` × 64 KiB: a region above it, or an enabled stream past the end of the result part. -/
def State.SplitBlocked (s : State) (n : Nat) : Prop :=
  (∃ f, f < 512 ∧ bindValid (s.reg (pibindReg f)) = true ∧ bindOff (s.reg (pibindReg f)) < 4 * 2 ^ 20 ∧
    n * 65536 < bindOff (s.reg (pibindReg f)) + bindLen (s.reg (pibindReg f))) ∨
  ∃ e, e < 256 ∧ esEn (s.escfg e) = true ∧ 4 * 2 ^ 20 - n * 65536 < esOff (s.escfg e) + 8 + esLen (s.escfg e)

theorem splitBlocked_iff {n : Nat} : s.SplitBlocked n ↔ s.bindingMeets none (n * 65536) bufBytes = true ∨
    (List.range 256).any (fun e => esEn (s.escfg e) && decide (bufBytes - n * 65536 < esOff (s.escfg e) + 8 + esLen (s.escfg e)))
      = true := by
  simp only [bindingMeets_iff, State.SplitBlocked, List.any_eq_true, List.mem_range, Bool.and_eq_true, decide_eq_true_eq]
  simp [bufBytes]

section
variable {w : Word}

theorem pisplitWrite_refused (h : w.toNat = 0 ∨ 64 ≤ w.toNat ∨ s.SplitBlocked w.toNat) : s.pisplitWrite w = s.hubErr := by
  rw [splitBlocked_iff] at h
  exact if_pos h

theorem pisplitWrite_taken (h1 : 1 ≤ w.toNat) (h64 : w.toNat < 64) (h : ¬ s.SplitBlocked w.toNat) :
    s.pisplitWrite w = { s with hub := { s.hub with splitPending := some w.toNat } } := by
  rw [splitBlocked_iff] at h
  exact if_neg (by rintro (h' | h' | h')
                   · omega
                   · omega
                   · exact h h')

end

/-- What PIBIND keeps of a word. -/
theorem bindMask_fields (w : Word) : bindValid (bindMask w) = bitOf w 63 ∧ fld (bindMask w) 56 43 = fld w 56 43 ∧
    fld (bindMask w) 21 3 = fld w 21 3 := by
  unfold bindMask bindValid
  refine ⟨?_, ?_, ?_⟩
  · rw [bitOf_setFld_apart _ _ (by omega), bitOf_setFld_apart _ _ (by omega), bitOf_setFld_apart _ _ (by omega)]
  · rw [fld_setFld_apart _ _ (by omega), fld_setFld_apart _ _ (by omega), fld_setFld_apart _ _ (by omega)]
  · rw [fld_setFld_apart _ _ (by omega), fld_setFld_apart _ _ (by omega), fld_setFld_apart _ _ (by omega)]

theorem bindLen_bindMask (w : Word) : bindLen (bindMask w) = fld w 56 43 * 8 := congrArg (· * 8) (bindMask_fields w).2.1
theorem bindOff_bindMask (w : Word) : bindOff (bindMask w) = fld w 21 3 * 8 := congrArg (· * 8) (bindMask_fields w).2.2

section
variable {f : Nat} {w : Word}

/-- What stands against a binding with V: its length, the split that will stand, or another binding. -/
def State.BindBlocked (s : State) (f : Nat) (w : Word) : Prop :=
  fld w 56 43 = 0 ∨ 8192 < fld w 56 43 ∨ s.hub.splitPending.getD s.hub.split * 65536 < fld w 21 3 * 8 + fld w 56 43 * 8 ∨
    ∃ g, g < 512 ∧ g ≠ f ∧ bindValid (s.reg (pibindReg g)) = true ∧
      bindOff (s.reg (pibindReg g)) < fld w 21 3 * 8 + fld w 56 43 * 8 ∧
      fld w 21 3 * 8 < bindOff (s.reg (pibindReg g)) + bindLen (s.reg (pibindReg g))

theorem bindBlocked_iff : s.BindBlocked f w ↔ fld (bindMask w) 56 43 = 0 ∨ 8192 < fld (bindMask w) 56 43 ∨
    s.hub.splitPending.getD s.hub.split * 65536 < bindOff (bindMask w) + bindLen (bindMask w) ∨
    s.bindingMeets (some f) (bindOff (bindMask w)) (bindOff (bindMask w) + bindLen (bindMask w)) = true := by
  rw [bindingMeets_iff, bindLen_bindMask, bindOff_bindMask, (bindMask_fields w).2.1]
  simp [State.BindBlocked]

theorem pibindWrite_refused (hv : bitOf w 63 = true) (h : s.BindBlocked f w) : s.pibindWrite f w = s.hubErr :=
  (if_pos ((bindMask_fields w).1.trans hv)).trans (if_pos (bindBlocked_iff.1 h))

/-- A binding that may stand waits for the tick. -/
theorem pibindWrite_taken (hv : bitOf w 63 = true) (h : ¬ s.BindBlocked f w) : s.pibindWrite f w =
    (s.setReg (pibindReg f) (bindMask w)).setRegion f { s.hub.region f with pending := some (bindMask w) } :=
  (if_pos ((bindMask_fields w).1.trans hv)).trans (if_neg (mt bindBlocked_iff.2 h))

/-- Without V the binding ends at once. -/
theorem pibindWrite_cleared (hv : bitOf w 63 = false) : s.pibindWrite f w =
    ((s.setReg (pibindReg f) (bindMask w)).updHub (fun h => h.leaveGhost (s.hub.region f))).setRegion f
      { s.hub.region f with pending := none, bound := bindMask w, commit := none } :=
  if_neg (by rw [(bindMask_fields w).1, hv]; exact Bool.false_ne_true)

theorem region_setRegion_self (r : PiRegion) : (s.setRegion f r).hub.region f = r := SMap.val_put_self ..

theorem leaveGhost_image (h : Hub) (r : PiRegion) : (h.leaveGhost r).image = h.image := by
  unfold Hub.leaveGhost
  dsimp only
  split <;> rfl

end

end

/-! ## ESCFG and ESHDR (R54, R55) -/

section
variable {s : State} {e : Nat} {w : Word}

/-- Bit 0 of ESCFG is no field of a stream. -/
theorem escfg_mask (w : Word) : esEn (setFld w 0 0 0) = esEn w ∧ esPort (setFld w 0 0 0) = esPort w ∧
    esTc (setFld w 0 0 0) = esTc w ∧ esOff (setFld w 0 0 0) = esOff w ∧ esLen (setFld w 0 0 0) = esLen w ∧
    esStatOff (setFld w 0 0 0) = esStatOff w ∧ esSeq (setFld w 0 0 0) = esSeq w :=
  ⟨bitOf_setFld_apart _ _ (by omega), fld_setFld_apart _ _ (by omega), fld_setFld_apart _ _ (by omega),
    congrArg (· * 16) (fld_setFld_apart _ _ (by omega)), fld_setFld_apart _ _ (by omega), fld_setFld_apart _ _ (by omega),
    bitOf_setFld_apart _ _ (by omega)⟩

/-- A configuration that cannot stand with EN. -/
def State.StreamBad (s : State) (w : Word) : Prop :=
  esLen w = 0 ∨ 1500 < esLen w ∨ esLen w ≤ esStatOff w ∨
    4 * 2 ^ 20 - max (s.hub.splitPending.getD s.hub.split) s.hub.split * 65536 < esOff w + 8 + esLen w

/-- The fields that EN holds fixed are the same in two configurations. -/
def SameStream (v w : Word) : Prop :=
  esPort w = esPort v ∧ esTc w = esTc v ∧ esOff w = esOff v ∧ esLen w = esLen v ∧ esSeq w = esSeq v

/-- The two reasons for which a write of ESCFG is dropped. -/
def State.StreamRefused (s : State) (e : Nat) (w : Word) : Prop :=
  (esEn w = true ∧ s.StreamBad w) ∨ (esEn (s.escfg e) = true ∧ ¬ SameStream (s.escfg e) w)

theorem streamBad_iff : s.StreamBad w ↔ (decide (esLen w = 0) || decide (1500 < esLen w)
    || decide (bufBytes - max (s.hub.splitPending.getD s.hub.split) s.hub.split * 65536 < esOff w + 8 + esLen w)
    || decide (esLen w ≤ esStatOff w)) = true := by
  simp only [Bool.or_eq_true, decide_eq_true_eq]
  unfold State.StreamBad bufBytes
  tauto

theorem not_sameStream_iff {b : Bool} {v : Word} : (b = true ∧ ¬ SameStream v w) ↔
    (b && !decide (esPort w = esPort v ∧ esTc w = esTc v ∧ esOff w = esOff v ∧ esLen w = esLen v ∧ esSeq w = esSeq v)) = true := by
  simp only [SameStream, Bool.and_eq_true, Bool.not_eq_true', decide_eq_false_iff_not]

theorem escfgWrite_refused (h : s.StreamRefused e w) : s.escfgWrite e w = s.hubErr := by
  obtain ⟨en, port, tc, off, len, stat, seq⟩ := escfg_mask w
  unfold State.StreamRefused at h
  rw [streamBad_iff, not_sameStream_iff] at h
  unfold State.escfgWrite
  dsimp only
  rw [en, port, tc, off, len, stat, seq]
  split
  next => rfl
  next h1 =>
    refine if_pos (h.resolve_left fun ⟨he, hb⟩ => h1 ?_)
    rw [he, hb]
    rfl

/-- What a taken write of ESCFG leaves; EN set from 0 starts the stream's counters. -/
theorem escfgWrite_taken (h : ¬ s.StreamRefused e w) : s.escfgWrite e w =
    if esEn w && !esEn (s.escfg e) then
      (s.setReg (escfgReg e) (setFld w 0 0 0)).updHub
        (fun h => { h with egStat := (h.egStat.del (2 * e)).del (2 * e + 1), egSeq := h.egSeq.del e })
    else s.setReg (escfgReg e) (setFld w 0 0 0) := by
  obtain ⟨en, port, tc, off, len, stat, seq⟩ := escfg_mask w
  unfold State.StreamRefused at h
  rw [streamBad_iff, not_sameStream_iff, not_or] at h
  obtain ⟨hbad, hfrozen⟩ := h
  unfold State.escfgWrite
  dsimp only
  rw [en, port, tc, off, len, stat, seq, if_neg, if_neg hfrozen]
  rw [Bool.and_eq_true, Bool.or_eq_true]
  exact fun ⟨he, hb⟩ => hb.elim (fun hb => hbad ⟨he, hb⟩) hfrozen

/-- Of a stream that stays off, or is set off with its fields as they stood, the status entry stays. -/
theorem escfgWrite_off (hw : esEn w = false) (h : esEn (s.escfg e) = true → SameStream (s.escfg e) w) :
    s.escfgWrite e w = s.setReg (escfgReg e) (setFld w 0 0 0) := by
  rw [escfgWrite_taken, hw]
  · rfl
  · rintro (⟨he, -⟩ | ⟨he, hs⟩)
    · rw [hw] at he
      exact Bool.false_ne_true he
    · exact hs (h he)

theorem escfgWrite_starts (hw : esEn w = true) (hold : esEn (s.escfg e) = false) (h : ¬ s.StreamBad w) :
    s.escfgWrite e w = (s.setReg (escfgReg e) (setFld w 0 0 0)).updHub
        (fun h => { h with egStat := (h.egStat.del (2 * e)).del (2 * e + 1), egSeq := h.egSeq.del e }) := by
  rw [escfgWrite_taken, hw, hold]
  · rfl
  · rintro (⟨-, hb⟩ | ⟨he, -⟩)
    · exact h hb
    · rw [hold] at he
      exact Bool.false_ne_true he

/-- Both words of a cleared status entry read zero. -/
theorem egStat_cleared (m : SMap Word) (e : Nat) : ((m.del (2 * e)).del (2 * e + 1)).val (2 * e + 0) 0 = 0 ∧
    ((m.del (2 * e)).del (2 * e + 1)).val (2 * e + 1) 0 = 0 := by
  rw [SMap.val_del_ne (h := by omega)]
  exact ⟨SMap.val_del_self .., SMap.val_del_self ..⟩

theorem eshdrWrite_first : (s.eshdrWrite e 0 w).eshdr e 0 = w := s.reg_setReg_self w _

theorem eshdrWrite_refused (h : bitOf w 16 = true) (h' : fld w 11 0 = 0 ∨ fld w 11 0 = 0xFFF) :
    s.eshdrWrite e 1 w = s.hubErr := (if_pos rfl).trans (if_pos ⟨h, h'⟩)

theorem eshdrWrite_second (h : bitOf w 16 = false ∨ (fld w 11 0 ≠ 0 ∧ fld w 11 0 ≠ 0xFFF)) :
    (s.eshdrWrite e 1 w).eshdr e 1 = BitVec.ofNat 64 (fld w 16 0) := by
  have hno : ¬ (bitOf w 16 = true ∧ (fld w 11 0 = 0 ∨ fld w 11 0 = 0xFFF)) := by
    rintro ⟨hb, hv⟩
    obtain hb' | ⟨h0, hf⟩ := h
    · rw [hb'] at hb
      exact Bool.false_ne_true hb
    · exact hv.elim h0 hf
  have hset : s.eshdrWrite e 1 w = s.setReg (escfgReg e + 16) (ofN (fld w 16 0)) := if_neg hno
  rw [hset]
  exact s.reg_setReg_self _ _

end

/-! ## The result view (R56, R58) -/

section
variable {s : State} {off : Nat} {bs : List Byte}

theorem val_foldl_put_true (l : List Nat) (m : SMap Bool) (e : Nat) :
    (l.foldl (fun m e => m.put e true) m).val e false = (m.val e false || decide (e ∈ l)) := by
  induction l generalizing m with
  | nil => simp
  | cons a l ih =>
    rw [List.foldl_cons, ih, SMap.val_put]
    by_cases h : e = a
    · simp [h]
    · simp [h]

/-- The streams whose stamp a store to the result view touches. -/
def State.stampsHit (s : State) (off n : Nat) : List Nat :=
  (List.range 256).filter (fun e => decide (off < esOff (s.escfg e) + 8 ∧ esOff (s.escfg e) < off + n))

theorem resultWrite_long (h : s.hub.resultBytes < off + bs.length) : s.resultWrite off bs = s.hubErr := if_pos h

theorem resultWrite_lands (h : off + bs.length ≤ s.hub.resultBytes) : s.resultWrite off bs =
    s.updHub (fun h => { h.imageWrite h.resBack (h.resultStart + off) bs with
      wbits := (s.stampsHit off bs.length).foldl (fun m e => m.put e true) h.wbits }) := if_neg (Nat.not_lt.2 h)

/-- A byte of the result view after a store to it. -/
theorem resultByte_resultWrite (h : off + bs.length ≤ s.hub.resultBytes) (i : Nat) :
    (s.resultWrite off bs).hub.resultByte i =
      if off ≤ i ∧ i < off + bs.length then bs.getD (i - off) 0 else s.hub.resultByte i := by
  have himage : (s.resultWrite off bs).hub.resultByte i =
      (s.hub.imageWrite s.hub.resBack (s.hub.resultStart + off) bs).imageByte s.hub.resBack (s.hub.resultStart + i) := by
    rw [resultWrite_lands h]
    rfl
  rw [himage, imageByte_imageWrite]
  have hin : (s.hub.resultStart + off ≤ s.hub.resultStart + i ∧
      s.hub.resultStart + i < s.hub.resultStart + off + bs.length) ↔ (off ≤ i ∧ i < off + bs.length) := by omega
  have hsub : s.hub.resultStart + i - (s.hub.resultStart + off) = i - off := by omega
  simp only [hin, hsub]
  rfl

/-- The marks of the streams after a store to the result view. -/
theorem wbits_resultWrite (h : off + bs.length ≤ s.hub.resultBytes) {e : Nat} (he : e < 256) :
    (s.resultWrite off bs).hub.wbits.val e false = (s.hub.wbits.val e false ||
      decide (off < esOff (s.escfg e) + 8 ∧ esOff (s.escfg e) < off + bs.length)) := by
  rw [resultWrite_lands h, State.updHub_hub, val_foldl_put_true]
  simp [State.stampsHit, he]

end

/-! ## Egress frames (R57) and safe frames (R428) -/

section
variable {s : State} {e : Nat} {f : EgFrame}

/-- The state in which a frame that leaves is counted at its port; a standby does not count it there. -/
def State.sentAt (s : State) (f : EgFrame) : State :=
  if s.standby then s else s.tsnCount (tpReg (esPort f.cfg) tpTxFrames)

theorem sentAt_counts : (s.sentAt f).reg (tpReg (esPort f.cfg) tpTxFrames) =
    s.reg (tpReg (esPort f.cfg) tpTxFrames) + if s.standby then 0 else 1 := by
  unfold State.sentAt
  cases s.standby
  · exact tsnCount_self s
  · exact (BitVec.add_zero _).symm

theorem sentAt_keeps : (s.sentAt f).hub.out = s.hub.out ∧ (s.sentAt f).hub.egFrames = s.hub.egFrames ∧
    (s.sentAt f).hub.egSeq = s.hub.egSeq := by
  unfold State.sentAt
  split <;> exact ⟨rfl, rfl, rfl⟩

theorem sendFrame_none (h : ∀ f ∈ s.hub.egFrames, f.stream ≠ e) : s.sendFrame e = s := by
  have hfind : s.hub.egFrames.find? (fun f => decide (f.stream = e)) = none :=
    List.find?_eq_none.2 (fun f hf => by simpa using h f hf)
  unfold State.sendFrame
  rw [hfind]

section
variable (hf : s.hub.egFrames.find? (fun g => decide (g.stream = e)) = some f)
include hf

theorem sendFrame_waits (h : s.canSend f = false) : s.sendFrame e = s := by
  unfold State.sendFrame
  rw [hf]
  exact if_pos (by rw [h]; rfl)

theorem sendFrame_leaves (h : s.canSend f = true) : s.sendFrame e = (s.sentAt f).updHub (fun h =>
    let h := h.egCount e 2
    { h with
      egFrames := h.egFrames.filter (fun g => !decide (g.stream = e))
      egSeq := h.egSeq.put e ((h.egSeq.val e 0 + 1) % 65536)
      portBusy := h.portBusy.put (esPort f.cfg) (s.gptp 0 + s.wireNs (esPort f.cfg) ((s.frameBytes f).length + 12))
      out := if s.standby then h.out else h.out ++ [.frame (esPort f.cfg) (s.frameBytes f)] }) := by
  unfold State.sendFrame
  rw [hf]
  exact if_neg (by rw [h]; exact Bool.false_ne_true)

/-- What a frame that leaves changes: it stands on the wire but for a standby, the sequence number moves on, its port
counts it, and no frame of the stream is left. -/
theorem sendFrame_leaves_results (h : s.canSend f = true) : let t := s.sendFrame e
    (t.hub.out = if s.standby then s.hub.out else s.hub.out ++ [.frame (esPort f.cfg) (s.frameBytes f)]) ∧
    t.hub.egSeq.val e 0 = (s.hub.egSeq.val e 0 + 1) % 65536 ∧
    (t.reg (tpReg (esPort f.cfg) 0x108) = s.reg (tpReg (esPort f.cfg) 0x108) + if s.standby then 0 else 1) ∧
    ∀ g, g ∈ t.hub.egFrames ↔ g ∈ s.hub.egFrames ∧ g.stream ≠ e := by
  obtain ⟨hout, hframes, hseq⟩ := sentAt_keeps (s := s) (f := f)
  dsimp only
  rw [sendFrame_leaves hf h]
  have hegs : ∀ h : Hub, (h.egCount e 2).out = h.out ∧ (h.egCount e 2).egFrames = h.egFrames ∧
    (h.egCount e 2).egSeq = h.egSeq := fun _ => ⟨rfl, rfl, rfl⟩
  obtain ⟨hout', hframes', hseq'⟩ := hegs (s.sentAt f).hub
  refine ⟨?_, ?_, sentAt_counts, fun g => ?_⟩
  · rw [State.updHub_hub]
    dsimp only
    rw [hout', hout]
  · rw [State.updHub_hub]
    dsimp only
    rw [hseq', hseq, SMap.val_put_self]
  · rw [State.updHub_hub]
    dsimp only
    rw [hframes', hframes]
    simp

end

theorem safeFrames_passed {a b : Nat} (h : s.hub.safe = some (a, b, true)) : s.safeFrames = { s with
    hub := { s.hub with out := s.hub.out ++ [.safeFrame 0, .safeFrame 1, .safeFrame 2, .safeFrame 3] } } := by
  unfold State.safeFrames
  rw [h]
  rfl

/-- Without an image that passed there are no safe frames. -/
theorem safeFrames_idle (h : ∀ a b, s.hub.safe ≠ some (a, b, true)) : s.safeFrames = s := by
  unfold State.safeFrames
  split
  next a b image hs =>
    cases image with
    | false => rfl
    | true => exact absurd hs (h a b)
  next => rfl

end

/-! ## The claim -/

theorem imageAndEgress : Claims.ImageAndEgress := by
  refine ⟨?split, ?bind, ?stream, ?result, ?send, ?safe⟩
  case split =>
    intro s w
    dsimp only
    refine ⟨fun h => exec_next rfl (pisplitWrite_refused (by tauto)), fun h1 h64 hf he => ?_, fun f hf hv h1 h64 hlen hoff => ?_,
      fun e he hen hlen => ?_⟩
    · refine exec_next rfl (pisplitWrite_taken h1 h64 ?_)
      rintro (⟨f, hf', hv, -, hlen⟩ | ⟨e, he', hen, hlen⟩)
      · exact absurd hlen (Nat.not_lt.2 (hf f hf' hv))
      · exact absurd hlen (Nat.not_lt.2 (he e he' hen))
    · exact exec_next rfl (pisplitWrite_refused (.inr (.inr (.inl ⟨f, hf, hv, hoff, hlen⟩))))
    · exact exec_next rfl (pisplitWrite_refused (.inr (.inr (.inr ⟨e, he, hen, hlen⟩))))
  case bind =>
    intro s f w hf
    dsimp only
    refine ⟨fun hv h => exec_next rfl (pibindWrite_refused hv h), fun hv h1 h8 hsplit hmeet => ?_, fun hv => ?_⟩
    · have hfree : ¬ s.BindBlocked f w := by
        rintro (h | h | h | ⟨g, hg, hne, hvg, hlo, hhi⟩)
        · omega
        · omega
        · omega
        · have := hmeet g hg hne hvg
          omega
      refine ⟨_, exec_next rfl (pibindWrite_taken hv hfree), ⟨bindMask w, ?_, ?_, (bindMask_fields w).1.trans hv,
        bindLen_bindMask w, bindOff_bindMask w⟩, ?_, rfl⟩
      · rw [region_setRegion_self]
      · exact s.reg_setReg_self _ _
      · rw [region_setRegion_self]
    · refine ⟨_, exec_next rfl (pibindWrite_cleared hv), ?_, ?_, ?_, leaveGhost_image _ _⟩
      · rw [region_setRegion_self]
      · rw [region_setRegion_self]
        exact (bindMask_fields w).1.trans hv
      · rw [region_setRegion_self]
  case stream =>
    intro s e w he
    dsimp only
    refine ⟨fun hw hbad => exec_next rfl (escfgWrite_refused (.inl ⟨hw, hbad⟩)), fun hold hne => ?_, fun hw hold => ?_,
      fun hw hold hport htc hoff hlen hseq => ?_, fun hw hold h1 h1500 hstat hfits => ?_, ⟨_, rfl, eshdrWrite_first⟩,
      fun hb hv => exec_next rfl (eshdrWrite_refused hb hv), fun h => ⟨_, rfl, eshdrWrite_second h⟩⟩
    · refine exec_next rfl (escfgWrite_refused (.inr ⟨hold, ?_⟩))
      rintro ⟨hport, htc, hoff, hlen, hseq⟩
      tauto
    · exact ⟨_, exec_next rfl (escfgWrite_off hw (by simp [hold])), s.reg_setReg_self _ _, rfl⟩
    · exact ⟨_, exec_next rfl (escfgWrite_off hw fun _ => ⟨hport, htc, hoff, hlen, hseq⟩), s.reg_setReg_self _ _, rfl⟩
    · have hgood : ¬ s.StreamBad w := by
        rintro (h | h | h | h)
        · omega
        · omega
        · omega
        · exact absurd h (Nat.not_lt.2 hfits)
      refine ⟨_, exec_next rfl (escfgWrite_starts hw hold hgood), s.reg_setReg_self _ _, SMap.val_del_self .., ?_, ?_⟩
      · exact congrArg BitVec.toNat (egStat_cleared _ _).1
      · exact congrArg BitVec.toNat (egStat_cleared _ _).2
  case result =>
    intro s off bs
    refine ⟨fun h => exec_next rfl (resultWrite_long h), fun h => ⟨_, rfl, fun i hi => ?_, fun i hi => ?_,
      fun e he => wbits_resultWrite h he⟩⟩
    · rw [resultByte_resultWrite h, if_pos (by omega), Nat.add_sub_cancel_left]
    · rw [resultByte_resultWrite h, if_neg (by omega)]
  case send =>
    intro s e
    refine ⟨fun h => exec_next rfl (sendFrame_none h), fun f hf => ⟨fun h => exec_next rfl (sendFrame_waits hf h),
      fun h => ⟨_, rfl, sendFrame_leaves_results hf h⟩⟩⟩
  case safe =>
    intro s
    refine ⟨fun h => exec_next rfl (safeFrames_idle (by simp [h])), fun a b h => exec_next rfl (safeFrames_idle (by simp [h])),
      fun a b h => exec_next rfl (safeFrames_passed h)⟩

/-- Settles O48: the port, filter, gate and time steps of the TSN ports, then the image's registers, the result view and
egress. -/
theorem tsnSteps : Obligations.TsnSteps := ⟨tsnPorts, imageAndEgress⟩

end Sys2Proof.Machine

/-! # Memory stays canonical

The bytes of memory keep their canonical form in every step (O58). The form speaks of the field `mem` alone, and few changes
of the model write it: those take cells out or put bytes in by the laws of `Laws/Memory.lean`, and every other change hands
the field on. One lemma for each function of the model says so, named after the function: `Canonical.f` for a change of the
state, `Keeps.f` for a meaning. The proof for a function then follows its body: `h.f.g` says that `f` and then `g` keep the
form. -/

namespace Sys2Proof.Safety

open Sys2Proof.Machine

set_option autoImplicit true

/-! ## What a change of state may do -/

/-- Memory alone decides: the other parts of a state may be any. -/
theorem Canonical.upd (h : Canonical s) :
    Canonical ⟨large', now', turn', phase', barTouched', agenda', later', posts', cur', iss', fresh', cores', s.mem,
      poison', channels', slices', tlb', wcache', walks', shoot', traced', launches', residents', lanes', takings',
      marks', pushed', dieTurn', lastPart', lastQueue', missPosted', replay', parts', sched', saved', gates', wseq',
      fqHead', fqTail', fqWait', deferredEnds', budgetParked', hub'⟩ := h

theorem Canonical.ite {c : Prop} [Decidable c] {a b : State} (ha : Canonical a) (hb : Canonical b) :
    Canonical (if c then a else b) := by
  split <;> assumption

theorem Canonical.ite_fst {c : Prop} [Decidable c] {a b : State × α} (ha : Canonical a.1) (hb : Canonical b.1) :
    Canonical (if c then a else b).1 := by
  split <;> assumption

theorem Canonical.of_fst {p : State × α} (e : p = (t, a)) (h : Canonical p.1) : Canonical t := by
  subst e
  exact h

/-- A fold keeps the canonical form when each of its steps does. -/
theorem Canonical.foldl {f : State → α → State} {l : List α} (h : Canonical s)
    (hf : ∀ s x, Canonical s → Canonical (f s x)) : Canonical (l.foldl f s) := by
  induction l generalizing s with
  | nil => exact h
  | cons x l ih => exact ih (hf s x h)

theorem Canonical.foldl_fst {f : State × β → α → State × β} {l : List α} {p : State × β} (h : Canonical p.1)
    (hf : ∀ p x, Canonical p.1 → Canonical (f p x).1) : Canonical (l.foldl f p).1 := by
  induction l generalizing p with
  | nil => exact h
  | cons x l ih => exact ih (hf p x h)

/-! ## What a meaning may do -/

/-- Every state that an answer of a meaning leads to is canonical: the state it completes in, and the one that a stop keeps
of a canonical state. -/
def Ends : Except Stop (α × State) → Prop
  | .ok (_, t) => Canonical t
  | .error (.wait _ keep) => ∀ s, Canonical s → Canonical (keep s)
  | .error (.fault _ keep) => ∀ s, Canonical s → Canonical (keep s)

/-- A meaning that keeps memory canonical. -/
def Keeps (m : M α) : Prop := ∀ s, Canonical s → Ends (m s)

theorem Ends.of_ok (h : Ends r) (e : r = .ok (a, t)) : Canonical t := by
  subst e
  exact h

theorem Ends.of_wait (h : Ends r) (e : r = .error (.wait w keep)) (hs : Canonical s) : Canonical (keep s) := by
  subst e
  exact h s hs

theorem Keeps.pure {a : α} : Keeps (pure a : M α) := fun _ h => h

theorem Keeps.bind {m : M α} {f : α → M β} (hm : Keeps m) (hf : ∀ a, Keeps (f a)) : Keeps (m >>= f) := by
  intro s h
  have hs := hm s h
  rw [M.bind_apply]
  generalize m s = r at hs ⊢
  rcases r with (⟨w, k⟩ | ⟨w, k⟩) | ⟨a, t⟩
  · exact hs
  · exact hs
  · exact hf a t hs

/-- What follows a read of the state may use that it is canonical. -/
theorem Keeps.get_bind {f : State → M β} (hf : ∀ s, Canonical s → Keeps (f s)) : Keeps (get >>= f) :=
  fun s h => hf s h s h

theorem Keeps.set (h : Canonical t) : Keeps (set t : M PUnit) := fun _ _ => h
theorem Keeps.update (hf : ∀ s, Canonical s → Canonical (f s)) : Keeps (upd f) := hf
theorem Keeps.gets {f : State → α} : Keeps (gets f) := fun _ h => h
theorem Keeps.waitOn : Keeps (waitOn w : M α) := fun _ _ _ h => h
theorem Keeps.waitKeep (hf : ∀ s, Canonical s → Canonical (f s)) : Keeps (waitKeep w f : M α) := fun _ _ => hf
theorem Keeps.faultKeep (hf : ∀ s, Canonical s → Canonical (f s)) : Keeps (faultKeep code loc f : M α) :=
  fun _ _ => hf
theorem Keeps.stop {e : FaultInfo} (hf : ∀ s, Canonical s → Canonical (f s)) :
    Keeps (fun _ => .error (.fault e f) : M α) := fun _ _ => hf

theorem Keeps.ite {c : Prop} [Decidable c] {a b : M α} (ha : Keeps a) (hb : Keeps b) : Keeps (if c then a else b) := by
  split <;> assumption

/-- A statement with two branches, and what follows both. -/
theorem Keeps.ite_bind {c : Prop} [Decidable c] {a b : M α} {f : α → M β} (ha : Keeps a) (hb : Keeps b)
    (hf : ∀ x, Keeps (f x)) : Keeps (if c then a >>= f else b >>= f) := .ite (.bind ha hf) (.bind hb hf)

/-- A statement with one branch, and what follows it. -/
theorem Keeps.ite_then {c : Prop} [Decidable c] {a : M PUnit} {f : PUnit → M β} (ha : Keeps a)
    (hf : ∀ x, Keeps (f x)) : Keeps (if c then a >>= f else f ⟨⟩) := .ite (.bind ha hf) (hf _)

theorem Keeps.ite_else {c : Prop} [Decidable c] {a : M PUnit} {f : PUnit → M β} (ha : Keeps a)
    (hf : ∀ x, Keeps (f x)) : Keeps (if c then f ⟨⟩ else a >>= f) := .ite (hf _) (.bind ha hf)

theorem Keeps.mapM {f : α → M β} {l : List α} (hf : ∀ x, Keeps (f x)) : Keeps (l.mapM f) := by
  induction l with
  | nil => exact .pure
  | cons x l ih =>
    rw [List.mapM_cons]
    exact .bind (hf x) fun _ => .bind ih fun _ => .pure

theorem Keeps.forM {f : α → M PUnit} {l : List α} (hf : ∀ x, Keeps (f x)) : Keeps (l.forM f) := by
  induction l with
  | nil => exact .pure
  | cons x l ih => exact .bind (hf x) fun _ => ih

/-! ## Changes that may fail -/

/-- The state that a change answers, if it answers one, is canonical. -/
def Gives (o : Option State) : Prop := ∀ u, o = some u → Canonical u

theorem Gives.none : Gives .none := fun _ e => nomatch e
theorem Gives.some (h : Canonical s) : Gives (.some s) := by
  rintro _ ⟨⟩
  exact h
theorem Gives.ite {c : Prop} [Decidable c] {a b : Option State} (ha : Gives a) (hb : Gives b) :
    Gives (if c then a else b) := by
  split <;> assumption

/-! ## Chunks of a copy -/

/-- The state that the end of a chunk carries, if it carries one, is canonical. -/
def Carried : ChunkEnd → Prop
  | .late s _ => Canonical s
  | .landed s => Canonical s
  | _ => True

/-- A part of a chunk answers what satisfies `P`, or an end that carries a canonical state. -/
def Lands (P : α → Prop) : Except ChunkEnd α → Prop
  | .ok a => P a
  | .error e => Carried e

theorem Lands.of_ok {P : α → Prop} (h : Lands P r) (e : r = .ok a) : P a := by
  subst e
  exact h

theorem Lands.of_error {P : α → Prop} (h : Lands P r) (e : r = .error x) : Carried x := by
  subst e
  exact h

theorem Lands.ite {P : α → Prop} {c : Prop} [Decidable c] {a b : Except ChunkEnd α} (ha : Lands P a)
    (hb : Lands P b) : Lands P (if c then a else b) := by
  split <;> assumption

theorem Lands.foldlM {P : β → Prop} {f : β → α → Except ChunkEnd β} {l : List α} {b : β} (hb : P b)
    (hf : ∀ b x, P b → Lands P (f b x)) : Lands P (l.foldlM f b) := by
  induction l generalizing b with
  | nil => exact hb
  | cons x l ih =>
    have hx := hf b x hb
    rw [List.foldlM_cons]
    generalize f b x = r at hx ⊢
    cases r with
    | error e => exact hx
    | ok b => exact ih hx

/-! ## Outcomes -/

/-- Every next state that an outcome names is canonical. -/
def Yields (o : Host.Outcome State Fault Refusal) : Prop := ∀ t, o = .next t → Canonical t

theorem Yields.next (h : Canonical t) : Yields (.next t) := by
  intro u e
  cases e
  exact h

theorem Yields.ite {c : Prop} [Decidable c] {a b : Host.Outcome State Fault Refusal} (ha : Yields a) (hb : Yields b) :
    Yields (if c then a else b) := by
  split <;> assumption

/-! ## The reset state -/

theorem Canonical.reset : Canonical State.reset := reset_mem_wf

/-! ## Cores, slots and partitions -/

theorem Canonical.setCore (h : Canonical s) : Canonical (s.setCore c k) := h.upd

theorem Canonical.setSlot (h : Canonical s) : Canonical (s.setSlot gs x) := h.setCore

theorem Canonical.setMe (h : Canonical s) : Canonical (s.setMe x) := h.setSlot

theorem Canonical.setPart (h : Canonical s) : Canonical (s.setPart p w) := h.upd

theorem Canonical.setSlice (h : Canonical s) : Canonical (s.setSlice n x) := h.upd

theorem Keeps.faultP : Keeps (faultP code addr : M α) := .stop fun _ h => h

theorem Keeps.faultL : Keeps (faultL code addr : M α) := .stop fun _ h => h

theorem Keeps.needP : Keeps (needP c code addr) := .ite .pure .faultP

theorem Keeps.needL : Keeps (needL c code addr) := .ite .pure .faultL

theorem Keeps.needW : Keeps (needW c) := .ite .pure .waitOn

theorem Keeps.needSync : Keeps (needSync c) := .ite .pure .waitOn

theorem Keeps.me : Keeps (me) := .gets

theorem Keeps.updMe : Keeps (updMe f) := .update (fun _ h => h.setMe)

theorem Keeps.myCore : Keeps (myCore) := .gets

theorem Keeps.updCore : Keeps (updCore f) := .update (fun _ h => h.setCore)

theorem Keeps.operandsReady : Keeps (operandsReady reads writes) :=
  .bind .needP fun _ => .bind .me fun _ => .bind .needW fun _ => .needP

theorem Keeps.readS : Keeps (readS n) := by
  refine .bind .me fun _ => .ite .pure (.ite ?_ ?_)
  · split
    · exact .waitOn
    · exact .bind .needL fun _ => .bind .updMe fun _ => .pure
  · refine .ite ?_ ?_
    · split
      · exact .waitOn
      · exact .bind .needL fun _ => .bind .updMe fun _ => .pure
    · refine .ite ?_ ?_
      · split
        · exact .waitOn
        · exact .bind .updMe fun _ => .pure
      · split
        · exact .waitOn
        · exact .bind .updMe fun _ => .pure

theorem Keeps.writeS : Keeps (writeS n w) := .updMe

theorem Keeps.writeP : Keeps (writeP n b) := .updMe

theorem Keeps.jump : Keeps (jump t) := .update (fun _ h => h.upd)

/-! ## Flags -/

theorem Keeps.raiseFlags : Keeps (raiseFlags fl) := .ite .pure .updMe

/-! ## Caches, slices and bytes -/

theorem Canonical.setPoison (h : Canonical s) : Canonical (s.setPoison key) := h.upd

theorem Canonical.meetBad (h : Canonical s) : Canonical (s.meetBad key) := .ite h.setSlice.setPoison h

theorem Canonical.markUnbacked (h : Canonical s) : Canonical (s.markUnbacked key) := h.setSlice

theorem Canonical.markDirty (h : Canonical s) : Canonical (s.markDirty key mask) := by
  refine .ite h.markUnbacked ?_
  dsimp only
  split
  · exact h
  · exact h.setSlice

theorem Canonical.homePokes (h : Canonical s) : Canonical (s.homePokes key ps) := homePokes_canonical key ps h

theorem Canonical.setDir (h : Canonical s) : Canonical (s.setDir key d) := h.setSlice

theorem Canonical.setL1 (h : Canonical s) : Canonical (s.setL1 c sec l) := h.setCore

theorem Canonical.dropL1 (h : Canonical s) : Canonical (s.dropL1 c sec) := h.setCore

theorem Canonical.sendTracked (h : Canonical s) : Canonical (s.sendTracked c sec) := by
  unfold State.sendTracked
  split
  · exact h
  · exact .ite h (Canonical.ite h.homePokes.setPoison h.homePokes).setL1

theorem Canonical.recallFor (h : Canonical s) : Canonical (s.recallFor c key) := by
  unfold State.recallFor
  split
  · refine .ite h (.setDir (h.foldl fun s _ h => ?_))
    dsimp only
    split
    · exact .ite h.sendTracked.setL1 h.sendTracked
    · exact h.sendTracked
  · exact h

theorem Canonical.recallAny (h : Canonical s) : Canonical (s.recallAny key) := h.recallFor

theorem Canonical.recallSector (h : Canonical s) : Canonical (s.recallSector key) := by
  unfold State.recallSector
  split
  · exact h.sendTracked
  · exact h

theorem Canonical.invalidateOthers (h : Canonical s) : Canonical (s.invalidateOthers c key) :=
  h.recallFor.foldl fun _ _ h => .ite h (h.foldl fun _ _ h => h.dropL1)

theorem Canonical.invalidateSector (h : Canonical s) : Canonical (s.invalidateSector key) :=
  h.recallSector.foldl fun _ _ h => h.dropL1

theorem Canonical.evictLine (h : Canonical s) : Canonical (s.evictLine n line) :=
  ((h.recallAny.foldl fun _ _ h => h.foldl fun _ _ h => h.dropL1).setDir.foldl fun _ _ h =>
    .ite h.setPoison h).setSlice

theorem Canonical.placeLine (h : Canonical s) : Canonical (s.placeLine n line w) := by
  refine .setSlice ?_
  split
  · exact .ite h h.evictLine
  · exact h

theorem Canonical.atHome (h : Canonical s) : Canonical (s.atHome p key) := by
  refine .ite h.meetBad ?_
  split
  · exact h.meetBad.setSlice
  · split
    · exact h.meetBad.placeLine
    · exact h.meetBad

theorem Canonical.bindPage (h : Canonical s) : Gives (s.bindPage key leafPa leaf) := by
  refine .ite (.ite (.some h) (.ite .none ?_)) (.some h)
  split
  · exact .none
  · exact .some h.setSlice

theorem Canonical.mergeHome (h : Canonical s) : Canonical (s.mergeHome p key ps) :=
  h.atHome.recallSector.homePokes.invalidateSector

theorem Canonical.crossPokes (h : Canonical s) : Canonical (s.crossPokes p key leafPa leaf ps c) := by
  unfold State.crossPokes
  split
  · exact h
  · next e => exact .ite (h.bindPage _ e).mergeHome (h.bindPage _ e).mergeHome.setSlice

theorem Canonical.writeBack (h : Canonical s) : Canonical (s.writeBack c sec) := by
  unfold State.writeBack
  split
  · exact h
  · exact .ite h (.ite (Canonical.ite h.crossPokes.setPoison h.crossPokes).setL1 h.sendTracked)

theorem Canonical.evictSector (h : Canonical s) : Canonical (s.evictSector c sec) := h.writeBack.dropL1

theorem Canonical.evict (h : Canonical s) : Canonical (s.evict c sec) := by
  unfold State.evict
  split
  · exact h
  · exact .ite (h.foldl fun _ _ h => h.evictSector).setDir h.evictSector

theorem Canonical.allocL1 (h : Canonical s) : Canonical (s.allocL1 p c sec l) := by
  unfold State.allocL1
  split
  · exact h
  · refine .setCore ?_
    split
    · exact h.evict
    · exact h

theorem Canonical.touchL1 (h : Canonical s) : Canonical (s.touchL1 c sec l) := h.setCore

theorem Canonical.meetL1 (h : Canonical s) : Canonical (s.meetL1 c sec) := .ite h.setCore.evict.dropL1 h

theorem Canonical.fillUnfetched (h : Canonical s) : Canonical (s.fillUnfetched c sec l) :=
  .ite h h.atHome.recallAny.setL1

theorem Canonical.fetchSector (h : Canonical s) : Canonical (s.fetchSector p c sec via) := by
  unfold State.fetchSector
  split
  · exact h.fillUnfetched
  · exact .ite (.ite h.atHome.recallFor.setDir.allocL1 h.atHome.recallAny.allocL1) h.atHome

theorem Canonical.readSector (h : Canonical s) : Canonical (s.readSector p c sec cached mask via).1 := by
  unfold State.readSector
  dsimp only
  split
  · refine .touchL1 ?_
    split
    · exact .ite (.ite h.meetL1 h) (Canonical.ite h.meetL1 h).fillUnfetched
    · exact .ite (Canonical.ite h.meetL1 h).fetchSector (Canonical.ite h.meetL1 h).atHome
  · refine .recallAny ?_
    split
    · exact .ite (.ite h.meetL1 h) (Canonical.ite h.meetL1 h).fillUnfetched
    · exact .ite (Canonical.ite h.meetL1 h).fetchSector (Canonical.ite h.meetL1 h).atHome

theorem Canonical.storeHome (h : Canonical s) : Canonical (s.storeHome key bs p) := h.mergeHome

theorem Canonical.grantLine (h : Canonical s) : Canonical (s.grantLine p c key) :=
  .ite h.atHome.invalidateOthers.setDir.markUnbacked h.atHome.invalidateOthers.setDir

theorem Canonical.ownSector (h : Canonical s) : Canonical (s.ownSector p c sec via) := by
  unfold State.ownSector
  dsimp only
  split
  · exact h.grantLine.setL1
  · exact h.grantLine.allocL1

theorem Canonical.storeSector (h : Canonical s) : Canonical (s.storeSector p c key bs cached via) := by
  refine .ite ?_ (Canonical.ite h.meetL1 h).storeHome
  split
  · refine .touchL1 (.ite (Canonical.ite h.meetL1 h).ownSector ?_)
    split
    · exact .ite h.meetL1 h
    · exact (Canonical.ite h.meetL1 h).allocL1
  · refine .ite (Canonical.ite h.meetL1 h).ownSector ?_
    split
    · exact .ite h.meetL1 h
    · exact (Canonical.ite h.meetL1 h).allocL1

theorem Canonical.crossWrite (h : Canonical s) : Canonical (s.crossWrite key bs p) := h.storeHome

theorem Canonical.physWrite (h : Canonical s) : Canonical (s.physWrite key bs) := by
  induction bs generalizing s key with
  | nil => exact h
  | cons b bs ih => exact ih h.mergeHome

theorem Canonical.physRead (h : Canonical s) : Canonical (s.physRead key n).1 :=
  (h.foldl fun _ _ h => h.atHome.recallAny).foldl fun _ _ h => h.meetBad

theorem Canonical.flushU (h : Canonical s) : Canonical (s.flushU c) := h.foldl fun _ _ h => .ite h.writeBack h

theorem Canonical.dropU (h : Canonical s) : Canonical (s.dropU c) := h.foldl fun _ _ h => .ite h.evict h

theorem Canonical.flushAll (h : Canonical s) : Canonical (s.flushAll c) := h.foldl fun _ _ h => h.writeBack

theorem Canonical.dropShared (h : Canonical s) : Canonical (s.dropShared c) := h.setCore

theorem Canonical.flushE (h : Canonical s) : Canonical (s.flushE c) := h.foldl fun _ _ h => .ite h.writeBack h

theorem Canonical.release (h : Canonical s) : Canonical (s.release c sc) := by
  unfold State.release
  split
  · exact h.flushU.flushE
  · exact h.flushU.flushE
  · exact h.flushE
  · exact h

theorem Canonical.acquire (h : Canonical s) : Canonical (s.acquire c sc) := by
  unfold State.acquire
  split
  · exact h.dropU.dropShared
  · exact h.dropU.dropShared
  · exact h.dropShared

/-! ## Local memory -/

theorem Canonical.countUe (h : Canonical s) : Canonical (s.countUe c array place) := h.setCore

theorem Canonical.countLm (h : Canonical s) : Canonical (s.countLm c array o) := .ite h h.countUe

/-! ## Walks and translation -/

theorem Canonical.tableEntry (h : Canonical s) : Canonical (s.tableEntry pa p).1 := h.atHome.recallSector

theorem Canonical.keepTable (h : Canonical s) : Canonical (s.keepTable cl part asn level va en) := h.upd

theorem Canonical.walkFrom (h : Canonical s) : Canonical (s.walkFrom cl part asn table va seen level).1 := by
  induction level generalizing s table seen with
  | zero => exact h
  | succ level ih =>
    unfold State.walkFrom
    split
    · exact ih h.keepTable
    · refine .ite_fst h ?_
      split
      · next e => exact .of_fst e h.tableEntry
      · next e =>
        have ht := Canonical.of_fst e h.tableEntry
        exact .ite_fst (ht.foldl fun _ _ h => h.keepTable) (.ite_fst (ih ht) ht)

theorem Canonical.walk (h : Canonical s) : Canonical (s.walk cl part asn root va).1 := .ite_fst h.walkFrom h

theorem Canonical.install2 (h : Canonical s) : Canonical (s.install2 cl va t) := h.upd

theorem Canonical.install1 (h : Canonical s) : Canonical (s.install1 c kind va t) := by
  unfold State.install1
  dsimp only
  split
  · exact h.setCore
  · exact h.setCore

theorem Canonical.queueWalk (h : Canonical s) : Canonical (s.queueWalk cl as ptroot va) := .ite h.upd (.ite h.upd h)

theorem Canonical.askWalk (h : Canonical s) : Canonical (s.askWalk a ptroot va) := h.queueWalk

theorem Canonical.answerWalk (h : Canonical s) : Canonical (s.answerWalk a part asn va r) := by
  unfold State.answerWalk
  dsimp only
  split
  · exact h.setSlot.install1
  · exact h.setSlot

theorem Canonical.serveWalk (h : Canonical s) : Canonical (s.serveWalk cl r) := by
  unfold State.serveWalk
  dsimp only
  split
  · next e => exact (Canonical.of_fst e h.walk).upd
  · next e =>
    have ht := Canonical.of_fst e h.walk
    refine .foldl ?_ fun _ _ h => h.answerWalk
    split
    · exact ht.install2
    · exact ht

theorem Canonical.forgetWalks (h : Canonical s) : Canonical (s.forgetWalks gs kinds) := h.setSlot.upd

theorem Canonical.leafFor (h : Canonical s) : Canonical (s.leafFor a ptroot va fresh).1 := by
  refine .ite_fst h ?_
  split
  · exact h.install1
  · split
    · exact h.install2.install1
    · split
      · exact h
      · exact h
      · exact h
      · exact h
      · exact h

theorem Canonical.xlate (h : Canonical s) : Canonical (s.xlate a ptroot need dev va).1 := by
  unfold State.xlate
  split
  · next e => exact .of_fst e h.leafFor
  · next e =>
    have ht := Canonical.of_fst e h.leafFor
    refine .ite_fst ht ?_
    split
    · next e => exact .of_fst e ht.leafFor
    · next e => exact .ite_fst (.of_fst e ht.leafFor) (.of_fst e ht.leafFor)

theorem Canonical.xlateHub (h : Canonical s) : Canonical (s.xlateHub cl ptroot need va).1 := by
  have hwalk : Canonical (match s.walk cl (partOf ptroot) (asnOf ptroot) (rootOf ptroot) va with
      | (s, .absent) => (s, Except.error (XStop.fault fcPageAbsent 0))
      | (s, .poisoned) => (s, .error (.fault fcPoison 0))
      | (s, .stall) => (s, .error .walk)
      | (s, .leaf level e pa) =>
        let s := s.install2 cl va (walkEntry (partOf ptroot) (asnOf ptroot) va level e pa)
        if s.leafOk (partOf ptroot) need false level e then (s, .ok (locOf ptroot va level e pa))
        else (s, .error (.fault fcPageRights 0))).1 := by
    have hw := h.walk (cl := cl) (part := partOf ptroot) (asn := asnOf ptroot) (root := rootOf ptroot) (va := va)
    split
    · next e => exact .of_fst e hw
    · next e => exact .of_fst e hw
    · next e => exact .of_fst e hw
    · next e => exact .ite_fst (Canonical.of_fst e hw).install2 (Canonical.of_fst e hw).install2
  refine .ite_fst h ?_
  split
  · exact .ite_fst h.install2 hwalk
  · exact hwalk

theorem Canonical.firstTouch (h : Canonical s) : Gives (s.firstTouch l) := h.bindPage

theorem Canonical.touchAfter (h : Canonical r.1) : Canonical (touchAfter r).1 := by
  obtain ⟨s, _ | l⟩ := r
  · exact h
  · unfold Machine.touchAfter
    dsimp only
    split
    · next e => exact h.firstTouch _ e
    · exact h

theorem Canonical.access (h : Canonical s) : Canonical (s.access a ptroot need dev va).1 := h.xlate.touchAfter

/-! ## Barriers, events and reservations -/

theorem Canonical.barAt (h : Canonical s) : Canonical (s.barAt key).1 := h.recallSector

theorem Canonical.setBar (h : Canonical s) : Canonical (s.setBar key b) := h.storeHome

theorem Canonical.touchBar (h : Canonical s) : Canonical (s.touchBar key) := h.upd

theorem Canonical.putWord (h : Canonical s) : Canonical (s.putWord key w32 v) := h.homePokes.invalidateSector

theorem Canonical.takeWord (h : Canonical s) : Canonical (s.takeWord key w32 p).1 := h.atHome.recallSector

theorem Canonical.zeroed (h : Canonical s) : Canonical (s.zeroed key) := h.homePokes.invalidateSector

theorem Canonical.zeroSector (h : Canonical s) : Canonical (s.zeroSector gs key) := h.zeroed.setSlot

theorem Canonical.redApply (h : Canonical s) : Canonical (s.redApply op w32 key v p) :=
  (h.takeWord (w32 := w32)).putWord

theorem Canonical.redServe (h : Canonical s) : Canonical (s.redServe gs op w32 etol key v p) :=
  (Canonical.ite h.atHome.recallSector.zeroSector h.atHome.recallSector).redApply

theorem Canonical.setAmo (h : Canonical s) : Canonical (s.setAmo n l) := h.setSlice

theorem Canonical.grant (h : Canonical s) : Canonical (s.grant n r) := h.recallSector.setAmo

theorem Canonical.advanceWord (h : Canonical s) : Canonical (s.advanceWord n key fuel) := by
  induction fuel generalizing s with
  | zero => exact h
  | succ fuel ih =>
    unfold State.advanceWord
    split
    · exact h
    · dsimp only
      split
      · exact .ite h h.grant
      · exact ih h.setAmo.mergeHome
      · exact ih h.setAmo.redServe

theorem Canonical.amoLeave (h : Canonical s) : Canonical (s.amoLeave n r) := .ite h.setAmo.advanceWord h.setAmo

theorem Canonical.amoWithdraw (h : Canonical s) : Canonical (s.amoWithdraw gs) := by
  unfold State.amoWithdraw
  split
  · exact h.amoLeave
  · exact h

theorem Canonical.dropAsked (h : Canonical s) : Canonical (s.dropAsked gs) := h.forgetWalks.amoWithdraw

theorem Canonical.foldDue (h : Canonical s) : Canonical (s.foldDue) :=
  h.foldl fun _ t h => (h.takeWord (w32 := t.w32)).putWord.upd

theorem Canonical.foldTraced (h : Canonical s) : Canonical (s.foldTraced barKey phase) := h.upd.foldDue

theorem Canonical.afterTest (h : Canonical s) : Canonical (s.afterTest key before after) := .ite h h.foldTraced

theorem Canonical.testBar (h : Canonical s) : Canonical (s.testBar key) := .ite h.barAt h.barAt.setBar.afterTest

theorem Canonical.testBars (h : Canonical s) : Canonical (s.testBars) := h.upd.foldl fun _ _ h => h.testBar

theorem Canonical.barArrive (h : Canonical s) : Canonical (s.barArrive key).1 :=
  .ite_fst h.barAt.setBar.touchBar h.barAt.setBar

theorem Canonical.barDebit (h : Canonical s) : Canonical (s.barDebit key n).1 :=
  .ite_fst h.barAt.setBar.touchBar h.barAt.setBar

theorem Canonical.barCredit (h : Canonical s) : Gives (s.barCredit key n) := .ite (.some h.barAt.setBar) .none

theorem Canonical.setCombiners (h : Canonical s) : Canonical (s.setCombiners core' l) := h.setCore

theorem Canonical.leaveCombiner (h : Canonical s) : Canonical (s.leaveCombiner core' slot c) :=
  .ite (.ite h.setCombiners (.ite h.barArrive.setCombiners h.setCombiners)) h

theorem Canonical.leaveCombiners (h : Canonical s) : Canonical (s.leaveCombiners core' slot) :=
  h.foldl fun _ _ h => h.leaveCombiner

theorem Canonical.closeDebit (h : Canonical s) : Canonical (s.closeDebit c) := .ite h.barDebit h

theorem Canonical.carterAbort (h : Canonical s) : Canonical (s.carterAbort gs) :=
  .ite h (h.foldl fun _ _ h => h.closeDebit).setSlot

/-! ## Meanings -/

theorem Canonical.signal (h : Canonical s) : Canonical (s.signal gs) := h.setSlot

theorem Canonical.signalNext (h : Canonical s) : Canonical (s.signalNext gs) := h.setSlot

theorem Canonical.postRecord (h : Canonical s) : Canonical (s.postRecord queue code slot bs) := h.upd

theorem Canonical.slotRecord (h : Canonical s) : Canonical (s.slotRecord gs f pc replay extra) := h.postRecord

theorem Canonical.staleTin (h : Canonical s) : Canonical (s.staleTin gs part tin mode handler m) := h.postRecord

theorem Canonical.bounceInbox (h : Canonical s) : Canonical (s.bounceInbox gs x) :=
  h.foldl fun _ _ h => .ite h.setSlot h.staleTin

theorem Canonical.returnInbox (h : Canonical s) : Canonical (s.returnInbox gs) := h.setSlot.bounceInbox

theorem Canonical.dropWaits (h : Canonical s) : Canonical (s.dropWaits gs) := h.upd

theorem Canonical.parkGates (h : Canonical s) : Canonical (s.parkGates gs) := h.upd

theorem Canonical.dropGateWaits (h : Canonical s) : Canonical (s.dropGateWaits gs) := h.parkGates.upd

theorem Canonical.enterReplay (h : Canonical s) : Canonical (s.enterReplay gs cause x) := by
  unfold State.enterReplay
  split
  · split
    · exact h.upd
    · exact h
  · exact h

theorem Canonical.scrub (h : Canonical s) : Canonical (s.scrub gs cause) :=
  h.carterAbort.dropAsked.upd.setCore.returnInbox.dropWaits.dropGateWaits.setSlot.enterReplay

theorem Canonical.charge (h : Canonical s) : Canonical (s.charge gs) :=
  .ite h (.ite h.setSlot.upd (.ite h.setSlot.upd h.setSlot))

theorem Canonical.chargeIssue (h : Canonical s) : Canonical (s.chargeIssue) := .ite h.charge h

theorem Canonical.kill (h : Canonical s) : Canonical (s.kill gs cause) := .ite h.scrub.setCore h.scrub

theorem Canonical.reportFault (h : Canonical s) : Canonical (s.reportFault gs f next resume') :=
  h.slotRecord.setSlot.parkGates.dropAsked

theorem Canonical.takeFault (h : Canonical s) : Canonical (s.takeFault f) :=
  .ite h.setMe.amoWithdraw.chargeIssue (.ite h.slotRecord.kill h.chargeIssue.reportFault)

theorem Canonical.commit (h : Canonical s) : Canonical (s.commit) := h.setMe.chargeIssue

theorem Canonical.waiting (h : Canonical s) : Canonical (s.waiting w) := .ite h.setMe.chargeIssue h.setMe

theorem Canonical.runI (h : Canonical s) (hm : Keeps m) : Yields (runI m s) := by
  have hs := hm s h
  unfold Machine.runI
  generalize m s = r at hs ⊢
  rcases r with (⟨w, keep⟩ | ⟨e, keep⟩) | ⟨a, t⟩
  · exact .next (hs s h).waiting
  · exact .next (hs s h).takeFault
  · exact .next hs.commit

theorem Keeps.eretOp : Keeps (eretOp) :=
  .bind .me fun _ => .bind .needP fun _ => .bind .updMe fun _ => .update (fun _ h => h.upd)

theorem Canonical.trapOp (h : Canonical s) : Canonical (trapOp code loc addr s) :=
  .ite h.setMe.chargeIssue h.setMe.chargeIssue.reportFault

theorem Canonical.parkSlot (h : Canonical s) : Canonical (s.parkSlot gs why) := by
  unfold State.parkSlot
  dsimp only
  split
  · exact h.parkGates.dropAsked.setSlot
  · exact h.parkGates.dropAsked.setSlot.dropWaits
  · exact h.parkGates.dropAsked.setSlot.dropWaits
  · exact h.parkGates.dropAsked.setSlot.dropWaits

/-! ## Registers of the hub -/

theorem Canonical.updHub (h : Canonical s) : Canonical (s.updHub f) := h.upd

theorem Canonical.setReg (h : Canonical s) : Canonical (s.setReg pa w) := h.updHub

theorem Canonical.hubErr (h : Canonical s) : Canonical (s.hubErr) := h.updHub

theorem Canonical.setElement (h : Canonical s) : Canonical (s.setElement n x) := h.updHub

theorem Canonical.setExit (h : Canonical s) : Canonical (s.setExit i x) := h.updHub

/-! ## Reads of the hub -/

theorem Canonical.latchTime (h : Canonical s) : Canonical (s.latchTime d) := h.updHub

theorem Canonical.hubRead (h : Canonical s) : Canonical (s.hubRead pa n).1 := by
  unfold State.hubRead
  dsimp only
  split
  · exact (Canonical.ite h.latchTime (.ite h.latchTime h)).hubErr
  · exact .ite h.latchTime (.ite h.latchTime h)

/-! ## Operands -/

theorem Keeps.ready : Keeps (ready reads writes) := .bind .me fun _ => .bind .needW fun _ => .operandsReady

theorem Keeps.supervisor : Keeps (supervisor reads writes) := .bind .needP fun _ => .bind .me fun _ => .needP

theorem Keeps.engineIdle : Keeps (engineIdle) := .bind .me fun _ => .needW

theorem Keeps.engineMemoryDone : Keeps (engineMemoryDone) := .bind .me fun _ => .needW

theorem Keeps.memoryTurn : Keeps (memoryTurn) := .bind .engineMemoryDone fun _ => .bind .me fun _ => .needW

/-! ## Accesses -/

theorem Keeps.scopeFor : Keeps (scopeFor base sc) :=
  .bind .me fun _ => .ite (.ite (.stop (fun _ h => h.setMe)) (.bind .updMe fun _ => .pure)) .pure

theorem Keeps.releaseAt : Keeps (releaseAt sc) := .get_bind fun _ h => .bind .needW fun _ => .set h.release

theorem Keeps.acquireAt : Keeps (acquireAt sc) := .update (fun _ h => h.acquire)

theorem Canonical.keepWords (h : Canonical t) (_ : Canonical s) : Canonical (t.keepWords s) := h.setMe

theorem Keeps.faultCause : Keeps (faultCause code cause addr : M α) := .stop fun _ h => h

theorem Keeps.aligned : Keeps (aligned va n) := .needL

theorem Canonical.askMine (h : Canonical s) : Canonical (s.askMine va) := h.askWalk

theorem Keeps.untranslated : Keeps (untranslated en va : M α) := by
  unfold Machine.untranslated
  split
  · exact .faultCause
  · exact .waitKeep (fun _ h => h.askMine)

theorem Keeps.locate : Keeps (locate need dev va) := by
  refine .get_bind fun s h => ?_
  split
  · next e => exact .untranslated
  · next e => exact .bind (.set (Canonical.of_fst e h.access)) fun _ => .bind .needW fun _ => .pure

theorem Keeps.poisonAt : Keeps (poisonAt etol va) := .ite .updMe .faultP

theorem Keeps.loadSector : Keeps (loadSector l n sec cached) :=
  .get_bind fun _ h => .bind (.set h.readSector) fun _ => .ite (.bind .poisonAt fun _ => .pure) .pure

theorem Keeps.loadAt : Keeps (loadAt l n cached) :=
  .ite (.get_bind fun _ h => .ite (.bind .poisonAt fun _ => .pure) (.bind (.set h.hubRead) fun _ => .pure)) (.bind
    (.mapM fun _ => .loadSector) fun _ => .pure)

theorem Canonical.hubStore (h : Canonical s) : Canonical (s.hubStore pa bs) := .ite h.upd h.upd

theorem Canonical.storeBytes (h : Canonical s) : Canonical (s.storeBytes p c key cached bs via) :=
  h.foldl fun _ _ h => h.storeSector

theorem Canonical.storeFree (h : Canonical s) : Canonical (s.storeFree l bs words).1 :=
  h.foldl fun _ _ h => .ite h.storeBytes h

theorem Keeps.storeAt : Keeps (storeAt l n v) :=
  .ite (.get_bind fun _ h => .bind .needP fun _ => .set h.hubStore) (.get_bind fun _ h => .ite (.set h.storeFree.upd)
    (.bind .needW fun _ => .set h.storeBytes))

theorem Keeps.storesDone : Keeps (storesDone) := by
  refine .get_bind fun s h => ?_
  split
  · exact .updMe
  · exact .waitKeep (fun _ h1 => h.setMe.keepWords h1)

theorem Canonical.dropUntracked (h : Canonical s) : Canonical (s.dropUntracked c sec) := by
  unfold State.dropUntracked
  split
  · exact .ite h.evict h
  · exact h

theorem Keeps.dropOwnU : Keeps (dropOwnU l) := .update (fun _ h => h.dropUntracked)

theorem Keeps.throughU : Keeps (throughU l) := by
  refine .update ?_
  intro _ h
  split
  · exact .ite h.writeBack h
  · exact h

theorem Keeps.lmRange : Keeps (lmRange o n) := .get_bind fun _ _ => .ite .faultP (.bind .needW fun _ => .pure)

theorem Keeps.lmFault : Keeps (lmFault array o : M α) := .stop (fun _ h => h.countLm)

theorem Keeps.lmLoad : Keeps (lmLoad o n) := by
  refine .bind .myCore fun _ => ?_
  split
  · exact .lmFault
  · exact .pure

theorem Keeps.lmStore : Keeps (lmStore o n v) := by
  refine .bind .myCore fun _ => ?_
  split
  · exact .lmFault
  · exact .updCore

/-! ## The engine queue -/

theorem Keeps.engineIssue : Keeps (engineIssue i) :=
  .bind .me fun _ => .bind .needW fun _ => .bind .ready fun _ => .bind .needW fun _ => .bind (.mapM fun _ => .readS)
    fun _ => .get_bind fun _ _ => .updMe

theorem Keeps.engWriteS : Keeps (engWriteS d w) :=
  .bind .me fun _ => .ite (.bind .needW fun _ => .updMe) (.get_bind fun _ _ => .ite .pure (.bind .needW fun _ =>
    .bind .needP fun _ => .writeS))

theorem Keeps.readV : Keeps (readV v) := .bind .me fun _ => .pure

theorem Keeps.writeV : Keeps (writeV v w) := .updMe

/-! ## Scalar instructions -/

theorem Keeps.scalar2 : Keeps (scalar2 f d a b) :=
  .bind .ready fun _ => .bind .readS fun _ => .bind .readS fun _ => .writeS

theorem Keeps.scalar1 : Keeps (scalar1 f d a) := .bind .ready fun _ => .bind .readS fun _ => .writeS

theorem Keeps.scalarInto : Keeps (scalarInto f d a) :=
  .bind .ready fun _ => .bind .readS fun _ => .bind .readS fun _ => .writeS

theorem Keeps.predicate2 : Keeps (predicate2 f d a b) :=
  .bind .ready fun _ => .bind .readS fun _ => .bind .readS fun _ => .writeP

theorem Keeps.predicateOf : Keeps (predicateOf f d c1 c2) := .bind .me fun _ => .writeP

theorem Canonical.execPand (h : Canonical s) : Yields (execPand d x y s) := h.runI .predicateOf

theorem Canonical.execPor (h : Canonical s) : Yields (execPor d x y s) := h.runI .predicateOf

theorem Canonical.execPxor (h : Canonical s) : Yields (execPxor d x y s) := h.runI .predicateOf

theorem Canonical.execPnot (h : Canonical s) : Yields (execPnot d x s) := h.runI .predicateOf

theorem Canonical.execPmov (h : Canonical s) : Yields (execPmov d x s) := h.runI .predicateOf

theorem Keeps.checkTarget : Keeps (checkTarget t) := .bind .needL fun _ => .needP

theorem Keeps.relTarget : Keeps (relTarget off) := .bind .me fun _ => .pure

theorem Keeps.transfer : Keeps (transfer t) := .bind .checkTarget fun _ => .jump

theorem Canonical.execLoop (h : Canonical s) : Yields (execLoop g off s) :=
  h.runI (.bind .ready fun _ => .bind .readS fun _ => .bind .writeS fun _ => .ite .pure (.bind .relTarget fun _ =>
    .transfer))

theorem Keeps.callTo : Keeps (callTo t) :=
  .bind .checkTarget fun _ => .bind .memoryTurn fun _ => .bind .ready fun _ => .bind .me fun _ =>
    .bind .needL fun _ => .bind .needL fun _ => .get_bind fun _ _ => .bind .needP fun _ => .bind .lmRange fun _ =>
    .get_bind fun _ _ => .bind .lmStore fun _ => .bind .writeS fun _ => .jump

theorem Keeps.retOp : Keeps (retOp) :=
  .bind .memoryTurn fun _ => .bind .ready fun _ => .bind .me fun _ => .bind .needL fun _ => .bind .needL fun _ =>
    .get_bind fun _ _ => .bind .needP fun _ => .bind .lmRange fun _ => .bind .lmLoad fun _ =>
    .bind .checkTarget fun _ => .bind .writeS fun _ => .jump

theorem Canonical.execWfe (h : Canonical s) : Yields (execWfe s) := by
  refine h.runI (.get_bind fun s h => ?_)
  split
  · exact .ite .waitOn .updMe
  · exact .ite .pure (.waitKeep (fun _ h => h.setMe))

/-! ## Loads, stores and atomic operations -/

theorem Keeps.scalarLoad : Keeps (scalarLoad o sc n sgn d a imm) :=
  .bind .memoryTurn fun _ => .bind .ready fun _ => .bind .scopeFor fun _ => .bind .readS fun _ =>
    .bind .aligned fun _ => .bind .locate fun _ => .ite_then .dropOwnU fun _ => .bind .loadAt fun _ =>
    .ite_then .acquireAt fun _ => .writeS

theorem Keeps.scalarStore : Keeps (scalarStore o sc n d a imm) :=
  .bind .memoryTurn fun _ => .bind .ready fun _ => .bind .scopeFor fun _ => .bind .readS fun _ =>
    .bind .readS fun _ => .bind .aligned fun _ => .bind .locate fun _ => .ite_then .releaseAt fun _ =>
    .bind .storeAt fun _ => .ite .throughU .pure

theorem Keeps.lmAligned : Keeps (lmAligned o n) := .needL

theorem Keeps.localLoad : Keeps (localLoad n sgn d a imm) :=
  .bind .memoryTurn fun _ => .bind .ready fun _ => .bind .readS fun _ => .bind .lmRange fun _ =>
    .bind .lmAligned fun _ => .bind .lmLoad fun _ => .writeS

theorem Keeps.localStore : Keeps (localStore n d a imm) :=
  .bind .memoryTurn fun _ => .bind .ready fun _ => .bind .readS fun _ => .bind .readS fun _ =>
    .bind .lmRange fun _ => .bind .lmAligned fun _ => .lmStore

theorem Keeps.ldtOp : Keeps (ldtOp scanOnly d a b) :=
  .bind .memoryTurn fun _ => .bind .ready fun _ => .bind .readS fun _ => .bind .readS fun _ =>
    .bind .lmRange fun _ => .bind .lmAligned fun _ => .bind .myCore fun _ => .ite_then .lmFault fun _ =>
    .bind .needL fun _ => .get_bind fun _ _ => .ite (.ite (.bind (.update (fun _ h => h.setPart)) fun _ => .writeS)
    .faultL) (.bind .lmLoad fun _ => .writeS)

theorem Canonical.execStt (h : Canonical s) : Yields (execStt a b s) :=
  h.runI (.bind .memoryTurn fun _ => .bind .ready fun _ => .bind .readS fun _ => .bind .readS fun _ =>
    .bind .lmRange fun _ => .bind .myCore fun _ => .ite_then .lmFault fun _ => .updCore)

theorem Keeps.elemPlace : Keeps (elemPlace lm need n base off) :=
  .ite (.bind .lmRange fun _ => .bind .lmAligned fun _ => .pure) (.bind .aligned fun _ => .locate)

theorem Keeps.elemLoad : Keeps (elemLoad lm n l) := .ite .lmLoad .loadAt

theorem Keeps.elemStore : Keeps (elemStore lm n l v) := .ite .lmStore .storeAt

theorem Keeps.elemLoads : Keeps (elemLoads lm n ls seen) := by
  induction ls generalizing seen with
  | nil => exact .pure
  | cons l ls ih =>
    exact .bind .me fun _ => .bind .elemLoad fun _ => .bind .me fun _ => .ite_then .updMe fun _ => .bind ih fun _ => .pure

theorem Keeps.gather : Keeps (gather lm w base offs) :=
  .bind (.mapM fun _ => .elemPlace) fun _ => .bind .elemLoads fun _ => .pure

theorem Keeps.startVld : Keeps (startVld lm v l) := .bind .elemPlace fun _ => .bind .elemLoad fun _ => .writeV

theorem Keeps.startVst : Keeps (startVst lm v l) :=
  .bind .elemPlace fun _ => .bind .readV fun _ => .bind .elemStore fun _ => .storesDone

theorem Keeps.startVlds : Keeps (startVlds lm t v l) := .bind .gather fun _ => .writeV

theorem Keeps.startVgath : Keeps (startVgath lm t v x l) := .bind .readV fun _ => .bind .gather fun _ => .writeV

theorem Keeps.startVscat : Keeps (startVscat lm t v x l) :=
  .bind .readV fun _ => .bind .readV fun _ => .bind (.mapM fun _ => .elemPlace) fun _ => .bind (.forM fun _ =>
    .elemStore) fun _ => .storesDone

theorem Canonical.execPref (h : Canonical s) : Yields (execPref home a s) := by
  refine h.runI (.bind .ready fun _ => .bind .readS fun _ => .update ?_)
  intro _ h
  split
  · next e1 => exact .ite (Canonical.of_fst e1 h.xlate) (.ite (Canonical.of_fst e1 h.xlate).fetchSector
      (Canonical.of_fst e1 h.xlate).atHome)
  · next e1 => exact h.queueWalk
  · next e1 => exact .of_fst e1 h.xlate

theorem Keeps.barLoc : Keeps (barLoc va) := .bind .aligned fun _ => .locate

theorem Keeps.barPlace : Keeps (barPlace va) := .bind .barLoc fun _ => .pure

theorem Keeps.barValid : Keeps (barValid key part va) :=
  .get_bind fun _ h => .bind (.set h.barAt) fun _ => .bind .needP fun _ => .pure

theorem Keeps.amoPoison : Keeps (amoPoison l raises) :=
  .bind (.update (fun _ h => h.atHome.recallSector)) fun _ => .get_bind fun _ h => .ite (.ite (.bind (.set h.zeroed)
    fun _ => .updMe) (.ite .faultP .pure)) .pure

theorem Keeps.arriveAlone : Keeps (arriveAlone key) := by
  refine .get_bind fun s h => ?_
  split
  · next e => exact .bind (.set (Canonical.of_fst e h.barArrive)) fun _ => .pure
  · next e => exact .faultKeep (fun _ h => h.barArrive)

theorem Canonical.putCombiner (h : Canonical s) : Canonical (s.putCombiner c) := h.setCombiners

theorem Keeps.arrive : Keeps (arrive key) := by
  refine .get_bind fun s h => ?_
  dsimp only
  split
  · exact .arriveAlone
  · refine .ite (.bind .needP fun _ => .ite ?_ (.bind (.set h.putCombiner) fun _ => .pure)) .arriveAlone
    split
    · next e => exact .bind (.set (Canonical.of_fst e h.putCombiner.barArrive)) fun _ => .pure
    · next e => exact .faultKeep (fun _ h => h.putCombiner.barArrive)

theorem Keeps.amoApply : Keeps (amoApply op o sc w32 l cmp' v) :=
  .bind .amoPoison fun _ => .get_bind fun _ h => .bind (.set (h.takeWord (w32 := w32))) fun _ =>
    .ite_else (.update fun _ h => h.putWord) fun _ => .ite_then .acquireAt fun _ => .pure

theorem Keeps.amoFree : Keeps (amoFree op o sc w32 l cmp' v) := by
  refine .get_bind fun s h => ?_
  split
  · exact .ite (.bind .needW fun _ => .bind .amoApply fun _ => .bind (.update (fun _ h1 => h1.amoLeave)) fun _ =>
      .pure) (.waitKeep (fun _ h1 => h1.amoLeave))
  · exact .ite_then .releaseAt fun _ => .bind .dropOwnU fun _ => .get_bind fun _ h1 => .ite .amoApply (.waitKeep
      (fun _ h2 => (h1.keepWords h2).setAmo))

theorem Keeps.amoTraced : Keeps (amoTraced op o sc w32 l v) := by
  refine .get_bind fun s h => ?_
  refine .bind .needP fun x => ?_
  dsimp only
  split
  · split
    · exact .waitOn
    · exact .bind (.update (fun _ h1 => h1.upd)) fun _ => .bind .acquireAt fun _ => .ite_then .acquireAt fun _ =>
        .pure
  · exact .ite_then .releaseAt fun _ => .bind .dropOwnU fun _ => .bind .amoPoison fun _ => .bind .barPlace fun _ =>
      .bind .barValid fun _ => .bind .releaseAt fun _ => .bind .arrive fun _ => .get_bind fun _ h1 => .waitKeep
      (fun _ h2 => (h1.keepWords h2).upd)

theorem Keeps.amoPlace : Keeps (amoPlace ea) := by
  refine .get_bind fun s h => ?_
  dsimp only
  split
  · exact .ite .pure .locate
  · exact .ite .pure .locate

theorem Keeps.amoOp : Keeps (amoOp op o sc w32 d a b) :=
  .bind .memoryTurn fun _ => .bind .ready fun _ => .get_bind fun _ _ => .bind .scopeFor fun _ =>
    .ite_then .updMe fun _ => .ite_bind .readS .pure fun _ => .bind .readS fun _ => .bind .readS fun _ =>
    .bind .me fun _ => .bind .needP fun _ => .bind .aligned fun _ => .bind .amoPlace fun _ =>
    .ite_bind .amoTraced .amoFree fun _ => .writeS

theorem Keeps.redOp : Keeps (redOp op o sc w32 a b) :=
  .bind .memoryTurn fun _ => .bind .ready fun _ => .bind .scopeFor fun _ => .bind .readS fun _ =>
    .bind .readS fun _ => .bind .me fun _ => .bind .needP fun _ => .bind .aligned fun _ => .bind .locate fun _ =>
    .ite_then .releaseAt fun _ => .bind .dropOwnU fun _ => .get_bind fun _ _ => .bind .needW fun _ =>
    .bind .amoPoison fun _ => .update (fun _ h => h.redApply)

theorem Canonical.lineAtHome (h : Canonical s) : Canonical (s.lineAtHome p key) :=
  h.atHome.foldl fun _ _ h => h.meetBad

theorem Canonical.refreshU (h : Canonical s) : Canonical (s.refreshU c key) := by
  refine h.foldl fun s _ h => ?_
  split
  · exact .ite (.ite h.dropL1 h.setL1) h
  · exact h

theorem Canonical.execHgath (h : Canonical s) : Yields (execHgath v a b s) := by
  refine h.runI (.bind .memoryTurn fun _ => .bind .engineIdle fun _ => .bind .ready fun _ => .bind .readS fun _ =>
    .bind .readS fun _ => .bind .aligned fun _ => .bind .locate fun _ => .bind (.update (fun _ h => h.lineAtHome))
    fun _ => .get_bind fun s h => .bind (.set h.refreshU) fun _ => ?_)
  split
  · dsimp only
    split
    · exact .writeV
    · exact .ite_bind .updMe .faultP fun _ => .writeV

/-! ## Barrier and event instructions -/

theorem Canonical.execFence (h : Canonical s) : Yields (execFence o sc s) :=
  h.runI (.bind .memoryTurn fun _ => .bind .scopeFor fun _ => .ite_then .releaseAt fun _ => .ite .acquireAt .pure)

theorem Keeps.barNamed : Keeps (barNamed a) :=
  .bind .readS fun _ => .bind .barPlace fun _ => .bind .me fun _ => .bind .barValid fun _ => .pure

theorem Canonical.execBarArr (h : Canonical s) : Yields (execBarArr d a s) :=
  h.runI (.bind .memoryTurn fun _ => .bind .ready fun _ => .bind .barNamed fun _ => .bind .releaseAt fun _ =>
    .bind .arrive fun _ => .writeS)

theorem Canonical.execBarWait (h : Canonical s) : Yields (execBarWait a b s) :=
  h.runI (.bind .memoryTurn fun _ => .bind .ready fun _ => .bind .barNamed fun _ => .bind .readS fun _ =>
    .bind .needSync fun _ => .acquireAt)

theorem Canonical.execBarAw (h : Canonical s) : Yields (execBarAw d a s) := by
  refine h.runI ?_
  refine .bind .memoryTurn fun x => ?_
  refine .bind .ready fun x => ?_
  refine .bind .barNamed fun x => ?_
  refine .bind .me fun x => ?_
  split
  · exact .bind .needSync fun _ => .bind .acquireAt fun _ => .bind .updMe fun _ => .writeS
  · exact .bind .releaseAt fun _ => .bind .arrive fun _ => .get_bind fun _ h1 => .ite (.waitKeep (fun _ h2 =>
      (h1.keepWords h2).setMe)) (.bind .acquireAt fun _ => .writeS)

theorem Canonical.execBarExp (h : Canonical s) : Yields (execBarExp dereg d a s) := by
  refine h.runI (.bind .memoryTurn fun _ => .bind .ready fun _ => .bind .barNamed fun _ => .get_bind fun s h => ?_)
  dsimp only
  split
  · exact .ite (.ite (.bind (.update (fun _ h => h.leaveCombiner)) fun _ => .writeS) .writeS) (.bind .needW fun _ =>
      .bind (.update (fun _ h => h.putCombiner)) fun _ => .writeS)
  · exact .ite .writeS (.bind (.update (fun _ h => h.setCombiners)) fun _ => .writeS)

theorem Canonical.execBarInit (h : Canonical s) : Yields (execBarInit sc a b c s) :=
  h.runI (.bind .memoryTurn fun _ => .bind .ready fun _ => .bind .scopeFor fun _ => .bind .readS fun _ =>
    .bind .readS fun _ => .bind .readS fun _ => .bind .needP fun _ => .bind .barPlace fun _ => .get_bind fun _ h =>
    .bind .needP fun _ => .set h.barAt.setBar.afterTest)

theorem Canonical.execEvtAdd (h : Canonical s) : Yields (execEvtAdd sc a b s) :=
  h.runI (.bind .memoryTurn fun _ => .bind .ready fun _ => .bind .scopeFor fun _ => .bind .readS fun _ =>
    .bind .readS fun _ => .bind .aligned fun _ => .bind .locate fun _ => .bind .releaseAt fun _ =>
    .bind .dropOwnU fun _ => .get_bind fun _ _ => .bind .needW fun _ => .bind .amoPoison fun _ => .update (fun _ h =>
    h.redApply))

theorem Canonical.watchCounter (h : Canonical s) : Canonical (s.watchCounter key thr) := .ite h.setSlice h

theorem Canonical.execEvtWait (h : Canonical s) : Yields (execEvtWait sc a b s) :=
  h.runI <| .bind .memoryTurn fun _ => .bind .ready fun _ => .bind .scopeFor fun _ => .bind .readS fun _ => .bind .readS fun _ =>
    .bind .aligned fun _ => .bind .locate fun _ => .bind .dropOwnU fun _ => .get_bind fun _ h =>
    .bind (.set (h.takeWord (w32 := false))) fun _ => .ite_bind (.bind .poisonAt fun _ => .pure) .pure fun _ =>
    .ite (.bind (.update fun _ h => h.dropWaits) fun _ => .acquireAt) (.waitKeep fun _ h => h.watchCounter)

theorem Keeps.readyKept : Keeps (readyKept reads writes) := by
  intro s h
  have hr := Keeps.ready (reads := reads) (writes := writes) s h
  unfold Machine.readyKept
  split
  · next e =>
    rw [e] at hr
    exact hr
  · exact hr

theorem Canonical.execWait (h : Canonical s) : Yields (execWait all d a b s) := by
  refine h.runI (.bind .readyKept fun _ => .bind .readS fun _ => .bind .readS fun _ => .get_bind fun s h => ?_)
  dsimp only
  split
  · exact .bind .updMe fun _ => .writeS
  · exact .ite (.bind .updMe fun _ => .writeS) (.ite (.bind .updMe fun _ => .writeS) (.waitKeep (fun _ h => h.setMe)))

theorem Canonical.execRealign (h : Canonical s) : Yields (execRealign beat d s) := by
  refine h.runI (.bind .readyKept fun _ => .get_bind fun s h => .ite .writeS ?_)
  split
  · exact .waitOn
  · exact .waitOn
  · exact .waitOn

/-! ## Cache ranges, pins and frames -/

theorem Canonical.rangeWriteBack (h : Canonical s) : Canonical (s.rangeWriteBack sc key n) :=
  h.foldl fun _ _ h => .ite (h.foldl fun _ _ h => h.writeBack) h

theorem Canonical.rangeClean (h : Canonical s) : Canonical (s.rangeClean key n) := h.upd

theorem Canonical.rangeDrop (h : Canonical s) : Canonical (s.rangeDrop sc key n) :=
  h.foldl fun _ _ h => .ite (h.foldl fun _ _ h => h.evict).setCore h

theorem Canonical.rangeFlushU (h : Canonical s) : Canonical (s.rangeFlushU sc key n) := by
  refine h.foldl fun s _ h => .ite (h.foldl fun s _ h => ?_) h
  split
  · exact .ite h.writeBack h
  · exact h

theorem Canonical.discUnbacked (h : Canonical s) : Canonical (s.discUnbacked key) := h.setSlice

theorem Canonical.filterMem (h : Canonical s) : Canonical { s with mem := s.mem.filter f, poison := q } :=
  Memory.wf_filter f h

theorem Canonical.discardLine (h : Canonical s) : Canonical (s.discardLine key) := by
  unfold State.discardLine
  dsimp only
  have hd {die} : Canonical (State.setDir (((s.dirOf key).cores die).foldl
      (fun s o => (sectorsOf key).foldl (fun s sec => s.dropL1 o sec) s) s) key .unc) :=
    (h.foldl fun _ _ h => h.foldl fun _ _ h => h.dropL1).setDir
  exact .ite (.discUnbacked (.setSlice (.filterMem (.ite hd hd.atHome.markDirty))))
    (.setSlice (.filterMem (.ite hd hd.atHome.markDirty)))

theorem Canonical.rangePage (h : Canonical s) : Canonical (s.rangePage op sc key n) := by
  unfold State.rangePage
  split
  · exact h.rangeWriteBack.rangeClean
  · exact h.rangeDrop
  · exact h.foldl fun _ _ h => h.discardLine

theorem Canonical.rangeRun (h : Canonical s) : Canonical (s.rangeRun op sc need va n fuel).1 := by
  induction fuel generalizing s va n with
  | zero => exact h
  | succ fuel ih =>
    refine .ite_fst h ?_
    split
    · next e => exact .of_fst e h.xlate
    · next e =>
      have ht := Canonical.of_fst e h.xlate
      have hf : ∀ key k, Canonical (if op = 2 then _ else State.rangeFlushU _ sc key k) := fun _ _ => .ite ht ht.rangeFlushU
      exact .ite_fst (ih ht) (.ite_fst h (.ite_fst (hf _ _) (ih (hf _ _).rangePage)))

theorem Keeps.rangeOp : Keeps (rangeOp op sc need a b) := by
  refine .bind .memoryTurn fun x => ?_
  refine .bind .ready fun x => ?_
  refine .bind .me fun x => ?_
  refine .ite_bind .pure .scopeFor fun x => ?_
  refine .ite_then .updMe fun x => ?_
  refine .bind .readS fun x => ?_
  refine .bind .readS fun x => ?_
  refine .ite ?_ ?_
  · refine .bind .aligned fun x => ?_
    refine .bind .needL fun x => ?_
    refine .bind .me fun x => ?_
    refine .get_bind fun s h => ?_
    split
    · next e => exact .bind (.set (Canonical.of_fst e h.rangeRun)) fun _ => .updMe
    · next e => exact .stop (fun _ h2 => ((Canonical.of_fst e h.rangeRun).keepWords h2).setMe)
    · next e => exact .waitKeep (fun _ h2 => ((Canonical.of_fst e h.rangeRun).keepWords h2).setMe.askMine)
    · next e => exact .waitKeep (fun _ h2 => ((Canonical.of_fst e h.rangeRun).keepWords h2).setMe)
  · refine .bind .me fun x => ?_
    refine .get_bind fun s h => ?_
    split
    · next e => exact .bind (.set (Canonical.of_fst e h.rangeRun)) fun _ => .updMe
    · next e => exact .stop (fun _ h2 => ((Canonical.of_fst e h.rangeRun).keepWords h2).setMe)
    · next e => exact .waitKeep (fun _ h2 => ((Canonical.of_fst e h.rangeRun).keepWords h2).setMe.askMine)
    · next e => exact .waitKeep (fun _ h2 => ((Canonical.of_fst e h.rangeRun).keepWords h2).setMe)

theorem Canonical.clearBlock (h : Canonical s) : Canonical (s.clearBlock n place) := h.foldl fun _ _ h => h.evictLine

theorem Canonical.reserveFrames (h : Canonical s) : Canonical (s.reserveFrames p n k) :=
  .ite h (h.foldl fun _ _ h => h.clearBlock).setSlice

theorem Canonical.releaseFrames (h : Canonical s) : Canonical (s.releaseFrames p n k) := h.setSlice

theorem Keeps.reservation (hf : ∀ s p n k, Canonical s → Canonical (f s p n k)) : Keeps (reservation f d a b) :=
  .bind .engineMemoryDone fun _ => .bind .ready fun _ => .bind .readS fun _ => .bind .readS fun _ => .bind .needP fun _ =>
    .bind .me fun _ => .bind (.update fun _ h => hf _ _ _ _ h) fun _ => .get_bind fun _ _ => .writeS

theorem Canonical.pinLine (h : Canonical s) : Canonical (s.pinLine p key).1 := by
  unfold State.pinLine
  dsimp only
  split
  · exact h
  · split
    · exact h
    · exact h.meetBad.placeLine.setSlice

theorem Canonical.unpinLine (h : Canonical s) : Canonical (s.unpinLine p key).1 := by
  unfold State.unpinLine
  dsimp only
  split
  · refine .ite_fst ?_ h
    split
    · exact h.setSlice.placeLine
    · exact h.setSlice
  · exact h

theorem Keeps.translateOnly : Keeps (translateOnly need va) := by
  refine .get_bind fun s h => ?_
  split
  · next e => exact .untranslated
  · next e => exact .bind (.set (Canonical.of_fst e h.xlate)) fun _ => .bind .needW fun _ => .pure

theorem Keeps.pinOp (hf : ∀ s p key, Canonical s → Canonical (f s p key).1) : Keeps (pinOp f d a) :=
  .bind .engineMemoryDone fun _ => .bind .ready fun _ => .bind .readS fun _ => .bind .translateOnly fun _ =>
    .ite .writeS (.get_bind fun _ h => .bind (.set (hf _ _ _ h)) fun _ => .writeS)

theorem Canonical.execPgProbe (h : Canonical s) : Yields (execPgProbe d a s) := by
  refine h.runI (.bind .engineMemoryDone fun _ => .bind .ready fun _ => .bind .readS fun _ => .get_bind fun s h => ?_)
  split
  · next e1 => exact .untranslated
  · next e1 => exact .bind (.set (Canonical.of_fst e1 h.leafFor)) fun _ => .writeS
  · next e1 => exact .bind (.set (Canonical.of_fst e1 h.leafFor)) fun _ => .writeS

theorem Canonical.shoot1 (h : Canonical s) : Canonical (s.shoot1 d) := h.upd

theorem Canonical.execTlbInv (h : Canonical s) : Yields (execTlbInv kind sc a b c s) := by
  refine h.runI (.bind .supervisor fun _ => .bind .memoryTurn fun _ => .bind .ready fun _ => .bind .scopeFor fun _ =>
    .bind .readS fun _ => .bind .readS fun _ => .bind .readS fun _ => .bind .barPlace fun _ =>
    .bind .barValid fun _ => .bind .releaseAt fun _ => .get_bind fun s h => ?_)
  dsimp only
  split
  · exact .waitOn
  · next e1 => exact .set (h.barCredit _ e1).upd

theorem Canonical.shootdownDebit (h : Canonical s) : Canonical (s.shootdownDebit cluster) := by
  unfold State.shootdownDebit
  split
  · exact h
  · refine .ite (Canonical.ite h.shoot1 h).upd ?_
    dsimp only
    split
    · exact (Canonical.ite h.shoot1 h).upd.barDebit
    · exact (Canonical.ite h.shoot1 h).upd

theorem Canonical.shootPage (h : Canonical s) : Canonical (s.shootPage part asn vpn) := h.foldl fun _ _ h => h.shoot1

theorem Canonical.evictPage (h : Canonical s) : Canonical (s.evictPage key) :=
  h.foldl fun _ _ h => h.foldl fun _ _ h => h.evict

theorem Canonical.meetPage (h : Canonical s) : Canonical (s.meetPage key dirty) :=
  h.setSlice.foldl fun _ _ h => .ite h.setPoison h

theorem Canonical.moveBytes (h : Canonical s) : Canonical (s.moveBytes src' dest n) := moveBytes_canonical _ _ _ h

theorem Canonical.swapLeaf (h : Canonical s) : Gives (s.swapLeaf pa old new) := by
  unfold State.swapLeaf
  split
  next e => exact .ite (.some (Canonical.of_fst e h.tableEntry).physWrite) .none

theorem Canonical.rekey (h : Canonical s) : Canonical (s.rekey f) :=
  (h.upd.foldl fun _ _ h => h.setSlice).foldl fun _ _ h => h.setAmo

theorem Canonical.migrate (h : Canonical s) : Gives (s.migrate part asn vpn target) := by
  unfold State.migrate
  split
  · exact .none
  · refine .ite .none ?_
    split
    · exact .none
    · dsimp only
      split
      · exact .none
      · next e => exact .some (h.evictPage.swapLeaf _ e).meetPage.moveBytes.setSlice.setSlice.shootPage.rekey

theorem Canonical.execUbMig (h : Canonical s) : Yields (execUbMig d a b s) := by
  refine h.runI (.bind .supervisor fun _ => .bind .engineMemoryDone fun _ => .bind .ready fun _ =>
    .bind .readS fun _ => .bind .readS fun _ => .bind .needP fun _ => .get_bind fun s h => ?_)
  split
  · exact .writeS
  · next e1 => exact .bind (.set (h.migrate _ e1)) fun _ => .writeS

/-! ## Copy commands -/

theorem Keeps.cpBlock : Keeps (cpBlock c) := .bind .me fun _ => .pure

theorem Keeps.accept : Keeps (accept kindOf twoD a b c) := by
  refine .bind .memoryTurn fun _ => .bind .needP fun _ => .bind .ready fun _ => .bind .me fun _ => .bind .cpBlock fun _ =>
    .bind .needW fun _ => .bind .readS fun _ => .bind .readS fun _ => ?_
  extract_lets c0 rows
  split
  · exact .faultP
  · refine .bind .needP fun _ => .bind .barLoc fun _ => .bind .barValid fun _ => .get_bind fun s h =>
      .bind .needP fun _ => ?_
    extract_lets finish checkElement checkLm checkSet
    have hf : ∀ x, Keeps (finish x) := fun _ => .updMe
    have he : ∀ x, Keeps (checkElement x) := by
      refine fun _ => .bind .needP fun _ => .ite ?_ (hf ⟨⟩)
      split
      · exact .bind .waitOn hf
      · next e => exact .bind (.set (h.barCredit _ e)) hf
    have hl : ∀ x, Keeps (checkLm x) := by
      intro x
      unfold checkLm
      split
      · exact .bind .faultP he
      · exact he ⟨⟩
    have hs : ∀ x, Keeps (checkSet x) := fun _ => .ite (.bind .faultP hl) (hl ⟨⟩)
    split
    · exact .bind .faultP hs
    · exact hs ⟨⟩

theorem Canonical.carterRead (h : Canonical s) : Canonical (s.carterRead core' key n).1 := by
  unfold State.carterRead
  dsimp only
  split
  · exact h.meetL1.meetBad.recallAny
  · exact h.meetL1.meetBad.recallAny

theorem Lands.cpReadGlobal (h : Canonical s) : Lands (fun r => Canonical r.st) (s.cpReadGlobal gs ptroot va n) := by
  refine .foldlM h fun r p hr => ?_
  split
  · trivial
  · trivial
  · next e =>
    have ht := Canonical.of_fst e hr.access
    exact .ite trivial (.ite (.ite ht.carterRead ht.carterRead) ht.carterRead)

theorem Lands.cpRead (h : Canonical s) : Lands (fun r => Canonical r.st) (s.cpRead gs c a d n) := by
  unfold State.cpRead
  dsimp only
  split
  · exact h
  · exact h
  · refine .ite trivial (.ite trivial ?_)
    split
    · trivial
    · exact h
  · exact .ite trivial (.cpReadGlobal h)

theorem Lands.cpWriteGlobal (h : Canonical s) :
    Lands (fun r => Canonical r.1) (s.cpWriteGlobal gs ptroot va bs bad late) := by
  refine .foldlM h fun r p hr => ?_
  split
  · trivial
  · trivial
  · next e =>
    have ht := Canonical.of_fst e hr.access
    exact .ite trivial (Canonical.ite (.setPoison (.foldl ht.dropUntracked fun _ _ h => h.crossWrite))
      (.foldl ht.dropUntracked fun _ _ h => h.crossWrite))

theorem Lands.cpWrite (h : Canonical s) : Lands Canonical (s.cpWrite gs c d r row col) := by
  unfold State.cpWrite
  dsimp only
  split
  · exact h
  · exact .ite trivial h.upd
  · refine .ite trivial (.ite trivial (.ite trivial (.ite trivial ?_)))
    split
    · trivial
    · exact h.setCore
  · refine .ite trivial ?_
    split
    · next e => exact (Lands.cpWriteGlobal h).of_error e
    · next e => exact (Lands.cpWriteGlobal h).of_ok e
    · next e => exact (Lands.cpWriteGlobal h).of_ok e

theorem Carried.at (h : Carried e) : Carried (e.at a) := by
  cases e <;> exact h

theorem Carried.cpChunk (h : Canonical s) : Carried (s.cpChunk gs c unit) := by
  unfold State.cpChunk
  dsimp only
  split
  · next e => exact ((Lands.cpRead h).of_error e).at
  · next e =>
    have hr := (Lands.cpRead h).of_ok e
    split
    · trivial
    · next e => exact ((Lands.cpWrite hr).of_error e).at
    · next e => exact Canonical.setSlot ((Lands.cpWrite hr).of_ok e)

theorem Canonical.raiseDeferred (h : Canonical s) : Canonical (s.raiseDeferred gs f) := h.setSlot.upd

theorem Canonical.setCp (h : Canonical s) : Canonical (s.setCp gs f) := h.setSlot

theorem Canonical.cpHold (h : Canonical s) : Canonical (s.cpHold gs c code fault addr) := h.setCp.raiseDeferred

theorem Canonical.cpDone (h : Canonical s) : Canonical (s.cpDone gs) := h.setCp.signal

theorem Canonical.cpStops (h : Canonical s) (he : Carried e) : Canonical (s.cpStops gs c e) := by
  cases e with
  | waits => exact h
  | landed t => exact h
  | late t ws => exact he.setCp
  | walks va => exact h.askWalk
  | held code fault addr => exact h.cpHold.signal
  | badLm core o addr => exact h.countLm.cpHold.signal
  | closed code => exact h.closeDebit.setCp.cpDone

theorem Canonical.cpLanded (h : Canonical s) : Canonical (s.cpLanded gs c n) :=
  .ite h.barDebit.setCp.cpHold.signal (.ite h.barDebit.setCp.cpDone h.barDebit.setCp)

theorem Canonical.carterTurn (h : Canonical s) : Canonical (s.carterTurn gs) := by
  unfold State.carterTurn
  dsimp only
  split
  · exact h.setCore
  · exact h.setCore
  · next c _ _ _ =>
    have hs := h.setCore (c := gs / 16) (k := { s.core (gs / 16) with cpLast := gs % 16 })
    have hc := Carried.cpChunk hs (gs := gs) (c := c) (unit := 64)
    refine .ite hs (.ite hs.cpDone ?_)
    split
    · next e => exact (e ▸ hc : Carried (.landed _)).forgetWalks.cpLanded
    · exact hs.cpStops trivial
    · exact hs
    · next e => rw [e] at hc; exact hs.cpStops hc
    · exact hs.forgetWalks.cpStops hc

theorem Canonical.endOnBank (h : Canonical s) : Canonical (s.endOnBank p c b) := by
  refine h.foldl fun s gs h => ?_
  dsimp only
  split
  · exact h
  · exact h
  · refine .ite h ?_
    split
    · exact h.forgetWalks.cpStops trivial
    · exact h

/-! ## Vector instructions -/

theorem Keeps.rounding : Keeps (rounding) := .bind .me fun _ => .pure

theorem Keeps.writeLanes : Keeps (writeLanes w d l) := .bind .writeV fun _ => .raiseFlags

theorem Keeps.lanes1 : Keeps (lanes1 w f d a) := .bind .rounding fun _ => .bind .readV fun _ => .writeLanes

theorem Keeps.lanes2 : Keeps (lanes2 w f d a b) :=
  .bind .rounding fun _ => .bind .readV fun _ => .bind .readV fun _ => .writeLanes

theorem Keeps.startVAdd : Keeps (startVAdd sat t d a b x) := .lanes2

theorem Keeps.startVSub : Keeps (startVSub sat t d a b x) := .lanes2

theorem Keeps.startVMul : Keeps (startVMul t d a b x) := .lanes2

theorem Keeps.startVMin : Keeps (startVMin t d a b x) := .lanes2

theorem Keeps.startVMax : Keeps (startVMax t d a b x) := .lanes2

theorem Keeps.startVAbs : Keeps (startVAbs sat t d a x) := .lanes1

theorem Keeps.startVNeg : Keeps (startVNeg sat t d a x) := .lanes1

theorem Keeps.startVRcp : Keeps (startVRcp d a x) := .lanes1

theorem Keeps.startVRsq : Keeps (startVRsq d a x) := .lanes1

theorem Keeps.startVSqrt : Keeps (startVSqrt d a x) := .lanes1

theorem Keeps.startVExp2 : Keeps (startVExp2 d a x) := .lanes1

theorem Keeps.startVLog2 : Keeps (startVLog2 d a x) := .lanes1

theorem Keeps.fused : Keeps (fused f d a b x) :=
  .bind .rounding fun _ => .bind .readV fun _ => .bind .readV fun _ => .bind .readV fun _ => .writeLanes

theorem Keeps.bitwise2 : Keeps (bitwise2 f d a b x) := .bind .readV fun _ => .bind .readV fun _ => .writeV

theorem Keeps.startShift : Keeps (startShift f t d a b x) := .lanes2

theorem Keeps.startVCmp : Keeps (startVCmp r t d a b x) := .lanes2

theorem Keeps.startVSel : Keeps (startVSel d a b x) :=
  .bind .readV fun _ => .bind .readV fun _ => .bind .readV fun _ => .writeV

theorem Keeps.startVRed : Keeps (startVRed f t d a x) :=
  .bind .rounding fun _ => .bind .readV fun _ => .bind .writeV fun _ => .raiseFlags

theorem Keeps.startVBcast : Keeps (startVBcast t d l) := .writeV

theorem Keeps.startVExt : Keeps (startVExt t d a l) := .bind .readV fun _ => .engWriteS

theorem Keeps.startVIns : Keeps (startVIns t d l) := .bind .readV fun _ => .writeV

theorem Keeps.startVPerm : Keeps (startVPerm d a b x) := .bind .readV fun _ => .bind .readV fun _ => .writeV

theorem Keeps.startVCvt : Keeps (startVCvt dst src' d a x) :=
  .bind .rounding fun _ => .bind .readV fun _ => .writeLanes

theorem Keeps.startVPack : Keeps (startVPack dst src' d a b x) :=
  .bind .rounding fun _ => .bind .readV fun _ => .bind .readV fun _ => .writeLanes

theorem Keeps.startVUnpk : Keeps (startVUnpk dst src' d a hd x) :=
  .bind .rounding fun _ => .bind .readV fun _ => .writeLanes

theorem Keeps.startVScl : Keeps (startVScl inv d a l) :=
  .bind .rounding fun _ => .bind .readV fun _ => .ite (.bind .writeV fun _ => .raiseFlags) .writeLanes

theorem Keeps.useBank : Keeps (useBank b) := by
  refine .get_bind fun s h => .bind .needP fun _ => ?_
  dsimp only
  split
  · exact .faultL
  · exact .waitOn
  · exact .pure

theorem Keeps.vBank : Keeps (vBank) := .bind .me fun _ => .useBank

theorem Keeps.startDec : Keeps (startDec w d a hd x) :=
  .bind .vBank fun _ => .bind .me fun _ => .bind .readV fun _ => .writeV

theorem Keeps.startEnc : Keeps (startEnc w d a hd x) :=
  .bind .vBank fun _ => .bind .needL fun _ => .bind .me fun _ => .bind .readV fun _ => .bind .readV fun _ =>
    .bind .writeV fun _ => .raiseFlags

/-! ## Matrix instructions -/

theorem Keeps.descCheck : Keeps (descCheck w) := .bind .needP fun _ => .ite (.bind .useBank fun _ => .pure) .pure

theorem Keeps.kCheck : Keeps (kCheck k elems) := .needP

theorem Keeps.accCheck : Keeps (accCheck m) := .get_bind fun _ _ => .needP

theorem Keeps.operandChecks : Keeps (operandChecks ops) :=
  .bind (.forM fun _ => .forM fun _ => .needL) fun _ => .bind (.mapM fun _ => .bind .lmRange fun _ => .pure) fun _ =>
    .forM fun _ => .bind .lmLoad fun _ => .pure

theorem Keeps.tileReady : Keeps (tileReady m) := .bind .myCore fun _ => .needW

theorem Keeps.enterUnit : Keeps (enterUnit m cycles elems) := .get_bind fun _ _ => .updCore

theorem Keeps.unitFree : Keeps (unitFree) := .get_bind fun _ _ => .needW

theorem Keeps.holderCheck : Keeps (holderCheck) := .get_bind fun _ _ => .needP

theorem Canonical.budgetNamed (h : Canonical s) : Canonical (s.budgetNamed gs) := h.upd

theorem Canonical.resume (h : Canonical s) : Canonical (s.resume gs) :=
  .ite (Canonical.ite h.setSlot.budgetNamed h.setSlot).setCore (.ite h.setSlot.budgetNamed h.setSlot)

theorem Canonical.budgetReady (h : Canonical s) : Canonical (s.budgetReady gs) := by
  unfold State.budgetReady
  split
  · exact .ite h.resume h
  · exact h

theorem Canonical.stopNow (h : Canonical s) : Canonical (s.stopNow gs) := by
  unfold State.stopNow
  split
  · exact .ite h h.parkSlot.budgetReady
  · exact h

theorem Canonical.execMatrixStepComplete (h : Canonical s) : Yields (execMatrixStepComplete core' s) := by
  refine .next ?_
  split
  · exact h.setCore.stopNow
  · exact h

theorem Keeps.headTile : Keeps (headTile) := by
  refine .bind .updCore fun _ => .bind .myCore fun _ => ?_
  split
  · exact .pure
  · exact .bind .needW fun _ => .faultL

theorem Keeps.sendFree : Keeps (sendFree) := .bind .myCore fun _ => .needW

theorem Keeps.sendHead : Keeps (sendHead second t) := .bind .me fun _ => .get_bind fun _ _ => .updCore

theorem Keeps.dispose : Keeps (dispose disp second t) := by
  unfold Machine.dispose
  split
  · exact .sendHead
  · exact .updCore
  · exact .pure

theorem Keeps.startMLatch : Keeps (startMLatch l) :=
  .bind .holderCheck fun _ => .bind .me fun _ => .bind .descCheck fun _ => .bind .needP fun _ =>
    .bind .kCheck fun _ => .bind .operandChecks fun _ => .bind .updCore fun _ => .bind .myCore fun _ =>
    .get_bind fun _ _ => .bind .needW fun _ => .bind .needL fun _ => .updCore

theorem Keeps.bothDescs : Keeps (bothDescs x k m) :=
  .bind .descCheck fun _ => .bind .descCheck fun _ => .bind .needP fun _ => .bind .kCheck fun _ => .accCheck

theorem Keeps.startMStep : Keeps (startMStep disp m l) :=
  .bind .holderCheck fun _ => .bind .me fun _ => .bind .bothDescs fun _ => .bind .operandChecks fun _ =>
    .bind .headTile fun _ => .bind .unitFree fun _ => .ite_then .sendFree fun _ => .bind .myCore fun _ =>
    .bind .needL fun _ => .bind .needL fun _ => .bind .enterUnit fun _ => .dispose

theorem Keeps.startMLocal : Keeps (startMLocal m l) :=
  .bind .me fun _ => .bind .bothDescs fun _ => .bind .operandChecks fun _ => .bind .unitFree fun _ =>
    .bind .myCore fun _ => .enterUnit

theorem Keeps.startMPass : Keeps (startMPass x) :=
  .bind .holderCheck fun _ => .bind .headTile fun _ => .bind .sendFree fun _ => .sendHead

theorem Keeps.startMClr : Keeps (startMClr m x) := .bind .accCheck fun _ => .bind .tileReady fun _ => .updCore

theorem Keeps.startMRd : Keeps (startMRd v m l) :=
  .bind .accCheck fun _ => .bind .tileReady fun _ => .bind .myCore fun _ => .writeV

theorem Keeps.startMWr : Keeps (startMWr m v l) :=
  .bind .accCheck fun _ => .bind .tileReady fun _ => .bind .readV fun _ => .updCore

theorem Keeps.matrixQuiet : Keeps (matrixQuiet) := .get_bind fun _ _ => .bind .needW fun _ => .needW

theorem Keeps.startMSync : Keeps (startMSync x) := .matrixQuiet

theorem Keeps.startMRing : Keeps (startMRing leave d l) :=
  .get_bind fun _ _ => .ite (.bind .matrixQuiet fun _ => .ite (.bind .updCore fun _ => .engWriteS) .engWriteS)
    (.bind .needP fun _ => .ite .engWriteS (.bind .updCore fun _ => .bind .updMe fun _ => .engWriteS))

theorem Keeps.startMStat : Keeps (startMStat d x) := .get_bind fun _ _ => .engWriteS

theorem Canonical.tileArrive (h : Canonical s) : Canonical (s.tileArrive core' src') := by
  unfold State.tileArrive
  split
  · exact h
  · refine .ite ?_ h
    dsimp only
    split
    · split
      · exact h.setCore
      · exact h.setCore.raiseDeferred
    · exact .ite (.ite h.setCore.setCore h) (.ite h.setCore.setCore h.setCore.setCore)

/-! ## Messages, trees and links -/

theorem Canonical.updLaunch (h : Canonical s) : Canonical (s.updLaunch k f) := h.upd

theorem Canonical.addSent (h : Canonical s) : Canonical (s.addSent k) := by
  unfold State.addSent
  split
  · exact h.updLaunch
  · exact h

theorem Canonical.addRecv (h : Canonical s) : Canonical (s.addRecv k) := by
  unfold State.addRecv
  split
  · exact h.updLaunch
  · exact h

theorem Canonical.execMsgSend (h : Canonical s) : Yields (execMsgSend o sc a b s) :=
  h.runI (.ite_then .memoryTurn fun _ => .bind .ready fun _ => .bind .scopeFor fun _ => .bind .readS fun _ =>
    .bind .readS fun _ => .bind .me fun _ => .bind .needP fun _ => .bind .needW fun _ =>
    .ite_then .releaseAt fun _ => .get_bind fun _ _ => .bind .updMe fun _ => .update (fun _ h => h.addSent))

theorem Canonical.execMsgInfo (h : Canonical s) : Yields (execMsgInfo d s) := by
  refine h.runI (.bind .ready fun _ => .bind .me fun _ => ?_)
  split
  · exact .waitOn
  · exact .writeS

theorem Canonical.saveInbox (h : Canonical s) : Canonical (s.saveInbox p gs x) := by
  unfold State.saveInbox
  split
  · exact h.physWrite.physWrite
  · exact h

theorem Canonical.setSlotFor (h : Canonical s) : Canonical (s.setSlotFor p gs x) := by
  unfold State.setSlotFor
  split
  · exact h.upd.saveInbox
  · exact h.setSlot

theorem Canonical.dropFlight (h : Canonical s) : Canonical (s.dropFlight gs i) := h.setSlot

theorem Canonical.setFlight (h : Canonical s) : Canonical (s.setFlight gs i f) := h.setSlot

theorem Canonical.deliver (h : Canonical s) : Canonical (s.deliver gs i f) := h.dropFlight.addRecv.setSlotFor

theorem Canonical.bounceEnters (h : Canonical s) : Canonical (s.bounceEnters gs i f) :=
  .ite (.ite h.dropFlight.addRecv.staleTin h.setFlight) (.ite h.dropFlight.addRecv.setSlotFor h.setFlight)

theorem Canonical.judge (h : Canonical s) : Canonical (s.judge gs i f) := by
  refine .ite h.setFlight ?_
  split
  · exact h.deliver
  · exact h.setFlight
  · exact h.setFlight

theorem Canonical.messageArrive (h : Canonical s) : Canonical (s.messageArrive gs) := by
  unfold State.messageArrive
  split
  · exact h
  · exact h.judge

theorem Canonical.execMessageTimeout (h : Canonical s) : Yields (execMessageTimeout gs s) := by
  refine .next ?_
  split
  · exact h.setFlight
  · exact h

theorem Canonical.execBounceArrival (h : Canonical s) : Yields (execBounceArrival gs s) := by
  refine .next ?_
  split
  · exact h.bounceEnters
  · exact h

theorem Canonical.execQstat (h : Canonical s) : Yields (execQstat tree d a s) :=
  h.runI (.bind .ready fun _ => .ite (.bind .readS fun _ => .bind .myCore fun _ => .writeS) (.bind .me fun _ =>
    .writeS))

theorem Canonical.setTree (h : Canonical s) : Canonical (s.setTree core' t n) := h.setCore

theorem Canonical.treeCredit (h : Canonical s) : Canonical (s.treeCredit t children) := h.upd

theorem Canonical.treeAdvance (h : Canonical s) : Canonical (s.treeAdvance core' t) :=
  .ite h.treeCredit.setTree.signal h.treeCredit.setTree.upd

theorem Canonical.treeSettle (h : Canonical s) : Canonical (s.treeSettle c t fuel) := by
  induction fuel generalizing s with
  | zero => exact h
  | succ fuel ih => exact .ite (ih h.treeAdvance.setTree) h

theorem Canonical.treeArrive (h : Canonical s) : Canonical (s.treeArrive core' p) :=
  (Canonical.ite h.treeCredit h).setTree.treeSettle

theorem Canonical.treeExpire (h : Canonical s) : Canonical (s.treeExpire core' t) :=
  (Canonical.ite h.setTree h).treeSettle

theorem Keeps.startRedPkt : Keeps (startRedPkt v l) :=
  .bind .needP fun _ => .get_bind fun _ _ => .bind .needP fun _ => .bind .needP fun _ => .bind .needP fun _ =>
    .bind .needW fun _ => .bind .readV fun _ => .bind .readV fun _ => .update (fun _ h => h.setTree.treeSettle)

theorem Canonical.freeResult (h : Canonical s) : Canonical (s.freeResult core' t) := h.setTree.treeSettle

theorem Keeps.startRedRecv : Keeps (startRedRecv miss v d l) := by
  refine .bind .needP fun _ => .get_bind fun s h => .bind .needP fun _ => .bind .needP fun _ => ?_
  split
  · exact .waitOn
  · exact .ite (.bind .writeV fun _ => .engWriteS) (.bind .writeV fun _ => .bind .writeV fun _ => .bind (.update
      (fun _ h => h.freeResult)) fun _ => .engWriteS)

theorem Canonical.execTreeSet (h : Canonical s) : Yields (execTreeSet a b s) := by
  refine h.runI (.bind .ready fun _ => .bind .readS fun _ => .bind .readS fun _ => .bind .needP fun _ =>
    .get_bind fun s h => .bind .needP fun _ => .ite ?_ (.bind .needP fun _ => .bind (.update (fun _ h =>
    h.treeCredit)) fun _ => .updCore))
  split
  · exact .bind .faultP fun _ => .bind (.update (fun _ h => h.treeCredit)) fun _ => .updCore
  · exact .bind (.update (fun _ h => h.treeCredit)) fun _ => .updCore

theorem Canonical.execRteSet (h : Canonical s) : Yields (execRteSet a b s) := by
  refine h.runI (.bind .ready fun _ => .bind .readS fun _ => .bind .readS fun _ => .bind .needP fun _ =>
    .get_bind fun s h => ?_)
  split
  · exact .faultP
  · exact .updCore

theorem Canonical.putWordOn (h : Canonical s) : Canonical (s.putWordOn core' link cycle o) := by
  unfold State.putWordOn
  split
  · exact h
  · exact h.setCore

theorem Canonical.pisteFault (h : Canonical s) : Canonical (s.pisteFault core' slot code cause addr srcCore cycle) :=
  .ite h.raiseDeferred h

theorem Canonical.injectTile (h : Canonical s) : Canonical (s.injectTile core' nxm).1 := by
  unfold State.injectTile
  dsimp only
  split
  · exact h
  · exact h.setCore

theorem Canonical.injectHalf (h : Canonical s) : Canonical (s.injectHalf gs i bounce nxm).1 := by
  unfold State.injectHalf
  split
  · exact h
  · exact h.setFlight

theorem Lands.readPiece {r : CpRead} (h : Canonical r.st) : Lands (fun r => Canonical r.st)
    (match r.st.cpRead gs c a d n with
      | .error e => .error (e.at a)
      | .ok q => .ok { q with bytes := r.bytes ++ q.bytes }) := by
  split
  · next e => exact ((Lands.cpRead h).of_error e).at
  · next e =>
    have hq := (Lands.cpRead h).of_ok e
    exact hq

theorem Canonical.injectCarter (h : Canonical s) : Canonical (s.injectCarter core' gs nxm).1 := by
  unfold State.injectCarter
  dsimp only
  split
  · exact h
  · exact h
  · refine .ite_fst (.ite_fst (h.cpStops trivial) ?_) h
    split
    · next e => exact h.cpStops ((Lands.foldlM (P := fun r => Canonical r.st) h fun _ _ hr =>
        .readPiece hr).of_error e)
    · next e => exact .setCp ((Lands.foldlM (P := fun r => Canonical r.st) h fun _ _ hr => .readPiece hr).of_ok e)

theorem Canonical.injectLm (h : Canonical s) : Canonical (s.injectLm core' slot cycle en).1 := by
  refine .ite_fst h.setCore.pisteFault ?_
  split
  · exact h.countLm.pisteFault
  · exact h

theorem Canonical.injectWord (h : Canonical s) : Canonical (s.injectWord core' cycle en).1 := by
  unfold State.injectWord
  dsimp only
  split
  · split
    · exact h
    · exact h.setSlot
  · exact h.injectLm
  · exact h.injectCarter
  · split
    · exact h
    · exact h.injectTile
    · exact h.injectHalf

theorem Canonical.pisteInject (h : Canonical s) : Canonical (s.pisteInject core') :=
  .ite h.setCore.injectWord.setCore.putWordOn h.setCore

theorem Canonical.tagAdvance (h : Canonical s) : Canonical (s.tagAdvance core' en) := .ite h.setSlot h

theorem Canonical.blockEnd (h : Canonical s) : Canonical (s.blockEnd core' en hole owned).1 := .ite_fst h.tagAdvance h

theorem Canonical.landLater (h : Canonical s) : Canonical (s.landLater core' l) := .ite h h.setCore

theorem Canonical.pisteLanded (h : Canonical s) : Canonical (s.pisteLanded core' p) := by
  unfold State.pisteLanded
  split
  · exact h
  · exact .ite (Canonical.ite h.setCore h).cpLanded h

theorem Canonical.land (h : Canonical s) : Canonical (s.land core' l) := by
  unfold State.land
  dsimp only
  split
  · exact h.setCore.pisteLanded
  · exact h.setCore

theorem Canonical.landAll (h : Canonical s) : Canonical (s.landAll core') := h.setCore.foldl fun _ _ h => h.land

theorem Canonical.halfArrives (h : Canonical s) : Canonical (s.halfArrives core' gs num bounce) := by
  refine .ite h.setCore ?_
  split
  · exact h.setCore
  · exact h.setCore.setFlight

theorem Canonical.niArrives (h : Canonical s) : Canonical (s.niArrives core' w) := by
  unfold State.niArrives
  split
  · exact h.halfArrives
  · dsimp only
    split
    · exact .ite h.setCore h
    · exact h

theorem Canonical.deposit (h : Canonical s) : Canonical (s.deposit core' i en w) := by
  refine .ite (.ite h.setCore (.ite h.setCore.blockEnd.landLater.setCore h.setCore.setCore)) ?_
  split
  · exact .ite h.setSlot.signalNext.setCore h.setCore.pisteFault.setCore
  · exact .ite h.setCore.pisteFault.blockEnd.landLater.setCore (.ite h.setCore.blockEnd.landLater.setCore
      (.ite h.setCore.pisteFault.blockEnd.landLater.setCore h.blockEnd.landLater.setCore))
  · dsimp only
    split
    · exact h.setCore.niArrives
    · exact h.setCore
  · exact h.setCore

theorem Canonical.pisteWord (h : Canonical s) : Canonical (s.pisteWord core' w) :=
  .ite h.setCore.setCore (.ite h.setCore.deposit h.setCore.deposit.putWordOn)

theorem Canonical.pisteArrive (h : Canonical s) : Canonical (s.pisteArrive core' link) := by
  unfold State.pisteArrive
  split
  · exact h
  · exact h.setCore.pisteWord

/-! ## Windows -/

theorem Canonical.setWindow (h : Canonical s) : Canonical (s.setWindow c w x) := h.setCore

theorem Canonical.stopWindow (h : Canonical s) : Canonical (s.stopWindow c w cfg) :=
  ((h.foldl fun _ _ h => h.setExit).foldl fun _ _ h => h.setExit).setWindow

theorem Canonical.swcfg (h : Canonical s) : Canonical (s.swcfg c w v) :=
  .ite h.setWindow (.ite h.setWindow.upd (.ite h.stopWindow h.setWindow))

theorem Canonical.swrel (h : Canonical s) : Canonical (s.swrel c slot w v) := .ite h.setWindow.upd h.setWindow

theorem Canonical.swstat (h : Canonical s) : Canonical (s.swstat c w v) := h.setWindow

/-! ## Ingress -/

theorem Canonical.tsnCount (h : Canonical s) : Canonical (s.tsnCount pa) := h.setReg

theorem Canonical.meter (h : Canonical s) : Canonical (s.meter m bytes).1 :=
  .ite_fst h.updHub (.ite_fst h.updHub h.updHub)

theorem Canonical.metered (h : Canonical s) : Canonical (s.metered f bytes).1 := by
  refine .ite_fst h (.ite_fst h.tsnCount ?_)
  split
  · next e => exact .of_fst e h.meter
  · next e => exact (Canonical.of_fst e h.meter).tsnCount
  · next e => exact .ite (Canonical.of_fst e h.meter).tsnCount.updHub (Canonical.of_fst e h.meter).tsnCount

theorem Canonical.latentTest (h : Canonical s) : Canonical (s.latentTest r) := .ite h.setReg h

theorem Canonical.recover (h : Canonical s) : Canonical (s.recover r seq).1 := by
  unfold State.recover
  dsimp only
  split
  · exact h.tsnCount.updHub.latentTest
  · exact .ite_fst h.tsnCount.latentTest (.ite_fst (.ite_fst h.tsnCount.latentTest h.tsnCount.updHub.latentTest)
      h.setReg.tsnCount.updHub.latentTest)

theorem Canonical.setRegion (h : Canonical s) : Canonical (s.setRegion f r) := h.updHub

theorem Canonical.commitRegion (h : Canonical s) : Canonical (s.commitRegion f payload) :=
  .ite h (.ite h.setRegion h.updHub.setRegion)

theorem Canonical.filtered (h : Canonical s) : Canonical (s.filtered f p) := by
  refine .ite h.tsnCount.tsnCount (.ite h.tsnCount.tsnCount ?_)
  split
  · next e => exact .of_fst e h.tsnCount.metered
  · next e =>
    have ht := Canonical.of_fst e h.tsnCount.metered
    dsimp only
    split
    · split
      · next e => exact (Canonical.of_fst e ht.tsnCount.recover).commitRegion
      · next e => exact .of_fst e ht.tsnCount.recover
    · exact ht.tsnCount.commitRegion

theorem Canonical.announce (h : Canonical s) : Canonical (s.announce l) := by
  refine .ite h ?_
  split
  · exact h
  · exact .ite h h.updHub

theorem Canonical.ptpSync (h : Canonical s) : Canonical (s.ptpSync l) := .ite h h.updHub

theorem Canonical.tsnReceive (h : Canonical s) : Canonical (s.tsnReceive port frame fcsOk) := by
  refine .ite h (.ite h.tsnCount.tsnCount ?_)
  split
  · exact h.tsnCount.tsnCount
  · refine .ite h.tsnCount.announce.ptpSync (.ite h.tsnCount ?_)
    split
    · exact h.tsnCount.tsnCount
    · exact h.tsnCount.filtered

theorem Canonical.pisplitWrite (h : Canonical s) : Canonical (s.pisplitWrite w) := .ite h.hubErr h.updHub

theorem Canonical.pibindWrite (h : Canonical s) : Canonical (s.pibindWrite f w) :=
  .ite (.ite h.hubErr h.setReg.setRegion) h.setReg.updHub.setRegion

theorem Canonical.startList (h : Canonical s) : Canonical (s.startList l port len t0).1 :=
  (h.foldl fun _ _ h => .ite h h.setReg).setReg.setReg

theorem Canonical.qbvWrite (h : Canonical s) : Canonical (s.qbvWrite t w) :=
  .ite h.hubErr (.ite h.setReg.updHub h.setReg)

theorem Canonical.qbvActivate (h : Canonical s) : Canonical (s.qbvActivate t) :=
  .ite (h.startList (port := true) (len := 0) (t0 := 0)).updHub h

theorem Canonical.qbvNext (h : Canonical s) : Canonical (s.qbvNext t) := .ite h.setReg.updHub h

theorem Canonical.streamGateWrite (h : Canonical s) : Canonical (s.streamGateWrite g w) :=
  .ite h.hubErr (.ite h.setReg.updHub h.setReg)

theorem Canonical.streamGateActivate (h : Canonical s) : Canonical (s.streamGateActivate g) :=
  .ite (h.startList (port := false) (len := 0) (t0 := 0)).updHub h

theorem Canonical.streamGateNext (h : Canonical s) : Canonical (s.streamGateNext g) := .ite h.updHub h

theorem Canonical.gptpSync (h : Canonical s) : Canonical (s.gptpSync d) :=
  .ite (h.foldl fun _ _ h => h.tsnCount.tsnCount).updHub h

theorem Canonical.portWrite (h : Canonical s) : Canonical (s.portWrite t r w) :=
  .ite (.ite h.hubErr h.setReg) (.ite h.qbvWrite (.ite h.setReg (.ite (.ite h.hubErr h.setReg) (.ite h h.hubErr))))

theorem Canonical.listWrite (h : Canonical s) : Canonical (s.listWrite pa port oper w) :=
  .ite h.hubErr (.ite h.hubErr h.setReg)

theorem Canonical.meterWrite (h : Canonical s) : Canonical (s.meterWrite m r w) :=
  .ite (.ite h.hubErr (.ite h.setReg.hubErr (.ite h.setReg h.setReg.updHub))) (.ite h.setReg (.ite h.setReg h))

theorem Canonical.domainWrite (h : Canonical s) : Canonical (s.domainWrite d r w) :=
  .ite (.ite h.hubErr h.setReg) (.ite h.setReg h)

theorem Canonical.tsnWrite (h : Canonical s) : Canonical (s.tsnWrite o w) := by
  refine .ite h.portWrite (.ite h.listWrite (.ite h.setReg (.ite ?_ (.ite h.listWrite (.ite h.meterWrite (.ite (.ite
    (.ite h.hubErr (.ite h.setReg h.setReg.updHub)) h) (.ite h.domainWrite (.ite h h.hubErr))))))))
  dsimp only
  split
  · exact h.streamGateWrite
  · exact h.setReg
  · exact .ite h.hubErr h.setReg
  · exact h

/-! ## Egress -/

theorem Canonical.escfgWrite (h : Canonical s) : Canonical (s.escfgWrite en w) :=
  .ite h.hubErr (.ite h.hubErr (.ite h.setReg.updHub h.setReg))

theorem Canonical.eshdrWrite (h : Canonical s) : Canonical (s.eshdrWrite en i w) :=
  .ite (.ite h.hubErr h.setReg) h.setReg

theorem Canonical.resultWrite (h : Canonical s) : Canonical (s.resultWrite off bs) := .ite h.hubErr h.updHub

theorem Canonical.dropFrames (h : Canonical s) : Canonical (s.dropFrames) :=
  (h.foldl fun _ _ h => h.tsnCount.updHub).updHub

theorem Canonical.egressTick (h : Canonical s) : Canonical (s.egressTick n) :=
  (Canonical.ite (h.dropFrames.foldl fun _ _ h => h.updHub).updHub (h.dropFrames.foldl fun _ _ h => h.updHub)).updHub

theorem Canonical.sendFrame (h : Canonical s) : Canonical (s.sendFrame en) := by
  unfold State.sendFrame
  split
  · exact h
  · exact .ite h (Canonical.ite h h.tsnCount).updHub

theorem Canonical.safeFrames (h : Canonical s) : Canonical (s.safeFrames) := by
  unfold State.safeFrames
  split
  · exact .ite h h.updHub
  · exact h

/-! ## Sensors -/

theorem Canonical.setSensor (h : Canonical s) : Canonical (s.setSensor p x) := h.updHub

theorem Canonical.sensorReceive (h : Canonical s) : Canonical (s.sensorReceive p frame fcsOk) :=
  .ite h.setSensor (.ite h.setSensor (.ite h.setSensor (.ite h.setSensor h.setSensor)))

theorem Canonical.recordCheck (h : Canonical s) : Canonical (s.recordCheck p) := by
  unfold State.recordCheck
  dsimp only
  split
  · exact h
  · refine .ite h ?_
    split
    · exact h.setSensor
    · exact h.setSensor
    · exact h.setSensor

theorem Canonical.stagePut (h : Canonical s) : Canonical (s.stagePut p runs bs) := by
  induction runs generalizing s bs with
  | nil => exact h
  | cons r rs ih => exact ih h.setElement

theorem Canonical.pauseCheck (h : Canonical s) : Canonical (s.pauseCheck p) :=
  .ite h.setSensor.updHub (.ite h.setSensor.updHub h)

theorem Canonical.spcfgWrite (h : Canonical s) : Canonical (s.spcfgWrite p w) :=
  .ite h.setReg (Canonical.ite h.setReg.setSensor h.setReg).pauseCheck

theorem Canonical.stagingAllocate (h : Canonical s) : Canonical (s.stagingAllocate p) := by
  unfold State.stagingAllocate
  dsimp only
  split
  · exact h
  · exact .ite h.setSensor.pauseCheck h.pauseCheck

theorem Canonical.queueRows (h : Canonical s) : Canonical (s.queueRows p r late slow) := h.foldl fun _ _ h => h.updHub

theorem Canonical.queueEnded (h : Canonical s) : Canonical (s.queueEnded p n) := by
  induction n generalizing s with
  | zero => exact h
  | succ n ih =>
    unfold State.queueEnded
    dsimp only
    split
    · split
      · exact ih h.setSensor.queueRows
      · exact h
    · exact h

theorem Canonical.rowEnters (h : Canonical s) : Canonical (s.rowEnters a f) := (Canonical.ite h.setSensor h).updHub

theorem Canonical.decodeDone (h : Canonical s) : Canonical (s.decodeDone p elapsed) := by
  unfold State.decodeDone
  dsimp only
  split
  · exact h
  · refine .pauseCheck (.queueEnded ?_)
    split
    · exact h.setSensor.stagePut
    · exact h.setSensor

theorem Canonical.slowMove (h : Canonical s) : Canonical (s.slowMove p) := by
  unfold State.slowMove
  dsimp only
  split
  · exact h
  · exact h.setSensor.queueEnded.pauseCheck

theorem Canonical.slowEnd (h : Canonical s) : Canonical (s.slowEnd p) := by
  unfold State.slowEnd
  dsimp only
  split
  · exact h
  · split
    · exact h.setSensor.pauseCheck
    · exact .ite h.setSensor.pauseCheck h.setSensor.stagePut.queueRows.pauseCheck

/-! ## The Loom -/

theorem Canonical.lectlWrite (h : Canonical s) : Canonical (s.lectlWrite n w) := .ite h.setReg.setElement h.setReg

theorem Canonical.stageWrite (h : Canonical s) : Canonical (s.stageWrite n k w) := .ite h.setReg h.setReg

theorem Canonical.exitTake (h : Canonical s) : Canonical (s.exitTake i w) :=
  .ite h.setExit (.ite h.setExit.upd h.setExit)

theorem Canonical.linkPush (h : Canonical s) : Canonical (s.linkPush n d w) := by
  unfold State.linkPush
  dsimp only
  split
  · exact h.setElement
  · exact .ite h.exitTake h.setElement
  · exact h.setElement
  · exact h.setElement

theorem Canonical.stageDone (h : Canonical s) : Canonical (s.stageDone n x) := h.setElement

theorem Canonical.stageStop (h : Canonical s) : Canonical (s.stageStop n) := h.setReg

theorem Canonical.stageWriteDst (h : Canonical s) : Canonical (s.stageWriteDst n x w v) :=
  .ite h.setElement.linkPush (.ite h.setElement h.setElement)

theorem Canonical.loomStage (h : Canonical s) : Canonical (s.loomStage n) := by
  refine .ite h (.ite h.stageDone ?_)
  split
  · exact h
  · split
    · exact h
    · exact .ite h (.ite (.ite h.stageStop (.ite (Canonical.ite h.upd h).stageWriteDst.stageDone h.stageDone))
        h.stageWriteDst.stageDone)

theorem Canonical.feedNext (h : Canonical s) : Canonical (s.feedNext a) := by
  unfold State.feedNext
  split
  · exact h.rowEnters
  · exact h

theorem Canonical.feedRow (h : Canonical s) : Canonical (s.feedRow a) := by
  refine .ite ?_ h
  dsimp only
  split
  · exact h.feedNext
  · exact .ite h.feedNext.setElement.updHub.updHub.pauseCheck h.feedNext.setElement.updHub

theorem Canonical.dropRows (h : Canonical s) : Canonical (s.dropRows i n) := h.setWindow

theorem Canonical.closeBatch (h : Canonical s) : Canonical (s.closeBatch i) := .ite h h.setExit.upd

theorem Canonical.closeFor (h : Canonical s) : Canonical (s.closeFor i m) := by
  unfold State.closeFor
  split
  · exact .ite h h.closeBatch
  · exact h

theorem Canonical.addRow (h : Canonical s) : Canonical (s.addRow i r) := .ite h.setExit.closeBatch h.setExit

theorem Canonical.holdRow (h : Canonical s) : Canonical (s.holdRow i r) :=
  .ite h.setExit (.ite h.setExit.dropRows h.dropRows)

theorem Canonical.placeRow (h : Canonical s) : Canonical (s.placeRow i) := by
  unfold State.placeRow
  split
  · exact h
  · exact .ite h.closeFor (.ite h.closeFor.setExit.addRow h.closeFor.setExit.holdRow)

theorem Canonical.rowComplete (h : Canonical s) : Canonical (s.rowComplete i) := by
  refine .ite h ?_
  split
  · exact h
  · exact (Canonical.ite h.setSensor h).setExit.updHub.placeRow

theorem Canonical.metaTimeout (h : Canonical s) : Canonical (s.metaTimeout i) := by
  unfold State.metaTimeout
  dsimp only
  split
  · exact h
  · exact h.updHub.setReg.dropRows

theorem Canonical.saveQ5 (h : Canonical s) : Canonical (s.saveQ5 p gs x) := by
  unfold State.saveQ5
  split
  · exact h
  · dsimp only
    split
    · exact h.upd.physWrite.physWrite
    · exact h.upd

theorem Canonical.pushQ5 (h : Canonical s) : Canonical (s.pushQ5 p gs d) := .ite h.saveQ5 h.setSlot.signalNext

theorem Canonical.batchDeliver (h : Canonical s) : Canonical (s.batchDeliver i) := by
  unfold State.batchDeliver
  split
  · exact h
  · exact .ite h (.ite h.setExit.setWindow.upd h.setExit.setCore.setWindow.pushQ5)

theorem Canonical.takeHeld (h : Canonical s) : Canonical (s.takeHeld i n) := by
  induction n generalizing s with
  | zero => exact h
  | succ n ih =>
    unfold State.takeHeld
    split
    · exact h
    · exact .ite (ih h.closeFor.setExit.addRow) h.closeFor

theorem Canonical.freeUpdate (h : Canonical s) : Canonical (s.freeUpdate i) := h.setExit.takeHeld.placeRow

theorem Canonical.exitCfgErr (h : Canonical s) : Canonical (s.exitCfgErr i) := h.setReg

theorem Canonical.lxcfgWrite (h : Canonical s) : Canonical (s.lxcfgWrite i w) :=
  .ite h.exitCfgErr (.ite h.exitCfgErr (.ite h.setReg.setExit.upd (.ite h.setReg.setExit.dropRows h.setReg)))

theorem Canonical.lxdstWrite (h : Canonical s) : Canonical (s.lxdstWrite i w) := .ite h.exitCfgErr h.setReg

/-! ## The Treadle -/

theorem Keeps.startOf (e : startOf i = some start) : Keeps (start ws) := by
  cases i with
  | vld => cases e; exact .startVld
  | vst => cases e; exact .startVst
  | vlds => cases e; exact .startVlds
  | vgath => cases e; exact .startVgath
  | vscat => cases e; exact .startVscat
  | vAdd => cases e; exact .startVAdd
  | vSub => cases e; exact .startVSub
  | vMul => cases e; exact .startVMul
  | vFma | vFms => cases e; exact .fused
  | vMin => cases e; exact .startVMin
  | vMax => cases e; exact .startVMax
  | vAbs => cases e; exact .startVAbs
  | vNeg => cases e; exact .startVNeg
  | vRcp => cases e; exact .startVRcp
  | vRsq => cases e; exact .startVRsq
  | vSqrt => cases e; exact .startVSqrt
  | vExp2 => cases e; exact .startVExp2
  | vLog2 => cases e; exact .startVLog2
  | vAnd | vOr | vXor | vAndn => cases e; exact .bitwise2
  | vShl | vShr | vSar => cases e; exact .startShift
  | vCmp => cases e; exact .startVCmp
  | vSel => cases e; exact .startVSel
  | vRedAdd | vRedMin | vRedMax => cases e; exact .startVRed
  | vBcast => cases e; exact .startVBcast
  | vExt => cases e; exact .startVExt
  | vIns => cases e; exact .startVIns
  | vPerm => cases e; exact .startVPerm
  | vCvt => cases e; exact .startVCvt
  | vScl => cases e; exact .startVScl
  | vPack => cases e; exact .startVPack
  | vUnpk => cases e; exact .startVUnpk
  | vDec8 | vDec4 => cases e; exact .startDec
  | vEnc8 | vEnc4 => cases e; exact .startEnc
  | mClr => cases e; exact .startMClr
  | mLatch => cases e; exact .startMLatch
  | mStep => cases e; exact .startMStep
  | mLocal => cases e; exact .startMLocal
  | mPass => cases e; exact .startMPass
  | mRd => cases e; exact .startMRd
  | mWr => cases e; exact .startMWr
  | mRing => cases e; exact .startMRing
  | mStat => cases e; exact .startMStat
  | mSync => cases e; exact .startMSync
  | redPkt => cases e; exact .startRedPkt
  | redRecv => cases e; exact .startRedRecv
  | _ => cases e

theorem Canonical.engineOf (h : Canonical s) : Canonical (s.engineOf gs replay) := h.upd

theorem Canonical.withBanks (h : Canonical s) : Canonical (s.withBanks core' banks) := h.upd.setCore

theorem Canonical.engineFault (h : Canonical s) : Canonical (s.engineFault gs en f) := h.parkSlot.setSlot.slotRecord

theorem Canonical.engineKill (h : Canonical s) : Canonical (s.engineKill gs pc next) := .ite h h.slotRecord.kill

theorem Canonical.engineTurn (h : Canonical s) : Canonical (s.engineTurn gs) := by
  unfold State.engineTurn
  dsimp only
  split
  · exact h
  · exact h
  · split
    · exact h
    · next e =>
      refine .ite h.engineKill ?_
      split
      · next e1 => exact ((Keeps.startOf e _ h.engineOf.withBanks).of_ok e1).setCore.upd.setSlot.charge
      · next e1 => exact ((Keeps.startOf e _ h.engineOf.withBanks).of_wait e1 h.engineOf).setCore.upd
      · exact .ite h h.engineFault

theorem Keeps.captureOp : Keeps (captureOp i guarded) :=
  .bind .me fun _ => .ite (.get_bind fun _ _ => .updMe) (.faultKeep (fun _ h => h.setMe))

theorem Canonical.execTrGo (h : Canonical s) : Yields (execTrGo a imm s) :=
  h.runI (.bind .me fun _ => .bind .needP fun _ => .bind .needW fun _ => .bind .ready fun _ => .bind .readS fun _ =>
    .ite .pure .updMe)

theorem Canonical.execTrStop (h : Canonical s) : Yields (execTrStop d s) :=
  h.runI (.bind .ready fun _ => .bind .me fun _ => .get_bind fun _ _ => .ite (.waitKeep (fun _ h => h.setMe))
    (.bind .updMe fun _ => .writeS))

theorem Keeps.replayRead : Keeps (replayRead n) := by
  refine .bind .me fun _ => .ite (.ite .pure .pure) (.ite ?_ .readS)
  split
  · exact .waitOn
  · exact .bind .updMe fun _ => .pure

theorem Keeps.replayOp : Keeps replayOp := by
  refine .bind .me fun _ => ?_
  split
  · exact .updMe
  · refine .bind (.mapM fun _ => .replayRead) fun _ => ?_
    dsimp only
    split
    · exact .updMe
    · next e => exact .bind (.startOf e) fun _ => .updMe

theorem Canonical.replayIssue (h : Canonical s) : Canonical (s.replayIssue gs) := by
  unfold State.replayIssue
  dsimp only
  split
  · exact h
  · refine .ite h (.ite h.engineKill ?_)
    split
    · next e => exact ((Keeps.replayOp _ h.engineOf).of_ok e).setCore.upd.setSlot.charge
    · next e => exact ((Keeps.replayOp _ h.engineOf).of_wait e h.engineOf).upd
    · exact .ite h h.parkSlot.setSlot.slotRecord

/-! ## Tasks and launches -/

theorem Canonical.pokeNat (h : Canonical s) : Canonical (s.pokeNat key n v) := h.physWrite

theorem Canonical.updResident (h : Canonical s) : Canonical (s.updResident die part asn hd f) := h.upd

theorem Canonical.evictResident (h : Canonical s) : Canonical (s.evictResident r) := by
  refine .upd ?_
  split
  · exact h.pokeNat.pokeNat
  · exact h

theorem Canonical.postMiss (h : Canonical s) : Canonical (s.postMiss die part) := .ite h.upd (.ite h.upd.postRecord h)

theorem Canonical.bump16 (h : Canonical s) : Canonical (s.bump16 key) := h.pokeNat

theorem Canonical.loadResident (h : Canonical s) : Canonical (s.loadResident die part asn hd d pinned) := h.upd

theorem Canonical.makeResident (h : Canonical s) : Canonical (s.makeResident die part asn hd) := by
  refine .ite h ?_
  split
  · refine .loadResident ?_
    split
    · exact h.evictResident
    · exact h
  · exact h

theorem Canonical.countMiss (h : Canonical s) : Canonical (s.countMiss die part d) := h.bump16.setPart.postMiss

theorem Canonical.serveMiss (h : Canonical s) : Canonical (s.serveMiss die part asn hd) := by
  refine .ite h ?_
  split
  · exact h.makeResident.countMiss
  · exact h

theorem Canonical.appendPacket (h : Canonical s) : Gives (s.appendPacket part asn hd d ring log2n packet) :=
  .ite .none (.some h.physWrite.pokeNat.upd)

theorem Keeps.queueFor : Keeps (queueFor hd) := by
  refine .get_bind fun s h => ?_
  dsimp only
  split
  · exact .faultP
  · split
    · exact .bind (.update (fun _ h => h.updResident)) fun _ => .pure
    · exact .ite .faultP (.waitKeep (fun _ h => h.upd))

theorem Keeps.pushOp : Keeps (pushOp d r packet) := by
  refine .get_bind fun s h => ?_
  split
  · exact .pure
  · next e => exact .bind (.set (h.appendPacket _ e).addSent.addRecv) fun _ => .pure

theorem Canonical.execTqPush (h : Canonical s) : Yields (execTqPush d a b s) :=
  h.runI (.bind .memoryTurn fun _ => .bind .ready fun _ => .bind .readS fun _ => .bind .readS fun _ =>
    .bind .aligned fun _ => .bind .locate fun _ => .bind .queueFor fun _ => .bind .releaseAt fun _ =>
    .bind .loadAt fun _ => .bind .pushOp fun _ => .writeS)

theorem Canonical.raiseEnd (h : Canonical s) : Canonical (s.raiseEnd k) := .ite h.updLaunch h

theorem Canonical.execTqSpawn (h : Canonical s) : Yields (execTqSpawn d a b s) := by
  refine h.runI (.bind .memoryTurn fun _ => .bind .ready fun _ => .bind .readS fun _ => .bind .readS fun _ =>
    .bind .me fun _ => ?_)
  split
  · exact .faultP
  · exact .bind .needP fun _ => .bind .needL fun _ => .bind .queueFor fun _ => .bind .releaseAt fun _ =>
      .bind .pushOp fun _ => .ite_then (.update (fun _ h => h.raiseEnd)) fun _ => .writeS

theorem Canonical.setPinned (h : Canonical s) : Canonical (s.setPinned part asn hd d on) :=
  h.pokeNat.foldl fun _ _ h => h.updResident

theorem Canonical.execTqPin (h : Canonical s) : Yields (execTqPin unpin d a s) := by
  refine h.runI (.bind .ready fun _ => .bind .readS fun _ => .get_bind fun s h => ?_)
  dsimp only
  split
  · exact .faultP
  · exact .ite (.ite .writeS (.bind (.update (fun _ h => h.setPinned)) fun _ => .writeS)) (.ite (.bind (.update
      (fun _ h => (h.foldl fun _ _ h3 => .ite h3.serveMiss h3.makeResident).setPinned)) fun _ => .writeS) .writeS)

theorem Canonical.execTqStat (h : Canonical s) : Yields (execTqStat d a s) := by
  refine h.runI (.bind .ready fun _ => .bind .readS fun _ => .get_bind fun s h => ?_)
  dsimp only
  split
  · exact .faultP
  · exact .ite_then (.update (fun _ h => h.countMiss)) fun _ => .get_bind fun _ h => .writeS

theorem Canonical.procAccess (h : Canonical s) (e : s.procAccess die part asn need va = some (t, l))
    : Canonical t := by
  unfold State.procAccess at e
  split at e
  · cases e
  · split at e
    · cases e
    · next e1 =>
      cases e
      exact .of_fst e1 h.xlateHub.touchAfter

theorem Canonical.counterAt (h : Canonical s) (e : s.counterAt die part l need i = some (t, p)) : Canonical t := by
  unfold State.counterAt at e
  split at e
  · cases e
  · next e1 =>
    split at e <;> cases e
    exact h.procAccess e1

theorem Canonical.counterAdd (h : Canonical s) : Canonical (s.counterAdd who die part l i) := by
  unfold State.counterAdd
  split
  · next e => exact .ite (h.counterAt e).setAmo ((h.counterAt e).takeWord (w32 := false)).putWord
  · exact h.postRecord

theorem Canonical.completeTask (h : Canonical s) : Canonical (s.completeTask gs) := by
  unfold State.completeTask
  dsimp only
  split
  · split
    · exact (Canonical.ite h.flushU h).counterAdd
    · exact h
  · exact h

theorem Canonical.endTask (h : Canonical s) : Canonical (s.endTask gs) :=
  h.release.completeTask.returnInbox.leaveCombiners.setCore.dropWaits.setSlot

theorem Canonical.refusePacket (h : Canonical s) : Canonical (s.refusePacket part hd code packet) := h.postRecord

theorem Canonical.openLaunch (h : Canonical s) : Canonical (s.openLaunch die part asn hd) := by
  unfold State.openLaunch
  split
  · exact h
  · refine .ite h ?_
    dsimp only
    split
    · exact h.refusePacket.upd
    · split
      · exact h.updLaunch.upd
      · exact h.refusePacket.upd

theorem Canonical.passPacket (h : Canonical s) : Canonical (s.passPacket die part asn hd d) :=
  (Canonical.ite h.updResident h.pokeNat).upd

theorem Canonical.dependFlush (h : Canonical s) : Canonical (s.dependFlush die part l p) := by
  refine h.foldl fun s _ h => ?_
  split
  · exact h
  · exact h.foldl fun _ _ h => h.foldl fun _ _ h3 => h3.flushU

theorem Canonical.takePacket (h : Canonical s) : Canonical (s.takePacket die part asn hd) := by
  unfold State.takePacket
  split
  · split
    · exact .ite h.passPacket h
    · exact h
  · dsimp only
    split
    · exact .ite h (.ite (.ite h.upd h.upd.updLaunch) h.upd.refusePacket)
    · refine .ite (.ite h h.passPacket) (.ite h ?_)
      split
      · exact h.passPacket
      · exact h.dependFlush.passPacket.upd

theorem Canonical.packetReady (h : Canonical s) : Canonical (s.packetReady die part asn hd) := by
  unfold State.packetReady
  split
  · exact h
  · exact .ite h.upd h

theorem Canonical.bindTask (h : Canonical s) : Canonical (s.bindTask gs part lane' k p wid) :=
  h.acquire.setSlot.setCore.updLaunch

theorem Canonical.advanceTaking (h : Canonical s) : Canonical (s.advanceTaking t) := by
  unfold State.advanceTaking
  dsimp only
  split
  · exact h.upd
  · exact h.upd

theorem Canonical.takeWid (h : Canonical s) : Canonical (s.takeWid t) := by
  refine .upd (.advanceTaking (.ite ?_ h.upd))
  split
  · exact h.bindTask
  · exact h

theorem Canonical.dispatch (h : Canonical s) : Canonical (s.dispatch die part) := by
  unfold State.dispatch
  split
  · exact h.upd.bindTask
  · refine .ite h ?_
    split
    · exact h.takeWid
    · exact h

theorem Canonical.sweepLaunch (h : Canonical s) : Canonical (s.sweepLaunch k) :=
  .ite h (.ite (.ite h (.ite (h.foldl fun _ _ h => h.flushU).counterAdd.updLaunch h.updLaunch)) h.updLaunch)

theorem Canonical.sweep (h : Canonical s) : Canonical (s.sweep) := h.foldl fun _ _ h => h.sweepLaunch

theorem Canonical.endDeferred (h : Canonical s) : Canonical (s.endDeferred k) := by
  refine .ite (.updLaunch (.counterAdd ?_)) h
  split
  · next e => exact h.upd
  · exact h

/-! ## Gates -/

theorem Canonical.setGate (h : Canonical s) : Canonical (s.setGate n g) := h.upd

theorem Canonical.takeSeq (h : Canonical s) : Canonical (s.takeSeq op) := .ite h.setMe.upd h

theorem Canonical.dropSeq (h : Canonical s) : Canonical (s.dropSeq) := h.setMe

theorem Canonical.gateWait (h : Canonical s) : Canonical (s.gateWait op n g) :=
  (Canonical.ite h.release h).setGate.takeSeq

theorem Canonical.sendGate (h : Canonical s) : Canonical (s.sendGate op n operand payload) :=
  (Canonical.ite h.release h).upd

theorem Keeps.bridgedOp : Keeps (bridgedOp op n operand payload) := by
  refine .get_bind fun s h => ?_
  dsimp only
  split
  · exact .faultKeep (fun _ h => h.upd)
  · exact .waitOn
  · split
    · exact .ite (.waitKeep (fun _ h => h.sendGate)) .waitOn
    · split
      · exact .bind (.update (fun _ h => h.upd)) fun _ => .ite_then (.update (fun _ h => h.setGate)) fun _ => .pure
      · exact .faultKeep (fun _ h => h.upd)
      · exact .waitOn

theorem Keeps.gateOp : Keeps (gateOp op n operand payload) := by
  refine .get_bind fun s h => .ite (.faultKeep (fun _ h => h.dropSeq)) (.ite .bridgedOp ?_)
  split
  · exact .bind (.update (fun _ h => h.setGate.dropSeq)) fun _ => .pure
  · exact .waitKeep (fun _ h => h.gateWait)
  · exact .faultKeep (fun _ h => h.setGate.dropSeq)

theorem Canonical.execGtPost (h : Canonical s) : Yields (execGtPost d v a s) :=
  h.runI (.bind .memoryTurn fun _ => .bind .engineIdle fun _ => .bind .ready fun _ => .bind .readS fun _ =>
    .bind .readV fun _ => .bind .releaseAt fun _ => .bind .gateOp fun _ => .writeS)

theorem Keeps.gateAwait : Keeps (gateAwait op d v a) := by
  refine .bind .memoryTurn fun _ => .bind .engineIdle fun _ => .bind .ready fun _ => .bind .readS fun _ =>
    .bind .readS fun _ => .bind .gateOp fun _ => ?_
  split
  · dsimp only
    split
    · exact .bind .writeV fun _ => .bind .acquireAt fun _ => .writeS
    · exact .writeS

theorem Canonical.execGtArrive (h : Canonical s) : Yields (execGtArrive d a s) :=
  h.runI (.bind .memoryTurn fun _ => .bind .ready fun _ => .bind .readS fun _ => .ite_else .releaseAt fun _ =>
    .bind .gateOp fun _ => .bind .acquireAt fun _ => .writeS)

theorem Keeps.gateSet : Keeps (gateSet op a) :=
  .bind .ready fun _ => .bind .readS fun _ => .bind .gateOp fun _ => .pure

theorem Canonical.gateStore (h : Canonical s) : Canonical (s.gateStore n i w) :=
  .ite h.hubErr (.ite (.ite h.setGate.updHub h.setGate) h)

theorem Canonical.refill (h : Canonical s) : Canonical (s.refill n p) := .ite h.setGate h

theorem Canonical.remoteApply (h : Canonical s) : Canonical (s.remoteApply o) := by
  refine .ite ?_ h.upd
  split
  · exact h.setGate.upd
  · exact h.setGate.upd
  · exact h.setGate.upd

theorem Canonical.remoteOp (h : Canonical s) : Canonical (s.remoteOp tag part gate peer op operand payload) :=
  h.upd.remoteApply

theorem Canonical.remoteSample (h : Canonical s) : Canonical (s.remoteSample) :=
  h.upd.foldl fun _ _ h => h.remoteApply

theorem Canonical.bridgeReply (h : Canonical s) : Canonical (s.bridgeReply tag m) := h.upd

theorem Canonical.execBridgedGateOp (h : Canonical s) : Yields (execBridgedGateOp m s) := by
  refine .next ?_
  split
  · exact h.remoteOp
  · exact h.bridgeReply
  · exact h.bridgeReply
  · exact h.updHub

theorem Canonical.remapWrite (h : Canonical s) : Canonical (s.remapWrite w) := .ite (.ite h.hubErr h.upd) h

/-! ## Pages and partitions that leave -/

theorem Canonical.takePoolFrame (h : Canonical s) : Canonical (s.takePoolFrame p fuel).1 := by
  induction fuel generalizing s with
  | zero => exact h
  | succ fuel ih => exact .ite_fst h (.ite_fst h.physRead.setPart (ih h.physRead.setPart))

theorem Canonical.postEvent (h : Canonical s) : Canonical (s.postEvent code part extra) := h.postRecord

theorem Canonical.evictEvent (h : Canonical s) : Canonical (s.evictEvent n hd) := h.postEvent

theorem Canonical.toHolding (h : Canonical s) : Canonical (s.toHolding n part asn vpn leafPa leaf dirty cause frame)
    :=
  .ite (.ite h.meetPage.setSlice.evictEvent h.meetPage.setSlice) h.meetPage.setSlice.upd

theorem Canonical.attachLines (h : Canonical s) : Canonical (s.attachLines src' f dirty) :=
  h.meetPage.foldl fun _ _ h => .ite h.storeHome.setPoison h.storeHome

theorem Canonical.clearPage (h : Canonical s) : Canonical (s.clearPage key) := Memory.wf_filter _ h

theorem Canonical.leavePage (h : Canonical s) : Canonical (s.leavePage n part asn vpn) := by
  unfold State.leavePage
  split
  · exact h
  · next leaf _ _ =>
    let s1 := s.evictPage (unbackedKey n part asn vpn 0)
    have h : Canonical (if bitOf leaf 61 then s1.takePoolFrame part 65536 else (s1, none)).1 :=
      .ite_fst h.evictPage.takePoolFrame h.evictPage
    dsimp only
    split
    · exact .ite h h.toHolding
    · split
      · next e1 => exact (h.attachLines.swapLeaf _ e1).setSlice.clearPage.shootPage.rekey.postEvent
      · exact h.attachLines.toHolding

theorem Canonical.holdingEntry (h : Canonical s) : Canonical (s.holdingEntry n) := h.setSlice.upd

theorem Canonical.unbackedEvict (h : Canonical s) : Canonical (s.unbackedEvict n) := by
  unfold State.unbackedEvict
  split
  · exact h
  · exact h.evictEvent.setSlice

theorem Canonical.quotaCut (h : Canonical s) : Canonical (s.quotaCut n p removed) := by
  refine h.setSlice.foldl fun s _ h => ?_
  dsimp only
  split
  · exact h.setSlice
  · split
    · exact h.upd
    · exact h

theorem Canonical.retryHeld (h : Canonical s) : Canonical (s.retryHeld p) := h.upd

theorem Canonical.meetLines (h : Canonical s) : Canonical (s.meetLines n) := by
  refine h.foldl fun s _ h => ?_
  split
  · exact .ite h.setPoison h
  · exact h

theorem Canonical.dropCopies (h : Canonical s) : Canonical (s.dropCopies n) :=
  (h.foldl fun _ _ h => h.foldl fun _ _ h => h.evict).setSlice

theorem Canonical.retire (h : Canonical s) : Canonical (s.retire n) :=
  (h.dropCopies.meetLines.foldl fun _ _ h => h.meetPage).setSlice.upd

/-! ## Steps of the slices -/

theorem Canonical.pageWalk (h : Canonical s) : Canonical (s.pageWalk cl part asn root va) := by
  refine .ite h ?_
  split
  · exact h.upd.serveWalk
  · exact h.serveWalk

theorem Canonical.sliceRead (h : Canonical s) : Canonical (s.sliceRead c key) := .ite h.fetchSector h

theorem Canonical.grantExc (h : Canonical s) : Canonical (s.grantExc c key) := .ite h.ownSector h

theorem Canonical.sliceWriteBack (h : Canonical s) : Canonical (s.sliceWriteBack c key) :=
  .ite (h.foldl fun _ _ h => h.evict).setDir h.writeBack

theorem Canonical.crossRead (h : Canonical s) : Canonical (s.crossRead c key) := .ite h h.fetchSector

theorem Canonical.crossBytes (h : Canonical s) : Canonical (s.crossBytes key bs) := h.foldl fun _ _ h => h.crossPokes

theorem Canonical.attr1 (h : Canonical s) : Canonical (s.attr1 key width w) := by
  unfold State.attr1
  split
  · exact h.crossBytes
  · exact h.atHome.recallAny

theorem Canonical.redStep (h : Canonical s) : Canonical (s.redStep gs op w32 etol key v) := .ite h.setAmo h.redServe

theorem Canonical.hgathServe (h : Canonical s) : Canonical (s.hgathServe gs v key sel etol) :=
  .ite h.lineAtHome.refreshU.setSlot (.ite h.lineAtHome.refreshU.setSlot h.lineAtHome.refreshU)

theorem Canonical.amoReserve (h : Canonical s) : Canonical (s.amoReserve gs key) :=
  .ite h.dropUntracked h.dropUntracked.setAmo

theorem Canonical.amoGrant (h : Canonical s) : Canonical (s.amoGrant n) := by
  unfold State.amoGrant
  split
  · exact h.grant
  · exact h

theorem Canonical.amoRelease (h : Canonical s) : Canonical (s.amoRelease gs key width v) := by
  unfold State.amoRelease
  split
  · refine .ite (.amoLeave ?_) h
    split
    · exact h.storeHome
    · exact h
  · exact h

theorem Canonical.wake (h : Canonical s) : Canonical (s.wake gs) := by
  unfold State.wake
  split
  · exact h.setSlot
  · exact h

theorem Canonical.watchWake (h : Canonical s) : Canonical (s.watchWake n) := h.setSlice.foldl fun _ _ h => h.wake

theorem Canonical.waitPoll (h : Canonical s) : Canonical (s.waitPoll gs) := by
  unfold State.waitPoll
  split
  · exact .ite h.wake h
  · exact h

theorem Canonical.waitWake (h : Canonical s) : Canonical (s.waitWake gs) := by
  unfold State.waitWake
  dsimp only
  split
  · refine .ite h.setSlot ?_
    split
    · exact .ite h.setSlot h
    · exact h
  · exact h

/-! ## Partitions -/

theorem Canonical.takeWays (h : Canonical s) : Canonical (s.takeWays p word n) := .ite h.setSlice h

theorem Canonical.putPartWord (h : Canonical s) : Canonical (s.putPartWord p word i v) := h.takeWays.setPart

theorem Canonical.keepLost (_ : Canonical old) (hs : Canonical s) : Canonical (old.keepLost s p) :=
  .ite (hs.foldl fun _ _ h => h.foldl fun _ _ h3 => h3.setCore) hs

theorem Canonical.takeUnits (h : Canonical s) : Canonical (s.takeUnits p c) :=
  ((h.foldl fun _ _ h => .ite h h.setCore.endOnBank.upd).foldl fun _ _ h => .ite h h.setCore).foldl fun _ _ h => .ite
    (.ite h h.setCore) h

theorem Canonical.lmWipeDone (h : Canonical s) : Canonical (s.lmWipeDone c b) := h.setCore

theorem Canonical.joinGroup (h : Canonical s) : Canonical (s.joinGroup p) := by
  unfold State.joinGroup
  split
  · exact h.upd
  · exact h.upd

theorem Canonical.dropReserved (h : Canonical s) : Canonical (s.dropReserved p) := h.upd

theorem Canonical.moveSaved (h : Canonical s) : Canonical (s.moveSaved p a b) := by
  unfold State.moveSaved
  split
  · exact .ite h h.setCore.upd
  · exact h

theorem Canonical.leaveGroup (h : Canonical s) : Canonical (s.leaveGroup p) := by
  refine .ite ?_ h.upd.dropReserved
  split
  · exact h.upd.dropReserved.upd
  · exact h.upd.dropReserved.upd

theorem Canonical.trimResidents (h : Canonical s) : Canonical (s.trimResidents p die fuel) := by
  induction fuel generalizing s with
  | zero => exact h
  | succ fuel ih =>
    refine .ite h ?_
    split
    · exact ih h.evictResident
    · exact h

theorem Canonical.partEffect (h : Canonical old) (hs : Canonical s) : Canonical (old.partEffect s p word i) :=
  .ite (Canonical.ite (Canonical.ite (Canonical.ite ((Canonical.ite (.ite (.ite (Canonical.ite ((Canonical.ite
    (h.keepLost hs) hs).foldl fun _ _ h => h.takeUnits) (.ite (h.keepLost hs) hs)).moveSaved (.ite ((Canonical.ite
    (h.keepLost hs) hs).foldl fun _ _ h => h.takeUnits) (.ite (h.keepLost hs) hs))) (Canonical.ite (Canonical.ite
    ((Canonical.ite (h.keepLost hs) hs).foldl fun _ _ h => h.takeUnits) (.ite (h.keepLost hs) hs)).moveSaved (.ite
    ((Canonical.ite (h.keepLost hs) hs).foldl fun _ _ h => h.takeUnits) (.ite (h.keepLost hs) hs))).quotaCut) (.ite
    (Canonical.ite ((Canonical.ite (h.keepLost hs) hs).foldl fun _ _ h => h.takeUnits) (.ite (h.keepLost hs)
    hs)).moveSaved (.ite ((Canonical.ite (h.keepLost hs) hs).foldl fun _ _ h => h.takeUnits) (.ite (h.keepLost hs)
    hs)))).foldl fun _ _ h => h.trimResidents) (.ite (.ite (.ite (Canonical.ite ((Canonical.ite (h.keepLost hs)
    hs).foldl fun _ _ h => h.takeUnits) (.ite (h.keepLost hs) hs)).moveSaved (.ite ((Canonical.ite (h.keepLost hs)
    hs).foldl fun _ _ h => h.takeUnits) (.ite (h.keepLost hs) hs))) (Canonical.ite (Canonical.ite ((Canonical.ite
    (h.keepLost hs) hs).foldl fun _ _ h => h.takeUnits) (.ite (h.keepLost hs) hs)).moveSaved (.ite ((Canonical.ite
    (h.keepLost hs) hs).foldl fun _ _ h => h.takeUnits) (.ite (h.keepLost hs) hs))).quotaCut) (.ite (Canonical.ite
    ((Canonical.ite (h.keepLost hs) hs).foldl fun _ _ h => h.takeUnits) (.ite (h.keepLost hs) hs)).moveSaved (.ite
    ((Canonical.ite (h.keepLost hs) hs).foldl fun _ _ h => h.takeUnits) (.ite (h.keepLost hs) hs))))).retryHeld (.ite
    ((Canonical.ite (.ite (.ite (Canonical.ite ((Canonical.ite (h.keepLost hs) hs).foldl fun _ _ h => h.takeUnits)
    (.ite (h.keepLost hs) hs)).moveSaved (.ite ((Canonical.ite (h.keepLost hs) hs).foldl fun _ _ h => h.takeUnits)
    (.ite (h.keepLost hs) hs))) (Canonical.ite (Canonical.ite ((Canonical.ite (h.keepLost hs) hs).foldl fun _ _ h =>
    h.takeUnits) (.ite (h.keepLost hs) hs)).moveSaved (.ite ((Canonical.ite (h.keepLost hs) hs).foldl fun _ _ h =>
    h.takeUnits) (.ite (h.keepLost hs) hs))).quotaCut) (.ite (Canonical.ite ((Canonical.ite (h.keepLost hs)
    hs).foldl fun _ _ h => h.takeUnits) (.ite (h.keepLost hs) hs)).moveSaved (.ite ((Canonical.ite (h.keepLost hs)
    hs).foldl fun _ _ h => h.takeUnits) (.ite (h.keepLost hs) hs)))).foldl fun _ _ h => h.trimResidents) (.ite (.ite
    (.ite (Canonical.ite ((Canonical.ite (h.keepLost hs) hs).foldl fun _ _ h => h.takeUnits) (.ite (h.keepLost hs)
    hs)).moveSaved (.ite ((Canonical.ite (h.keepLost hs) hs).foldl fun _ _ h => h.takeUnits) (.ite (h.keepLost hs)
    hs))) (Canonical.ite (Canonical.ite ((Canonical.ite (h.keepLost hs) hs).foldl fun _ _ h => h.takeUnits) (.ite
    (h.keepLost hs) hs)).moveSaved (.ite ((Canonical.ite (h.keepLost hs) hs).foldl fun _ _ h => h.takeUnits) (.ite
    (h.keepLost hs) hs))).quotaCut) (.ite (Canonical.ite ((Canonical.ite (h.keepLost hs) hs).foldl fun _ _ h =>
    h.takeUnits) (.ite (h.keepLost hs) hs)).moveSaved (.ite ((Canonical.ite (h.keepLost hs) hs).foldl fun _ _ h =>
    h.takeUnits) (.ite (h.keepLost hs) hs)))))).upd (.ite (Canonical.ite ((Canonical.ite (.ite (.ite (Canonical.ite
    ((Canonical.ite (h.keepLost hs) hs).foldl fun _ _ h => h.takeUnits) (.ite (h.keepLost hs) hs)).moveSaved (.ite
    ((Canonical.ite (h.keepLost hs) hs).foldl fun _ _ h => h.takeUnits) (.ite (h.keepLost hs) hs))) (Canonical.ite
    (Canonical.ite ((Canonical.ite (h.keepLost hs) hs).foldl fun _ _ h => h.takeUnits) (.ite (h.keepLost hs)
    hs)).moveSaved (.ite ((Canonical.ite (h.keepLost hs) hs).foldl fun _ _ h => h.takeUnits) (.ite (h.keepLost hs)
    hs))).quotaCut) (.ite (Canonical.ite ((Canonical.ite (h.keepLost hs) hs).foldl fun _ _ h => h.takeUnits) (.ite
    (h.keepLost hs) hs)).moveSaved (.ite ((Canonical.ite (h.keepLost hs) hs).foldl fun _ _ h => h.takeUnits) (.ite
    (h.keepLost hs) hs)))).foldl fun _ _ h => h.trimResidents) (.ite (.ite (.ite (Canonical.ite ((Canonical.ite
    (h.keepLost hs) hs).foldl fun _ _ h => h.takeUnits) (.ite (h.keepLost hs) hs)).moveSaved (.ite ((Canonical.ite
    (h.keepLost hs) hs).foldl fun _ _ h => h.takeUnits) (.ite (h.keepLost hs) hs))) (Canonical.ite (Canonical.ite
    ((Canonical.ite (h.keepLost hs) hs).foldl fun _ _ h => h.takeUnits) (.ite (h.keepLost hs) hs)).moveSaved (.ite
    ((Canonical.ite (h.keepLost hs) hs).foldl fun _ _ h => h.takeUnits) (.ite (h.keepLost hs) hs))).quotaCut) (.ite
    (Canonical.ite ((Canonical.ite (h.keepLost hs) hs).foldl fun _ _ h => h.takeUnits) (.ite (h.keepLost hs)
    hs)).moveSaved (.ite ((Canonical.ite (h.keepLost hs) hs).foldl fun _ _ h => h.takeUnits) (.ite (h.keepLost hs)
    hs))))).retryHeld (.ite ((Canonical.ite (.ite (.ite (Canonical.ite ((Canonical.ite (h.keepLost hs)
    hs).foldl fun _ _ h => h.takeUnits) (.ite (h.keepLost hs) hs)).moveSaved (.ite ((Canonical.ite (h.keepLost hs)
    hs).foldl fun _ _ h => h.takeUnits) (.ite (h.keepLost hs) hs))) (Canonical.ite (Canonical.ite ((Canonical.ite
    (h.keepLost hs) hs).foldl fun _ _ h => h.takeUnits) (.ite (h.keepLost hs) hs)).moveSaved (.ite ((Canonical.ite
    (h.keepLost hs) hs).foldl fun _ _ h => h.takeUnits) (.ite (h.keepLost hs) hs))).quotaCut) (.ite (Canonical.ite
    ((Canonical.ite (h.keepLost hs) hs).foldl fun _ _ h => h.takeUnits) (.ite (h.keepLost hs) hs)).moveSaved (.ite
    ((Canonical.ite (h.keepLost hs) hs).foldl fun _ _ h => h.takeUnits) (.ite (h.keepLost hs)
    hs)))).foldl fun _ _ h => h.trimResidents) (.ite (.ite (.ite (Canonical.ite ((Canonical.ite (h.keepLost hs)
    hs).foldl fun _ _ h => h.takeUnits) (.ite (h.keepLost hs) hs)).moveSaved (.ite ((Canonical.ite (h.keepLost hs)
    hs).foldl fun _ _ h => h.takeUnits) (.ite (h.keepLost hs) hs))) (Canonical.ite (Canonical.ite ((Canonical.ite
    (h.keepLost hs) hs).foldl fun _ _ h => h.takeUnits) (.ite (h.keepLost hs) hs)).moveSaved (.ite ((Canonical.ite
    (h.keepLost hs) hs).foldl fun _ _ h => h.takeUnits) (.ite (h.keepLost hs) hs))).quotaCut) (.ite (Canonical.ite
    ((Canonical.ite (h.keepLost hs) hs).foldl fun _ _ h => h.takeUnits) (.ite (h.keepLost hs) hs)).moveSaved (.ite
    ((Canonical.ite (h.keepLost hs) hs).foldl fun _ _ h => h.takeUnits) (.ite (h.keepLost hs) hs))))))).joinGroup
    (.ite (Canonical.ite (Canonical.ite (Canonical.ite ((Canonical.ite (.ite (.ite (Canonical.ite ((Canonical.ite
    (h.keepLost hs) hs).foldl fun _ _ h => h.takeUnits) (.ite (h.keepLost hs) hs)).moveSaved (.ite ((Canonical.ite
    (h.keepLost hs) hs).foldl fun _ _ h => h.takeUnits) (.ite (h.keepLost hs) hs))) (Canonical.ite (Canonical.ite
    ((Canonical.ite (h.keepLost hs) hs).foldl fun _ _ h => h.takeUnits) (.ite (h.keepLost hs) hs)).moveSaved (.ite
    ((Canonical.ite (h.keepLost hs) hs).foldl fun _ _ h => h.takeUnits) (.ite (h.keepLost hs) hs))).quotaCut) (.ite
    (Canonical.ite ((Canonical.ite (h.keepLost hs) hs).foldl fun _ _ h => h.takeUnits) (.ite (h.keepLost hs)
    hs)).moveSaved (.ite ((Canonical.ite (h.keepLost hs) hs).foldl fun _ _ h => h.takeUnits) (.ite (h.keepLost hs)
    hs)))).foldl fun _ _ h => h.trimResidents) (.ite (.ite (.ite (Canonical.ite ((Canonical.ite (h.keepLost hs)
    hs).foldl fun _ _ h => h.takeUnits) (.ite (h.keepLost hs) hs)).moveSaved (.ite ((Canonical.ite (h.keepLost hs)
    hs).foldl fun _ _ h => h.takeUnits) (.ite (h.keepLost hs) hs))) (Canonical.ite (Canonical.ite ((Canonical.ite
    (h.keepLost hs) hs).foldl fun _ _ h => h.takeUnits) (.ite (h.keepLost hs) hs)).moveSaved (.ite ((Canonical.ite
    (h.keepLost hs) hs).foldl fun _ _ h => h.takeUnits) (.ite (h.keepLost hs) hs))).quotaCut) (.ite (Canonical.ite
    ((Canonical.ite (h.keepLost hs) hs).foldl fun _ _ h => h.takeUnits) (.ite (h.keepLost hs) hs)).moveSaved (.ite
    ((Canonical.ite (h.keepLost hs) hs).foldl fun _ _ h => h.takeUnits) (.ite (h.keepLost hs) hs))))).retryHeld (.ite
    ((Canonical.ite (.ite (.ite (Canonical.ite ((Canonical.ite (h.keepLost hs) hs).foldl fun _ _ h => h.takeUnits)
    (.ite (h.keepLost hs) hs)).moveSaved (.ite ((Canonical.ite (h.keepLost hs) hs).foldl fun _ _ h => h.takeUnits)
    (.ite (h.keepLost hs) hs))) (Canonical.ite (Canonical.ite ((Canonical.ite (h.keepLost hs) hs).foldl fun _ _ h =>
    h.takeUnits) (.ite (h.keepLost hs) hs)).moveSaved (.ite ((Canonical.ite (h.keepLost hs) hs).foldl fun _ _ h =>
    h.takeUnits) (.ite (h.keepLost hs) hs))).quotaCut) (.ite (Canonical.ite ((Canonical.ite (h.keepLost hs)
    hs).foldl fun _ _ h => h.takeUnits) (.ite (h.keepLost hs) hs)).moveSaved (.ite ((Canonical.ite (h.keepLost hs)
    hs).foldl fun _ _ h => h.takeUnits) (.ite (h.keepLost hs) hs)))).foldl fun _ _ h => h.trimResidents) (.ite (.ite
    (.ite (Canonical.ite ((Canonical.ite (h.keepLost hs) hs).foldl fun _ _ h => h.takeUnits) (.ite (h.keepLost hs)
    hs)).moveSaved (.ite ((Canonical.ite (h.keepLost hs) hs).foldl fun _ _ h => h.takeUnits) (.ite (h.keepLost hs)
    hs))) (Canonical.ite (Canonical.ite ((Canonical.ite (h.keepLost hs) hs).foldl fun _ _ h => h.takeUnits) (.ite
    (h.keepLost hs) hs)).moveSaved (.ite ((Canonical.ite (h.keepLost hs) hs).foldl fun _ _ h => h.takeUnits) (.ite
    (h.keepLost hs) hs))).quotaCut) (.ite (Canonical.ite ((Canonical.ite (h.keepLost hs) hs).foldl fun _ _ h =>
    h.takeUnits) (.ite (h.keepLost hs) hs)).moveSaved (.ite ((Canonical.ite (h.keepLost hs) hs).foldl fun _ _ h =>
    h.takeUnits) (.ite (h.keepLost hs) hs)))))).upd (.ite (Canonical.ite ((Canonical.ite (.ite (.ite (Canonical.ite
    ((Canonical.ite (h.keepLost hs) hs).foldl fun _ _ h => h.takeUnits) (.ite (h.keepLost hs) hs)).moveSaved (.ite
    ((Canonical.ite (h.keepLost hs) hs).foldl fun _ _ h => h.takeUnits) (.ite (h.keepLost hs) hs))) (Canonical.ite
    (Canonical.ite ((Canonical.ite (h.keepLost hs) hs).foldl fun _ _ h => h.takeUnits) (.ite (h.keepLost hs)
    hs)).moveSaved (.ite ((Canonical.ite (h.keepLost hs) hs).foldl fun _ _ h => h.takeUnits) (.ite (h.keepLost hs)
    hs))).quotaCut) (.ite (Canonical.ite ((Canonical.ite (h.keepLost hs) hs).foldl fun _ _ h => h.takeUnits) (.ite
    (h.keepLost hs) hs)).moveSaved (.ite ((Canonical.ite (h.keepLost hs) hs).foldl fun _ _ h => h.takeUnits) (.ite
    (h.keepLost hs) hs)))).foldl fun _ _ h => h.trimResidents) (.ite (.ite (.ite (Canonical.ite ((Canonical.ite
    (h.keepLost hs) hs).foldl fun _ _ h => h.takeUnits) (.ite (h.keepLost hs) hs)).moveSaved (.ite ((Canonical.ite
    (h.keepLost hs) hs).foldl fun _ _ h => h.takeUnits) (.ite (h.keepLost hs) hs))) (Canonical.ite (Canonical.ite
    ((Canonical.ite (h.keepLost hs) hs).foldl fun _ _ h => h.takeUnits) (.ite (h.keepLost hs) hs)).moveSaved (.ite
    ((Canonical.ite (h.keepLost hs) hs).foldl fun _ _ h => h.takeUnits) (.ite (h.keepLost hs) hs))).quotaCut) (.ite
    (Canonical.ite ((Canonical.ite (h.keepLost hs) hs).foldl fun _ _ h => h.takeUnits) (.ite (h.keepLost hs)
    hs)).moveSaved (.ite ((Canonical.ite (h.keepLost hs) hs).foldl fun _ _ h => h.takeUnits) (.ite (h.keepLost hs)
    hs))))).retryHeld (.ite ((Canonical.ite (.ite (.ite (Canonical.ite ((Canonical.ite (h.keepLost hs)
    hs).foldl fun _ _ h => h.takeUnits) (.ite (h.keepLost hs) hs)).moveSaved (.ite ((Canonical.ite (h.keepLost hs)
    hs).foldl fun _ _ h => h.takeUnits) (.ite (h.keepLost hs) hs))) (Canonical.ite (Canonical.ite ((Canonical.ite
    (h.keepLost hs) hs).foldl fun _ _ h => h.takeUnits) (.ite (h.keepLost hs) hs)).moveSaved (.ite ((Canonical.ite
    (h.keepLost hs) hs).foldl fun _ _ h => h.takeUnits) (.ite (h.keepLost hs) hs))).quotaCut) (.ite (Canonical.ite
    ((Canonical.ite (h.keepLost hs) hs).foldl fun _ _ h => h.takeUnits) (.ite (h.keepLost hs) hs)).moveSaved (.ite
    ((Canonical.ite (h.keepLost hs) hs).foldl fun _ _ h => h.takeUnits) (.ite (h.keepLost hs)
    hs)))).foldl fun _ _ h => h.trimResidents) (.ite (.ite (.ite (Canonical.ite ((Canonical.ite (h.keepLost hs)
    hs).foldl fun _ _ h => h.takeUnits) (.ite (h.keepLost hs) hs)).moveSaved (.ite ((Canonical.ite (h.keepLost hs)
    hs).foldl fun _ _ h => h.takeUnits) (.ite (h.keepLost hs) hs))) (Canonical.ite (Canonical.ite ((Canonical.ite
    (h.keepLost hs) hs).foldl fun _ _ h => h.takeUnits) (.ite (h.keepLost hs) hs)).moveSaved (.ite ((Canonical.ite
    (h.keepLost hs) hs).foldl fun _ _ h => h.takeUnits) (.ite (h.keepLost hs) hs))).quotaCut) (.ite (Canonical.ite
    ((Canonical.ite (h.keepLost hs) hs).foldl fun _ _ h => h.takeUnits) (.ite (h.keepLost hs) hs)).moveSaved (.ite
    ((Canonical.ite (h.keepLost hs) hs).foldl fun _ _ h => h.takeUnits) (.ite (h.keepLost hs) hs))))))).leaveGroup
    (.ite (Canonical.ite (Canonical.ite ((Canonical.ite (.ite (.ite (Canonical.ite ((Canonical.ite (h.keepLost hs)
    hs).foldl fun _ _ h => h.takeUnits) (.ite (h.keepLost hs) hs)).moveSaved (.ite ((Canonical.ite (h.keepLost hs)
    hs).foldl fun _ _ h => h.takeUnits) (.ite (h.keepLost hs) hs))) (Canonical.ite (Canonical.ite ((Canonical.ite
    (h.keepLost hs) hs).foldl fun _ _ h => h.takeUnits) (.ite (h.keepLost hs) hs)).moveSaved (.ite ((Canonical.ite
    (h.keepLost hs) hs).foldl fun _ _ h => h.takeUnits) (.ite (h.keepLost hs) hs))).quotaCut) (.ite (Canonical.ite
    ((Canonical.ite (h.keepLost hs) hs).foldl fun _ _ h => h.takeUnits) (.ite (h.keepLost hs) hs)).moveSaved (.ite
    ((Canonical.ite (h.keepLost hs) hs).foldl fun _ _ h => h.takeUnits) (.ite (h.keepLost hs)
    hs)))).foldl fun _ _ h => h.trimResidents) (.ite (.ite (.ite (Canonical.ite ((Canonical.ite (h.keepLost hs)
    hs).foldl fun _ _ h => h.takeUnits) (.ite (h.keepLost hs) hs)).moveSaved (.ite ((Canonical.ite (h.keepLost hs)
    hs).foldl fun _ _ h => h.takeUnits) (.ite (h.keepLost hs) hs))) (Canonical.ite (Canonical.ite ((Canonical.ite
    (h.keepLost hs) hs).foldl fun _ _ h => h.takeUnits) (.ite (h.keepLost hs) hs)).moveSaved (.ite ((Canonical.ite
    (h.keepLost hs) hs).foldl fun _ _ h => h.takeUnits) (.ite (h.keepLost hs) hs))).quotaCut) (.ite (Canonical.ite
    ((Canonical.ite (h.keepLost hs) hs).foldl fun _ _ h => h.takeUnits) (.ite (h.keepLost hs) hs)).moveSaved (.ite
    ((Canonical.ite (h.keepLost hs) hs).foldl fun _ _ h => h.takeUnits) (.ite (h.keepLost hs) hs))))).retryHeld (.ite
    ((Canonical.ite (.ite (.ite (Canonical.ite ((Canonical.ite (h.keepLost hs) hs).foldl fun _ _ h => h.takeUnits)
    (.ite (h.keepLost hs) hs)).moveSaved (.ite ((Canonical.ite (h.keepLost hs) hs).foldl fun _ _ h => h.takeUnits)
    (.ite (h.keepLost hs) hs))) (Canonical.ite (Canonical.ite ((Canonical.ite (h.keepLost hs) hs).foldl fun _ _ h =>
    h.takeUnits) (.ite (h.keepLost hs) hs)).moveSaved (.ite ((Canonical.ite (h.keepLost hs) hs).foldl fun _ _ h =>
    h.takeUnits) (.ite (h.keepLost hs) hs))).quotaCut) (.ite (Canonical.ite ((Canonical.ite (h.keepLost hs)
    hs).foldl fun _ _ h => h.takeUnits) (.ite (h.keepLost hs) hs)).moveSaved (.ite ((Canonical.ite (h.keepLost hs)
    hs).foldl fun _ _ h => h.takeUnits) (.ite (h.keepLost hs) hs)))).foldl fun _ _ h => h.trimResidents) (.ite (.ite
    (.ite (Canonical.ite ((Canonical.ite (h.keepLost hs) hs).foldl fun _ _ h => h.takeUnits) (.ite (h.keepLost hs)
    hs)).moveSaved (.ite ((Canonical.ite (h.keepLost hs) hs).foldl fun _ _ h => h.takeUnits) (.ite (h.keepLost hs)
    hs))) (Canonical.ite (Canonical.ite ((Canonical.ite (h.keepLost hs) hs).foldl fun _ _ h => h.takeUnits) (.ite
    (h.keepLost hs) hs)).moveSaved (.ite ((Canonical.ite (h.keepLost hs) hs).foldl fun _ _ h => h.takeUnits) (.ite
    (h.keepLost hs) hs))).quotaCut) (.ite (Canonical.ite ((Canonical.ite (h.keepLost hs) hs).foldl fun _ _ h =>
    h.takeUnits) (.ite (h.keepLost hs) hs)).moveSaved (.ite ((Canonical.ite (h.keepLost hs) hs).foldl fun _ _ h =>
    h.takeUnits) (.ite (h.keepLost hs) hs)))))).upd (.ite (Canonical.ite ((Canonical.ite (.ite (.ite (Canonical.ite
    ((Canonical.ite (h.keepLost hs) hs).foldl fun _ _ h => h.takeUnits) (.ite (h.keepLost hs) hs)).moveSaved (.ite
    ((Canonical.ite (h.keepLost hs) hs).foldl fun _ _ h => h.takeUnits) (.ite (h.keepLost hs) hs))) (Canonical.ite
    (Canonical.ite ((Canonical.ite (h.keepLost hs) hs).foldl fun _ _ h => h.takeUnits) (.ite (h.keepLost hs)
    hs)).moveSaved (.ite ((Canonical.ite (h.keepLost hs) hs).foldl fun _ _ h => h.takeUnits) (.ite (h.keepLost hs)
    hs))).quotaCut) (.ite (Canonical.ite ((Canonical.ite (h.keepLost hs) hs).foldl fun _ _ h => h.takeUnits) (.ite
    (h.keepLost hs) hs)).moveSaved (.ite ((Canonical.ite (h.keepLost hs) hs).foldl fun _ _ h => h.takeUnits) (.ite
    (h.keepLost hs) hs)))).foldl fun _ _ h => h.trimResidents) (.ite (.ite (.ite (Canonical.ite ((Canonical.ite
    (h.keepLost hs) hs).foldl fun _ _ h => h.takeUnits) (.ite (h.keepLost hs) hs)).moveSaved (.ite ((Canonical.ite
    (h.keepLost hs) hs).foldl fun _ _ h => h.takeUnits) (.ite (h.keepLost hs) hs))) (Canonical.ite (Canonical.ite
    ((Canonical.ite (h.keepLost hs) hs).foldl fun _ _ h => h.takeUnits) (.ite (h.keepLost hs) hs)).moveSaved (.ite
    ((Canonical.ite (h.keepLost hs) hs).foldl fun _ _ h => h.takeUnits) (.ite (h.keepLost hs) hs))).quotaCut) (.ite
    (Canonical.ite ((Canonical.ite (h.keepLost hs) hs).foldl fun _ _ h => h.takeUnits) (.ite (h.keepLost hs)
    hs)).moveSaved (.ite ((Canonical.ite (h.keepLost hs) hs).foldl fun _ _ h => h.takeUnits) (.ite (h.keepLost hs)
    hs))))).retryHeld (.ite ((Canonical.ite (.ite (.ite (Canonical.ite ((Canonical.ite (h.keepLost hs)
    hs).foldl fun _ _ h => h.takeUnits) (.ite (h.keepLost hs) hs)).moveSaved (.ite ((Canonical.ite (h.keepLost hs)
    hs).foldl fun _ _ h => h.takeUnits) (.ite (h.keepLost hs) hs))) (Canonical.ite (Canonical.ite ((Canonical.ite
    (h.keepLost hs) hs).foldl fun _ _ h => h.takeUnits) (.ite (h.keepLost hs) hs)).moveSaved (.ite ((Canonical.ite
    (h.keepLost hs) hs).foldl fun _ _ h => h.takeUnits) (.ite (h.keepLost hs) hs))).quotaCut) (.ite (Canonical.ite
    ((Canonical.ite (h.keepLost hs) hs).foldl fun _ _ h => h.takeUnits) (.ite (h.keepLost hs) hs)).moveSaved (.ite
    ((Canonical.ite (h.keepLost hs) hs).foldl fun _ _ h => h.takeUnits) (.ite (h.keepLost hs)
    hs)))).foldl fun _ _ h => h.trimResidents) (.ite (.ite (.ite (Canonical.ite ((Canonical.ite (h.keepLost hs)
    hs).foldl fun _ _ h => h.takeUnits) (.ite (h.keepLost hs) hs)).moveSaved (.ite ((Canonical.ite (h.keepLost hs)
    hs).foldl fun _ _ h => h.takeUnits) (.ite (h.keepLost hs) hs))) (Canonical.ite (Canonical.ite ((Canonical.ite
    (h.keepLost hs) hs).foldl fun _ _ h => h.takeUnits) (.ite (h.keepLost hs) hs)).moveSaved (.ite ((Canonical.ite
    (h.keepLost hs) hs).foldl fun _ _ h => h.takeUnits) (.ite (h.keepLost hs) hs))).quotaCut) (.ite (Canonical.ite
    ((Canonical.ite (h.keepLost hs) hs).foldl fun _ _ h => h.takeUnits) (.ite (h.keepLost hs) hs)).moveSaved (.ite
    ((Canonical.ite (h.keepLost hs) hs).foldl fun _ _ h => h.takeUnits) (.ite (h.keepLost hs) hs))))))))

theorem Canonical.joinDie (_ : Canonical old) (hs : Canonical s) : Canonical (old.joinDie s p die) := by
  refine hs.foldl fun s _ h => ?_
  split
  · exact h
  · exact .ite h.pokeNat.makeResident.updResident h.pokeNat

theorem Canonical.joinDies (h : Canonical old) (hs : Canonical s) : Canonical (old.joinDies s p) :=
  hs.foldl fun _ _ h2 => h.joinDie h2

theorem Canonical.partSet (h : Canonical s) : Canonical (s.partSet p word i v).1 := by
  unfold State.partSet
  dsimp only
  split
  · exact .ite (h.joinDies (h.partEffect h.putPartWord)) (h.partEffect h.putPartWord)
  · exact h

theorem Canonical.execPartSet (h : Canonical s) : Yields (execPartSet d a b s) :=
  h.runI (.bind .supervisor fun _ => .bind .ready fun _ => .bind .readS fun _ => .bind .readS fun _ =>
    .bind .needP fun _ => .get_bind fun _ h => .bind .needW fun _ => .bind (.set h.partSet) fun _ => .writeS)

/-! ## System registers and tables -/

theorem Canonical.sysWrite (h : Canonical s) : Canonical (s.sysWrite n w) := by
  unfold State.sysWrite
  dsimp only
  split
  · exact .ite h h.setMe
  · exact h.setMe
  · exact h.setMe
  · exact h.setMe
  · exact h.setMe
  · exact h.setMe
  · exact h.setMe
  · exact h.setMe
  · exact h.setMe
  · exact h.setMe
  · exact h.setMe
  · exact .ite h.swcfg (.ite h.swrel (.ite h.swstat (.ite h.setMe h)))

theorem Canonical.execSysRd (h : Canonical s) : Yields (execSysRd d n s) := by
  refine h.runI (.bind .ready fun _ => ?_)
  split
  · exact .faultP
  · exact .ite_then .engineIdle fun _ => .get_bind fun _ h => .writeS

theorem Canonical.execSysWr (h : Canonical s) : Yields (execSysWr a n s) := by
  refine h.runI (.bind .ready fun _ => ?_)
  split
  · exact .faultP
  · exact .ite_then .engineIdle fun _ => .bind .readS fun _ => .bind .me fun _ => .ite .pure (.bind .needP fun _ =>
      .update (fun _ h => h.sysWrite))

theorem Keeps.tableBank : Keeps (tableBank b) :=
  .get_bind fun _ _ => .bind .needP fun _ => .bind .needW fun _ => .pure

theorem Canonical.writeBank (h : Canonical s) : Canonical (s.writeBank c b t) := h.setCore

theorem Canonical.execTblWr (h : Canonical s) : Yields (execTblWr rom a b s) :=
  h.runI (.bind .ready fun _ => .bind .readS fun _ => .bind .readS fun _ => .bind .needP fun _ =>
    .bind .needP fun _ => .bind .tableBank fun _ => .update (fun _ h => h.writeBank))

theorem Canonical.execTblSeal (h : Canonical s) : Yields (execTblSeal d a s) :=
  h.runI (.bind .ready fun _ => .bind .readS fun _ => .bind .needP fun _ => .bind .tableBank fun _ => .ite_then
    (.update (fun _ h => h.setCore.upd)) fun _ => .writeS)

theorem Canonical.sealDone (h : Canonical s) : Canonical (s.sealDone c b) := .ite h.setCore h

/-! ## Slots and contexts -/

theorem Canonical.drainEngine (h : Canonical s) : Canonical (s.drainEngine gs n) := by
  induction n generalizing s with
  | zero => exact h
  | succ n ih => exact .ite (ih h.engineTurn) h.engineTurn

theorem Canonical.stopSlot (h : Canonical s) : Canonical (s.stopSlot gs why) :=
  .ite h.drainEngine h.drainEngine.setSlot.stopNow

theorem Canonical.preempt (h : Canonical s) : Canonical (s.preempt gs) :=
  .ite (.ite h.setSlot h) (.ite h.setSlot (.ite h h.stopSlot))

theorem Canonical.parkOp (h : Canonical s) : Canonical (s.parkOp gs asked).1 := h.preempt

theorem Canonical.runOp (h : Canonical s) : Canonical (s.runOp gs).1 := by
  unfold State.runOp
  dsimp only
  split
  · exact h.signal
  · exact .ite_fst h.resume h
  · exact h
  · exact h

theorem Canonical.newThread (h : Canonical s) : Canonical (s.newThread gs pc ptroot) := h.setSlot

theorem Keeps.otherSlot : Keeps (otherSlot w) := .get_bind fun _ _ => .bind .needP fun _ => .pure

theorem Canonical.execSlotPark (h : Canonical s) : Yields (execSlotPark d a s) := by
  refine h.runI (.bind .supervisor fun _ => .bind .ready fun _ => .bind .readS fun _ => .bind .otherSlot fun _ =>
    .get_bind fun s h => ?_)
  split
  · next e1 => exact .bind (.set (Canonical.of_fst e1 h.parkOp)) fun _ => .writeS
  · next e1 => exact .waitKeep (fun _ h3 => h3.parkOp)

theorem Canonical.execSlotRun (h : Canonical s) : Yields (execSlotRun new d a b s) :=
  h.runI (.bind .supervisor fun _ => .bind .ready fun _ => .bind .readS fun _ => .bind .readS fun _ =>
    .bind .otherSlot fun _ => .get_bind fun _ h => .ite (.ite (.bind .checkTarget fun _ => .bind (.update (fun _ h =>
    h.newThread)) fun _ => .writeS) .writeS) (.bind (.set h.runOp) fun _ => .writeS))

theorem Canonical.scrubOp (h : Canonical s) : Canonical (s.scrubOp gs).1 := .ite_fst h.scrub h

theorem Canonical.execSlotScrub (h : Canonical s) : Yields (execSlotScrub d a s) :=
  h.runI (.bind .supervisor fun _ => .bind .ready fun _ => .bind .readS fun _ => .get_bind fun _ h => .bind
    (.set h.scrubOp) fun _ => .writeS)

theorem Canonical.tracedTo (h : Canonical s) : Canonical (s.tracedTo gs) := .ite h.upd h

theorem Canonical.rebar (h : Canonical s) : Canonical (s.rebar gs) := h.setCp

theorem Canonical.loadArea (h : Canonical s) : Gives (s.loadArea gs l) := .ite .none (.some h.setSlot.tracedTo.rebar)

theorem Keeps.areaPlaces : Keeps (areaPlaces need va) := by
  unfold Machine.areaPlaces
  refine .bind .aligned fun _ => .bind .locate fun _ => ?_
  generalize ofN _ = next
  dsimp only
  split
  · exact .bind .pure fun _ => .pure
  · exact .bind .locate fun _ => .pure

theorem Canonical.execCtxSave (h : Canonical s) : Yields (execCtxSave d a b s) :=
  h.runI (.bind .supervisor fun _ => .bind .memoryTurn fun _ => .bind .ready fun _ => .bind .readS fun _ =>
    .bind .readS fun _ => .bind .areaPlaces fun _ => .get_bind fun _ h => .ite (.bind .needW fun _ => .bind
    (.set h.storeBytes.storeBytes) fun _ => .bind .releaseAt fun _ => .writeS) .writeS)

theorem Canonical.execCtxLoad (h : Canonical s) : Yields (execCtxLoad d a b s) := by
  refine h.runI (.bind .supervisor fun _ => .bind .memoryTurn fun _ => .bind .ready fun _ => .bind .readS fun _ =>
    .bind .readS fun _ => .bind .areaPlaces fun _ => .get_bind fun s h => .ite (.bind (.mapM fun _ => .loadSector)
    fun _ => .bind (.mapM fun _ => .loadSector) fun _ => .get_bind fun s h => ?_) .writeS)
  split
  · exact .writeS
  · next e2 => exact .bind (.set (h.loadArea _ e2)) fun _ => .writeS

/-! ## Errors and health -/

theorem Canonical.dramPoison (h : Canonical s) : Canonical (s.dramPoison pa) := by
  unfold State.dramPoison
  dsimp only
  split
  · exact h.setPoison
  · exact .ite h.setSlice (.ite h h.setPoison)

theorem Canonical.storePoison (h : Canonical s) : Canonical (s.storePoison pa) := by
  unfold State.storePoison
  dsimp only
  split
  · exact h.setPoison
  · exact .ite h.setSlice h.setPoison

theorem Canonical.memCe (h : Canonical s) : Canonical (s.memCe ch) := h.upd

theorem Canonical.memUe (h : Canonical s) : Canonical (s.memUe ch a) := h.upd.postEvent

theorem Canonical.dramRead (h : Canonical s) : Canonical (s.dramRead ch a o) := by
  unfold State.dramRead
  split
  · exact h
  · exact h.memCe
  · exact h.memUe.dramPoison.dramPoison

theorem Canonical.markSector (h : Canonical s) : Canonical (s.markSector pa bad) := .ite h (.ite h.setPoison h.upd)

theorem Canonical.dramWrite (h : Canonical s) : Canonical (s.dramWrite ch a sectors bits other) := by
  refine .ite h (.ite ?_ ?_)
  · refine .markSector (.ite h.markSector ?_)
    split
    · exact h
    · exact h.memCe
    · exact h.memUe.storePoison
  · split
    · refine .ite h.markSector ?_
      split
      · exact h
      · exact h.memCe
      · exact h.memUe.storePoison
    · refine .memCe (.ite h.markSector ?_)
      split
      · exact h
      · exact h.memCe
      · exact h.memUe.storePoison
    · refine .storePoison (.memUe (.ite h.markSector ?_))
      split
      · exact h
      · exact h.memCe
      · exact h.memUe.storePoison

theorem Canonical.markSliceBad (h : Canonical s) : Canonical (s.markSliceBad n array place) := by
  unfold State.markSliceBad
  dsimp only
  split
  · split
    · exact h.setSlice
    · split
      · exact h.setSlice
      · exact h
  · exact h.setSlice.postEvent
  · exact h

theorem Canonical.sramPatrol (h : Canonical s) : Canonical (s.sramPatrol unit i array place o) := by
  unfold State.sramPatrol
  split
  · exact h
  · exact h.setCore
  · exact h.setCore.countUe
  · exact h.setSlice
  · exact h.setSlice.markSliceBad
  · exact h.updHub
  · exact h.updHub

theorem Canonical.updHealth (h : Canonical s) : Canonical (s.updHealth c f) := h.setCore

theorem Canonical.heartbeatPost (h : Canonical s) : Canonical (s.heartbeatPost c) := .ite h.updHealth h

theorem Canonical.heartbeatClose (h : Canonical s) : Canonical (s.heartbeatClose c) :=
  .ite h (.ite h.updHealth (.ite h.updHealth.postEvent h.updHealth))

theorem Canonical.offlineDone (h : Canonical s) : Canonical (s.offlineDone c) := by
  unfold State.offlineDone
  exact ((h.foldl fun _ _ h => h.kill).foldl fun _ _ h => h.evict).updHealth

theorem Canonical.online (h : Canonical s) : Canonical (s.online c) := h.setCore

theorem Canonical.hbAction (h : Canonical s) : Gives (s.hbAction c action) := by
  unfold State.hbAction
  dsimp only
  split
  · exact .some (.ite h h.updHealth)
  · exact .some h.updHealth
  · exact .some h.updHealth
  · exact .ite .none (.some h.updHealth.upd)
  · exact .ite (.some h.online) .none
  · exact .none

theorem Keeps.hbControl : Keeps (hbControl a b) := by
  refine .bind .supervisor fun _ => .bind .ready fun _ => .bind .readS fun _ => .bind .readS fun _ =>
    .get_bind fun s h => ?_
  split
  · exact .faultP
  · next e => exact .set (h.hbAction _ e)

theorem Canonical.execHbStat (h : Canonical s) : Yields (execHbStat d a s) :=
  h.runI (.bind .ready fun _ => .bind .readS fun _ => .get_bind fun _ _ => .bind .needP fun _ => .writeS)

theorem Canonical.lmfenceWrite (h : Canonical s) : Canonical (s.lmfenceWrite c w) := h.updHealth.setCore.upd

theorem Canonical.replayEnd (h : Canonical s) : Canonical (s.replayEnd err) := h.updHub

theorem Canonical.clearPend (h : Canonical s) : Canonical (s.clearPend gs en) := h.upd

theorem Canonical.rebind (h : Canonical s) : Canonical (s.rebind gs mode) := by
  unfold State.rebind
  split
  · exact h.replayEnd
  · exact .ite h.replayEnd (Canonical.ite h.clearPend.bindTask.setSlot h.clearPend.bindTask).replayEnd

theorem Canonical.replayComplete (h : Canonical s) : Canonical (s.replayComplete gs) := by
  unfold State.replayComplete
  split
  · exact h.replayEnd
  · exact .ite h.upd h.counterAdd.clearPend.replayEnd

theorem Canonical.replayDrop (h : Canonical s) : Canonical (s.replayDrop gs) := by
  unfold State.replayDrop
  split
  · exact h.replayEnd
  · exact h.clearPend.replayEnd

theorem Canonical.replayCtl (h : Canonical s) : Canonical (s.replayCtl w) := by
  refine .ite h (.ite h.hubErr ?_)
  dsimp only
  split
  · exact h.updHub.upd
  · exact h.updHub.upd
  · exact h.updHub.upd
  · exact h.updHub.replayEnd

/-! ## Fault queues -/

theorem Canonical.raiseIrq (h : Canonical s) : Canonical (s.raiseIrq b) := h.updHub

theorem Canonical.svirqenWrite (h : Canonical s) : Canonical (s.svirqenWrite pa w) := h.setReg.updHub

theorem Canonical.fireMsix (h : Canonical s) : Canonical (s.fireMsix function vector) := .ite h h.updHub

theorem Canonical.writeRecord (h : Canonical s) : Canonical (s.writeRecord p bs) :=
  (Canonical.ite h.physWrite.upd.raiseIrq h.physWrite.upd).fireMsix

theorem Canonical.recordWrite (h : Canonical s) : Canonical (s.recordWrite q) := by
  unfold State.recordWrite
  dsimp only
  split
  · exact h
  · exact .ite h.upd.writeRecord h

theorem Canonical.fqheadWrite (h : Canonical s) : Canonical (s.fqheadWrite p w) := .ite h.upd h

theorem Canonical.deferredFault (h : Canonical s) : Canonical (s.deferredFault gs) := by
  unfold State.deferredFault
  split
  · exact h
  · exact h.setSlot.parkSlot.slotRecord.setSlot

theorem Canonical.budgetEnd (h : Canonical s) : Canonical (s.budgetEnd gs) :=
  .ite h (.ite h.budgetNamed (.ite h.stopSlot h.stopSlot.budgetNamed))

theorem Canonical.budgetRecord (h : Canonical s) : Canonical (s.budgetRecord core' part mask scan) :=
  .ite h.upd h.postRecord

theorem Canonical.closeBudgets (h : Canonical s) : Canonical (s.closeBudgets core' scan) :=
  h.upd.foldl fun _ _ h => h.budgetRecord

theorem Canonical.watchdog (h : Canonical s) : Canonical (s.watchdog gs) := .ite h.slotRecord.kill h

theorem Canonical.execIllegalOpcode (h : Canonical s) : Yields (execIllegalOpcode prefixFault s) := .next h.takeFault

theorem Canonical.execInstructionFetchFault (h : Canonical s) : Yields (execInstructionFetchFault code addr cause s)
    :=
  .next h.takeFault

/-! ## The pair -/

theorem Canonical.pairWrite (h : Canonical s) : Canonical (s.pairWrite w) := h.setReg

theorem Canonical.pairStWrite (h : Canonical s) : Canonical (s.pairStWrite w) := h.updHub

theorem Canonical.linkDown (h : Canonical s) : Canonical (s.linkDown) := h.updHub.upd.raiseIrq

theorem Canonical.mismatchAt (h : Canonical s) : Canonical (s.mismatchAt scan) := h.updHub.raiseIrq

theorem Canonical.comparePair (h : Canonical s) : Canonical (s.comparePair scan) := by
  unfold State.comparePair
  split
  · exact .ite h h.mismatchAt
  · exact h

theorem Canonical.pairSend (h : Canonical s) : Canonical (s.pairSend) := by
  refine .ite ?_ h
  split
  · exact .ite (Canonical.ite h.updHub h).tsnCount.updHub (.ite h.updHub h)
  · exact h

theorem Canonical.pairReceive (h : Canonical s) : Canonical (s.pairReceive scan digest) := .ite h.updHub.comparePair h

theorem Canonical.pairTick (h : Canonical s) : Canonical (s.pairTick m) :=
  .ite h (.ite h.comparePair (.ite h.comparePair.updHub (.ite h.comparePair.updHub.setReg.updHub.raiseIrq
    h.comparePair.updHub)))

theorem Canonical.mirrorWrite (h : Canonical s) : Canonical (s.mirrorWrite w) := h.setReg

theorem Canonical.mirrorTick (h : Canonical s) : Canonical (s.mirrorTick m) := by
  refine .ite ?_ h
  split
  · exact h.setReg.updHub
  · exact .ite h h.updHub

theorem Canonical.mirrorSend (h : Canonical s) : Canonical (s.mirrorSend) := by
  unfold State.mirrorSend
  split
  · exact h
  · exact .ite h h.physRead.updHub

theorem Canonical.pairEnd (h : Canonical s) : Canonical (s.pairEnd) := by
  unfold State.pairEnd
  split
  · exact .ite h.updHub.pairTick.mirrorTick h
  · exact h

theorem Canonical.mirrorLand (h : Canonical s) : Canonical (s.mirrorLand pa bytes last scan) := h.physWrite.updHub

/-! ## The scan clock -/

theorem Canonical.scancfgWrite (h : Canonical s) : Canonical (s.scancfgWrite w) := by
  refine .ite h.updHub (.ite ?_ h.setReg.updHub)
  split
  · exact .ite h.setReg.updHub h.updHub
  · exact h.updHub

theorem Canonical.scannumWrite (h : Canonical s) : Canonical (s.scannumWrite w) := .ite h.updHub h.updHub

theorem Canonical.scanstWrite (h : Canonical s) : Canonical (s.scanstWrite w) := h.updHub

theorem Canonical.slewBy (h : Canonical s) : Canonical (s.slewBy err) := h.updHub

theorem Canonical.scanTick (h : Canonical s) : Canonical (s.scanTick) := by
  unfold State.scanTick
  split
  · exact h
  · exact .ite (Canonical.ite h.updHub.egressTick.setReg.updHub h.updHub.egressTick.setReg.updHub.mirrorTick).upd
      (.ite h.updHub.egressTick.setReg.updHub h.updHub.egressTick.setReg.updHub.mirrorTick)

theorem Canonical.tickCore (h : Canonical s) : Canonical (s.tickCore c scan) :=
  h.closeBudgets.setCore.foldl fun _ _ h => h.budgetReady

theorem Canonical.saveTick (h : Canonical s) : Canonical (s.saveTick p gs x) := by
  unfold State.saveTick
  split
  · exact h.physWrite.physWrite
  · exact h

theorem Canonical.coreTick (h : Canonical s) : Canonical (s.coreTick) :=
  (h.updHub.foldl fun _ _ h => h.tickCore).upd.foldl fun _ _ h => h.foldl fun _ _ h => h.saveTick

theorem Canonical.beatStep (h : Canonical s) : Canonical (s.beatStep) := .ite h.updHub.upd h

/-! ## Time slices -/

theorem Canonical.creditAccrue (h : Canonical s) : Canonical (s.creditAccrue) := by
  unfold State.creditAccrue
  dsimp only
  split
  · exact h.upd
  · exact .ite h.upd.upd h.upd

theorem Canonical.saveCore (h : Canonical s) : Canonical (s.saveCore p i c) :=
  ((((((h.foldl fun _ _ h => h.drainEngine.parkSlot).foldl fun _ _ h => h.physWrite).foldl fun _ _ h =>
    h.physWrite).foldl fun _ _ h => h.physWrite).foldl fun _ _ h => h.physWrite).foldl fun _ _ h =>
    h.physWrite).physWrite.setCore.upd

theorem Canonical.switchOut (h : Canonical s) : Canonical (s.switchOut p) := h.upd.foldl fun _ _ h => h.saveCore

theorem Canonical.wakeSwitched (h : Canonical s) : Canonical (s.wakeSwitched gs) := by
  unfold State.wakeSwitched
  split
  · exact h.resume
  · exact h.budgetReady

theorem Canonical.loadLatch (h : Canonical s) : Canonical (s.loadLatch c base vm) :=
  .ite h (.setCore (.foldl_fst (.ite_fst (.physRead (.ite_fst h.physRead h)) (.ite_fst h.physRead h)) fun _ _ h =>
    h.physRead))

theorem Canonical.loadCore (h : Canonical s) : Canonical (s.loadCore m p i c) := by
  refine (((Canonical.ite_fst h.physRead h).loadLatch.foldl fun _ _ h =>
    .ite h.physRead.setCore h.setCore).foldl fun _ _ h => .ite h.physRead.setCore.upd h.setCore).foldl fun s _ h => ?_
  dsimp only
  split
  · exact h.physRead.setSlot.rebar.wakeSwitched
  · exact .ite h.setSlot h

theorem Canonical.switchIn (h : Canonical s) : Canonical (s.switchIn p) := by
  unfold State.switchIn
  split
  · exact h
  · exact h.upd.foldl fun _ _ h => h.loadCore

theorem Canonical.sliceEnd (h : Canonical s) : Canonical (s.sliceEnd) := by
  unfold State.sliceEnd
  split
  · exact h
  · dsimp only
    split
    · exact h.upd
    · exact .ite h.upd.upd h.upd.switchOut.upd

theorem Canonical.switchDone (h : Canonical s) : Canonical (s.switchDone) := by
  unfold State.switchDone
  split
  · exact h
  · exact h.switchIn.upd

/-! ## Resets -/

theorem Canonical.yieldGroup (h : Canonical s) : Canonical (s.yieldGroup p) := by
  refine .ite ?_ h
  dsimp only
  split
  · exact h.switchOut.upd
  · exact h.switchOut.upd

theorem Canonical.regainGroup (h : Canonical s) : Canonical (s.regainGroup p) := .ite h.upd h

theorem Canonical.resetStart (h : Canonical s) : Canonical (s.resetStart p) :=
  .ite h (h.updHub.foldl fun _ _ h => h.drainEngine.parkSlot).yieldGroup.upd

theorem Canonical.resetSlot (h : Canonical s) : Canonical (s.resetSlot p gs) := .ite h.scrub.upd.setSlot h

theorem Canonical.resetSaved (h : Canonical s) : Canonical (s.resetSaved p gs x) := by
  unfold State.resetSaved
  dsimp only
  split
  · refine .upd ?_
    split
    · exact (h.bounceInbox.enterReplay.foldl fun _ _ h => h.closeDebit).physWrite
    · exact h.bounceInbox.enterReplay.foldl fun _ _ h => h.closeDebit
  · split
    · exact (h.bounceInbox.enterReplay.foldl fun _ _ h => h.closeDebit).physWrite
    · exact h.bounceInbox.enterReplay.foldl fun _ _ h => h.closeDebit

theorem Canonical.discardSaved (h : Canonical s) : Canonical (s.discardSaved p) := by
  unfold State.discardSaved
  split
  · exact h
  · dsimp only
    split
    · exact (h.foldl fun _ _ h => h.resetSaved).dropReserved.upd
    · exact h.foldl fun _ _ h => h.resetSaved

theorem Canonical.resetQueues (h : Canonical s) : Canonical (s.resetQueues p) :=
  (h.foldl fun _ _ h => h.evictResident).upd

theorem Canonical.resetGates (h : Canonical s) : Canonical (s.resetGates p) := h.upd

theorem Canonical.resetTlb (h : Canonical s) : Canonical (s.resetTlb p) := h.foldl fun _ _ h => h.shoot1

theorem Canonical.dropLine (h : Canonical s) : Canonical (s.dropLine n line) := by
  unfold State.dropLine
  split
  · exact h
  · exact .ite h.setSlice.upd (memPokes_wf _ (Memory.wf_filter _ h))

theorem Canonical.cancelEvents (h : Canonical s) : Canonical (s.cancelEvents p n) :=
  (h.foldl fun _ _ h => h.evictEvent).setSlice

theorem Canonical.cleanWays (h : Canonical s) : Canonical (s.cleanWays p n) := h.setSlice

theorem Canonical.resetSlice (h : Canonical s) : Canonical (s.resetSlice p n) :=
  ((h.cancelEvents.foldl fun _ _ h => (h.foldl fun _ _ h => h.foldl fun _ _ h3 =>
    h3.dropL1).setDir.dropLine).foldl fun _ _ h => (h.foldl fun _ _ h => (h.foldl fun _ _ h3 =>
    h3.foldl fun _ _ h4 => h4.dropL1).setDir).meetPage.clearPage).setSlice

theorem Canonical.resetCore (h : Canonical s) : Canonical (s.resetCore p c) :=
  .ite h.flushAll.setCore h.flushAll.setCore.setCore

theorem Canonical.resetFinish (h : Canonical s) : Canonical (s.resetFinish p) :=
  (((h.foldl fun _ _ h => h.resetSlot).discardSaved.resetQueues.resetGates.resetTlb.foldl fun _ _ h =>
    h.resetCore).foldl fun _ _ h => h.resetSlice.cleanWays).updHub.regainGroup

theorem Canonical.lcreq (h : Canonical s) : Canonical (s.lcreq w) := by
  unfold State.lcreq
  split
  · exact .ite h.updHub h
  · exact h

theorem Canonical.wiped (_ : Canonical s) : Canonical (s.wiped) := Canonical.reset.upd

theorem Canonical.thermal (h : Canonical s) : Canonical (s.thermal die temp) := .ite h.updHub.raiseIrq h.updHub

theorem Canonical.loseCompute (_ : Canonical s) : Canonical (s.loseCompute) := Canonical.reset.upd

theorem Canonical.trip (h : Canonical s) : Canonical (s.trip die temp) := .ite h.thermal.loseCompute.upd h.thermal

theorem Canonical.power (h : Canonical s) : Canonical (s.power pwr) := .ite h.updHub.updHub.raiseIrq h.updHub

/-! ## The host -/

theorem Canonical.hwinWrite (h : Canonical s) : Canonical (s.hwinWrite vf w) := .ite h.setReg h.hubErr

theorem Canonical.unsupported (h : Canonical s) : Canonical (s.unsupported function write) := h.updHub

theorem Canonical.doorbellPush (h : Canonical s) : Canonical (s.doorbellPush vf w p).1 := by
  refine .ite_fst h ?_
  split
  · exact h
  · split
    · exact h
    · next e => exact (h.appendPacket _ e)

theorem Canonical.doorbellServe (h : Canonical s) : Canonical (s.doorbellServe vf w p) := .ite h h.doorbellPush.updHub

theorem Canonical.doorbell (h : Canonical s) : Canonical (s.doorbell vf w) := h.doorbellServe

theorem Canonical.clientWrite (h : Canonical s) : Canonical (s.clientWrite vf o bytes) :=
  .ite h.updHub (.ite h.upd (.ite h h.unsupported))

theorem Canonical.hostAnswer (h : Canonical s) : Canonical (s.hostAnswer function a) := by
  unfold State.hostAnswer
  split
  · exact h.updHub
  · exact h.unsupported

theorem Canonical.windowAnswer (h : Canonical s) : Canonical (s.windowAnswer vf off len) :=
  .ite h.hostAnswer (.ite h.unsupported (.ite h.hostAnswer (.ite (.ite h.physRead.upd.hostAnswer
    h.physRead.hostAnswer) h.unsupported)))

theorem Canonical.applyPost (h : Canonical s) : Canonical (s.applyPost p) := by
  unfold State.applyPost
  split
  · exact .ite h h.physWrite
  · exact h.doorbellServe
  · exact h.windowAnswer

theorem Canonical.applyPosts (h : Canonical s) : Canonical (s.applyPosts) := h.upd.foldl fun _ _ h => h.applyPost

theorem Canonical.windowWrite (h : Canonical s) : Canonical (s.windowWrite vf off bytes) :=
  .ite h (.ite (.ite h h.unsupported) (.ite h.clientWrite (.ite h.upd h.unsupported)))

theorem Canonical.windowRead (h : Canonical s) : Canonical (s.windowRead vf off len) := .ite h.upd h.windowAnswer

theorem Canonical.hostirq (h : Canonical s) : Canonical (s.hostirq w) := .ite h.hubErr h.fireMsix

theorem Canonical.scDone (h : Canonical s) : Canonical (s.scDone r) := h.updHub

theorem Canonical.execSccmdPark (h : Canonical s) : Yields (execSccmdPark gslot s) := by
  refine .next ?_
  split
  · next e => exact (Canonical.of_fst e h.parkOp).updHub.scDone
  · next e => exact (Canonical.of_fst e h.parkOp).updHub.upd

theorem Canonical.execSccmdLoad (h : Canonical s) : Yields (execSccmdLoad gslot arg0 s) := by
  refine .next (.ite h.scDone (.ite (.ite h.scDone ?_) h.scDone))
  split
  · next e => exact (h.physRead.loadArea _ e).scDone
  · exact h.physRead.scDone

theorem Canonical.sccmd (h : Canonical s) : Canonical (s.sccmd w) := by
  refine .ite h (.ite h.hubErr ?_)
  dsimp only
  split
  · exact h.updHub.upd
  · exact h.updHub.upd
  · exact h.updHub.upd
  · exact h.updHub.upd
  · exact h.updHub.upd
  · exact h.updHub.upd
  · exact h.updHub.upd
  · exact h.scDone

theorem Canonical.doeAnswer (h : Canonical s) : Canonical (s.doeAnswer function a) := h.updHub

/-! ## Register writes -/

theorem Canonical.portStore (h : Canonical s) : Canonical (s.portStore p o w) :=
  .ite h.spcfgWrite (.ite h.setReg (.ite h.setReg (.ite h h.hubErr)))

theorem Canonical.blockStore (h : Canonical s) : Canonical (s.blockStore o w) := by
  refine .ite h.pisplitWrite (.ite h (.ite h.portStore (.ite (.ite h.pibindWrite h) (.ite
    (.ite h.lxcfgWrite h.lxdstWrite) (.ite ?_ (.ite h.scancfgWrite (.ite h.scannumWrite
    (.ite h.scanstWrite h.hubErr))))))))
  dsimp only
  split
  · exact h.escfgWrite
  · exact h.eshdrWrite
  · exact h.eshdrWrite
  · exact h

theorem Canonical.relStore (h : Canonical s) : Canonical (s.relStore o w) :=
  .ite (.ite h.lmfenceWrite h) (.ite h.replayCtl (.ite h h.hubErr))

theorem Canonical.hostStore (h : Canonical s) : Canonical (s.hostStore pa w) :=
  .ite h.pairWrite (.ite h.pairStWrite (.ite h.mirrorWrite (.ite h.setReg (.ite h (.ite h.hwinWrite (.ite h.updHub
    (.ite h.hostirq (.ite h.svirqenWrite (.ite h.lcreq (.ite h (.ite h.updHub (.ite h.sccmd (.ite h.setReg
    (.ite h h.hubErr))))))))))))))

theorem Canonical.hubWrite (h : Canonical s) : Canonical (s.hubWrite pa w) :=
  .ite h.blockStore (.ite h.lectlWrite (.ite h.stageWrite (.ite h.gateStore (.ite (.ite h.fqheadWrite h)
    (.ite h.remapWrite (.ite h.relStore (.ite h.tsnWrite (.ite h.hostStore h.hubErr))))))))

/-! ## Turns -/

theorem Canonical.afterIssue (h : Canonical s) : Canonical (s.afterIssue p waited) := h.upd

/-! ## What is due -/

theorem Canonical.ageGates (h : Canonical s) : Canonical (s.ageGates).1 :=
  h.foldl_fst fun _ _ h => .ite_fst h h.setGate

theorem Canonical.streamOn (h : Canonical s) : Canonical (s.streamOn edge) :=
  .ite (Canonical.ite (h.foldl fun _ _ h => h.feedRow) h).mirrorSend (.ite (h.foldl fun _ _ h => h.feedRow) h)

theorem Canonical.readAhead (h : Canonical s) : Canonical (s.readAhead) := h.upd

theorem Canonical.nextCycle (h : Canonical s) : Canonical (s.nextCycle) :=
  h.testBars.foldDue.readAhead.upd.pairEnd.applyPosts.streamOn.remoteSample.ageGates.upd

theorem Canonical.enginePhase (h : Canonical s) : Canonical (s.enginePhase) := h.upd

theorem Canonical.sharedPhase (h : Canonical s) : Canonical (s.sharedPhase) :=
  (h.upd.foldl fun _ _ h => h.landAll).upd

theorem Canonical.nextPhase (h : Canonical s) : Canonical (s.nextPhase) := by
  unfold State.nextPhase
  split
  · exact h.enginePhase
  · exact h.sharedPhase
  · exact h.nextCycle

/-! ## Events -/

theorem Canonical.runEvent (h : Canonical s) : Yields (runEvent e s) := by
  cases e with
  | powerOnSelfTest => exact .next (.ite h.wiped.updHub.upd h.wiped)
  | lcreqWrite => exact .next h.lcreq
  | thermalWarn => exact .next h.thermal
  | thermalTrip => exact .next h.trip
  | overpwr => exact .next h.power
  | registerWrite => exact .next h.hubWrite
  | scanTick => exact .next h.scanTick
  | coreTick => exact .next h.coreTick
  | beat => exact .next h.beatStep
  | scancfgWrite => exact .next h.scancfgWrite
  | scannumWrite => exact .next h.scannumWrite
  | holdover | syncLinkUp | recoveryResetTimeout => exact .next h.updHub
  | slew => exact .next h.slewBy
  | tsnFrameReceive => exact .next h.tsnReceive
  | qbvChange => exact .next h.qbvWrite
  | qbvListActivate => exact .next h.qbvActivate
  | qbvGateIntervalEnd => exact .next h.qbvNext
  | streamGateChange => exact .next h.streamGateWrite
  | streamGateListActivate => exact .next h.streamGateActivate
  | gptpTimeLatch => exact .next h.latchTime
  | egressFrameSend => exact .next h.sendFrame
  | pisplitWrite => exact .next h.pisplitWrite
  | pibindWrite => exact .next h.pibindWrite
  | escfgWrite => exact .next h.escfgWrite
  | eshdrWrite => exact .next h.eshdrWrite
  | resultViewWrite => exact .next h.resultWrite
  | sensorFrameReceive => exact .next h.sensorReceive
  | spcfgWrite => exact .next h.spcfgWrite
  | spcfgClr => exact .next h.setSensor
  | skeinRecordCheck => exact .next h.recordCheck
  | stagingAllocate => exact .next h.stagingAllocate
  | decodeComplete => exact .next h.decodeDone
  | slowLaneMove => exact .next h.slowMove
  | slowDecodeEnd => exact .next h.slowEnd
  | loomStage => exact .next h.loomStage
  | lectlWrite => exact .next h.lectlWrite
  | stageWordWrite => exact .next h.stageWrite
  | lxcfgWrite => exact .next h.lxcfgWrite
  | lxdstWrite => exact .next h.lxdstWrite
  | exitRowComplete => exact .next h.rowComplete
  | batchwaitExpiry => exact .next h.closeBatch
  | metadataTimeout => exact .next h.metaTimeout
  | batchDeliver => exact .next h.batchDeliver
  | swcfgWrite => exact .next h.swcfg
  | swrelWrite => exact .next h.swrel
  | freeCountUpdate => exact .next h.freeUpdate
  | dramReadReturn | dramPatrol => exact .next h.dramRead
  | dramWrite => exact .next h.dramWrite
  | sramPatrol => exact .next h.sramPatrol
  | pageWalk => exact .next h.pageWalk
  | shootdownDebit => exact .next h.shootdownDebit
  | sliceRead => exact .next h.sliceRead
  | sliceStoreRequest => exact .next h.grantExc
  | sliceWriteBack => exact .next h.sliceWriteBack
  | crossDieRead => exact .next h.crossRead
  | crossDieWrite => exact .next h.crossBytes
  | attr1Access => exact .next h.attr1
  | recallResponse => exact .next (.ite h.recallAny h)
  | sectorFill => exact .next h.fetchSector
  | redApply => exact .next h.redStep
  | hgathServe => exact .next h.hgathServe
  | amoReserve => exact .next h.amoReserve
  | amoGrant => exact .next h.amoGrant
  | amoRelease => exact .next h.amoRelease
  | amoWithdraw => exact .next h.amoWithdraw
  | lateAttach => exact .next h.leavePage
  | holdingBufferEntry => exact .next h.holdingEntry
  | unbackedEvict => exact .next h.unbackedEvict
  | sliceRetire => exact .next h.retire
  | lmWipeDone => exact .next h.lmWipeDone
  | carterChunk => exact .next h.carterTurn
  | pisteInject => exact .next h.pisteInject
  | pisteArrival => exact .next h.pisteArrive
  | messageArrival => exact .next h.messageArrive
  | messageTimeout => exact h.execMessageTimeout
  | bounceArrival => exact h.execBounceArrival
  | treePacketArrival => exact .next h.treeArrive
  | treeTimeout => exact .next h.treeExpire
  | ringTileArrival => exact .next h.tileArrive
  | sealComplete => exact .next h.sealDone
  | engineTurn => exact .next h.engineTurn
  | matrixStepComplete => exact h.execMatrixStepComplete
  | treadleReplayIssue => exact .next h.replayIssue
  | launchOpen => exact .next h.openLaunch
  | packetTake => exact .next h.takePacket
  | packetEligible => exact .next h.packetReady
  | taskBind => exact .next h.dispatch
  | queueMiss => exact .next h.serveMiss
  | launchSweep => exact .next h.sweep
  | deferredLaunchEnd => exact .next h.endDeferred
  | budgetEnd => exact .next h.budgetEnd
  | watchdog => exact .next (.ite h.upd h.watchdog)
  | preemptRequest => exact .next h.preempt
  | faultRecordWrite => exact .next h.recordWrite
  | deferredFault => exact .next (.ite h.upd h.deferredFault)
  | fqheadWrite => exact .next h.fqheadWrite
  | tsCreditAccrue => exact .next h.creditAccrue
  | tsSliceEnd => exact .next (.ite h.upd h.sliceEnd)
  | tsSwitchComplete => exact .next h.switchDone
  | partitionReset => exact .next (.ite h.upd h.resetStart)
  | resetDrainEnd => exact .next h.resetFinish
  | gateTableWrite => exact .next h.gateStore
  | gateTokenRefill => exact .next h.refill
  | bridgedGateOp => exact h.execBridgedGateOp
  | remapWrite => exact .next h.remapWrite
  | remapDone => exact .next h.upd
  | lmfenceWrite => exact .next h.lmfenceWrite
  | rebind => exact .next h.rebind
  | replayComplete => exact .next h.replayComplete
  | replayDrop => exact .next h.replayDrop
  | heartbeatPost => exact .next h.heartbeatPost
  | heartbeatPeriodClose => exact .next h.heartbeatClose
  | offlineComplete => exact .ite (.next (.ite h.upd h.offlineDone)) (.next h)
  | spdmGetVersion | spdmGetCapabilities | spdmNegotiateAlgorithms | spdmGetDigests | spdmGetCertificate
    | spdmChallenge | spdmGetMeasurements | spdmUnsupportedRequest | doeDiscovery => exact .next h.doeAnswer
  | dataWindowWrite => exact .next h.windowWrite
  | dataWindowRead => exact .next h.windowRead
  | unsupportedRequest => exact .next h.unsupported
  | hwinWrite => exact .next h.hwinWrite
  | doorbell => exact .next h.doorbell
  | hostirqWrite => exact .next h.hostirq
  | vfFlr => exact .next h.updHub.upd
  | sccmdPark => exact h.execSccmdPark
  | sccmdRun => exact .next h.runOp.scDone
  | sccmdRunNew => exact .next (.ite (.ite h.newThread.scDone h.scDone) h.scDone)
  | sccmdSave => exact .next (.ite h.scDone (.ite h.physWrite.scDone h.scDone))
  | sccmdLoad => exact h.execSccmdLoad
  | sccmdScrub => exact .next h.scrubOp.scDone
  | setstack => exact .next (.ite h.scDone (.ite h.setSlot.scDone h.scDone))
  | syncLinkDown => exact .next h.linkDown
  | pairFrameSend => exact .next h.pairSend
  | pairFrameReceive => exact .next h.pairReceive
  | mirrorLineLand => exact .next h.mirrorLand
  | evtWatchWake => exact .next h.watchWake
  | evtWaitPoll => exact .next h.waitPoll
  | waitWake => exact .next h.waitWake
  | conventionalReset => exact .next h.wiped
  | pf0Flr => exact .next h
  | illegalOpcode => exact h.execIllegalOpcode
  | instructionFetchFault => exact h.execInstructionFetchFault
  | streamGateIntervalEnd => exact .next h.streamGateNext
  | gptpSyncTransmit => exact .next h.gptpSync
  | safeFrames => exact .next h.safeFrames

/-! ## Instructions -/

theorem Canonical.exec (h : Canonical s) : Yields (exec i s) := by
  cases i with
  | add | sub | and | or | xor | andn | shl | shr | sar | mul | min | max | mulh | mulhz | div | divz | rem
    | remz | minz | maxz | rol | lea => exact h.runI .scalar2
  | mov | addi | clz | ctz | popc | brev | bswap | sext | zext | shli | shri | sari | roli | bfx =>
    exact h.runI .scalar1
  | jmpi => exact h.runI (.bind .ready fun _ => .bind .readS fun _ => .transfer)
  | calli => exact h.runI (.bind .ready fun _ => .bind .readS fun _ => .callTo)
  | ret => exact h.runI .retOp
  | nop | sig => exact h.runI (.pure (a := ()))
  | tend => exact .ite (.next h.endTask) (.next h.waiting)
  | movi => exact h.runI (.bind .ready fun _ => .writeS)
  | ldZ8 | ldZ16 | ldZ32 | ldZ64 | ldS8 | ldS16 | ldS32 | ldZ8Ordered | ldZ16Ordered | ldZ32Ordered
    | ldZ64Ordered | ldS8Ordered | ldS16Ordered | ldS32Ordered => exact h.runI .scalarLoad
  | stZ8 | stZ16 | stZ32 | stZ64 | stZ8Ordered | stZ16Ordered | stZ32Ordered | stZ64Ordered =>
    exact h.runI .scalarStore
  | ldLZ64 | ldL => exact h.runI .localLoad
  | stLZ64 | stL => exact h.runI .localStore
  | br => exact h.runI (.bind .me fun _ => .ite (.bind .relTarget fun _ => .transfer) .pure)
  | jmp => exact h.runI (.bind .relTarget fun _ => .transfer)
  | call => exact h.runI (.bind .relTarget fun _ => .callTo)
  | loop => exact h.execLoop
  | bfi => exact h.runI .scalarInto
  | cmp => exact h.runI .predicate2
  | cmpi => exact h.runI (.bind .ready fun _ => .bind .readS fun _ => .writeP)
  | sel => exact h.runI (.bind .me fun _ => .scalar2)
  | pand => exact h.execPand
  | por => exact h.execPor
  | pxor => exact h.execPxor
  | pnot => exact h.execPnot
  | pmov => exact h.execPmov
  | ldt => exact h.runI .ldtOp
  | stt => exact h.execStt
  | vld | vst | vlds | vgath | vscat | redPkt | redRecv | vAdd | vSub | vMul | vFma | vFms | vMin | vMax | vAbs
    | vNeg | vRcp | vRsq | vSqrt | vExp2 | vLog2 | vAnd | vOr | vXor | vAndn | vShl | vShr | vSar | vCmp | vSel
    | vRedAdd | vRedMin | vRedMax | vBcast | vExt | vIns | vPerm | vCvt | vScl | vPack | vUnpk | vDec8 | vEnc8
    | vDec4 | vEnc4 | mClr | mLatch | mStep | mLocal | mPass | mRd | mWr | mRing | mStat | mSync =>
    exact h.runI .engineIssue
  | pref => exact h.execPref
  | amoSwap | amoCas | amoFadd | amoFand | amoFor | amoFxor | amoFmin | amoFmax | amoFminz | amoFmaxz =>
    exact h.runI .amoOp
  | hgath => exact h.execHgath
  | redAdd | redAnd | redOr | redXor | redMin | redMax | redMinz | redMaxz | redFadd => exact h.runI .redOp
  | barArr => exact h.execBarArr
  | barWait => exact h.execBarWait
  | barAw => exact h.execBarAw
  | barExp => exact h.execBarExp
  | barInit => exact h.execBarInit
  | fence => exact h.execFence
  | evtAdd => exact h.execEvtAdd
  | evtWait => exact h.execEvtWait
  | wait => exact h.execWait
  | realign => exact h.execRealign
  | qstat => exact h.execQstat
  | msgSend => exact h.execMsgSend
  | msgInfo => exact h.execMsgInfo
  | rteSet => exact h.execRteSet
  | treeSet => exact h.execTreeSet
  | trDef => exact h.runI (.bind .needP fun _ => .bind .me fun _ => .bind .needW fun _ => .updMe)
  | trGo => exact h.execTrGo
  | trWait => exact h.runI (.bind .ready fun _ => .bind .me fun _ => .bind .needW fun _ => .writeS)
  | trStop => exact h.execTrStop
  | cpG2L | cpL2G | cpL2L | cpG2G | cpFill | cp2D => exact h.runI .accept
  | cpStat => exact h.runI (.bind .ready fun _ => .bind .me fun _ => .bind .updMe fun _ => .writeS)
  | cpAbort => exact h.runI (.update (fun _ h => h.carterAbort))
  | tqPush => exact h.execTqPush
  | tqSpawn => exact h.execTqSpawn
  | tqPin => exact h.execTqPin
  | tqStat => exact h.execTqStat
  | tstat => exact h.runI (.bind .ready fun _ => .get_bind fun _ h => .writeS)
  | gtPost => exact h.execGtPost
  | gtWait | gtTry => exact h.runI .gateAwait
  | gtArrive => exact h.execGtArrive
  | gtStat => exact h.runI (.bind .ready fun _ => .bind .readS fun _ => .bind .gateOp fun _ => .writeS)
  | gtOpen | gtClose => exact h.runI .gateSet
  | gtHold => exact h.runI (.bind .supervisor fun _ => .gateSet)
  | clWb | clInv | clDisc => exact h.runI .rangeOp
  | hrPin => exact h.runI (.pinOp fun _ _ _ h => h.pinLine)
  | hrUnpin => exact h.runI (.pinOp fun _ _ _ h => h.unpinLine)
  | pgProbe => exact h.execPgProbe
  | tlbInv => exact h.execTlbInv
  | ubRsv => exact h.runI (.reservation fun _ _ _ _ h => h.reserveFrames)
  | ubRel => exact h.runI (.reservation fun _ _ _ _ h => h.releaseFrames)
  | ubMig => exact h.execUbMig
  | sysRd => exact h.execSysRd
  | sysWr => exact h.execSysWr
  | tblWr => exact h.execTblWr
  | tblSeal => exact h.execTblSeal
  | capRd => exact h.runI (.bind .ready fun _ => .bind .readS fun _ => .get_bind fun _ h => .writeS)
  | partSet => exact h.execPartSet
  | slotPark => exact h.execSlotPark
  | slotRun => exact h.execSlotRun
  | ctxSave => exact h.execCtxSave
  | ctxLoad => exact h.execCtxLoad
  | eret => exact h.runI .eretOp
  | brk | trap => exact .next h.trapOp
  | wfe => exact h.execWfe
  | slotScrub => exact h.execSlotScrub
  | hbCtlEnable | hbCtlDisable | hbCtlClear | hbCtlOffline | hbCtlOnline => exact h.runI .hbControl
  | hbStat => exact h.execHbStat
  | powerOnSelfTest => exact .next (.ite h.wiped.updHub.upd h.wiped)
  | lcreqWrite => exact .next h.lcreq
  | thermalWarn => exact .next h.thermal
  | thermalTrip => exact .next h.trip
  | overpwr => exact .next h.power
  | registerWrite => exact .next h.hubWrite
  | scanTick => exact .next h.scanTick
  | coreTick => exact .next h.coreTick
  | beat => exact .next h.beatStep
  | scancfgWrite => exact .next h.scancfgWrite
  | scannumWrite => exact .next h.scannumWrite
  | holdover | syncLinkUp | recoveryResetTimeout => exact .next h.updHub
  | slew => exact .next h.slewBy
  | tsnFrameReceive => exact .next h.tsnReceive
  | qbvChange => exact .next h.qbvWrite
  | qbvListActivate => exact .next h.qbvActivate
  | qbvGateIntervalEnd => exact .next h.qbvNext
  | streamGateChange => exact .next h.streamGateWrite
  | streamGateListActivate => exact .next h.streamGateActivate
  | gptpTimeLatch => exact .next h.latchTime
  | egressFrameSend => exact .next h.sendFrame
  | pisplitWrite => exact .next h.pisplitWrite
  | pibindWrite => exact .next h.pibindWrite
  | escfgWrite => exact .next h.escfgWrite
  | eshdrWrite => exact .next h.eshdrWrite
  | resultViewWrite => exact .next h.resultWrite
  | sensorFrameReceive => exact .next h.sensorReceive
  | spcfgWrite => exact .next h.spcfgWrite
  | spcfgClr => exact .next h.setSensor
  | skeinRecordCheck => exact .next h.recordCheck
  | stagingAllocate => exact .next h.stagingAllocate
  | decodeComplete => exact .next h.decodeDone
  | slowLaneMove => exact .next h.slowMove
  | slowDecodeEnd => exact .next h.slowEnd
  | loomStage => exact .next h.loomStage
  | lectlWrite => exact .next h.lectlWrite
  | stageWordWrite => exact .next h.stageWrite
  | lxcfgWrite => exact .next h.lxcfgWrite
  | lxdstWrite => exact .next h.lxdstWrite
  | exitRowComplete => exact .next h.rowComplete
  | batchwaitExpiry => exact .next h.closeBatch
  | metadataTimeout => exact .next h.metaTimeout
  | batchDeliver => exact .next h.batchDeliver
  | swcfgWrite => exact .next h.swcfg
  | swrelWrite => exact .next h.swrel
  | freeCountUpdate => exact .next h.freeUpdate
  | dramReadReturn | dramPatrol => exact .next h.dramRead
  | dramWrite => exact .next h.dramWrite
  | sramPatrol => exact .next h.sramPatrol
  | pageWalk => exact .next h.pageWalk
  | shootdownDebit => exact .next h.shootdownDebit
  | sliceRead => exact .next h.sliceRead
  | sliceStoreRequest => exact .next h.grantExc
  | sliceWriteBack => exact .next h.sliceWriteBack
  | crossDieRead => exact .next h.crossRead
  | crossDieWrite => exact .next h.crossBytes
  | attr1Access => exact .next h.attr1
  | recallResponse => exact .next (.ite h.recallAny h)
  | sectorFill => exact .next h.fetchSector
  | redApply => exact .next h.redStep
  | hgathServe => exact .next h.hgathServe
  | amoReserve => exact .next h.amoReserve
  | amoGrant => exact .next h.amoGrant
  | amoRelease => exact .next h.amoRelease
  | amoWithdraw => exact .next h.amoWithdraw
  | lateAttach => exact .next h.leavePage
  | holdingBufferEntry => exact .next h.holdingEntry
  | unbackedEvict => exact .next h.unbackedEvict
  | sliceRetire => exact .next h.retire
  | lmWipeDone => exact .next h.lmWipeDone
  | carterChunk => exact .next h.carterTurn
  | pisteInject => exact .next h.pisteInject
  | pisteArrival => exact .next h.pisteArrive
  | messageArrival => exact .next h.messageArrive
  | messageTimeout => exact h.execMessageTimeout
  | bounceArrival => exact h.execBounceArrival
  | treePacketArrival => exact .next h.treeArrive
  | treeTimeout => exact .next h.treeExpire
  | ringTileArrival => exact .next h.tileArrive
  | sealComplete => exact .next h.sealDone
  | engineTurn => exact .next h.engineTurn
  | matrixStepComplete => exact h.execMatrixStepComplete
  | treadleReplayIssue => exact .next h.replayIssue
  | launchOpen => exact .next h.openLaunch
  | packetTake => exact .next h.takePacket
  | packetEligible => exact .next h.packetReady
  | taskBind => exact .next h.dispatch
  | queueMiss => exact .next h.serveMiss
  | launchSweep => exact .next h.sweep
  | deferredLaunchEnd => exact .next h.endDeferred
  | budgetEnd => exact .next h.budgetEnd
  | watchdog => exact .next (.ite h.upd h.watchdog)
  | preemptRequest => exact .next h.preempt
  | faultRecordWrite => exact .next h.recordWrite
  | deferredFault => exact .next (.ite h.upd h.deferredFault)
  | fqheadWrite => exact .next h.fqheadWrite
  | tsCreditAccrue => exact .next h.creditAccrue
  | tsSliceEnd => exact .next (.ite h.upd h.sliceEnd)
  | tsSwitchComplete => exact .next h.switchDone
  | partitionReset => exact .next (.ite h.upd h.resetStart)
  | resetDrainEnd => exact .next h.resetFinish
  | gateTableWrite => exact .next h.gateStore
  | gateTokenRefill => exact .next h.refill
  | bridgedGateOp => exact h.execBridgedGateOp
  | remapWrite => exact .next h.remapWrite
  | remapDone => exact .next h.upd
  | lmfenceWrite => exact .next h.lmfenceWrite
  | rebind => exact .next h.rebind
  | replayComplete => exact .next h.replayComplete
  | replayDrop => exact .next h.replayDrop
  | heartbeatPost => exact .next h.heartbeatPost
  | heartbeatPeriodClose => exact .next h.heartbeatClose
  | offlineComplete => exact .ite (.next (.ite h.upd h.offlineDone)) (.next h)
  | spdmGetVersion | spdmGetCapabilities | spdmNegotiateAlgorithms | spdmGetDigests | spdmGetCertificate
    | spdmChallenge | spdmGetMeasurements | spdmUnsupportedRequest | doeDiscovery => exact .next h.doeAnswer
  | dataWindowWrite => exact .next h.windowWrite
  | dataWindowRead => exact .next h.windowRead
  | unsupportedRequest => exact .next h.unsupported
  | hwinWrite => exact .next h.hwinWrite
  | doorbell => exact .next h.doorbell
  | hostirqWrite => exact .next h.hostirq
  | vfFlr => exact .next h.updHub.upd
  | sccmdPark => exact h.execSccmdPark
  | sccmdRun => exact .next h.runOp.scDone
  | sccmdRunNew => exact .next (.ite (.ite h.newThread.scDone h.scDone) h.scDone)
  | sccmdSave => exact .next (.ite h.scDone (.ite h.physWrite.scDone h.scDone))
  | sccmdLoad => exact h.execSccmdLoad
  | sccmdScrub => exact .next h.scrubOp.scDone
  | setstack => exact .next (.ite h.scDone (.ite h.setSlot.scDone h.scDone))
  | syncLinkDown => exact .next h.linkDown
  | pairFrameSend => exact .next h.pairSend
  | pairFrameReceive => exact .next h.pairReceive
  | mirrorLineLand => exact .next h.mirrorLand
  | evtWatchWake => exact .next h.watchWake
  | evtWaitPoll => exact .next h.waitPoll
  | waitWake => exact .next h.waitWake
  | conventionalReset => exact .next h.wiped
  | pf0Flr => exact .next h
  | illegalOpcode => exact h.execIllegalOpcode
  | instructionFetchFault => exact h.execInstructionFetchFault
  | streamGateIntervalEnd => exact .next h.streamGateNext
  | gptpSyncTransmit => exact .next h.gptpSync
  | safeFrames => exact .next h.safeFrames

/-! ## Fetch -/

theorem Canonical.codeSector (h : Canonical s) : Canonical (s.codeSector c sec).1 := by
  unfold State.codeSector
  split
  · exact h.readSector
  · exact h.readSector

theorem Canonical.meetCode (h : Canonical s) : Canonical (s.meetCode c line) := .ite h.setCore h

theorem Canonical.codeLine (h : Canonical s) : Canonical (s.codeLine c key).1 := by
  unfold State.codeLine
  dsimp only
  split
  · exact h.meetCode.setCore
  · exact .ite_fst h.meetCode.codeSector.codeSector h.meetCode.codeSector.codeSector.setCore

theorem Canonical.fetchHalf (h : Canonical s) : Canonical (s.fetchHalf pc).1 := by
  unfold State.fetchHalf
  split
  · next e => exact .of_fst e h.access
  · next e => exact .of_fst e h.access
  · next e =>
    have ht := Canonical.of_fst e h.access
    refine .ite_fst ht ?_
    split
    · next e => exact .of_fst e ht.codeLine
    · next e => exact .of_fst e ht.codeLine

theorem Canonical.fetchChain (h : Canonical s) : Canonical (s.fetchChain pc ws n).1 := by
  induction n generalizing s ws with
  | zero => exact h
  | succ n ih =>
    unfold State.fetchChain
    split
    · next e => exact .of_fst e h.fetchHalf
    · next e =>
      have ht := Canonical.of_fst e h.fetchHalf
      exact .ite_fst (ih ht) ht

theorem Canonical.fetch (h : Canonical s) : Canonical (s.fetch).1 := h.fetchChain

theorem Canonical.latch (h : Canonical s) : Canonical (s.latch words ender sig) := h.upd

theorem Canonical.abandonCapture (h : Canonical s) : Canonical (s.abandonCapture) := .ite h h.setMe

/-! ## Issue -/

theorem Canonical.unitsWritten (h : Canonical s) : Canonical (s.unitsWritten i) := .ite h.setCore h

theorem Canonical.execIssued (h : Canonical s) : Yields (execIssued i s) := by
  have hi := h.exec (i := i)
  refine .ite hi ?_
  split
  · next e => exact .next (.ite (hi _ e) (hi _ e).upd.unitsWritten)
  · exact hi

theorem Canonical.issueChain (h : Canonical s) : Yields (issueChain ws c s) := by
  unfold Machine.issueChain
  dsimp only
  split
  · exact .next h.abandonCapture.latch.takeFault
  · exact .next h.latch.takeFault
  · exact h.latch.runI .captureOp
  · exact .ite (.next h.latch.takeFault) (.next h.latch.commit)
  · exact .ite (.next h.latch.takeFault) h.latch.execIssued

theorem Canonical.fetchWaits (h : Canonical s) : Canonical (s.fetchWaits w) := .ite h h.waiting

theorem Canonical.issue (h : Canonical s) : Yields (issue s) := by
  unfold Machine.issue
  split
  · next e => exact .next (Canonical.of_fst e h.fetch).latch.fetchWaits
  · next e => exact .next (Canonical.of_fst e h.fetch).latch.askWalk.fetchWaits
  · next e => exact (Canonical.of_fst e h.fetch).latch.execInstructionFetchFault
  · next e => exact (Canonical.of_fst e h.fetch).abandonCapture.latch.execIllegalOpcode
  · next e => exact (Canonical.of_fst e h.fetch).issueChain

theorem Canonical.issueAt (h : Canonical s) : Yields (issueAt p s) := by
  unfold Machine.issueAt
  dsimp only
  have hi := h.upd.issue (s := { s with cur := s.turnSlot (p / 16) (p % 16) })
  split
  · next e => exact .next (hi _ e).stopNow.afterIssue
  · exact hi

/-! ## The step -/

theorem Canonical.safeCycle (h : Canonical s) : Canonical (s.safeCycle) := h.upd

theorem Canonical.step (h : Canonical s) : Yields (step s) := by
  unfold Machine.step
  split
  · exact h.upd.runEvent
  · refine .ite (.next h.safeCycle) ?_
    split
    · exact h.issueAt
    · exact .next h.nextPhase

end Sys2Proof.Safety

namespace Sys2Proof.Machine

/-- Settles O58: each function that a step is made of keeps the canonical form. -/
theorem memoryStaysCanonical : Obligations.MemoryStaysCanonical := fun _ _ h e => Safety.Canonical.step h _ e

end Sys2Proof.Machine

/-! # Memory errors

The mark that a write to DRAM leaves on the sector it read first (O41). -/

namespace Sys2Proof.Machine

open Sys2Proof.Safety

/-- The first line past the physical space, as slice 0 holds it: all its sectors valid, none dirty. -/
def lineOfPage : SliceLine := { way := 0, used := 0, valid := BitVec.allOnes 8, dirty := 0, under := [], underBad := [] }

/-- A slice 0 that holds a line whose key is that of an unbacked page. -/
def holdsUnbacked : State := State.reset.setSlice 0 { State.reset.slice 0 with lines := [(physEnd / 256, lineOfPage)] }

/-- The write of sector 0 of the unit at `physEnd`, whose other sector is read first and is lost: the unit's key is that of an
unbacked page, so the mark is put under the line that its own slice holds, and none stands in DRAM. -/
theorem dramWrite_unbacked_no_poison :
    (holdsUnbacked.dramWrite 0 (physEnd / 4) 1 0 .uncorrectable).poison.has (physEnd / 32 + 1) = false := by
  rfl

/-- Refutes O41: the mark of the other sector is stated for every channel address, also for one past the physical space, where
the line that `holdsLine` asks for and the line that the write marks are in different slices. -/
theorem not_memoryErrorSteps : ¬ Obligations.MemoryErrorSteps := by
  unfold Obligations.MemoryErrorSteps Claims.MemoryErrors
  rintro ⟨⟨-, -, -, hwrite, -⟩, -⟩
  obtain ⟨t, ht, hmarks⟩ := hwrite holdsUnbacked 0 (physEnd / 4) 1 0 .uncorrectable
  obtain ⟨-, -, hlost, -⟩ := hmarks
  have hpa : holdsUnbacked.physOf 0 (physEnd / 4 / 64 * 64) = physEnd := by decide
  have hwritten : holdsUnbacked.dramWrite 0 (physEnd / 4) 1 0 .uncorrectable = t := Host.Outcome.next.inj ht
  rw [hpa] at hlost
  have hmark := (hlost (by decide) (by decide) rfl).1 rfl
  rw [← hwritten, dramWrite_unbacked_no_poison] at hmark
  cases hmark

end Sys2Proof.Machine

/-! # Walks, wakes and unbacked pages

What a walker's step leaves in the second-level TLB and with those who asked, whom the wake-up steps wake (R74, R77, R78,
R248, R250), and what the steps of unbacked pages that leave their frames keep (R104 to R108, R111). -/

namespace Sys2Proof.Machine

open Sys2Proof.Safety

section

variable {s u : State} {cl part asn root va gs n : Nat} {r : WalkReq} {res : Walk}

/-! ## Walks -/

/-- A request that no one asked for is served as one without askers. -/
theorem pageWalk_unasked (hva : va < 2 ^ 47) (hpart : part < 16) (hasn : asn < 2 ^ 16) (hroot : root % 16384 = 0)
    (htop : root < 2 ^ 44) (hq : ∀ r, r ∈ s.walks.val cl [] → r.covers part asn va = false) :
    s.pageWalk cl part asn root va =
      s.serveWalk cl { part := part, asn := asn, root := root, page := va / 16384, askers := [] } := by
  have hnone : (s.walks.val cl []).find? (fun r => r.covers part asn va) = none :=
    List.find?_eq_none.2 fun r hr => by simp [hq r hr]
  have hbase : root % physEnd / 16384 * 16384 = root := by
    unfold physEnd
    omega
  simp only [State.pageWalk, if_neg (Nat.not_le.2 hva), hnone, hbase, Nat.mod_eq_of_lt hpart,
    Nat.mod_eq_of_lt (show asn < 65536 from hasn)]

theorem pageWalk_asked (hva : va < 2 ^ 47) (hr : (s.walks.val cl []).find? (fun r => r.covers part asn va) = some r) :
    s.pageWalk cl part asn root va =
      ({ s with walks := s.walks.put cl ((s.walks.val cl []).erase r) } : State).serveWalk cl r := by
  simp only [State.pageWalk, if_neg (Nat.not_le.2 hva), hr]

theorem serveWalk_stall (h : s.walk cl r.part r.asn r.root (r.page * 16384) = (u, .stall)) :
    s.serveWalk cl r = { u with walks := u.walks.put cl (u.walks.val cl [] ++ [r]) } := by
  simp only [State.serveWalk, h]

/-- A walk that ends leaves its leaf, if it found one, in the second-level TLB, and answers everyone who asked. -/
theorem serveWalk_ends (h : s.walk cl r.part r.asn r.root (r.page * 16384) = (u, res)) (hres : res ≠ .stall) :
    s.serveWalk cl r = r.askers.foldl (fun s a => s.answerWalk a r.part r.asn (r.page * 16384) res)
      (match res with
        | .leaf level e pa => u.install2 cl (r.page * 16384) (walkEntry r.part r.asn (r.page * 16384) level e pa)
        | _ => u) := by
  cases res with
  | stall => exact absurd rfl hres
  | absent | poisoned | leaf => simp only [State.serveWalk, h]

/-- The TLB of a core holds no slot. -/
theorem slot_install1 (s : State) (c : Nat) (kind : AskKind) (va : Nat) (t : TlbEntry) :
    (s.install1 c kind va t).slot gs = s.slot gs := by
  unfold State.install1
  dsimp only
  split
  · exact State.slot_setCore _ _ gs rfl rfl
  · exact State.slot_setCore _ _ gs rfl rfl

/-- An answer is for a page. -/
theorem Slot.answer_congr (x : Slot) (kind : AskKind) (part asn : Nat) {va vb : Nat} (h : va / 16384 = vb / 16384) :
    x.answer kind part asn va = x.answer kind part asn vb := by
  simp only [Slot.answer, h]

theorem answer_answerWalk (s : State) (a : Asker) (part asn va : Nat) (res : Walk) :
    ((s.answerWalk a part asn va res).slot a.slot).answer a.kind part asn va = some res := by
  have hslot : (s.answerWalk a part asn va res).slot a.slot = { s.slot a.slot with
      walked := { kind := a.kind, part := part, asn := asn, page := va / 16384, res := res } ::
        (s.slot a.slot).walked.filter (fun w => !decide (w.kind = a.kind)) } := by
    unfold State.answerWalk
    dsimp only
    split
    · rw [slot_install1, State.slot_setSlot_self]
    · rw [State.slot_setSlot_self]
  simp [hslot, Slot.answer]

end

/-! ## Wakes -/

section

variable {s : State} {gs g n : Nat} {f : WaitFor}

theorem wake_waiting (h : (s.slot gs).run = .waiting f) : s.wake gs = s.setSlot gs { s.slot gs with run := .ready } := by
  simp only [State.wake, h]

@[simp] theorem slice_wake (s : State) (gs n : Nat) : (s.wake gs).slice n = s.slice n := by
  unfold State.wake
  split <;> rfl

theorem slot_wake_ne (s : State) (h : g ≠ gs) : (s.wake gs).slot g = s.slot g := by
  unfold State.wake
  split
  · exact State.slot_setSlot_ne _ _ h
  · rfl

theorem run_wake_ready (gs : Nat) (h : (s.slot g).run = .ready) : ((s.wake gs).slot g).run = .ready := by
  by_cases hg : g = gs
  · subst hg
    simp [State.wake, h]
  · rw [slot_wake_ne s hg, h]

/-- Wakes everyone in a list of watch entries. -/
def wakeAll (s : State) (l : List (Nat × Nat × Nat)) : State := l.foldl (fun s w => s.wake w.2.2) s

@[simp] theorem slice_wakeAll (s : State) (l : List (Nat × Nat × Nat)) : (wakeAll s l).slice n = s.slice n := by
  induction l generalizing s with
  | nil => rfl
  | cons w l ih => exact (ih (s.wake w.2.2)).trans (slice_wake ..)

theorem run_wakeAll_ready (l : List (Nat × Nat × Nat)) (h : (s.slot g).run = .ready) :
    ((wakeAll s l).slot g).run = .ready := by
  induction l generalizing s with
  | nil => exact h
  | cons w l ih => exact ih (run_wake_ready _ h)

theorem run_wakeAll {l : List (Nat × Nat × Nat)} {w : Nat × Nat × Nat} (hw : w ∈ l)
    (h : (s.slot w.2.2).run = .waiting f) : ((wakeAll s l).slot w.2.2).run = .ready := by
  induction l generalizing s with
  | nil => cases hw
  | cons v l ih =>
    by_cases hv : w.2.2 = v.2.2
    · refine run_wakeAll_ready (s := s.wake v.2.2) l ?_
      rw [← hv, wake_waiting h, State.slot_setSlot_self]
    · refine ih ((List.mem_cons.1 hw).resolve_left fun e => hv (by rw [e])) ?_
      rw [slot_wake_ne s hv, h]

theorem watchWake_watch {w : Nat × Nat × Nat} (hw : w ∈ ((s.watchWake n).slice n).watch) :
    w ∈ (s.slice n).watch ∧ s.counterMet w.1 w.2.1 = false := by
  have hkept : w ∈ (s.slice n).watch.filter (fun w =>
      !((s.slice n).watch.filter (fun w => s.counterMet w.1 w.2.1)).any (fun m => decide (m.2.2 = w.2.2))) := by
    have := slice_wakeAll (n := n) (s.setSlice n _) ((s.slice n).watch.filter (fun w => s.counterMet w.1 w.2.1)) ▸ hw
    simpa using this
  obtain ⟨hmem, hnot⟩ := List.mem_filter.1 hkept
  refine ⟨hmem, Bool.eq_false_iff.2 fun hmet => ?_⟩
  simp only [Bool.not_eq_true', List.any_eq_false, decide_eq_true_eq] at hnot
  exact hnot w (List.mem_filter.2 ⟨hmem, hmet⟩) rfl

theorem watchWake_wakes {w : Nat × Nat × Nat} (hw : w ∈ (s.slice n).watch) (hmet : s.counterMet w.1 w.2.1 = true)
    (hrun : (s.slot w.2.2).run = .waiting f) : ((s.watchWake n).slot w.2.2).run = .ready :=
  run_wakeAll (List.mem_filter.2 ⟨hw, hmet⟩) hrun

theorem waitPoll_event {key thr : Nat} {via : Via} (h : (s.slot gs).run = .waiting (.event key thr false via)) :
    s.waitPoll gs = if s.counterMet key thr then s.setSlot gs { s.slot gs with run := .ready } else s := by
  simp only [State.waitPoll, h, wake_waiting h]

variable {mask : Nat} {all : Bool} {e : Nat} (h : (s.slot gs).run = .waiting (.conds mask all))

include h

theorem waitWake_met (hw : wakes mask (s.slot gs).condMask all = true) :
    s.waitWake gs = s.setSlot gs { s.slot gs with run := .waiting (.woken (s.slot gs).condMask false) } := by
  simp only [State.waitWake, h, hw, if_true]

theorem waitWake_expired (hw : wakes mask (s.slot gs).condMask all = false) (he : (s.slot gs).waitLeft = some e)
    (hle : e ≤ s.now) :
    s.waitWake gs = s.setSlot gs { s.slot gs with run := .waiting (.woken (s.slot gs).condMask true) } := by
  simp [State.waitWake, h, hw, he, hle]

theorem waitWake_early (hw : wakes mask (s.slot gs).condMask all = false) (he : (s.slot gs).waitLeft = some e)
    (hlt : s.now < e) : s.waitWake gs = s := by
  simp [State.waitWake, h, hw, he, Nat.not_le.2 hlt]

theorem waitWake_untimed (hw : wakes mask (s.slot gs).condMask all = false) (he : (s.slot gs).waitLeft = none) :
    s.waitWake gs = s := by
  simp [State.waitWake, h, hw, he]

end

theorem walksAndWakes : Claims.WalksAndWakes := by
  refine ⟨fun s cl part asn root va => ⟨fun h => ?_, fun hva hpart hasn hroot htop hq => ⟨?_, ?_, ?_⟩, ?_⟩, ?_, ?_, ?_⟩
  · exact exec_next rfl (if_pos h)
  · intro u lv e pa hw
    have hserve := serveWalk_ends (r := { part, asn, root, page := va / 16384, askers := [] }) hw (by simp)
    exact exec_next rfl ((pageWalk_unasked hva hpart hasn hroot htop hq).trans hserve)
  · intro u r hw hleaf hstall
    refine exec_next rfl ((pageWalk_unasked hva hpart hasn hroot htop hq).trans ((serveWalk_ends hw hstall).trans ?_))
    cases r with
    | leaf lv e pa => exact absurd rfl (hleaf lv e pa)
    | absent | poisoned | stall => rfl
  · intro u hw
    exact exec_next rfl ((pageWalk_unasked hva hpart hasn hroot htop hq).trans (serveWalk_stall hw))
  · intro r a u res hva hr ha hw hstall
    obtain ⟨rfl, rfl, hpage⟩ := of_decide_eq_true (List.find?_some (p := fun r : WalkReq => r.covers part asn va) hr)
    refine ⟨_, exec_next rfl ((pageWalk_asked hva hr).trans (serveWalk_ends hw hstall)), ?_⟩
    rw [ha, Slot.answer_congr _ _ _ _ (show va / 16384 = r.page * 16384 / 16384 by omega)]
    exact answer_answerWalk ..
  · exact fun s n => ⟨_, rfl, fun _ => watchWake_watch, fun _ hw hmet _ => watchWake_wakes hw hmet⟩
  · exact fun s gs key thr via h => ⟨fun hmet => exec_next rfl ((waitPoll_event h).trans (if_pos hmet)),
      fun hmet => exec_next rfl ((waitPoll_event h).trans (if_neg (by simp [hmet])))⟩
  · intro s gs mask all h
    exact ⟨fun hw => exec_next rfl (waitWake_met h hw), fun e hw he hle => exec_next rfl (waitWake_expired h hw he hle),
      fun e hw he hlt => exec_next rfl (waitWake_early h hw he hlt), fun hw he => exec_next rfl (waitWake_untimed h hw he)⟩

/-! ## Pages in the holding buffer -/

/-- No page of the holding buffer of slice `n` is the page named. -/
def Unheld (n part asn vpn : Nat) (s : State) : Prop := ∀ h ∈ (s.slice n).holding, h.names part asn vpn = false

section

variable {s : State} {n part asn vpn : Nat}

theorem Unheld.of_slices {t : State} (h : Unheld n part asn vpn s) (e : t.slices = s.slices) : Unheld n part asn vpn t := by
  unfold Unheld State.slice
  rw [e]
  exact h

/-- A slice that keeps the buffer it had, here or in an earlier state. -/
theorem Unheld.keepSlice {t : State} {m : Nat} {y : Slice} (h : Unheld n part asn vpn s) (ht : Unheld n part asn vpn t)
    (hy : y.holding = (t.slice m).holding) : Unheld n part asn vpn (s.setSlice m y) := by
  unfold Unheld
  by_cases hn : n = m
  · subst hn
    rw [State.slice_setSlice_self, hy]
    exact ht
  · rw [State.slice_setSlice_ne _ _ hn]
    exact h

theorem Unheld.ite {c : Prop} [Decidable c] {a b : State} (ha : Unheld n part asn vpn a) (hb : Unheld n part asn vpn b) :
    Unheld n part asn vpn (if c then a else b) := by
  split <;> assumption

theorem Unheld.foldl {α : Type} {f : State → α → State} {l : List α} (h : Unheld n part asn vpn s)
    (hf : ∀ s x, Unheld n part asn vpn s → Unheld n part asn vpn (f s x)) : Unheld n part asn vpn (l.foldl f s) := by
  induction l generalizing s with
  | nil => exact h
  | cons x l ih => exact ih (hf s x h)

theorem Unheld.setCore (c : Nat) (k : Core) (h : Unheld n part asn vpn s) : Unheld n part asn vpn (s.setCore c k) :=
  h.of_slices rfl

theorem Unheld.setPoison (key : Nat) (h : Unheld n part asn vpn s) : Unheld n part asn vpn (s.setPoison key) :=
  h.of_slices rfl

theorem Unheld.setDir (key : Nat) (d : Dir) (h : Unheld n part asn vpn s) : Unheld n part asn vpn (s.setDir key d) :=
  h.keepSlice h rfl

theorem Unheld.meetBad (key : Nat) (h : Unheld n part asn vpn s) : Unheld n part asn vpn (s.meetBad key) :=
  .ite (.setPoison _ (.keepSlice h h rfl)) h

/-- A dirty line of a held page is marked on its entry, which keeps its name. -/
theorem Unheld.markUnbacked (key : Nat) (h : Unheld n part asn vpn s) : Unheld n part asn vpn (s.markUnbacked key) := by
  unfold State.markUnbacked Unheld
  dsimp only
  by_cases hn : n = (unbackedPage key).1
  · rw [← hn, State.slice_setSlice_self]
    intro g hg
    obtain ⟨g', hg', rfl⟩ := List.mem_map.1 hg
    split
    · exact h g' hg'
    · exact h g' hg'
  · rw [State.slice_setSlice_ne _ _ hn]
    exact h

theorem Unheld.markDirty (key : Nat) (mask : BitVec 8) (h : Unheld n part asn vpn s) :
    Unheld n part asn vpn (s.markDirty key mask) := by
  refine .ite (h.markUnbacked key) ?_
  dsimp only
  split
  · exact h
  · exact h.keepSlice h rfl

theorem Unheld.homePokes (key : Nat) (ps : List (Nat × Byte)) (h : Unheld n part asn vpn s) :
    Unheld n part asn vpn (s.homePokes key ps) := .ite h ((h.markDirty key _).of_slices rfl)

theorem Unheld.sendTracked (c sec : Nat) (h : Unheld n part asn vpn s) : Unheld n part asn vpn (s.sendTracked c sec) := by
  unfold State.sendTracked
  split
  · exact h
  · exact .ite h (.setCore _ _ (.ite ((h.homePokes _ _).setPoison _) (h.homePokes _ _)))

theorem Unheld.recallFor (c key : Nat) (h : Unheld n part asn vpn s) : Unheld n part asn vpn (s.recallFor c key) := by
  unfold State.recallFor
  split
  · refine .ite h (.setDir _ _ (h.foldl fun s sec h => ?_))
    dsimp only
    split
    · exact .ite ((h.sendTracked _ _).setCore _ _) (h.sendTracked _ _)
    · exact h.sendTracked _ _
  · exact h

theorem Unheld.recallSector (key : Nat) (h : Unheld n part asn vpn s) : Unheld n part asn vpn (s.recallSector key) := by
  unfold State.recallSector
  split
  · exact h.sendTracked _ _
  · exact h

theorem Unheld.invalidateSector (key : Nat) (h : Unheld n part asn vpn s) :
    Unheld n part asn vpn (s.invalidateSector key) :=
  (h.recallSector key).foldl fun _ _ h => h.setCore _ _

theorem Unheld.evictLine (m line : Nat) (h : Unheld n part asn vpn s) : Unheld n part asn vpn (s.evictLine m line) := by
  have hd := ((h.recallFor 256 (line * 256)).foldl (l := ((s.recallAny (line * 256)).dirOf (line * 256)).cores
    ((s.recallAny (line * 256)).homeDie (line * 256))) fun s o h => h.foldl (f := fun s sec => s.dropL1 o sec)
      (l := sectorsOf (line * 256)) fun _ _ h => h.setCore _ _).setDir (line * 256) .unc
  exact .keepSlice (hd.foldl fun _ _ h => .ite (h.setPoison _) h) hd rfl

theorem Unheld.placeLine (m line w : Nat) (h : Unheld n part asn vpn s) : Unheld n part asn vpn (s.placeLine m line w) := by
  have hs : Unheld n part asn vpn (match s.lineAt m w (s.lineSet (line * 256)) with
      | some e => if e.1 = line then s else s.evictLine m e.1
      | none => s) := by
    split
    · exact .ite h (h.evictLine _ _)
    · exact h
  exact hs.keepSlice hs rfl

theorem Unheld.atHome (p key : Nat) (h : Unheld n part asn vpn s) : Unheld n part asn vpn (s.atHome p key) := by
  have hm := h.meetBad key
  refine .ite hm ?_
  split
  · exact hm.keepSlice hm rfl
  · split
    · exact hm.placeLine _ _ _
    · exact hm

theorem Unheld.mergeHome (p key : Nat) (ps : List (Nat × Byte)) (h : Unheld n part asn vpn s) :
    Unheld n part asn vpn (s.mergeHome p key ps) :=
  (((h.atHome p key).recallSector key).homePokes key ps).invalidateSector key

/-- A first touch takes a frame, and leaves the buffer as it is. -/
theorem Unheld.bindPage {t : State} {key leafPa : Nat} {leaf : Word} (h : Unheld n part asn vpn s)
    (e : s.bindPage key leafPa leaf = some t) : Unheld n part asn vpn t := by
  unfold State.bindPage at e
  split at e
  · dsimp only at e
    split at e
    · cases e; exact h
    · split at e
      · cases e
      · split at e <;> cases e
        exact h.keepSlice h rfl
  · cases e; exact h

theorem Unheld.crossPokes (p key leafPa : Nat) (leaf : Word) (ps : List (Nat × Byte)) (c : Nat) (h : Unheld n part asn vpn s) :
    Unheld n part asn vpn (s.crossPokes p key leafPa leaf ps c) := by
  unfold State.crossPokes
  split
  · exact h
  · next e =>
    have hm := fun qs => (h.bindPage e).mergeHome p key qs
    exact .ite (hm _) (.keepSlice (hm _) (hm _) rfl)

theorem Unheld.writeBack (c sec : Nat) (h : Unheld n part asn vpn s) : Unheld n part asn vpn (s.writeBack c sec) := by
  unfold State.writeBack
  split
  · exact h
  · have hc := fun p key leafPa leaf ps => h.crossPokes p key leafPa leaf ps c
    exact .ite h (.ite (.setCore _ _ (.ite ((hc _ _ _ _ _).setPoison _) (hc _ _ _ _ _))) (h.sendTracked _ _))

theorem Unheld.evictSector (c sec : Nat) (h : Unheld n part asn vpn s) : Unheld n part asn vpn (s.evictSector c sec) :=
  (h.writeBack c sec).setCore _ _

theorem Unheld.evict (c sec : Nat) (h : Unheld n part asn vpn s) : Unheld n part asn vpn (s.evict c sec) := by
  unfold State.evict
  split
  · exact h
  · exact .ite (.setDir _ _ (h.foldl fun _ _ h => h.evictSector _ _)) (h.evictSector _ _)

theorem Unheld.evictPage (key : Nat) (h : Unheld n part asn vpn s) : Unheld n part asn vpn (s.evictPage key) :=
  h.foldl fun _ _ h => h.foldl fun _ _ h => h.evict _ _

/-! ## Leaving a frame (R104, R105) -/

theorem dropPage_pages (x : Slice) {f : FrameRec} (hf : f ∈ (x.dropPage part asn vpn).pages) :
    f.names part asn vpn = false := by
  simpa using (List.mem_filter.1 hf).2

/-- A page that goes to the holding buffer is bound to no frame of the slice any more. -/
theorem toHolding_pages (leafPa : Nat) (leaf : Word) (dirty : BitVec 64) (cause frame : Nat) {f : FrameRec}
    (hf : f ∈ ((s.toHolding n part asn vpn leafPa leaf dirty cause frame).slice n).pages) : f.names part asn vpn = false := by
  have hpages : ((s.toHolding n part asn vpn leafPa leaf dirty cause frame).slice n).pages =
      (((s.meetPage (unbackedKey n part asn vpn 0) dirty).slice n).dropPage part asn vpn).pages := by
    unfold State.toHolding
    dsimp only
    split
    · split
      · simp [State.slice, State.setSlice, State.evictEvent, State.postEvent, State.postRecord]
      · simp
    · simp [State.slice, State.setSlice]
  rw [hpages] at hf
  exact dropPage_pages _ hf

/-- A page without LATE goes to the holding buffer, unless its lines stand in it already. -/
theorem leavePage_not_late {m leafPa : Nat} {leaf : Word} {d : BitVec 64}
    (hp : s.findPage part asn vpn = some (m, leafPa, leaf, d))
    (hlate : bitOf leaf 61 = false) (h : Unheld n part asn vpn s) :
    ∃ dirty, s.leavePage n part asn vpn =
      (s.evictPage (unbackedKey n part asn vpn 0)).toHolding n part asn vpn leafPa leaf dirty 3 0 := by
  have hbuffer : ((s.evictPage (unbackedKey n part asn vpn 0)).slice n).holding.any (·.names part asn vpn) = false :=
    List.any_eq_false.2 fun g hg => by simp [h.evictPage _ g hg]
  simp only [State.leavePage, hp, hlate, hbuffer, Bool.false_eq_true, if_false]
  exact ⟨_, rfl⟩

/-! ## The holding buffer (R106, R107) -/

/-- Set bits that all stand in a list are no more than its members. -/
theorem popc64_le_length {w : BitVec 64} {l : List Nat} (h : ∀ i, w.getLsbD i = true → i ∈ l) : popc64 w ≤ l.length :=
  ((List.nodup_range.filter _).subperm fun i hi => h i (List.mem_filter.1 hi).2).length_le

theorem popc64_or_le (v w : BitVec 64) : popc64 (v ||| w) ≤ popc64 v + popc64 w := by
  unfold popc64
  rw [← List.length_append]
  refine ((List.nodup_range.filter _).subperm fun i hi => ?_).length_le
  have hbit := (List.mem_filter.1 hi).2
  rw [BitVec.getLsbD_or, Bool.or_eq_true] at hbit
  rw [List.mem_append, List.mem_filter, List.mem_filter]
  exact hbit.imp (⟨(List.mem_filter.1 hi).1, ·⟩) (⟨(List.mem_filter.1 hi).1, ·⟩)

theorem getLsbD_foldl_or {l : List Nat} {acc : BitVec 64} {i : Nat}
    (h : (l.foldl (fun acc i => acc ||| (1#64 <<< i)) acc).getLsbD i = true) : acc.getLsbD i = true ∨ i ∈ l := by
  induction l generalizing acc with
  | nil => exact .inl h
  | cons j l ih =>
    rcases ih h with hacc | hl
    · rw [BitVec.getLsbD_or, Bool.or_eq_true] at hacc
      refine hacc.imp id fun hj => List.mem_cons.2 (.inl ?_)
      simp at hj
      omega
    · exact .inr (List.mem_cons_of_mem _ hl)

theorem popc64_lowLines (m : BitVec 64) (n : Nat) : popc64 (lowLines m n) ≤ n := by
  refine (popc64_le_length fun i hi => ?_).trans (List.length_take_le n ((List.range 64).filter (fun i => m.getLsbD i)))
  exact (getLsbD_foldl_or hi).resolve_left (by simp)

/-- The lines of a list of pages that stand in the buffer. -/
def linesHeld (l : List HeldPage) : Nat := (l.map (fun h => popc64 h.held)).sum

/-- One page of `holdingEntry`: its lowest lines that wait enter while there is room. -/
def enterPage (n : Nat) (acc : Nat × List HeldPage × List Event) (h : HeldPage) : Nat × List HeldPage × List Event :=
  let take := lowLines h.waiting acc.1
  (acc.1 - popc64 take, acc.2.1 ++ [{ h with held := h.held ||| take, waiting := h.waiting &&& ~~~take }],
    acc.2.2 ++ (if h.held = 0 ∧ take ≠ 0 then [Event.unbackedEvict n] else []))

theorem enterPages_room (l : List HeldPage) (acc : Nat × List HeldPage × List Event) :
    linesHeld (l.foldl (enterPage n) acc).2.1 + (l.foldl (enterPage n) acc).1 ≤ linesHeld acc.2.1 + acc.1 + linesHeld l ∧
      (l.foldl (enterPage n) acc).2.1.length = acc.2.1.length + l.length := by
  induction l generalizing acc with
  | nil => simp [linesHeld]
  | cons h l ih =>
    obtain ⟨hroom, hlen⟩ := ih (enterPage n acc h)
    have htake := popc64_lowLines h.waiting acc.1
    have hheld := popc64_or_le h.held (lowLines h.waiting acc.1)
    have hstep : linesHeld (enterPage n acc h).2.1 + (enterPage n acc h).1 ≤ linesHeld acc.2.1 + acc.1 + popc64 h.held := by
      simp only [enterPage, linesHeld, List.map_append, List.map_cons, List.map_nil, List.sum_append, List.sum_cons, List.sum_nil]
      omega
    simp only [List.foldl_cons, List.length_cons, linesHeld, List.map_cons, List.sum_cons] at *
    refine ⟨by omega, hlen.trans ?_⟩
    simp [enterPage]
    omega

theorem holdingEntry_holding (s : State) (n : Nat) : ((s.holdingEntry n).slice n).holding =
    ((s.slice n).holding.foldl (enterPage n) (64 - (s.slice n).heldLines, [], [])).2.1 :=
  congrArg Slice.holding (State.slice_setSlice_self ..)

theorem holdingEntry_pages (s : State) (n : Nat) : ((s.holdingEntry n).slice n).pages = (s.slice n).pages :=
  (congrArg Slice.pages (State.slice_setSlice_self ..)).trans rfl

theorem unbackedEvict_first {h : HeldPage}
    (hh : (s.slice n).holding.find? (fun h => !decide (h.held = 0) && !h.posted) = some h) :
    s.unbackedEvict n = (s.evictEvent n h).setSlice n { s.slice n with
      holding := (s.slice n).holding.map (fun g => if g = h then { g with posted := true } else g) } := by
  simp only [State.unbackedEvict, hh]

/-! ## Retirement (R111) -/

/-- Changes that leave the slices alone leave them so in a row. -/
theorem slices_foldl {α : Type} {f : State → α → State} (hf : ∀ t x, (f t x).slices = t.slices) (l : List α) (t : State) :
    (l.foldl f t).slices = t.slices := by
  induction l generalizing t with
  | nil => rfl
  | cons x l ih => exact (ih (f t x)).trans (hf t x)

theorem slices_meetLines (s : State) (n : Nat) : (s.meetLines n).slices = s.slices := by
  refine slices_foldl (fun t b => ?_) _ s
  split
  · split <;> rfl
  · rfl

theorem slice_congr {t : State} (h : t.slices = s.slices) (n : Nat) : t.slice n = s.slice n := by
  unfold State.slice
  rw [h]

theorem dir_meetPage (s : State) (key : Nat) (dirty : BitVec 64) (n : Nat) :
    ((s.meetPage key dirty).slice n).dir = (s.slice n).dir := by
  unfold State.meetPage
  dsimp only
  rw [slice_congr (slices_foldl (fun t b => by split <;> rfl) _ _) n]
  by_cases hn : n = s.homeSlice key
  · rw [hn, State.slice_setSlice_self]
  · rw [State.slice_setSlice_ne _ _ hn]

theorem dir_meetPages (l : List FrameRec) (t : State) (n m : Nat) :
    ((l.foldl (fun s f => s.meetPage (unbackedKey m f.part f.asn f.vpn 0) f.dirty) t).slice n).dir = (t.slice n).dir := by
  induction l generalizing t with
  | nil => rfl
  | cons f l ih => exact (ih _).trans (dir_meetPage ..)

theorem dir_dropCopies (s : State) (n : Nat) : ((s.dropCopies n).slice n).dir = [] :=
  congrArg Slice.dir (State.slice_setSlice_self ..)

/-- A retired slice is one without directory state whose lines, pins and frames are gone. -/
theorem retire_slice (s : State) (n : Nat) : ∃ x : Slice, x.dir = [] ∧ (s.retire n).slice n =
    { x with retired := true, lines := [], pinned := [], frames := [], badData := [], badSets := [] } := by
  refine ⟨((((s.dropCopies n).meetLines n).slice n).pages.foldl
    (fun s f => s.meetPage (unbackedKey n f.part f.asn f.vpn 0) f.dirty) ((s.dropCopies n).meetLines n)).slice n, ?_, ?_⟩
  · rw [dir_meetPages, slice_congr (slices_meetLines ..), dir_dropCopies]
  · simp [State.retire, State.slice, State.setSlice]

end

theorem unbackedPages : Claims.UnbackedPages := by
  refine ⟨fun s n part asn vpn hp => ?_, fun s n part asn vpn m pa leaf d hp hlate hfree => ?_, fun s n hroom => ?_,
    fun s n h hh => ?_, fun s n => ⟨s.retire n, rfl, ?_⟩⟩
  · exact exec_next rfl (by simp only [State.leavePage, hp])
  · have hunheld : Unheld n part asn vpn s := fun g hg => decide_eq_false (hfree g hg)
    obtain ⟨dirty, hleave⟩ := leavePage_not_late hp hlate hunheld
    exact ⟨_, exec_next rfl hleave, fun f hf => of_decide_eq_false (toHolding_pages _ _ _ _ _ hf)⟩
  · obtain ⟨htotal, hlen⟩ := enterPages_room (n := n) (s.slice n).holding (64 - (s.slice n).heldLines, [], [])
    rw [← holdingEntry_holding] at htotal hlen
    refine ⟨s.holdingEntry n, rfl, ?_, holdingEntry_pages s n, by simpa using hlen⟩
    have hbefore : linesHeld (s.slice n).holding = (s.slice n).heldLines := rfl
    have hafter : linesHeld ((s.holdingEntry n).slice n).holding = ((s.holdingEntry n).slice n).heldLines := rfl
    have hempty : linesHeld [] = 0 := rfl
    dsimp only at htotal
    omega
  · refine ⟨_, _, exec_next rfl (unbackedEvict_first hh), rfl, rfl, rfl, fun g hg => ?_⟩
    have hfirst := List.find?_some (p := fun h : HeldPage => !decide (h.held = 0) && !h.posted) hh
    have hposted : h.posted = false := by simpa using (Bool.and_eq_true_iff.1 hfirst).2
    rw [State.slice_setSlice_self] at hg
    obtain ⟨g', -, rfl⟩ := List.mem_map.1 hg
    split
    · simp
    · next hne =>
      intro h1 h2 h3 h4 h5 h6 h7 h8 h9
      refine Bool.eq_true_of_not_eq_false fun hp => hne ?_
      obtain ⟨⟩ := g'
      obtain ⟨⟩ := h
      simp_all
  · obtain ⟨x, hdir, hx⟩ := retire_slice s n
    rw [hx]
    exact ⟨rfl, rfl, rfl, rfl, hdir⟩

/-- Settles O40: walks and wakes, then the pages that leave their frames. -/
theorem walkAndFrameSteps : Obligations.WalkAndFrameSteps := ⟨walksAndWakes, unbackedPages⟩

end Sys2Proof.Machine

/-! # A discarded line that comes back poisoned

What `CL.DISC` over two lines leaves when the slice of the second holds the first (O32). -/

namespace Sys2Proof.Machine

open Sys2Proof.Safety

/-- The first line of the page at 0x20000, with a dirty sector. -/
def strayLine : SliceLine := { way := 0, used := 0, valid := BitVec.allOnes 8, dirty := 1, under := [], underBad := [] }

/-- The thread of P0 in slot 0, with the address and the length of two lines in g1 and g2. Slice 1, the home of the second
line, holds the first one, whose home is slice 0, in the one way that P0 allocates there, and an error stands in its dirty
sector. -/
def holdsStray : State :=
  let s : State := { State.reset.withFetchWord 16 0 with
    cur := 0, iss := { Issue.reset with len := 2, npc := 0x10002, charge := true } }
  let s := s.setMe { s.me with g := (s.me.g.set 1 0x20000).set 2 512 }
  let s := s.setPart 0 { s.part 0 with ways := [(1, 1)] }
  s.setSlice 1 { s.slice 1 with lines := [(0x200, strayLine)], badData := [0x1000] }

/-- The poison that stands after an instruction, where it completes. -/
def poisonAfter (i : Instr) (s : State) : Option (SMap Nat) :=
  match exec i s with
  | .next v => some v.poison
  | _ => none

/-- The key and ATTR of a translation, and whether `n` bytes at its place stall. -/
def placeTaken (r : State × Except XStop Loc) (n : Nat) : Option (Nat × Nat × Bool) :=
  match r with
  | (u, .ok l) => some (l.key, l.attr, u.rangeStalls u.me.part l.key n)
  | _ => none

/-- The translation of 0x20000 as `CL.DISC` asks for it. -/
def strayXlate : State × Except XStop Loc := holdsStray.xlate holdsStray.asker holdsStray.me.ptroot .w true 0x20000

@[simp] theorem State.chargeIssue_poison (s : State) : s.chargeIssue.poison = s.poison := by
  unfold State.chargeIssue
  split
  · exact s.charge_poison s.cur
  · rfl

@[simp] theorem State.commit_poison (s : State) : s.commit.poison = s.poison := by
  rw [State.commit_eq, State.chargeIssue_poison, State.setMe_poison]

theorem poisonAfter_commit {i : Instr} {s w : State} (h : exec i s = .next w.commit) : poisonAfter i s = some w.poison := by
  simp [poisonAfter, h]

/-- `CL.DISC` discards the first line, then puts the second one into the way where slice 1 holds the first: the line that leaves
that way leaves its error in DRAM. -/
theorem clDisc_holdsStray_poison : poisonAfter (.clDisc 1 2) holdsStray = some [(0x1000, 0)] := by
  decide +kernel

theorem strayXlate_place : placeTaken strayXlate 512 = some (0x20000, 0, false) := by
  decide +kernel

theorem holdsStray_memoryFree : MemoryFree holdsStray := by
  unfold MemoryFree
  decide +kernel

theorem holdsStray_ready : done (ready [(1 : Reg).val, (2 : Reg).val] []) holdsStray = some ((), holdsStray) := by
  decide +kernel

theorem strayXlate_eq : ∃ u l, strayXlate = (u, .ok l) ∧ l.key = 0x20000 ∧ l.attr = 0 ∧
    u.rangeStalls u.me.part l.key 512 = false := by
  have h := strayXlate_place
  rcases hx : strayXlate with ⟨u, e | l⟩ <;> rw [hx] at h
  · cases h
  · simp only [placeTaken, Option.some.injEq, Prod.mk.injEq] at h
    obtain ⟨hkey, hattr, hstall⟩ := h
    exact ⟨u, l, rfl, hkey, hattr, hstall⟩

/-- Refutes O32: `CL.DISC` of two lines leaves poison on the first where the slice of the second held it, a state that the claim
does not shut out. -/
theorem not_cacheAndFrameInstructions : ¬ Obligations.CacheAndFrameInstructions := by
  unfold Obligations.CacheAndFrameInstructions Claims.CacheRanges
  rintro ⟨hranges, -⟩
  obtain ⟨-, hpage⟩ := hranges holdsStray holdsStray .dflt .die 1 2 0x20000 512 holdsStray_memoryFree holdsStray_ready
  obtain ⟨u, l, hxlate, hkey, hattr, hstalls⟩ := strayXlate_eq
  obtain ⟨-, hdisc⟩ := hpage u l (by decide) (by decide) (by decide +kernel) (by omega) hstalls
  obtain ⟨w, hexec, -, -, -, hpoison⟩ :=
    hdisc (by decide +kernel) hxlate (by decide) (by decide) (by omega)
  have hmark : w.poison = [(0x1000, 0)] :=
    Option.some.inj ((poisonAfter_commit hexec).symm.trans clDisc_holdsStray_poison)
  refine hpoison (0x1000, 0) (by simp [hmark]) ?_
  rw [hkey]
  decide

end Sys2Proof.Machine

/-! # Local memory

What the checks of an LM access come to where they pass, and what each LM form then ends in (R118, R119, R231, R235 to
R237). -/

namespace Sys2Proof.Machine

open Sys2Proof.Safety

/-! ## Checks that pass -/

section
variable {s : State} {c : Bool} {code : Nat} {a : Word}

theorem needP_of (h : c = true) : needP c code a s = .ok ((), s) := needP_eq_ok.2 ⟨h, rfl⟩
theorem needL_of (h : c = true) : needL c code a s = .ok ((), s) := needL_eq_ok.2 ⟨h, rfl⟩
theorem needW_of (h : c = true) : needW c s = .ok ((), s) := needW_eq_ok.2 ⟨h, rfl⟩

end

/-! ## Checks of an access -/

theorem memoryFree_apply {s : State} (h : MemoryFree s) : memoryTurn s = .ok ((), s) := by
  obtain ⟨⟨u, t⟩, ht⟩ := Option.isSome_iff_exists.1 h
  rw [done_eq_some] at ht
  simp only [memoryTurn, engineMemoryDone, M.bind_eq_ok, needW_eq_ok, me_apply, Except.ok.injEq, Prod.mk.injEq] at ht
  obtain ⟨_, _, ⟨_, _, ⟨rfl, rfl⟩, queue, rfl⟩, _, _, ⟨rfl, rfl⟩, replay, rfl⟩ := ht
  simp only [memoryTurn, engineMemoryDone, M.bind_apply, me_apply, needW_apply, queue, replay, if_true]

/-- The range check passes where the bytes may be used (R118). -/
theorem lmRange_apply {t : State} {i : Int} {o n : Nat} (h : LmOpen t o n) (hi : i = o) : lmRange i n t = .ok (o, t) := by
  obtain ⟨inside, owned, wiped⟩ := h
  subst hi
  have range : ¬ ((o : Int) < 0 ∨ 2 ^ 19 < (o : Int) + n ∨ lmOwned (t.part t.me.part).banks o n = false) := by
    rintro (h | h | h)
    · omega
    · omega
    · simp [owned] at h
  rw [lmRange, M.bind_ok (get_apply t)]
  simp only [Int.toNat_natCast, if_neg range, M.bind_apply, needW_apply, wiped, Bool.not_false, if_true, M.pure_apply]

theorem lmAligned_apply {t : State} {o n : Nat} (h : o % n = 0) : lmAligned o n t = .ok ((), t) :=
  needL_of (decide_eq_true h)

/-- A read of LM words without an error (R119). -/
theorem lmLoad_apply {t : State} {o n : Nat} (h : LmSound t o n) :
    lmLoad o n t = .ok (ofBytes ((t.core t.myCore).lmBytes o n), t) := by
  rw [lmLoad, M.bind_ok (myCore_apply t), show (t.core t.myCore).lmError o n = none from h]
  rfl

/-- A store that reads no LM word with an error (R119). -/
theorem lmStore_apply {t : State} {o n v : Nat} (h : LmWritable t o n) :
    lmStore o n v t = .ok ((), lmPut t o (bytesOf n v)) := by
  rw [lmStore, M.bind_ok (myCore_apply t), show (t.core t.myCore).lmStoreError o n = none from h]
  rfl

/-- A signed load extends the bits that it has read (R172). -/
theorem extendLoaded_signed {n : Nat} (hn : 0 < n) (v : Nat) :
    extendLoaded true n v = (BitVec.ofNat (8 * n) v).signExtend 64 := by
  have half : 2 ^ (8 * n) = 2 * 2 ^ (8 * n - 1) := by rw [← Nat.pow_succ', Nat.succ_eq_add_one, Nat.sub_add_cancel (by omega)]
  have sign : v % 2 ^ (8 * n) < 2 ^ (8 * n - 1) ↔ 2 * (v % 2 ^ (8 * n)) < 2 ^ (8 * n) := by omega
  rw [extendLoaded, if_pos rfl, ofI, sext, BitVec.signExtend, BitVec.toInt_eq_toNat_cond, BitVec.toNat_ofNat]
  simp only [sign]

/-! ## The LM forms -/

section
variable {s t : State} {d a b : Reg} {imm : Int} {x y : Word} {o n : Nat}

/-- `LD.L` gives the bytes at its place, extended (R235). -/
theorem runI_localLoad {sgn : Bool} (hs : MemoryFree s) (ht : Takes s [a.val] [d.val] [x] t) (ho : x.toInt + imm = o)
    (hopen : LmOpen t o n) (hal : o % n = 0) (hsound : LmSound t o n) :
    runI (localLoad n sgn d a imm) s =
      .next (puts t d.val (extendLoaded sgn n (ofBytes ((t.core t.myCore).lmBytes o n)))).commit := by
  obtain ⟨hready, hread⟩ := takes_one.1 ht
  refine runI_ok ?_
  rw [localLoad, M.bind_ok (memoryFree_apply hs), M.bind_ok hready, M.bind_ok hread, M.bind_ok (lmRange_apply hopen ho),
    M.bind_ok (lmAligned_apply hal), M.bind_ok (lmLoad_apply hsound)]
  rfl

theorem runI_localLoad_signed (hn : 0 < n) (hs : MemoryFree s) (ht : Takes s [a.val] [d.val] [x] t)
    (ho : x.toInt + imm = o) (hopen : LmOpen t o n) (hal : o % n = 0) (hsound : LmSound t o n) :
    runI (localLoad n true d a imm) s =
      .next (puts t d.val ((BitVec.ofNat (8 * n) (ofBytes ((t.core t.myCore).lmBytes o n))).signExtend 64)).commit :=
  extendLoaded_signed hn _ ▸ runI_localLoad hs ht ho hopen hal hsound

/-- `ST.L` writes the low bytes of its word at its place (R235). -/
theorem runI_localStore (hs : MemoryFree s) (ht : Takes s [d.val, a.val] [] [y, x] t) (ho : x.toInt + imm = o)
    (hopen : LmOpen t o n) (hal : o % n = 0) (hw : LmWritable t o n) :
    runI (localStore n d a imm) s = .next (lmPut t o (bytesOf n y.toNat)).commit := by
  obtain ⟨hready, u, hread, hread'⟩ := takes_two.1 ht
  refine runI_ok ?_
  rw [localStore, M.bind_ok (memoryFree_apply hs), M.bind_ok hready, M.bind_ok hread, M.bind_ok hread',
    M.bind_ok (lmRange_apply hopen ho), M.bind_ok (lmAligned_apply hal), lmStore_apply hw]

/-- `STT` writes the tag of the block of its place (R237). -/
theorem stt_writes (hs : MemoryFree s) (ht : Takes s [a.val, b.val] [] [x, y] t) (hopen : LmOpen t x.toNat 1)
    (hf : ∀ k ∈ lmBanksOf x.toNat 1, (t.core t.myCore).fenced k = false) :
    exec (.stt a b) s =
      .next (t.setCore t.myCore ((t.core t.myCore).setTag (x.toNat / 256) (y.setWidth 48))).commit := by
  obtain ⟨hready, u, hread, hread'⟩ := takes_two.1 ht
  have unfenced : (lmBanksOf x.toNat 1).any (fun k => (t.core t.myCore).fenced k) = false :=
    List.any_eq_false.2 fun k hk => by simp [hf k hk]
  refine runI_ok ?_
  rw [M.bind_ok (memoryFree_apply hs), M.bind_ok hready, M.bind_ok hread, M.bind_ok hread',
    M.bind_ok (lmRange_apply hopen rfl), M.bind_ok (myCore_apply t), unfenced]
  rfl

end

/-- A field of a tag is that of a word which has the same bits there. -/
theorem fld_of_extractLsb'_eq {g : BitVec 48} {y : Word} {hi lo : Nat}
    (h : g.extractLsb' lo (hi + 1 - lo) = y.extractLsb' lo (hi + 1 - lo)) : fld (ofN g.toNat) hi lo = fld y hi lo := by
  have same := congrArg BitVec.toNat h
  rw [BitVec.extractLsb'_toNat, BitVec.extractLsb'_toNat, Nat.shiftRight_eq_div_pow, Nat.shiftRight_eq_div_pow] at same
  have word : (ofN g.toNat).toNat = g.toNat := Nat.mod_eq_of_lt (by have := g.isLt; omega)
  rw [fld, nbits, word]
  exact same

/-- `LDT` gives the word at its place where the tag is the expected one and no older than the partition allows (R236, R371). -/
theorem ldt_loads {s t : State} {d a b : Reg} {x y : Word} {only : Bool} (hs : MemoryFree s)
    (ht : Takes s [a.val, b.val] [d.val] [x, y] t) (hopen : LmOpen t x.toNat 8) (hal : x.toNat % 8 = 0)
    (hsound : LmSound t x.toNat 8) (hbad : x.toNat / 256 ∉ (t.core t.myCore).tagBad)
    (hscan : ((t.core t.myCore).tag (x.toNat / 256)).extractLsb' 16 32 = y.extractLsb' 16 32)
    (hstep : only = true ∨ ((t.core t.myCore).tag (x.toNat / 256)).extractLsb' 0 16 = y.extractLsb' 0 16)
    (hage : ((t.core t.myCore).scan + 2 ^ 32 - fld y 47 16) % 2 ^ 32 ≤ fld (t.part t.me.part).w9 7 0) :
    exec (.ldt only d a b) s =
      .next (puts t d.val (BitVec.ofNat 64 (ofBytes ((t.core t.myCore).lmBytes x.toNat 8)))).commit := by
  obtain ⟨hready, u, hread, hread'⟩ := takes_two.1 ht
  have unfenced : (lmBanksOf x.toNat 8).any (fun k => (t.core t.myCore).fenced k) = false := by
    by_contra h
    rw [LmSound, Core.lmError, Core.lmFenced, if_pos (by simpa using h)] at hsound
    cases hsound
  have sound : (t.core t.myCore).tagBad.any (fun k => decide (k = x.toNat / 256)) = false :=
    List.any_eq_false.2 fun k hk hx => hbad (of_decide_eq_true hx ▸ hk)
  have scan : fld (ofN ((t.core t.myCore).tag (x.toNat / 256)).toNat) 47 16 = fld y 47 16 := fld_of_extractLsb'_eq hscan
  have tag : (decide (fld (ofN ((t.core t.myCore).tag (x.toNat / 256)).toNat) 47 16 = fld y 47 16) &&
      (only || decide (fld (ofN ((t.core t.myCore).tag (x.toNat / 256)).toNat) 15 0 = fld y 15 0))) = true := by
    rcases hstep with rfl | h
    · simp [scan]
    · simp [scan, fld_of_extractLsb'_eq (hi := 15) h]
  refine runI_ok ?_
  rw [ldtOp, M.bind_ok (memoryFree_apply hs), M.bind_ok hready, M.bind_ok hread, M.bind_ok hread',
    M.bind_ok (lmRange_apply hopen rfl), M.bind_ok (lmAligned_apply hal), M.bind_ok (myCore_apply t), unfenced, sound]
  refine (M.bind_ok (needL_of tag)).trans ?_
  rw [M.bind_ok (get_apply t)]
  dsimp only
  rw [scan, if_neg (Nat.not_lt.2 hage), M.bind_ok (lmLoad_apply hsound)]
  rfl

/-- Settles O12: each form runs its checks in turn, which the premises let pass, and ends in its access. -/
theorem localMemoryResults : Obligations.LocalMemoryResults := by
  unfold Obligations.LocalMemoryResults
  refine ⟨fun s t d a imm x o hs ht ho => ⟨?_, ?_, fun hopen hal hsound => runI_localLoad hs ht ho hopen hal hsound⟩,
    fun s t d a imm y x o hs ht ho => ⟨?_, fun hopen hal hw => runI_localStore hs ht ho hopen hal hw⟩,
    fun s t a b x y hs ht hopen hf => stt_writes hs ht hopen hf,
    fun s t d a b x y only hs ht hopen hal hsound hbad htag hage =>
      ldt_loads hs ht hopen hal hsound hbad htag.1 htag.2 hage⟩
  · rintro e n (⟨rfl, rfl⟩ | ⟨rfl, rfl⟩ | ⟨rfl, rfl⟩ | ⟨rfl, rfl⟩) hopen hal hsound <;>
      exact runI_localLoad hs ht ho hopen hal hsound
  · rintro e n (⟨rfl, rfl⟩ | ⟨rfl, rfl⟩ | ⟨rfl, rfl⟩) hopen hal hsound <;>
      exact runI_localLoad_signed (by decide) hs ht ho hopen hal hsound
  · rintro e n (⟨rfl, rfl⟩ | ⟨rfl, rfl⟩ | ⟨rfl, rfl⟩ | ⟨rfl, rfl⟩) hopen hal hw <;>
      exact runI_localStore hs ht ho hopen hal hw

end Sys2Proof.Machine

/-! # The Treadle and the Carter's instructions

`TR.DEF`, `TR.GO`, `TR.WAIT` and `TR.STOP` (R288 to R291), and how a Carter command joins its queue and how the queue is
read and emptied (R125, R127, R258 to R260). -/

namespace Sys2Proof.Machine

open Sys2Proof.Safety

/-! ## The Treadle (R288 to R291) -/

section
variable {s t : State}

/-- The fields of the operand of `TR.DEF`. -/
theorem trDef_fields {n a0 a1 : Nat} (hn : 1 ≤ n) (hn' : n ≤ 16) (h0 : a0 < 32) (h1 : a1 < 32) :
    nbits (a1 * 512 + a0 * 16 + (n - 1)) 3 0 + 1 = n ∧ nbits (a1 * 512 + a0 * 16 + (n - 1)) 8 4 = a0 ∧
      nbits (a1 * 512 + a0 * 16 + (n - 1)) 13 9 = a1 ∧ (a1 * 512 + a0 * 16 + (n - 1)) / 2 ^ 14 = 0 := by
  simp only [nbits]
  omega

theorem trDef_starts {n a0 a1 : Nat} (hn : 1 ≤ n) (hn' : n ≤ 16) (h0 : a0 < 24 ∨ a0 = 31) (h1 : a1 < 24 ∨ a1 = 31)
    (hne : a0 = a1 → a0 = 31) (hidle : s.me.tr.active = false) :
    exec (.trDef (a1 * 512 + a0 * 16 + (n - 1))) s = .next (s.setMe { s.me with tr :=
      { s.me.tr with buf := [], capture := n, areg0 := a0, areg1 := a1 } }).commit := by
  obtain ⟨hlen, hreg0, hreg1, hhigh⟩ := trDef_fields hn hn' (a0 := a0) (a1 := a1) (by omega) (by omega)
  have legal : (decide ((a1 * 512 + a0 * 16 + (n - 1)) / 2 ^ 14 = 0) && !decide (24 ≤ a0 ∧ a0 < 31) &&
      !decide (24 ≤ a1 ∧ a1 < 31) && !(decide (a0 = a1) && decide (a0 < 24))) = true := by
    simp only [hhigh, decide_true, Bool.true_and, Bool.and_eq_true, Bool.not_eq_true', decide_eq_false_iff_not,
      Bool.and_eq_false_iff]
    omega
  refine runI_ok ?_
  rw [hlen, hreg0, hreg1]
  refine (M.bind_ok (needP_of legal)).trans ?_
  rw [M.bind_ok (me_apply s), M.bind_ok (needW_of (by simp [hidle]))]
  rfl

/-- The replay that `TR.GO` starts with the increments of `w`, for a slot whose address registers it copies (R289). -/
def Slot.replaying (x : Slot) (w : Word) (count stride : Nat) : Slot :=
  { x with tr := { x.tr with
      active := true, p := 0, j := 0, passes := 0, count := count, stride := stride
      c0 := if x.tr.areg0 < 24 then x.g[x.tr.areg0]! else 0
      c1 := if x.tr.areg1 < 24 then x.g[x.tr.areg1]! else 0
      inc0 := fld w 31 0, inc1 := fld w 63 32 } }

/-- `TR.GO` reads its operand, and starts a replay of a count that is not zero (R289). -/
theorem trGo_starts {a : Reg} {x : Word} {count stride : Nat} (hc : count < 2 ^ 16) (hst : stride < 16)
    (hbuf : s.me.tr.buf ≠ []) (hidle : s.me.tr.active = false)
    (hready : ready ([a.val] ++ [s.me.tr.areg0, s.me.tr.areg1].filter (fun n => decide (n < 24))) [] s = .ok ((), s))
    (hread : readS a.val s = .ok (x, t)) :
    exec (.trGo a (stride * 2 ^ 16 + count)) s =
      .next (if count = 0 then t else t.setMe (t.me.replaying x count stride)).commit := by
  have hcount : nbits (stride * 2 ^ 16 + count) 15 0 = count := by simp only [nbits]; omega
  have hstride : nbits (stride * 2 ^ 16 + count) 19 16 = stride := by simp only [nbits]; omega
  have legal : (decide ((stride * 2 ^ 16 + count) / 2 ^ 20 = 0) && !s.me.tr.buf.isEmpty) = true := by
    simp only [Bool.and_eq_true, decide_eq_true_eq, Bool.not_eq_true', List.isEmpty_eq_false_iff]
    exact ⟨by omega, hbuf⟩
  refine runI_ok ?_
  rw [hcount, hstride, M.bind_ok (me_apply s), M.bind_ok (needP_of legal),
    M.bind_ok (needW_of (by simp [hidle])), M.bind_ok hready, M.bind_ok hread]
  by_cases h0 : count = 0
  · rw [if_pos h0, if_pos h0]
    rfl
  · rw [if_neg h0, if_neg h0]
    rfl

section
variable {d : Reg} (ht : Takes s [] [d.val] [] t)
include ht

theorem trWait_ends (hidle : s.me.tr.active = false) :
    exec (.trWait d) s = .next (puts s d.val (BitVec.ofNat 64 s.me.tr.passes)).commit := by
  refine runI_ok ?_
  rw [M.bind_ok (takes_nil.1 ht).1, M.bind_ok (me_apply s), M.bind_ok (needW_of (by simp [hidle]))]
  rfl

theorem trWait_waits (hactive : s.me.tr.active = true) : exec (.trWait d) s = .next (s.waiting .retry) := by
  refine runI_wait (keep := id) ?_
  rw [M.bind_ok (takes_nil.1 ht).1, M.bind_ok (me_apply s), M.bind_apply, needW_apply, hactive]
  rfl

/-- `TR.STOP` waits exactly while a replay that it ends has matrix steps under way (R291). -/
theorem trStop_ends (h : (∀ w ∈ (s.core s.myCore).matrix, w.slot ≠ s.cur % 16) ∨
      (s.me.tr.active = false ∧ s.me.tr.stopping = false)) :
    exec (.trStop d) s = .next (puts (s.setMe { s.me with tr := { s.me.tr with active := false, stopping := false } }) d.val
      (BitVec.ofNat 64 s.me.tr.passes)).commit := by
  have free : ((s.me.tr.active || s.me.tr.stopping) &&
      (s.core s.myCore).matrix.any (fun w => decide (w.slot = s.cur % 16))) = false := by
    rcases h with h | ⟨h, h'⟩
    · simpa using fun _ => h
    · simp [h, h']
  refine runI_ok ?_
  rw [M.bind_ok (takes_nil.1 ht).1, M.bind_ok (me_apply s), M.bind_ok (get_apply s), free]
  rfl

theorem trStop_waits (hactive : s.me.tr.active = true) (h : ∃ w ∈ (s.core s.myCore).matrix, w.slot = s.cur % 16) :
    exec (.trStop d) s =
      .next ((s.setMe { s.me with tr := { s.me.tr with active := false, stopping := true } }).waiting .retry) := by
  have busy : ((s.me.tr.active || s.me.tr.stopping) &&
      (s.core s.myCore).matrix.any (fun w => decide (w.slot = s.cur % 16))) = true := by
    simpa [hactive] using h
  refine runI_wait (keep := fun s => s.setMe { s.me with tr := { s.me.tr with active := false, stopping := true } }) ?_
  rw [M.bind_ok (takes_nil.1 ht).1, M.bind_ok (me_apply s), M.bind_ok (get_apply s), busy]
  rfl

end

end

/-- R288 to R291: capture, replay, and the two instructions that ask for its passes. -/
theorem treadleInstructions : Claims.TreadleInstructions := by
  refine ⟨fun s n a0 a1 hn hn' h0 h1 hne hidle => trDef_starts hn hn' h0 h1 hne hidle, ?_, ?_⟩
  · intro s t a x count stride hc hst hbuf hidle hready hread
    rw [done_eq_some] at hready hread
    have starts := trGo_starts hc hst hbuf hidle hready hread
    have kept : t.me.tr = s.me.tr := by rw [readS_popsTo hread]
    refine ⟨fun h0 => by rw [starts, if_pos h0], fun h0 => ⟨_, by rw [starts, if_neg h0], ?_⟩⟩
    simp only [State.me_setMe, Slot.replaying, kept, true_and]
    refine ⟨by simp [fld, nbits], ?_, fun h => if_pos h, fun h => if_pos h⟩
    simp only [fld, nbits]
    omega
  · intro s t d ht
    refine ⟨trWait_ends ht, trWait_waits ht, trStop_ends ht, fun hactive h => ⟨_, trStop_waits ht hactive h, ?_⟩⟩
    simp [State.waiting, WaitFor.issued]

/-! ## What the home's operations leave of the slots -/

/-- The slots, and the one that executes, are those of `s`. -/
def State.SameSlots (s t : State) : Prop := (∀ gs, t.slot gs = s.slot gs) ∧ t.cur = s.cur

section
variable {s t : State}

theorem State.SameSlots.refl (s : State) : s.SameSlots s := ⟨fun _ => rfl, rfl⟩

theorem State.SameSlots.me (h : s.SameSlots t) : t.me = s.me := by
  rw [State.me, State.me, h.1, h.2]

theorem State.SameSlots.of_cores {u : State} (h : s.SameSlots t) (hc : u.cores = t.cores) (hh : u.hub = t.hub)
    (hcur : u.cur = t.cur) : s.SameSlots u :=
  ⟨fun gs => (State.slot_congr hc hh gs).trans (h.1 gs), hcur.trans h.2⟩

theorem State.SameSlots.ite {c : Prop} [Decidable c] {a b : State} (ha : s.SameSlots a) (hb : s.SameSlots b) :
    s.SameSlots (if c then a else b) := by
  split <;> assumption

theorem State.SameSlots.foldl {α : Type} {f : State → α → State} {l : List α} (h : s.SameSlots t)
    (hf : ∀ t x, s.SameSlots t → s.SameSlots (f t x)) : s.SameSlots (l.foldl f t) := by
  induction l generalizing t with
  | nil => exact h
  | cons x l ih => exact ih (hf t x h)

/-- A core whose slots and scan stay. -/
theorem State.SameSlots.setCore {c : Nat} {k : Core} (h : s.SameSlots t) (hk : k.slots = (t.core c).slots)
    (hs : k.scan = (t.core c).scan) : s.SameSlots (t.setCore c k) :=
  ⟨fun gs => (t.slot_setCore c gs hk hs).trans (h.1 gs), h.2⟩

theorem State.SameSlots.setL1 (c sec : Nat) (l : L1Line) (h : s.SameSlots t) : s.SameSlots (t.setL1 c sec l) :=
  h.setCore rfl rfl

theorem State.SameSlots.dropL1 (c sec : Nat) (h : s.SameSlots t) : s.SameSlots (t.dropL1 c sec) := h.setCore rfl rfl

theorem State.SameSlots.setSlice (n : Nat) (y : Slice) (h : s.SameSlots t) : s.SameSlots (t.setSlice n y) :=
  h.of_cores rfl rfl rfl

theorem State.SameSlots.setDir (key : Nat) (d : Dir) (h : s.SameSlots t) : s.SameSlots (t.setDir key d) := h.setSlice _ _

theorem State.SameSlots.setPoison (key : Nat) (h : s.SameSlots t) : s.SameSlots (t.setPoison key) :=
  h.of_cores rfl rfl rfl

theorem State.SameSlots.meetBad (key : Nat) (h : s.SameSlots t) : s.SameSlots (t.meetBad key) :=
  .ite (.setPoison _ (.setSlice _ _ h)) h

theorem State.SameSlots.markDirty (key : Nat) (mask : BitVec 8) (h : s.SameSlots t) : s.SameSlots (t.markDirty key mask) := by
  refine .ite (.setSlice _ _ h) ?_
  dsimp only
  split
  · exact h
  · exact h.setSlice _ _

theorem State.SameSlots.homePokes (key : Nat) (ps : List (Nat × Byte)) (h : s.SameSlots t) :
    s.SameSlots (t.homePokes key ps) := .ite h ((h.markDirty key _).of_cores rfl rfl rfl)

theorem State.SameSlots.sendTracked (c sec : Nat) (h : s.SameSlots t) : s.SameSlots (t.sendTracked c sec) := by
  unfold State.sendTracked
  split
  · exact h
  · exact .ite h (.setL1 _ _ _ (.ite ((h.homePokes _ _).setPoison _) (h.homePokes _ _)))

theorem State.SameSlots.recallFor (c key : Nat) (h : s.SameSlots t) : s.SameSlots (t.recallFor c key) := by
  unfold State.recallFor
  split
  · refine .ite h (.setDir _ _ (h.foldl fun t sec h => ?_))
    dsimp only
    split
    · exact .ite ((h.sendTracked _ _).setL1 _ _ _) (h.sendTracked _ _)
    · exact h.sendTracked _ _
  · exact h

theorem State.SameSlots.recallSector (key : Nat) (h : s.SameSlots t) : s.SameSlots (t.recallSector key) := by
  unfold State.recallSector
  split
  · exact h.sendTracked _ _
  · exact h

theorem State.SameSlots.invalidateSector (key : Nat) (h : s.SameSlots t) : s.SameSlots (t.invalidateSector key) :=
  (h.recallSector key).foldl fun _ _ h => h.dropL1 _ _

theorem State.SameSlots.evictLine (n line : Nat) (h : s.SameSlots t) : s.SameSlots (t.evictLine n line) := by
  have dropped := ((h.recallFor 256 (line * 256)).foldl (l := ((t.recallAny (line * 256)).dirOf (line * 256)).cores
    ((t.recallAny (line * 256)).homeDie (line * 256))) fun t o h => h.foldl (f := fun t sec => t.dropL1 o sec)
      (l := sectorsOf (line * 256)) fun _ _ h => h.dropL1 _ _).setDir (line * 256) .unc
  exact .setSlice _ _ (dropped.foldl fun _ _ h => .ite (h.setPoison _) h)

theorem State.SameSlots.placeLine (n line w : Nat) (h : s.SameSlots t) : s.SameSlots (t.placeLine n line w) := by
  refine .setSlice _ _ ?_
  split
  · exact .ite h (h.evictLine _ _)
  · exact h

theorem State.SameSlots.atHome (p key : Nat) (h : s.SameSlots t) : s.SameSlots (t.atHome p key) := by
  refine .ite (h.meetBad key) ?_
  split
  · exact (h.meetBad key).setSlice _ _
  · split
    · exact (h.meetBad key).placeLine _ _ _
    · exact h.meetBad key

theorem State.SameSlots.setBar (key : Nat) (b : Bar) (h : s.SameSlots t) : s.SameSlots (t.setBar key b) :=
  (((h.atHome _ key).recallSector key).homePokes key _).invalidateSector key

theorem State.SameSlots.touchBar (key : Nat) (h : s.SameSlots t) : s.SameSlots (t.touchBar key) := h.of_cores rfl rfl rfl

/-- A debit at a barrier object changes no slot (R126). -/
theorem State.SameSlots.barDebit (key n : Nat) (h : s.SameSlots t) : s.SameSlots (t.barDebit key n).1 := by
  have read : s.SameSlots (t.barAt key).1 := h.recallSector key
  unfold State.barDebit
  dsimp only
  split
  · exact (read.setBar _ _).touchBar _
  · exact read.setBar _ _

theorem State.SameSlots.closeDebit (c : CpCmd) (h : s.SameSlots t) : s.SameSlots (t.closeDebit c) :=
  .ite (h.barDebit _ _) h

end

/-! ## The Carter's queue (R125, R127, R258 to R260) -/

/-- The state after a command has taken its place in the queue of the slot that executes. -/
def CpCmd.queuedIn (cmd : CpCmd) (u : State) : State :=
  u.setMe { u.me with cp := { u.me.cp with queue := u.me.cp.queue ++ [cmd], accepted := u.me.cp.accepted + 1 } }

/-- A command that passes the checks of its acceptance joins the queue, its credit made (R125, R258). -/
theorem runI_accept {s u : State} {kindOf : Nat → Option CpKind} {kind : CpKind} {twoD : Bool} {a b c : Reg} {cmd : CpCmd}
    (hs : MemoryFree s) (hk : kindOf (fld s.me.g[c.val]! 27 26) = some kind) (ha : Accepts s kind twoD a b c cmd u) :
    runI (accept kindOf twoD a b c) s = .next (cmd.queuedIn u).commit := by
  obtain ⟨t, q, x, y, bar, rows, hblock, hroom, hreads, rfl, hzero, hone, hlen, htag, hbar, hcmd, hpriv, hfields, hset,
    hbanks, helem, hcredit⟩ := ha
  rw [done_eq_some] at hreads hbar
  simp only [M.bind_eq_ok, M.pure_apply, Except.ok.injEq, Prod.mk.injEq] at hreads hbar
  obtain ⟨_, s', hready, x, t', hreadA, y, q, hreadB, ⟨rfl, rfl⟩, rfl⟩ := hreads
  obtain rfl := ready_state hready
  obtain ⟨bar, q₁, hloc, _, q', hvalid, rfl, rfl⟩ := hbar
  have legal : (decide (fld s'.me.g[c.val]! 63 28 = 0) && (twoD || decide (fld s'.me.g[c.val + 3]! 15 0 = 0)) &&
      !decide (fld s'.me.g[c.val]! 23 0 = 0) && !(bitOf s'.me.g[c.val]! 25 && kind.dstGlobal)) = true := by
    simp only [Bool.and_eq_true, Bool.or_eq_true, Bool.not_eq_true', decide_eq_true_eq, decide_eq_false_iff_not,
      Bool.and_eq_false_iff]
    exact ⟨⟨⟨hzero, hone⟩, hlen⟩, htag⟩
  have allowed : (s'.me.priv || !(decide (cmd.srcSpace q'.myCore = .element) || decide (cmd.dstSpace q'.myCore = .element)))
      = true := by simpa using hpriv
  have inSet : ¬ (kind = .l2l ∧ q'.inCoreSet s'.me.part (fld x 26 19) = false) := fun ⟨h, h'⟩ => by simp [hset h] at h'
  refine runI_ok ?_
  rw [accept, M.bind_ok (memoryFree_apply hs), M.bind_ok (needP_of hblock), M.bind_ok hready,
    M.bind_ok (me_apply s'), cpBlock, bind_assoc, M.bind_ok (me_apply s'), pure_bind,
    M.bind_ok (needW_of (decide_eq_true hroom)), M.bind_ok hreadA, M.bind_ok hreadB]
  rw [show kindOf (fld ((fun i => s'.me.g[c.val + i]!) 0) 27 26) = some kind from hk]
  refine (M.bind_ok (needP_of legal)).trans ((M.bind_ok hloc).trans ((M.bind_ok hvalid).trans ?_))
  dsimp only [Nat.add_zero]
  rw [command] at hcmd
  rw [← hcmd, M.bind_ok (get_apply q'), M.bind_ok (needP_of allowed), hfields, hbanks]
  dsimp only
  rw [if_neg inSet, M.bind_ok (needP_of (by simp [helem]))]
  by_cases credited : cmd.credited = true
  · rw [if_pos credited] at hcredit ⊢
    rw [hcredit]
    rfl
  · rw [if_neg credited] at hcredit ⊢
    subst hcredit
    rfl

theorem cpStat_reads {s t : State} {d : Reg} (ht : Takes s [] [d.val] [] t) :
    exec (.cpStat d) s = .next (puts (s.setMe { s.me with cp := { s.me.cp with cperr := false } }) d.val
      s.me.cp.status).commit := by
  refine runI_ok ?_
  rw [M.bind_ok (takes_nil.1 ht).1]
  rfl

/-- `CP.ABORT` changes no more of its slot than the Carter, since a debit leaves the slots as they are (R127). -/
theorem carterAbort_me (s : State) : (s.carterAbort s.cur).me = { s.me with cp := s.me.cp.aborted } := by
  unfold State.carterAbort
  by_cases hq : s.me.cp.queue = []
  · rw [if_pos (by simpa [State.me] using hq), Carter.aborted, hq]
  · have same : s.SameSlots ((s.slot s.cur).cp.queue.foldl State.closeDebit s) :=
      (State.SameSlots.refl s).foldl fun _ c h => h.closeDebit c
    rw [if_neg (by simpa [State.me] using hq), State.me, State.setSlot_cur, same.2, State.slot_setSlot_self, same.1]
    rfl

theorem cpAbort_aborts (s : State) : exec .cpAbort s = .next (s.carterAbort s.cur).commit :=
  runI_ok (m := upd fun s => s.carterAbort s.cur) rfl

/-- R123, R125, R258 to R260: how a command joins the queue, and how the queue is read and emptied. -/
theorem carterInstructions : Claims.CarterInstructions := by
  refine ⟨fun s u a b c cmd hs => ?_, fun s t d ht => cpStat_reads ht, fun s => ⟨s.carterAbort s.cur, cpAbort_aborts s, ?_⟩⟩
  · intro field queued
    have fixed {k : CpKind} (h : field = 0) : fixedKind k field = some k := if_pos h
    have fill {k : CpKind} {n : Nat} (h : field = n) (hn : fillKind n = some k) : fillKind field = some k := h ▸ hn
    have twoD {k : CpKind} {n : Nat} (h : field = n) (hn : twoDKind n = some k) : twoDKind field = some k := h ▸ hn
    exact ⟨fun h => runI_accept hs (fixed h), fun h => runI_accept hs (fixed h), fun h => runI_accept hs (fixed h),
      fun h => runI_accept hs (fixed h), fun h => runI_accept hs (fill h rfl), fun h => runI_accept hs (fill h rfl),
      fun h => runI_accept hs (twoD h rfl), fun h => runI_accept hs (twoD h rfl), fun h => runI_accept hs (twoD h rfl),
      fun h => runI_accept hs (twoD h rfl)⟩
  · rw [carterAbort_me, Carter.aborted]
    cases hq : s.me.cp.queue with
    | nil => simp [hq]
    | cons c l => simp

/-- Settles O26: the Treadle's instructions, then the Carter's. -/
theorem treadleAndCarterInstructions : Obligations.TreadleAndCarterInstructions :=
  ⟨treadleInstructions, carterInstructions⟩

end Sys2Proof.Machine

/-! # Chunks of the Carter

A turn of the Carter at a slot: what it does to an empty queue, a parked slot and a held head, the chunk of a fill that
lands, and the chunk that meets a bank of another partition (R123, R126, R127). -/

namespace Sys2Proof.Machine

open Sys2Proof.Safety

/-! ## What the Carter's ends leave of a slot -/

section
variable (s : State) (gs : Nat)

@[simp] theorem State.slot_raiseDeferred (f : FaultInfo) :
    (s.raiseDeferred gs f).slot gs = { s.slot gs with deferred := (s.slot gs).deferred ++ [f] } :=
  (State.slot_congr (b := s.setSlot gs { s.slot gs with deferred := (s.slot gs).deferred ++ [f] }) rfl rfl gs).trans
    (s.slot_setSlot_self gs _)

@[simp] theorem State.slot_setCp (f : Carter → Carter) :
    (s.setCp gs f).slot gs = { s.slot gs with cp := f (s.slot gs).cp } := s.slot_setSlot_self gs _

@[simp] theorem State.slot_signal :
    (s.signal gs).slot gs = { s.slot gs with event := max (s.slot gs).event (s.now + 1) } := s.slot_setSlot_self gs _

@[simp] theorem State.slot_forgetWalks (kinds : AskKind → Bool) :
    (s.forgetWalks gs kinds).slot gs =
      { s.slot gs with walked := (s.slot gs).walked.filter (fun w => !kinds w.kind) } :=
  (State.slot_congr (b := s.setSlot gs { s.slot gs with walked := (s.slot gs).walked.filter (fun w => !kinds w.kind) })
    rfl rfl gs).trans (s.slot_setSlot_self gs _)

/-- A held command heads its queue, and its fault is raised (R126). -/
theorem State.slot_cpHold (c : CpCmd) (code fault : Nat) (addr : Word) :
    (s.cpHold gs c code fault addr).slot gs = { s.slot gs with
      cp := { (s.slot gs).cp with queue := { c with held := true } :: (s.slot gs).cp.queue.tail, code := code, idx := c.idx }
      deferred := (s.slot gs).deferred ++ [c.fault code fault addr] } := by
  rw [State.cpHold, State.slot_raiseDeferred, State.slot_setCp]

/-- The head command leaves its queue. -/
theorem State.queue_cpDone : ((s.cpDone gs).slot gs).cp.queue = (s.slot gs).cp.queue.tail := by
  rw [State.cpDone, State.slot_signal, State.slot_setCp]

@[simp] theorem State.mem_signal : (s.signal gs).mem = s.mem := rfl
@[simp] theorem State.mem_forgetWalks (kinds : AskKind → Bool) : (s.forgetWalks gs kinds).mem = s.mem := rfl
@[simp] theorem State.mem_cpHold (c : CpCmd) (code fault : Nat) (addr : Word) :
    (s.cpHold gs c code fault addr).mem = s.mem := rfl

/-- The state in which the Carter's turn has come to a slot: the round of its core stands there (R123). -/
def State.cpTurn : State := s.setCore (gs / 16) { s.core (gs / 16) with cpLast := gs % 16 }

@[simp] theorem State.slot_cpTurn (g : Nat) : (s.cpTurn gs).slot g = s.slot g := s.slot_setCore _ g rfl rfl

end

/-! ## Reads and writes of a chunk -/

section
variable {s : State} {gs : Nat} {c : CpCmd} {a d : Int} {n o : Nat}

theorem cpRead_fillL (hk : c.kind = .fillL) :
    s.cpRead gs c a d n = .ok { st := s, bytes := (List.range n).map (fun (i : Nat) =>
      BitVec.ofNat 8 (c.b.toNat / 2 ^ (8 * ((d + i) % 8).toNat))), bad := [], zeroed := 0 } := by
  have space : c.srcSpace (gs / 16) = .pattern := by simp [CpCmd.srcSpace, hk, CpKind.srcLm, CpKind.srcGlobal]
  rw [State.cpRead, space]

/-- A source row that reaches a bank outside the owned ones ends the chunk (R126). -/
theorem cpRead_lm_refused (hk : c.kind.srcLm = true) (hb : lmOwned (s.part (s.slot gs).part).banks o n = false) :
    s.cpRead gs c o d n = .error (.held 2 fcPageRights (ofI o)) := by
  have space : c.srcSpace (gs / 16) = .lm (gs / 16) := if_pos hk
  rw [State.cpRead, space]
  exact if_pos (.inr hb)

/-- Bytes without poison land in LM that the slot may write (R126). -/
theorem cpWrite_lm {r : CpRead} {row col k : Nat} (hdst : c.dstSpace (gs / 16) = .lm k) (htag : c.tagen = false)
    (hgone : (s.core k).health.gone = false) (hown : lmOwned (s.part (s.slot gs).part).banks o r.bytes.length = true)
    (hwipe : (s.core k).lmWiping o r.bytes.length = false) (hbad : r.bad = [])
    (herr : (s.core k).lmStoreError o r.bytes.length = none) :
    s.cpWrite gs c o r row col = .ok (s.setCore k ((s.core k).lmStore o r.bytes)) := by
  have inside : ¬ ((o : Int) < 0 ∨ lmOwned (s.part (s.slot gs).part).banks o r.bytes.length = false) := by
    rw [hown]
    rintro (h | h)
    · omega
    · cases h
  rw [State.cpWrite, hdst]
  simp only [Int.toNat_natCast, hgone, if_neg inside, hwipe, hbad, herr, htag, List.isEmpty_nil, Bool.not_true,
    Bool.false_eq_true, ↓reduceIte]

/-- The bytes of a pattern fill from LM offset `o`: byte `i` of the pattern stands at every offset that is `i` mod 8 (R259). -/
def CpCmd.fillBytes (c : CpCmd) (o n : Nat) : List Byte :=
  (List.range n).map (fun i => BitVec.ofNat 8 (c.b.toNat / 2 ^ (8 * ((o + i) % 8))))

/-- A chunk of a pattern fill of the own LM lands where the slot may write (R126). -/
theorem cpChunk_fillL (hk : c.kind = .fillL) (htag : c.tagen = false) (ho : c.dstRow c.row + c.col = o)
    (hgone : (s.core (gs / 16)).health.gone = false)
    (hown : lmOwned (s.part (s.slot gs).part).banks o (c.chunk 64) = true)
    (hwipe : (s.core (gs / 16)).lmWiping o (c.chunk 64) = false)
    (herr : (s.core (gs / 16)).lmStoreError o (c.chunk 64) = none) :
    let u := s.setCore (gs / 16) ((s.core (gs / 16)).lmStore o (c.fillBytes o (c.chunk 64)))
    s.cpChunk gs c 64 = .landed (u.setSlot gs (u.slot gs)) := by
  have dst : c.dstSpace (gs / 16) = .lm (gs / 16) := by simp [CpCmd.dstSpace, hk, CpKind.dstGlobal]
  have bytes : (List.range (c.chunk 64)).map (fun (i : Nat) =>
      BitVec.ofNat 8 (c.b.toNat / 2 ^ (8 * (((o : Int) + i) % 8).toNat))) = c.fillBytes o (c.chunk 64) :=
    List.map_congr_left fun i _ => by
      have place : (((o : Int) + i) % 8).toNat = (o + i) % 8 := by omega
      rw [place]
  have len : (c.fillBytes o (c.chunk 64)).length = c.chunk 64 := by simp [CpCmd.fillBytes]
  intro u
  rw [State.cpChunk, ho, cpRead_fillL hk]
  dsimp only
  rw [bytes, cpWrite_lm dst htag hgone (by rwa [len]) (by rwa [len]) rfl (by rwa [len])]
  simp only [ofN, BitVec.add_zero]
  rfl

end

/-! ## The turn of a slot (R123, R126) -/

/-- What the turn does for a head command that is neither held nor done: its chunk lands, waits, or ends (R126). -/
def State.cpMove (s : State) (gs : Nat) (c : CpCmd) : State :=
  match s.cpChunk gs c 64 with
  | .landed t => (t.forgetWalks gs (fun k => decide (k = .carter))).cpLanded gs c (c.chunk 64)
  | .walks va => s.cpStops gs c (.walks va)
  | .waits => s
  | .late t ws => s.cpStops gs c (.late t ws)
  | e => (s.forgetWalks gs (fun k => decide (k = .carter))).cpStops gs c e

section
variable {s : State} {gs : Nat} {c : CpCmd} {l : List CpCmd}

theorem carterTurn_empty (h : (s.slot gs).cp.queue = []) : s.carterTurn gs = s.cpTurn gs := by
  rw [State.carterTurn, ← State.cpTurn, State.slot_cpTurn, h]
  cases (s.slot gs).run <;> rfl

theorem carterTurn_parked {why : ParkWhy} (h : (s.slot gs).run = .parked why) : s.carterTurn gs = s.cpTurn gs := by
  rw [State.carterTurn, ← State.cpTurn, State.slot_cpTurn, h]

theorem carterTurn_head (hq : (s.slot gs).cp.queue = c :: l) (hrun : ∀ why, (s.slot gs).run ≠ .parked why) :
    s.carterTurn gs = if c.held then s.cpTurn gs else if c.rows ≤ c.row then (s.cpTurn gs).cpDone gs
      else (s.cpTurn gs).cpMove gs c := by
  rw [State.carterTurn, ← State.cpTurn, State.slot_cpTurn, hq]
  cases hr : (s.slot gs).run with
  | parked why => exact absurd hr (hrun why)
  | _ => rfl

theorem cpMove_landed {t : State} (h : s.cpChunk gs c 64 = .landed t) :
    s.cpMove gs c = (t.forgetWalks gs (fun k => decide (k = .carter))).cpLanded gs c (c.chunk 64) := by
  rw [State.cpMove, h]

theorem cpMove_held {code fault : Nat} {addr : Word} (h : s.cpChunk gs c 64 = .held code fault addr) :
    s.cpMove gs c = ((s.forgetWalks gs (fun k => decide (k = .carter))).cpHold gs c code fault addr).signal gs := by
  rw [State.cpMove, h]
  rfl

/-- A source row that reaches a bank outside the owned ones ends the chunk before anything of it lands (R126). -/
theorem cpChunk_source_refused {o : Nat} (hk : c.kind.srcLm = true) (ho : c.srcRow c.row + c.col = o)
    (hb : lmOwned (s.part (s.slot gs).part).banks o (c.chunk 64) = false) :
    s.cpChunk gs c 64 = .held 2 fcPageRights (ofI o) := by
  rw [State.cpChunk, ho, cpRead_lm_refused hk hb]
  rfl

/-- The debit of the bytes that have landed decides what becomes of the head command (R126). -/
theorem cpLanded_cases (n : Nat) :
    let v := s.barDebit c.barKey n
    let d := c.advance n
    let w := v.1.setCp gs (fun q => { q with queue := d :: q.queue.tail })
    (v.2 = true → s.cpLanded gs c n = if d.row = d.rows then w.cpDone gs else w) ∧
    (v.2 = false → s.cpLanded gs c n = (w.cpHold gs d 5 15
      (if d.row = d.rows then 0 else BitVec.ofInt 64 (d.dstRow d.row + d.col))).signal gs) := by
  intro v d w
  rw [State.cpLanded]
  exact ⟨fun h => if_neg (ne_false_of_eq_true h), fun h => if_pos h⟩

end

/-- R123, R126, R127: the turns of the Carter. -/
theorem carterChunks : Claims.CarterChunks := by
  intro s gs x core s1
  refine ⟨fun h => exec_next rfl (carterTurn_empty h), fun why h => exec_next rfl (carterTurn_parked h), ?_, ?_⟩
  · intro c l hq hrun
    have head := carterTurn_head hq hrun
    have running (hh : c.held = false) (hr : c.row < c.rows) : s.carterTurn gs = (s.cpTurn gs).cpMove gs c := by
      rw [head, hh, if_neg Bool.false_ne_true, if_neg (Nat.not_le.2 hr)]
    refine ⟨fun hh => exec_next rfl (head.trans (if_pos hh)),
      fun hh hr => exec_next rfl (by rw [head, hh, if_neg Bool.false_ne_true, if_pos hr]; rfl), ?_, ?_⟩
    · intro hh hr hk htag n o ho hgone hown hwipe herr bytes u v d w
      have own : (s.cpTurn gs).core core = { s.core core with cpLast := gs % 16 } := State.core_setCore_self ..
      have landed := cpChunk_fillL (s := s.cpTurn gs) (gs := gs) hk htag ho (by rw [own]; exact hgone)
        (by rw [State.slot_cpTurn]; exact hown) (by rw [own]; exact hwipe) (by rw [own]; exact herr)
      have moved := (running hh hr).trans (cpMove_landed landed)
      obtain ⟨bears, cannot⟩ := cpLanded_cases (s := (u.setSlot gs (u.slot gs)).forgetWalks gs (fun k => decide (k = .carter)))
        (gs := gs) (c := c) n
      exact ⟨fun h => exec_next rfl (moved.trans (bears h)), fun h => exec_next rfl (moved.trans (cannot h))⟩
    · intro hh hr hk o ho hb
      have src : c.kind.srcLm = true := by rcases hk with h | h <;> rw [h] <;> rfl
      have refused : (s.cpTurn gs).cpChunk gs c 64 = .held 2 fcPageRights (ofI o) :=
        cpChunk_source_refused src ho (by rwa [State.slot_cpTurn])
      refine ⟨_, exec_next rfl ((running hh hr).trans (cpMove_held refused)), ?_, ?_, ?_, ?_⟩
      · rw [State.slot_signal, State.slot_cpHold, State.slot_forgetWalks, State.slot_cpTurn]
        simp only [show (s.slot gs).cp.queue = c :: l from hq, List.tail_cons]
      · rw [State.slot_signal, State.slot_cpHold]
      · rw [State.slot_signal, State.slot_cpHold, State.slot_forgetWalks, State.slot_cpTurn, ofI, BitVec.ofInt_natCast]
        rfl
      · rw [State.mem_signal, State.mem_cpHold, State.mem_forgetWalks]
        rfl
  · rintro c l hq t rfl
    rw [State.queue_cpDone, hq]
    rfl

end Sys2Proof.Machine

/-! # Words on the Piste

What an injection entry sends on its link, and what becomes of a word that arrives on one (R130, R131, R134, R136 to
R138). -/

namespace Sys2Proof.Machine

open Sys2Proof.Safety

/-! ## Injection (R136) -/

/-- The entry of a core's injection plan for the running cycle, once entries whose cycle has come have taken effect (R134). -/
def State.injectEntry (s : State) (core : Nat) : RteEntry :=
  ((s.core core).routeSettle s.now).route.val (s.now % 64) RteEntry.reset

/-- The state in which a core injects: entries whose cycle has come have taken effect (R301). -/
def State.settled (s : State) (core : Nat) : State := s.setCore core ((s.core core).routeSettle s.now)

/-- A word as it stands on the way to core `n` (R131). -/
def PisteOut.sent (o : PisteOut) (core link cycle n : Nat) : PisteWord :=
  { cycle := cycle + linkTime core n, link := opposite link, valid := o.valid, data := o.data, nxm := o.nxm, fmt := o.fmt
    ni := o.ni, cp := o.cp, src := o.src }

section
variable {s : State} {core n : Nat}

@[simp] theorem State.slot_settled (gs : Nat) : (s.settled core).slot gs = s.slot gs := s.slot_setCore _ gs rfl rfl

@[simp] theorem State.now_settled : (s.settled core).now = s.now := rfl

theorem State.route_settled :
    ((s.settled core).core core).route.val (s.now % 64) RteEntry.reset = s.injectEntry core := by
  rw [State.settled, State.core_setCore_self, State.injectEntry]

theorem pisteInject_idle (h : bitOf (s.injectEntry core).val 63 = false ∨ fld (s.injectEntry core).val 62 60 = 0) :
    s.pisteInject core = s.settled core := by
  have off : (bitOf (s.injectEntry core).val 63 && !decide (rteFwd (s.injectEntry core).val = 0)) = false := by
    rcases h with h | h
    · rw [h, Bool.false_and]
    · simp [rteFwd, h]
  rw [State.pisteInject, ← State.settled, State.now_settled, State.route_settled, off]
  rfl

/-- An entry that forwards puts what it takes on its link, where only the neighbour's words change. -/
theorem pisteInject_sends (h63 : bitOf (s.injectEntry core).val 63 = true) (hfwd : fld (s.injectEntry core).val 62 60 ≠ 0)
    (hn : neighbour core (fld (s.injectEntry core).val 62 60) = some n) (hne : n ≠ core) {u : State} {o : PisteOut}
    (hw : (s.settled core).injectWord core (s.now % 64) (s.injectEntry core) = (u, o)) (hnow : u.now = s.now) :
    (∀ gs, (s.pisteInject core).slot gs = u.slot gs) ∧
    ((s.pisteInject core).core n).piste = (u.core n).piste ++
      [{ o with src := core }.sent core (fld (s.injectEntry core).val 62 60) s.now n] := by
  have on : (bitOf (s.injectEntry core).val 63 && !decide (rteFwd (s.injectEntry core).val = 0)) = true := by
    simp [rteFwd, h63, hfwd]
  rw [State.pisteInject, ← State.settled, State.now_settled, State.route_settled, on, if_pos rfl, hw]
  dsimp only
  rw [State.putWordOn, rteFwd, hn]
  dsimp only
  refine ⟨fun gs => ?_, ?_⟩
  · refine (State.slot_setCore _ _ gs ?_ ?_).trans (State.slot_setCore _ _ gs ?_ ?_) <;> rfl
  · rw [State.core_setCore_self, State.core_setCore_ne _ _ hne, hnow]
    rfl

/-- The word that an entry takes from queue `q` of a slot is its oldest (R136). -/
theorem injectWord_queue {e : RteEntry} {cycle : Nat} {w : QWord} {ws : List QWord} (hk : fld e.val 3 2 = 0)
    (hq : (s.slot (core * 16 + fld e.val 7 4)).outq[fld e.val 1 0]! = w :: ws) :
    let x := s.slot (core * 16 + fld e.val 7 4)
    s.injectWord core cycle e = (s.setSlot (core * 16 + fld e.val 7 4)
        { x with outq := x.outq.setIfInBounds (fld e.val 1 0) ws },
      { valid := true, data := Config.queueHigh w.val ++ w.val, nxm := x.nxm, fmt := w.fmt, ni := none, cp := none }) := by
  rw [State.injectWord, rteSkind, hk, rteSslot]
  dsimp only
  rw [hq]
  rfl

theorem injectWord_queue_empty {e : RteEntry} {cycle : Nat} (hk : fld e.val 3 2 = 0)
    (hq : (s.slot (core * 16 + fld e.val 7 4)).outq[fld e.val 1 0]! = []) :
    s.injectWord core cycle e = (s, .empty (s.slot (core * 16 + fld e.val 7 4)).nxm) := by
  rw [State.injectWord, rteSkind, hk, rteSslot]
  dsimp only
  rw [hq]
  rfl

section
variable (h63 : bitOf (s.injectEntry core).val 63 = true) (hfwd : fld (s.injectEntry core).val 62 60 ≠ 0)
  (hk : fld (s.injectEntry core).val 3 2 = 0) (hn : neighbour core (fld (s.injectEntry core).val 62 60) = some n)
  (hne : n ≠ core)
include h63 hfwd hk hn hne

/-- The oldest word of the queue reaches the neighbour after the link's time (R131, R136). -/
theorem pisteInject_queue {w : QWord} {ws : List QWord}
    (hq : (s.slot (core * 16 + fld (s.injectEntry core).val 7 4)).outq[fld (s.injectEntry core).val 1 0]! = w :: ws) :
    let gs := core * 16 + fld (s.injectEntry core).val 7 4
    let q := fld (s.injectEntry core).val 1 0
    ∃ (t : State) (p : PisteWord), exec (.pisteInject core) s = .next t ∧
      (t.slot gs).outq[q]! = ws ∧ (t.core n).piste = (s.core n).piste ++ [p] ∧ p.valid = true ∧
      p.data.toNat % 2 ^ 64 = w.val.toNat ∧ p.nxm = (s.slot gs).nxm ∧ p.fmt = w.fmt ∧ p.src = core ∧
      p.cycle = s.now + linkTime core n ∧ p.link = opposite (fld (s.injectEntry core).val 62 60) := by
  intro gs q
  have taken := injectWord_queue (s := s.settled core) (core := core) (cycle := s.now % 64) hk
    (by rw [State.slot_settled]; exact hq)
  obtain ⟨slots, words⟩ := pisteInject_sends h63 hfwd hn hne taken rfl
  have other : n ≠ gs / 16 := by
    have := fld_lt (s.injectEntry core).val 7 4
    omega
  refine ⟨_, _, rfl, ?_, words.trans (congrArg (· ++ [_]) ?_), rfl, ?_, ?_, rfl, rfl, rfl, rfl⟩
  · have inRange : q < 4 := fld_lt _ 1 0
    rw [slots, State.slot_setSlot_self]
    show (((s.settled core).slot gs).outq.setIfInBounds q ws)[q]! = ws
    simp [inRange]
  · rw [State.setSlot, State.core_setCore_ne _ _ other, State.settled, State.core_setCore_ne _ _ hne]
  · show (Config.queueHigh w.val ++ w.val).toNat % 2 ^ 64 = w.val.toNat
    rw [← BitVec.toNat_setWidth, BitVec.setWidth_append_eq_right]
  · show ((s.settled core).slot _).nxm = _
    rw [State.slot_settled]

/-- An empty queue sends a word with V = 0 (R136). -/
theorem pisteInject_queue_empty
    (hq : (s.slot (core * 16 + fld (s.injectEntry core).val 7 4)).outq[fld (s.injectEntry core).val 1 0]! = []) :
    ∃ (t : State) (p : PisteWord), exec (.pisteInject core) s = .next t ∧
      (t.core n).piste = (s.core n).piste ++ [p] ∧ p.valid = false ∧ p.cycle = s.now + linkTime core n := by
  have taken := injectWord_queue_empty (s := s.settled core) (core := core) (cycle := s.now % 64) hk
    (by rw [State.slot_settled]; exact hq)
  obtain ⟨-, words⟩ := pisteInject_sends h63 hfwd hn hne taken rfl
  refine ⟨_, _, rfl, words.trans (congrArg (· ++ [_]) ?_), rfl, rfl⟩
  rw [State.settled, State.core_setCore_ne _ _ hne]

end

end

/-! ## Arrival (R137, R138) -/

/-- The core without the first of the words on their way to it, at the arrival of that word: `l` are the others, and entries
whose cycle has come have taken effect (R301). -/
def Core.receives (k : Core) (l : List PisteWord) (cycle : Nat) : Core := { k with piste := l }.routeSettle cycle

/-- The entry of an input plan on which a word fires (R137). -/
def Core.arrivalEntry (k : Core) (w : PisteWord) : RteEntry :=
  (k.routeSettle w.cycle).route.val (w.link * 64 + w.cycle % 64) RteEntry.reset

/-- The core with entry `i` as it stands after it has fired (R134). -/
def Core.fire (k : Core) (i : Nat) (e : RteEntry) (hole : Bool) : Core :=
  { k with route := k.route.put i { e.fired with hole := hole } }

/-- The words on their way to a core do not stand in its slots. -/
theorem State.piste_setSlot (s : State) (gs c : Nat) (x : Slot) : ((s.setSlot gs x).core c).piste = (s.core c).piste := by
  by_cases h : c = gs / 16
  · rw [State.setSlot, h, State.core_setCore_self]
  · rw [State.setSlot, State.core_setCore_ne _ _ h]

/-- The state in which a core receives a word that stood first. -/
def State.receiving (s : State) (core : Nat) (l : List PisteWord) (cycle : Nat) : State :=
  (s.setCore core { s.core core with piste := l }).setCore core ((s.core core).receives l cycle)

section
variable {s : State} {core link : Nat} {w : PisteWord} {l : List PisteWord} {cycle : Nat}

@[simp] theorem State.core_receiving : (s.receiving core l cycle).core core = (s.core core).receives l cycle :=
  State.core_setCore_self ..

@[simp] theorem State.slot_receiving (gs : Nat) : (s.receiving core l cycle).slot gs = s.slot gs := by
  refine (State.slot_setCore _ _ gs ?_ ?_).trans (State.slot_setCore _ _ gs ?_ ?_) <;> simp [Core.receives, Core.routeSettle]

theorem pisteArrive_none (h : ∀ w ∈ (s.core core).piste, w.link ≠ link ∨ s.now < w.cycle) : s.pisteArrive core link = s := by
  have none : (s.core core).piste.find? (fun w => decide (w.link = link ∧ w.cycle ≤ s.now)) = none :=
    List.find?_eq_none.2 fun w hw => by
      have := h w hw
      simp only [decide_eq_true_eq]
      omega
  rw [State.pisteArrive, none]

section
variable (hp : (s.core core).piste = w :: l) (hl : w.link = link) (hc : w.cycle ≤ s.now)
include hp hl hc

theorem pisteArrive_first : s.pisteArrive core link = (s.setCore core { s.core core with piste := l }).pisteWord core w := by
  have found : (s.core core).piste.find? (fun w => decide (w.link = link ∧ w.cycle ≤ s.now)) = some w := by
    rw [hp]
    exact List.find?_cons_of_pos (by simpa using ⟨hl, hc⟩)
  rw [State.pisteArrive, found]
  dsimp only
  rw [hp, List.erase_cons_head]

/-- A word whose entry is not valid is dropped and counted as STRAY (R137). -/
theorem pisteArrive_stray (h63 : bitOf ((s.core core).arrivalEntry w).val 63 = false) :
    s.pisteArrive core link = (s.receiving core l w.cycle).setCore core { (s.core core).receives l w.cycle with
      pistStray := satTo 65535 (s.core core).pistStray } := by
  rw [pisteArrive_first hp hl hc, State.pisteWord, State.core_setCore_self]
  exact if_pos h63

/-- A word whose entry forwards nothing is deposited alone (R137). -/
theorem pisteArrive_deposits (h63 : bitOf ((s.core core).arrivalEntry w).val 63 = true)
    (hfwd : fld ((s.core core).arrivalEntry w).val 62 60 = 0) :
    s.pisteArrive core link =
      (s.receiving core l w.cycle).deposit core (w.link * 64 + w.cycle % 64) ((s.core core).arrivalEntry w) w := by
  rw [pisteArrive_first hp hl hc, State.pisteWord, State.core_setCore_self]
  exact (if_neg (ne_false_of_eq_true h63)).trans (if_pos hfwd)

end

end

/-! ## Deposits (R137, R138) -/

section
variable {s : State} {core i : Nat} {e : RteEntry} {w : PisteWord}

/-- A word for a queue with room joins it (R137). -/
theorem deposit_queue (hv : w.valid = true) (hk : fld e.val 59 58 = 1)
    (hroom : ((s.slot (core * 16 + fld e.val 57 54)).inq[fld e.val 53 52]!).length < 4) :
    let gs := core * 16 + fld e.val 57 54
    let x := s.slot gs
    let word : QWord := { val := BitVec.ofNat 64 w.data.toNat, nxm := w.nxm, fmt := w.fmt }
    let u := (s.setSlot gs { x with
      inq := x.inq.setIfInBounds (fld e.val 53 52) (x.inq[fld e.val 53 52]! ++ [word]) }).signalNext gs
    s.deposit core i e w = u.setCore core ((u.core core).fire i e e.hole) := by
  rw [State.deposit, hv, rteDkind, hk, rteDslot]
  exact if_pos hroom

/-- A deposit that is not the last of its block ends no block (R138). -/
theorem blockEnd_within {hole owned : Bool} (h : e.ptr % 256 ≠ 224) :
    s.blockEnd core e hole owned = (s, none, hole) := if_neg h

section
variable (hv : w.valid = true) (hk : fld e.val 59 58 = 2)
  (hown : lmOwned (s.part (s.slot (core * 16 + fld e.val 57 54)).part).banks e.ptr 32 = true) (hend : e.ptr % 256 ≠ 224)
include hv hk hown hend

theorem deposit_fenced (hf : (s.core core).lmFenced e.ptr 32 = true) :
    let u := s.setCore core { s.core core with pistIllegal := satTo 255 (s.core core).pistIllegal }
    s.deposit core i e w = u.setCore core ((u.core core).fire i e e.hole) := by
  rw [State.deposit, hv, rteDkind, hk, rteDslot, hown, hf]
  simp only [Bool.true_eq_false, ↓reduceIte, blockEnd_within hend]
  rfl

/-- A word for LM that the slot may write is written in the next cycle (R131, R138). -/
theorem deposit_lm (hf : (s.core core).lmFenced e.ptr 32 = false)
    (hnxm : w.nxm = (s.slot (core * 16 + fld e.val 57 54)).nxm) (hfmt : fld e.val 28 25 = 0 ∨ w.fmt = fld e.val 28 25) :
    let u := s.setCore core { s.core core with landing := (s.core core).landing ++
      [{ cycle := w.cycle + 1, bytes := some (e.ptr, w.bytes), tag := none, cp := w.cp }] }
    s.deposit core i e w = u.setCore core ((u.core core).fire i e e.hole) := by
  have typed : ¬ (w.nxm ≠ (s.slot (core * 16 + fld e.val 57 54)).nxm ∨ (fld e.val 28 25 ≠ 0 ∧ w.fmt ≠ fld e.val 28 25)) := by
    rintro (h | ⟨h, h'⟩)
    · exact h hnxm
    · exact hfmt.elim h h'
  rw [State.deposit, hv, rteDkind, hk, rteDslot, hown, hf]
  simp only [Bool.true_eq_false, Bool.false_eq_true, ↓reduceIte, if_neg typed, blockEnd_within hend]
  rfl

end

end

/-! ## The claims -/

/-- The bytes of a word that arrives, as the deposit writes them (R136). -/
theorem PisteWord.bytes_eq (w : PisteWord) :
    w.bytes = (bytesOf 32 w.data.toNat).take ((w.cp.map (fun c => c.2.2)).getD 32) := by
  unfold PisteWord.bytes
  cases w.cp <;> rfl

/-- R130, R131, R134, R136 to R138: words that leave on a link and words that arrive on one. -/
theorem pisteWords : Claims.PisteWords := by
  refine ⟨fun s core => ?_, fun s core link => ⟨fun h => exec_next rfl (pisteArrive_none h), ?_⟩⟩
  · intro k e
    exact ⟨fun h => exec_next rfl (pisteInject_idle h), fun n h63 hfwd hk hn hne =>
      ⟨fun w ws hq => pisteInject_queue h63 hfwd hk hn hne hq, fun hq => pisteInject_queue_empty h63 hfwd hk hn hne hq⟩⟩
  · rintro w l hp rfl hc e gs x
    have slots (g : Nat) : (s.receiving core l w.cycle).slot g = s.slot g := State.slot_receiving g
    refine ⟨fun h63 => ⟨_, exec_next rfl (pisteArrive_stray hp rfl hc h63), ?_, ?_⟩, fun h63 hfwd hv => ⟨?_, ?_, ?_⟩⟩
    · rw [State.core_setCore_self]
      rfl
    · rw [State.core_setCore_self]
      rfl
    · intro hk q hroom
      have queued := deposit_queue (s := s.receiving core l w.cycle) (core := core) (i := w.link * 64 + w.cycle % 64)
        hv hk (by rw [slots]; exact hroom)
      refine ⟨_, exec_next rfl ((pisteArrive_deposits hp rfl hc h63 hfwd).trans queued), ?_, ?_⟩
      · rw [State.core_setCore_self]
        show (((State.signalNext _ gs).core core)).piste = l
        rw [State.signalNext, State.piste_setSlot, State.piste_setSlot, State.core_receiving]
        rfl
      · have inRange : q < 4 := fld_lt e.val 53 52
        rw [State.slot_setCore _ _ gs (by rfl) (by rfl), State.signalNext, State.slot_setSlot_self,
          State.slot_setSlot_self, slots]
        show (x.inq.setIfInBounds q (x.inq[q]! ++ [_]))[q]! = x.inq[q]! ++ [_]
        simp [inRange]
    · intro hk hown hnxm hfmt hend hf bs
      have landing := deposit_lm (s := s.receiving core l w.cycle) (core := core) (i := w.link * 64 + w.cycle % 64)
        hv hk (by rw [slots]; exact hown) hend (by rw [State.core_receiving]; exact hf) (by rw [slots]; exact hnxm) hfmt
      refine ⟨_, exec_next rfl ((pisteArrive_deposits hp rfl hc h63 hfwd).trans landing), ?_, ?_, ?_⟩ <;>
        rw [State.core_setCore_self, State.core_setCore_self, State.core_receiving]
      · rfl
      · rw [PisteWord.bytes_eq]
        rfl
      · rfl
    · intro hk hown hf hend
      have fenced := deposit_fenced (s := s.receiving core l w.cycle) (core := core) (i := w.link * 64 + w.cycle % 64)
        hv hk (by rw [slots]; exact hown) hend (by rw [State.core_receiving]; exact hf)
      refine ⟨_, exec_next rfl ((pisteArrive_deposits hp rfl hc h63 hfwd).trans fenced), ?_, ?_, ?_, ?_⟩ <;>
        rw [State.core_setCore_self, State.core_setCore_self, State.core_receiving] <;> rfl

/-- Settles O51: the Carter's chunks, then the words on the Piste. -/
theorem moverSteps : Obligations.MoverSteps := ⟨carterChunks, pisteWords⟩

end Sys2Proof.Machine

/-! # Messages on their way

The checks of a message at its destination (R143), and what becomes of a flight at each of its steps (R144). -/

namespace Sys2Proof.Machine

/-! ## The checks at the destination (R143) -/

section
variable {s : State} {f : Flight}

/-- Whether the destination's slot is held by a task of another partition, which the checks of R143 turn away. -/
def State.heldByOther (s : State) (f : Flight) : Bool :=
  match (s.slot (f.dstCore * 16 + f.dstSlot)).task with
  | some k => !s.away f.part && !decide (k.part = f.part)
  | none => false

theorem State.heldByOther_of_own (h : ∀ k ∈ (s.slot (f.dstCore * 16 + f.dstSlot)).task, k.part = f.part) :
    s.heldByOther f = false := by
  unfold State.heldByOther
  split
  · next k hk => simp [h k (by simp [hk])]
  · rfl

/-- The checks in their order: the core, the place within the partition, the thread, the room. -/
theorem verdict_eq : s.verdict f =
    let x := s.slotFor f.part (f.dstCore * 16 + f.dstSlot)
    if (s.core f.dstCore).health.gone then .bounce 3
    else if !s.inCoreSet f.part f.dstCore || !nbit (s.part f.part).slotMask f.dstSlot || s.heldByOther f then .bounce 2
    else if !x.holds || !decide (x.tin = f.msg.tin) then .bounce 1
    else if x.inbox.length < 8 then .deliver else .refuse := rfl

theorem verdict_gone (h : (s.core f.dstCore).health.gone = true) : s.verdict f = .bounce 3 := by
  rw [verdict_eq, h]
  rfl

section
variable (hg : (s.core f.dstCore).health.gone = false)
include hg

theorem verdict_outside (h : s.inCoreSet f.part f.dstCore = false ∨ (s.part f.part).slotMask.testBit f.dstSlot = false) :
    s.verdict f = .bounce 2 := by
  have outside : (!s.inCoreSet f.part f.dstCore || !nbit (s.part f.part).slotMask f.dstSlot || s.heldByOther f) = true := by
    rcases h with h | h
    · simp [h]
    · simp [nbit, h]
  rw [verdict_eq, hg, outside]
  rfl

variable (hc : s.inCoreSet f.part f.dstCore = true) (hm : (s.part f.part).slotMask.testBit f.dstSlot = true)
  (ho : s.heldByOther f = false)
include hc hm ho

/-- Inside the partition, the thread and the room of the inbox decide. -/
theorem verdict_inside : s.verdict f =
    let x := s.slotFor f.part (f.dstCore * 16 + f.dstSlot)
    if !x.holds || !decide (x.tin = f.msg.tin) then .bounce 1
    else if x.inbox.length < 8 then .deliver else .refuse := by
  rw [verdict_eq, hg, hc, ho, nbit, hm]
  rfl

theorem verdict_stale (h : (s.slotFor f.part (f.dstCore * 16 + f.dstSlot)).holds = false ∨
      (s.slotFor f.part (f.dstCore * 16 + f.dstSlot)).tin ≠ f.msg.tin) : s.verdict f = .bounce 1 := by
  rw [verdict_inside hg hc hm ho]
  exact if_pos (by simpa [imp_iff_not_or, or_comm] using h)

theorem verdict_thread (hh : (s.slotFor f.part (f.dstCore * 16 + f.dstSlot)).holds = true)
    (ht : (s.slotFor f.part (f.dstCore * 16 + f.dstSlot)).tin = f.msg.tin) : s.verdict f =
      if (s.slotFor f.part (f.dstCore * 16 + f.dstSlot)).inbox.length < 8 then .deliver else .refuse := by
  rw [verdict_inside hg hc hm ho]
  exact if_neg (by simp [hh, ht])

end

end

/-! ## The flights of a slot -/

section
variable {s : State} {gs i : Nat} {f : Flight}

@[simp] theorem State.cores_addRecv (k : Option Nat) : (s.addRecv k).cores = s.cores := by
  cases k <;> rfl

@[simp] theorem State.hub_addRecv (k : Option Nat) : (s.addRecv k).hub = s.hub := by
  cases k <;> rfl

@[simp] theorem State.saved_addRecv (k : Option Nat) : (s.addRecv k).saved = s.saved := by
  cases k <;> rfl

@[simp] theorem State.slot_addRecv (k : Option Nat) (g : Nat) : (s.addRecv k).slot g = s.slot g :=
  State.slot_congr (State.cores_addRecv k) (State.hub_addRecv k) g

/-- While the partition is not switched out, its slot is the core's (R380). -/
theorem slotFor_of_present {p : Nat} (h : s.saved.seek p = none) (g : Nat) : s.slotFor p g = s.slot g := by
  rw [State.slotFor, h]

theorem setSlotFor_of_present {p : Nat} (h : s.saved.seek p = none) (g : Nat) (x : Slot) :
    s.setSlotFor p g x = s.setSlot g x := by
  rw [State.setSlotFor, h]

@[simp] theorem inbox_dropFlight (g : Nat) : ((s.dropFlight gs i).slot g).inbox = (s.slot g).inbox := by
  by_cases h : g = gs
  · rw [h, State.dropFlight, State.slot_setSlot_self]
  · rw [State.dropFlight, State.slot_setSlot_ne _ _ h]

/-- The message as it stands in its destination's inbox, its sender the peer (R141). -/
def Flight.received (f : Flight) (gs : Nat) : Message :=
  { f.msg with core := gs / 16, slot := gs % 16, tin := f.fromTin, reason := 0, popped := 0 }

/-- A message that enters an inbox as its flight ends stands last there. -/
theorem enters_inbox {p : Nat} (h : s.saved.seek p = none) (k : Option Nat) (g e : Nat) (m : Message) :
    let u := (s.dropFlight gs i).addRecv k
    let t := u.setSlotFor p g { u.slotFor p g with inbox := (u.slotFor p g).inbox ++ [m], event := e }
    (t.slot g).inbox = (s.slot g).inbox ++ [m] ∧ (t.slot g).flights = ((s.dropFlight gs i).slot g).flights := by
  intro u t
  have present : u.saved.seek p = none := by
    rw [State.saved_addRecv]
    exact h
  have same : u.slot g = (s.dropFlight gs i).slot g := State.slot_addRecv k g
  rw [show t = _ from setSlotFor_of_present present _ _, slotFor_of_present present, State.slot_setSlot_self, same,
    inbox_dropFlight]
  exact ⟨rfl, rfl⟩

theorem judge_heldBack (h : (s.slot gs).heldBack i f = true) :
    s.judge gs i f = s.setFlight gs i { f with pos := .sender, halves := 0 } := if_pos h

section
variable (h : (s.slot gs).heldBack i f = false)
include h

theorem judge_deliver (hv : s.verdict f = .deliver) : s.judge gs i f = s.deliver gs i f := by
  rw [State.judge, h, hv]
  rfl

theorem judge_bounce {r : Nat} (hv : s.verdict f = .bounce r) : s.judge gs i f = s.setFlight gs i (f.bounced r) := by
  rw [State.judge, h, hv]
  rfl

/-- A refused message keeps the cycle of its first refusal (R143 step 4). -/
theorem judge_refuse (hv : s.verdict f = .refuse) : s.judge gs i f = s.setFlight gs i { f with
    pos := .sender, halves := 0, firstRefusal := some (f.firstRefusal.getD s.now) } := by
  rw [State.judge, h, hv]
  cases f.firstRefusal <;> rfl

end

/-- What the search for a message that times out has found (R143 step 4). -/
theorem timedOut_some (h : s.timedOut gs = some (i, f)) :
    f.pos = .sender ∧ ∃ c, f.firstRefusal = some c ∧ c + 4096 ≤ s.now := by
  obtain ⟨e, he, hi⟩ := Option.map_eq_some_iff.1 h
  obtain rfl : e.1 = f := congrArg Prod.snd hi
  have found := List.find?_some he
  rw [Bool.and_eq_true, decide_eq_true_eq] at found
  obtain ⟨hpos, hdue⟩ := found
  refine ⟨hpos, ?_⟩
  cases hr : e.1.firstRefusal with
  | none => simp [hr] at hdue
  | some c => exact ⟨c, rfl, by simpa [hr] using hdue⟩

/-- A message turned round in its sender's network interface stays there. -/
theorem bounced_at_sender (h : f.pos = .sender) (r : Nat) :
    f.bounced r = { f with msg := { f.msg with reason := r }, pos := .senderBounce, halves := 0 } := by
  simp only [Flight.bounced, h, if_true]

theorem bounceEnters_of_thread (hs : s.saved.seek f.part = none) (ht : (s.slot gs).tin = f.fromTin)
    (hp : (s.slot gs).part = f.part) (hh : (s.slot gs).holds = true) : s.bounceEnters gs i f =
      if (s.slot gs).inbox.length < 8 then
        let u := (s.dropFlight gs i).addRecv f.launch
        u.setSlotFor f.part gs { u.slotFor f.part gs with
          inbox := (u.slotFor f.part gs).inbox ++ [f.msg], event := u.now + 1 }
      else s.setFlight gs i { f with pos := .senderBounce } := by
  rw [State.bounceEnters, slotFor_of_present hs]
  exact if_neg (by simp [ht, hp, hh])

/-- A bounce that enters its sender's inbox stands last there, and its flight ends (R144). -/
theorem bounceEnters_room (hs : s.saved.seek f.part = none) (ht : (s.slot gs).tin = f.fromTin)
    (hp : (s.slot gs).part = f.part) (hh : (s.slot gs).holds = true) (hroom : (s.slot gs).inbox.length < 8) :
    ((s.bounceEnters gs i f).slot gs).inbox = (s.slot gs).inbox ++ [f.msg] ∧
      ((s.bounceEnters gs i f).slot gs).flights = (s.slot gs).flights.eraseIdx i := by
  have ended : ((s.dropFlight gs i).slot gs).flights = (s.slot gs).flights.eraseIdx i := by
    rw [State.dropFlight, State.slot_setSlot_self]
  rw [bounceEnters_of_thread hs ht hp hh, if_pos hroom, ← ended]
  exact enters_inbox hs f.launch gs _ f.msg

end

/-! ## The claim -/

/-- R143, R144: the checks, then the steps of a flight. -/
theorem messageDelivery : Claims.MessageDelivery := by
  refine ⟨fun s f => ⟨verdict_gone, verdict_outside, fun hg hc hm hown => ?_⟩,
    fun s gs => ⟨fun h => ?_, fun i f h => ?_, ?_⟩⟩
  · have ho := State.heldByOther_of_own hown
    refine ⟨verdict_stale hg hc hm ho, fun hh ht => ⟨fun hroom => ?_, fun hfull => ?_⟩⟩
    · rw [verdict_thread hg hc hm ho hh ht, if_pos hroom]
    · rw [verdict_thread hg hc hm ho hh ht, if_neg (by omega)]
  · exact exec_next (i := .messageArrival gs) rfl (by rw [State.messageArrive, h])
  · have judged : exec (.messageArrival gs) s = .next (s.judge gs i f) :=
      exec_next (i := .messageArrival gs) rfl (by rw [State.messageArrive, h])
    refine ⟨fun held => exec_next judged (judge_heldBack held), fun free => ⟨fun hv hs => ?_, fun r hv => ?_, fun hv => ?_⟩⟩
    · exact ⟨_, f.received gs, exec_next judged (judge_deliver free hv), (enters_inbox hs f.launch _ _ _).1,
        rfl, rfl, rfl, rfl, rfl, rfl, rfl, rfl⟩
    · exact exec_next judged (judge_bounce free hv)
    · exact exec_next judged (judge_refuse free hv)
  · refine ⟨fun h => ?_, fun i f h => ?_, fun h => ?_, fun i f h hs ht hp hh => ?_⟩
    · exact exec_next (i := .messageTimeout gs) rfl (by rw [h])
    · obtain ⟨hpos, hdue⟩ := timedOut_some h
      have bounced := congrArg (s.setFlight gs i) (bounced_at_sender hpos 4)
      exact ⟨exec_next (i := .messageTimeout gs) rfl (by rw [h]; exact bounced), hdue⟩
    · exact exec_next (i := .bounceArrival gs) rfl (by rw [h])
    · have enters : exec (.bounceArrival gs) s = .next (s.bounceEnters gs i f) :=
        exec_next (i := .bounceArrival gs) rfl (by rw [h])
      refine ⟨fun hroom => ?_, fun hfull => exec_next enters ?_⟩
      · obtain ⟨hin, hflights⟩ := bounceEnters_room hs ht hp hh hroom (i := i)
        exact ⟨_, enters, hin, hflights⟩
      · rw [bounceEnters_of_thread hs ht hp hh, if_neg (by omega)]

end Sys2Proof.Machine

/-! # Reduction trees

What a node takes of a packet, what its combining leaves, and its time-out (R146 to R149). -/

namespace Sys2Proof.Machine

/-! ## Tree entries of the state -/

section
variable {s : State} {core t : Nat}

@[simp] theorem State.tree_setTree_self (n : TreeNode) : ((s.setTree core t n).core core).tree t = n := by
  rw [State.setTree, State.core_setCore_self]
  exact SMap.val_put_self ..

/-- A tree entry does not stand in the slots. -/
@[simp] theorem State.tree_setSlot (gs : Nat) (x : Slot) : ((s.setSlot gs x).core core).tree t = (s.core core).tree t := by
  by_cases h : core = gs / 16
  · rw [State.setSlot, h, State.core_setCore_self]
    rfl
  · rw [State.setSlot, State.core_setCore_ne _ _ h]

theorem mayDeliver_root (h : treeRoot ((s.core core).tree t).entry = true) :
    s.mayDeliver core t = ((s.core core).tree t).result.isNone := if_pos h

theorem mayDeliver_child (h : treeRoot ((s.core core).tree t).entry = false) : s.mayDeliver core t =
    (((s.core (treeParent ((s.core core).tree t).entry)).tree t).hasRoom core &&
      !(s.later ++ s.agenda).any (Event.isPacket (treeParent ((s.core core).tree t).entry) core t)) :=
  if_neg (by simp [h])

/-- Whether a result can leave its node is settled by the entries, the results and the room for packets (R149). -/
theorem mayDeliver_setTree {m : TreeNode} (hentry : m.entry = ((s.core core).tree t).entry)
    (hresult : m.result = ((s.core core).tree t).result)
    (hroom : ∀ src, m.hasRoom src = ((s.core core).tree t).hasRoom src) :
    (s.setTree core t m).mayDeliver core t = s.mayDeliver core t := by
  by_cases hr : treeRoot ((s.core core).tree t).entry = true
  · rw [mayDeliver_root hr, mayDeliver_root (by rw [State.tree_setTree_self, hentry, hr]), State.tree_setTree_self, hresult]
  · rw [Bool.not_eq_true] at hr
    rw [mayDeliver_child hr, mayDeliver_child (by rw [State.tree_setTree_self, hentry, hr]), State.tree_setTree_self, hentry]
    congr 1
    by_cases hp : treeParent ((s.core core).tree t).entry = core
    · rw [hp, State.tree_setTree_self, hroom]
    · rw [State.setTree, State.core_setCore_ne _ _ hp]

end

/-! ## Packets (R148, R149) -/

section
variable {n : TreeNode} {p : RedPacket} {now : Nat}

/-- A packet of no configured child counts in TREEBAD. -/
theorem accept_invalid (h : bitOf n.entry 63 = false) :
    n.accept p now = { n with treebad := min 65535 (n.treebad + 1) } := by
  rw [TreeNode.accept, h]
  rfl

/-- Nothing of a node that is not valid holds a credit back. -/
theorem hasRoom_invalid (h : bitOf n.entry 63 = false) (src : Nat) : n.hasRoom src = true := by
  rw [TreeNode.hasRoom, h]
  rfl

theorem side_left (hl : treeHasL n.entry = true) (hsrc : treeLeft n.entry = p.src) : n.side p.src = some 0 :=
  if_pos (by simp [hl, hsrc])

section
variable (hv : bitOf n.entry 63 = true) (hl : treeHasL n.entry = true) (hsrc : treeLeft n.entry = p.src)
include hv hl hsrc

/-- The left child's packet of the epoch is placed while its part is empty (R148). -/
theorem accept_left (he : p.epoch = n.epoch) (hempty : n.left = none) (hf : n.frozen = false) :
    n.accept p now = n.place 0 p now := by
  have ahead : (n.epoch + 65536 - n.epoch) % 65536 = 0 := by omega
  rw [TreeNode.accept, hv, if_pos rfl, side_left hl hsrc, he, hf]
  simp only [ahead, TreeNode.holdsSide, hempty]
  rfl

theorem hasRoom_left (hheld : n.left.isSome = true) : n.hasRoom p.src = false := by
  rw [TreeNode.hasRoom, hv, if_pos rfl, side_left hl hsrc]
  simp [TreeNode.holdsSide, hheld]

end

end

/-! ## Combining (R148, R149) -/

section
variable {s : State} {core t : Nat}

theorem treeSettle_rest (h : (bitOf ((s.core core).tree t).entry 63 &&
      (((s.core core).tree t).parts.all Option.isSome || ((s.core core).tree t).frozen) && s.mayDeliver core t) = false)
    (fuel : Nat) : s.treeSettle core t fuel = s := by
  cases fuel with
  | zero => rfl
  | succ fuel => rw [State.treeSettle, h]; rfl

/-- A node that delivers once, with no early packets to place, and cannot deliver again (R149). -/
theorem treeSettle_once (hv : bitOf ((s.core core).tree t).entry 63 = true)
    (hdue : ((s.core core).tree t).parts.all Option.isSome = true ∨ ((s.core core).tree t).frozen = true)
    (hmay : s.mayDeliver core t = true)
    (hearly : (((s.treeAdvance core t).core core).tree t).early = [])
    (hstop : (s.treeAdvance core t).mayDeliver core t = false) (fuel : Nat) :
    s.treeSettle core t (fuel + 1) =
      (s.treeAdvance core t).setTree core t (((s.treeAdvance core t).core core).tree t) := by
  have due : (bitOf ((s.core core).tree t).entry 63 &&
      (((s.core core).tree t).parts.all Option.isSome || ((s.core core).tree t).frozen) && s.mayDeliver core t) = true := by
    simpa [hv, hmay] using hdue
  have node : { ((s.treeAdvance core t).core core).tree t with early := [] } = ((s.treeAdvance core t).core core).tree t := by
    rw [← hearly]
  rw [State.treeSettle, due, if_pos rfl]
  dsimp only
  rw [hearly, List.foldl_nil, node]
  refine treeSettle_rest ?_ fuel
  rw [mayDeliver_setTree rfl rfl (fun _ => rfl), hstop, Bool.and_false]

/-- The node at the start of its next epoch, with `bad` parts that did not fit counted (R148). -/
def TreeNode.next (n : TreeNode) (bad : Nat) : TreeNode :=
  { n with epoch := (n.epoch + 1) % 65536, left := none, right := none, loc := none, firstLanes := none, timer := none
           frozen := false, treebad := sat16 n.treebad bad }

/-- A root keeps what it has combined as its result (R149). -/
theorem treeAdvance_root (h : treeRoot ((s.core core).tree t).entry = true) :
    ((s.treeAdvance core t).core core).tree t =
      let n := (s.core core).tree t
      { n.next (n.combine t core).2 with result := some (n.resultOf (n.combine t core).1) } := by
  rw [State.treeAdvance]
  dsimp only
  rw [if_pos h, State.signal, State.tree_setSlot, State.tree_setTree_self]
  rfl

/-- Another node sends it to its parent (R145, R149). -/
theorem treeAdvance_child (h : treeRoot ((s.core core).tree t).entry = false) :
    let n := (s.core core).tree t
    ((s.treeAdvance core t).core core).tree t = n.next (n.combine t core).2 ∧
      .treePacketArrival (treeParent n.entry) (n.combine t core).1 ∈ (s.treeAdvance core t).later := by
  intro n
  rw [State.treeAdvance]
  dsimp only
  rw [if_neg (by simp [h])]
  refine ⟨?_, by simp [n]⟩
  show (((State.setTree _ core t (n.next (n.combine t core).2)).core core).tree t) = _
  exact State.tree_setTree_self _

/-- A packet on its way to the parent takes the credit of its part (R149). -/
theorem mayDeliver_sent {p : RedPacket} (hr : treeRoot ((s.core core).tree t).entry = false) (hsrc : p.src = core)
    (ht : p.tree = t) (h : .treePacketArrival (treeParent ((s.core core).tree t).entry) p ∈ s.later) :
    s.mayDeliver core t = false := by
  have sent : (s.later ++ s.agenda).any (Event.isPacket (treeParent ((s.core core).tree t).entry) core t) = true :=
    List.any_eq_true.2 ⟨_, List.mem_append_left _ h, by simp [Event.isPacket, hsrc, ht]⟩
  rw [mayDeliver_child hr, sent, Bool.not_true, Bool.and_false]

end

/-! ## Time-outs (R148) -/

section
variable {s : State} {core t : Nat}

theorem expired_of_frozen {n : TreeNode} (h : n.frozen = true) (now : Nat) : n.expired now = false := by
  simp [TreeNode.expired, h]

theorem expired_early {n : TreeNode} {now : Nat}
    (h : n.timer = none ∨ ∃ c, n.timer = some c ∧ now < c + 256 * 2 ^ fld n.entry 22 19) : n.expired now = false := by
  rcases h with h | ⟨c, h, hlt⟩
  · simp [TreeNode.expired, TreeNode.deadline, h]
  · simp [TreeNode.expired, TreeNode.deadline, h, hlt]

theorem expired_due {n : TreeNode} {now c : Nat} (hv : bitOf n.entry 63 = true) (hf : n.frozen = false)
    (h : n.timer = some c) (hle : c + 256 * 2 ^ fld n.entry 22 19 ≤ now) : n.expired now = true := by
  simp [TreeNode.expired, TreeNode.deadline, hv, hf, h, hle]

/-- A time-out at a node that may not combine yet changes nothing. -/
theorem treeExpire_rest (hexp : ((s.core core).tree t).expired s.now = false)
    (h : (((s.core core).tree t).parts.all Option.isSome = false ∧ ((s.core core).tree t).frozen = false) ∨
      s.mayDeliver core t = false) : s.treeExpire core t = s := by
  rw [State.treeExpire, hexp]
  refine treeSettle_rest ?_ _
  rcases h with ⟨h, h'⟩ | h
  · simp [h, h']
  · simp [h]

/-- The state in which the node's time-out has come: no later part of its epoch counts. -/
def State.timeUp (s : State) (core t : Nat) : State := s.setTree core t { (s.core core).tree t with frozen := true }

@[simp] theorem State.tree_timeUp :
    ((s.timeUp core t).core core).tree t = { (s.core core).tree t with frozen := true } := State.tree_setTree_self _

/-- The time-out leaves the right to deliver as it was. -/
theorem mayDeliver_timeUp : (s.timeUp core t).mayDeliver core t = s.mayDeliver core t :=
  mayDeliver_setTree rfl rfl fun _ => rfl

/-- A node whose time is up delivers what it has (R148, R149). -/
theorem treeExpire_delivers (hv : bitOf ((s.core core).tree t).entry 63 = true)
    (hexp : ((s.core core).tree t).expired s.now = true) (hmay : s.mayDeliver core t = true)
    (hearly : ((((s.timeUp core t).treeAdvance core t).core core).tree t).early = [])
    (hstop : ((s.timeUp core t).treeAdvance core t).mayDeliver core t = false) :
    s.treeExpire core t = ((s.timeUp core t).treeAdvance core t).setTree core t
      ((((s.timeUp core t).treeAdvance core t).core core).tree t) := by
  rw [State.treeExpire, hexp, if_pos rfl]
  exact treeSettle_once (s := s.timeUp core t) (by rw [State.tree_timeUp]; exact hv) (.inr (by rw [State.tree_timeUp]))
    (mayDeliver_timeUp.trans hmay) hearly hstop _

end

/-! ## Arrivals and time-outs that end at once -/

section
variable {s : State} {core t : Nat}

/-- A packet after which its node still waits for a part. -/
theorem treeArrive_rest {p : RedPacket} {m : TreeNode} (hm : ((s.core core).tree p.tree).accept p s.now = m)
    (h : (bitOf m.entry 63 && (m.parts.all Option.isSome || m.frozen)) = false) : s.treeArrive core p =
      (if m.hasRoom p.src then s.treeCredit p.tree [p.src] else s).setTree core p.tree m := by
  rw [State.treeArrive, hm]
  refine treeSettle_rest ?_ _
  rw [State.tree_setTree_self, h, Bool.false_and]

theorem treeArrive_invalid {p : RedPacket} (h : bitOf ((s.core core).tree p.tree).entry 63 = false) :
    s.treeArrive core p = ({ s with later := s.later ++ [Event.treeTimeout p.src p.tree] } : State).setTree core p.tree
      { (s.core core).tree p.tree with treebad := min 65535 (((s.core core).tree p.tree).treebad + 1) } := by
  refine (treeArrive_rest (accept_invalid h) (by rw [h, Bool.false_and])).trans ?_
  rw [if_pos]
  · rfl
  · exact hasRoom_invalid h _

theorem treeArrive_left {p : RedPacket} {n : TreeNode} (hn : (s.core core).tree p.tree = n)
    (hv : bitOf n.entry 63 = true) (hl : treeHasL n.entry = true) (hsrc : treeLeft n.entry = p.src)
    (he : p.epoch = n.epoch) (hempty : n.left = none) (hr : treeHasR n.entry = true)
    (hright : n.right = none) (hf : n.frozen = false) : s.treeArrive core p = s.setTree core p.tree { n with
      left := some p, firstLanes := some (n.firstLanes.getD p.lanes), timer := some (n.timer.getD s.now) } := by
  have full : (n.place 0 p s.now).hasRoom p.src = false := hasRoom_left hv hl hsrc rfl
  have waits : (n.place 0 p s.now).parts.all Option.isSome = false := by
    simp [TreeNode.parts, TreeNode.place, hr, hright]
  have settled : (bitOf (n.place 0 p s.now).entry 63 &&
      ((n.place 0 p s.now).parts.all Option.isSome || (n.place 0 p s.now).frozen)) = false := by
    rw [waits, show (n.place 0 p s.now).frozen = false from hf, Bool.or_false, Bool.and_false]
  rw [treeArrive_rest (by rw [hn, accept_left hv hl hsrc he hempty hf]) settled, full, if_neg Bool.false_ne_true]
  rfl

section
variable (hv : bitOf ((s.core core).tree t).entry 63 = true) (hexp : ((s.core core).tree t).expired s.now = true)
  (hearly : ((s.core core).tree t).early = [])
include hv hexp hearly

/-- The root's result is that of the epoch that ends, of the parts that came (R148, R149). -/
theorem treeExpire_root (hr : treeRoot ((s.core core).tree t).entry = true)
    (hfree : ((s.core core).tree t).result = none) :
    let n := (s.core core).tree t
    ∃ (u : State) (r : TreeResult), exec (.treeTimeout core t) s = .next u ∧
      ((u.core core).tree t).result = some r ∧ r.epoch = n.epoch ∧ r.data = (n.combine t core).1.data ∧
      ((u.core core).tree t).epoch = (n.epoch + 1) % 65536 ∧ ((u.core core).tree t).timer = none := by
  intro n
  have node := treeAdvance_root (s := s.timeUp core t) (core := core) (t := t) (by rw [State.tree_timeUp]; exact hr)
  rw [State.tree_timeUp] at node
  have may : s.mayDeliver core t = true := by rw [mayDeliver_root hr, hfree]; rfl
  have stop : ((s.timeUp core t).treeAdvance core t).mayDeliver core t = false := by
    rw [mayDeliver_root (by rw [node]; exact hr), node]
    rfl
  have ends := treeExpire_delivers hv hexp may (by rw [node]; exact hearly) stop
  refine ⟨_, n.resultOf (n.combine t core).1, exec_next (i := .treeTimeout core t) rfl ends, ?_, rfl, rfl, ?_, ?_⟩ <;>
    rw [State.tree_setTree_self, node] <;> rfl

/-- Another node's packet is on its way to the parent, when its credit is there (R148, R149). -/
theorem treeExpire_child (hr : treeRoot ((s.core core).tree t).entry = false) (hmay : s.mayDeliver core t = true) :
    let n := (s.core core).tree t
    ∃ u : State, exec (.treeTimeout core t) s = .next u ∧
      .treePacketArrival (treeParent n.entry) (n.combine t core).1 ∈ u.later ∧
      ((u.core core).tree t).epoch = (n.epoch + 1) % 65536 ∧ ((u.core core).tree t).timer = none := by
  intro n
  obtain ⟨node, sent⟩ := treeAdvance_child (s := s.timeUp core t) (core := core) (t := t) (by rw [State.tree_timeUp]; exact hr)
  rw [State.tree_timeUp] at node sent
  have stop : ((s.timeUp core t).treeAdvance core t).mayDeliver core t = false :=
    mayDeliver_sent (by rw [node]; exact hr) rfl rfl (by rw [node]; exact sent)
  have ends := treeExpire_delivers hv hexp hmay (by rw [node]; exact hearly) stop
  refine ⟨_, exec_next (i := .treeTimeout core t) rfl ends, sent, ?_, ?_⟩ <;> rw [State.tree_setTree_self, node] <;> rfl

end

end

end Sys2Proof.Machine

/-! # Tiles

Tiles on the ring at their destination (R151, R152, R278), and the elements of accumulator tiles (R287). -/

namespace Sys2Proof.Machine

/-! ## Ring tiles (R151, R278) -/

section
variable {s : State} {core src : Nat}

theorem tileArrive_none (h : (s.core src).latch.sending = none) : s.tileArrive core src = s := by
  rw [State.tileArrive, h]

/-- A tile that does not stand at this core stays in its sender. -/
theorem tileArrive_away {x : Sending} (hx : (s.core src).latch.sending = some x)
    (h : x.dest ≠ core ∨ (x.plan = true ∧ x.got < x.tile.words)) : s.tileArrive core src = s := by
  have away : ¬ (x.dest = core ∧ x.there = true) := by
    rintro ⟨hdest, hthere⟩
    rcases h with h | ⟨hplan, hgot⟩
    · exact h hdest
    · simp only [Sending.there, hplan, Bool.not_true, Bool.false_or, decide_eq_true_eq] at hthere
      omega
  rw [State.tileArrive, hx]
  exact if_neg away

/-- With no spill entries, no bank is refilled (R152). -/
theorem fillBank_of_no_spill {k : Core} (h : k.spill = []) : k.fillBank = k := by
  unfold Core.fillBank
  split
  · rfl
  · rw [h]
    rfl

theorem fillBanks_of_no_spill {k : Core} (h : k.spill = []) : k.fillBanks = k := by
  rw [Core.fillBanks, fillBank_of_no_spill h, fillBank_of_no_spill h]

section
variable {x : Sending} {g h : Nat} (hx : (s.core src).latch.sending = some x) (hdest : x.dest = core)
  (hthere : x.there = true) (hg : (s.core src).latch.holder = some g) (hne : core ≠ src)
  (hfor : s.tileFor core src (s.slot (src * 16 + g)).part = some h) (hspills : s.tileSpills core h = false)
  (hbank : (s.core core).latch.bank0 = none) (hspill : (s.core core).spill = [])
include hx hdest hthere hg hne hfor hspills hbank hspill

/-- A tile for the holder fills the first bank, when that is free and nothing was spilled before it (R151, R278). -/
theorem tileArrive_bank0 : s.tileArrive core src =
    (s.setCore src (s.core src).tileLeft).setCore core
      { s.core core with latch := { (s.core core).latch with bank0 := some x.tile } } := by
  have filled : ((s.setCore src (s.core src).tileLeft).core core).fillBanks = s.core core := by
    rw [State.core_setCore_ne _ _ hne, fillBanks_of_no_spill hspill]
  rw [State.tileArrive, hx]
  dsimp only
  rw [if_pos ⟨hdest, hthere⟩, hg]
  dsimp only
  rw [hfor]
  dsimp only
  rw [hspills, if_neg Bool.false_ne_true, filled, hbank]
  rfl

/-- The tile leaves its sender, and the other bank stays as it is. -/
theorem ringTile_fills : ∃ t : State, exec (.ringTileArrival core src) s = .next t ∧
      (t.core core).latch.bank0 = some x.tile ∧ (t.core src).latch.sending = none ∧
      (t.core src).latch.outstanding = (s.core src).latch.outstanding - 1 ∧
      (t.core core).latch.bank1 = (s.core core).latch.bank1 := by
  refine ⟨_, exec_next (i := .ringTileArrival core src) rfl
    (tileArrive_bank0 hx hdest hthere hg hne hfor hspills hbank hspill), ?_⟩
  rw [State.core_setCore_self, State.core_setCore_ne _ _ (Ne.symm hne), State.core_setCore_self]
  exact ⟨rfl, rfl, rfl, rfl⟩

end

/-- A tile stands at its destination at once, or with its last word (R278). -/
theorem there_of (x : Sending) (h : x.plan = false ∨ x.tile.words ≤ x.got) : x.there = true := by
  rcases h with h | h <;> simp [Sending.there, h]

end

/-! ## Elements of a tile (R287) -/

/-- A tile's elements as the core lists them: those that are not zero, by their index in the accumulator. -/
def tileCells (t : Nat) (l : List (BitVec 32)) (i : Nat) : SMap (BitVec 32) :=
  ((l.zipIdx i).filter (fun e => !decide (e.1 = 0))).map (fun e => (t * 1024 + e.2, e.1))

theorem tileCells_cons (t : Nat) (x : BitVec 32) (l : List (BitVec 32)) (i : Nat) :
    tileCells t (x :: l) i = if x = 0 then tileCells t l (i + 1) else (t * 1024 + i, x) :: tileCells t l (i + 1) := by
  by_cases h : x = 0
  · simp [tileCells, h]
  · rw [if_neg h, tileCells, List.zipIdx_cons, List.filter_cons_of_pos (by simpa using h)]
    rfl

/-- An element reads as it was given. -/
theorem val_tileCells (t : Nat) (l : List (BitVec 32)) (i j : Nat) :
    SMap.val (tileCells t l i) (t * 1024 + j) 0 = if j < i then 0 else l.getD (j - i) 0 := by
  induction l generalizing i with
  | nil => simp [tileCells]
  | cons x l ih =>
    have rest : SMap.val (tileCells t l (i + 1)) (t * 1024 + j) 0 = if j ≤ i then 0 else l.getD (j - (i + 1)) 0 := by
      rw [ih]
      simp only [Nat.lt_succ_iff]
    have head : (x :: l).getD (j - i) 0 = if j ≤ i then x else l.getD (j - (i + 1)) 0 := by
      split
      · next h => rw [Nat.sub_eq_zero_of_le h, List.getD_cons_zero]
      · rw [show j - i = j - (i + 1) + 1 by omega, List.getD_cons_succ]
    have listed : SMap.val (tileCells t (x :: l) i) (t * 1024 + j) 0 =
        if j = i then x else SMap.val (tileCells t l (i + 1)) (t * 1024 + j) 0 := by
      rw [tileCells_cons]
      by_cases hx : x = 0
      · rw [if_pos hx, rest, hx]
        split
        · simp
        · rw [if_neg (by omega)]
      · rw [if_neg hx, SMap.val]
        simp only [Nat.add_left_cancel_iff]
    rw [listed, rest, head]
    rcases Nat.lt_trichotomy j i with h | h | h
    · rw [if_neg (Nat.ne_of_lt h), if_pos h, if_pos (Nat.le_of_lt h)]
    · rw [if_pos h, if_neg (Nat.not_lt_of_ge (Nat.le_of_eq h.symm)), if_pos (Nat.le_of_eq h)]
    · rw [if_neg (Nat.ne_of_gt h), if_neg (Nat.not_lt_of_gt h), if_neg (Nat.not_le_of_gt h), if_neg (Nat.not_le_of_gt h)]

/-- The listed elements of a tile lie in its part of the accumulator. -/
theorem tile_of_mem_tileCells {t : Nat} {l : List (BitVec 32)} (hl : l.length ≤ 1024) {e : Nat × BitVec 32}
    (he : e ∈ tileCells t l 0) : e.1 / 1024 = t := by
  obtain ⟨x, hx, rfl⟩ := List.mem_map.1 he
  have := List.snd_lt_of_mem_zipIdx (List.mem_filter.1 hx).1
  show (t * 1024 + x.2) / 1024 = t
  omega

section
variable (k : Core) {t a : Nat} {l : List (BitVec 32)}

/-- The part of the accumulator that is tile `a`. -/
def Core.cells (a : Nat) : SMap (BitVec 32) := k.acc.filter (fun e => decide (e.1 / 1024 = a))

theorem tile_eq_cells : k.tile a = (List.range 1024).map (fun i => SMap.val (k.cells a) (a * 1024 + i) 0) := rfl

/-- The elements of one tile among those of some tiles. -/
theorem cells_of_tiles (m : SMap (BitVec 32)) (p : Nat → Prop) [DecidablePred p] (a : Nat) :
    (m.filter (fun e => decide (p (e.1 / 1024)))).filter (fun e => decide (e.1 / 1024 = a)) =
      if p a then m.filter (fun e => decide (e.1 / 1024 = a)) else [] := by
  rw [List.filter_filter]
  split
  · next h => exact List.filter_congr fun e _ => by by_cases he : e.1 / 1024 = a <;> simp [he, h]
  · next h => exact List.filter_eq_nil_iff.2 fun e _ => by by_cases he : e.1 / 1024 = a <;> simp [he, h]

/-- A replaced tile has the new elements, and the other tiles stay as they are. -/
theorem cells_setTile (hl : l.length ≤ 1024) :
    (k.setTile t l).cells a = if a = t then tileCells t l 0 else k.cells a := by
  have split : (k.setTile t l).cells a =
      (if a < t then k.cells a else []) ++ (tileCells t l 0).filter (fun e => decide (e.1 / 1024 = a)) ++
        (if t < a then k.cells a else []) := by
    show (k.acc.filter _ ++ tileCells t l 0 ++ k.acc.filter _ : SMap (BitVec 32)).filter _ = _
    rw [List.filter_append, List.filter_append]
    exact congrArg₂ _ (congrArg (· ++ _) (cells_of_tiles k.acc (· < t) a)) (cells_of_tiles k.acc (t < ·) a)
  rw [split]
  by_cases h : a = t
  · have own : (tileCells t l 0).filter (fun e => decide (e.1 / 1024 = a)) = tileCells t l 0 :=
      List.filter_eq_self.2 fun e he => by simp [tile_of_mem_tileCells hl he, h]
    rw [own, if_pos h, if_neg (by omega), if_neg (by omega), List.nil_append, List.append_nil]
  · have own : (tileCells t l 0).filter (fun e => decide (e.1 / 1024 = a)) = [] :=
      List.filter_eq_nil_iff.2 fun e he => by simp [tile_of_mem_tileCells hl he, Ne.symm h]
    rw [own, if_neg h, List.append_nil]
    rcases Nat.lt_or_gt_of_ne h with hlt | hgt
    · rw [if_pos hlt, if_neg (by omega), List.append_nil]
    · rw [if_neg (by omega), if_pos hgt, List.nil_append]

/-- A tile that is written whole reads as written. -/
theorem tile_setTile_self (hl : l.length = 1024) : (k.setTile t l).tile t = l := by
  rw [tile_eq_cells, cells_setTile k (Nat.le_of_eq hl), if_pos rfl]
  refine List.ext_getElem (by simp [hl]) fun i _ hi => ?_
  rw [List.getElem_map, List.getElem_range, val_tileCells, if_neg (Nat.not_lt_zero i), Nat.sub_zero,
    List.getD_eq_getElem _ _ hi]

theorem tile_setTile_ne (hl : l.length = 1024) (h : a ≠ t) : (k.setTile t l).tile a = k.tile a := by
  rw [tile_eq_cells, cells_setTile k (Nat.le_of_eq hl), if_neg h, tile_eq_cells]

end

end Sys2Proof.Machine

/-! # What a park leaves

The home's operations that a withdrawn reservation can cause touch memory, the slices and the L1Ds; neither they nor a park
touch the engine queues, the accumulator tiles, or the fault records that wait (R98, R263, R287, R396). -/

namespace Sys2Proof.Machine

/-! ## What the home's operations can change -/

/-- A property of states that no operation at a home can end: a change of memory, of its poison marks or of the slices keeps
it, and so does one of the lines of an L1D and one of the count of substituted sectors. -/
structure HomeClosed (P : State → Prop) : Prop where
  home : ∀ (t : State) mem poison slices, P t → P { t with mem := mem, poison := poison, slices := slices }
  l1 : ∀ (t : State) c lines bad, P t → P (t.setCore c { t.core c with l1d := lines, l1dBad := bad })
  count : ∀ (t : State) gs n, P t → P (t.setSlot gs { t.slot gs with subcnt := n })

namespace HomeClosed

section
variable {P : State → Prop} {t : State}

theorem holds_ite {c : Prop} [Decidable c] {a b : State} (ha : P a) (hb : P b) : P (if c then a else b) := by
  split <;> assumption

theorem holds_foldl {α : Type} {f : State → α → State} {l : List α} (h : P t) (hf : ∀ t x, P t → P (f t x)) :
    P (l.foldl f t) := by
  induction l generalizing t with
  | nil => exact h
  | cons x l ih => exact ih (hf t x h)

variable (hP : HomeClosed P)
include hP

theorem setSlice (n : Nat) (y : Slice) (h : P t) : P (t.setSlice n y) := hP.home _ _ _ _ h
theorem setDir (key : Nat) (d : Dir) (h : P t) : P (t.setDir key d) := hP.setSlice _ _ h
theorem setPoison (key : Nat) (h : P t) : P (t.setPoison key) := hP.home _ _ _ _ h
theorem setL1 (c sec : Nat) (l : L1Line) (h : P t) : P (t.setL1 c sec l) := hP.l1 _ c _ _ h
theorem dropL1 (c sec : Nat) (h : P t) : P (t.dropL1 c sec) := hP.l1 _ c _ _ h

theorem meetBad (key : Nat) (h : P t) : P (t.meetBad key) := holds_ite (hP.setPoison _ (hP.setSlice _ _ h)) h

theorem markDirty (key : Nat) (mask : BitVec 8) (h : P t) : P (t.markDirty key mask) := by
  refine holds_ite (hP.setSlice _ _ h) ?_
  dsimp only
  split
  · exact h
  · exact hP.setSlice _ _ h

theorem homePokes (key : Nat) (ps : List (Nat × Byte)) (h : P t) : P (t.homePokes key ps) :=
  holds_ite h (hP.home _ _ _ _ (hP.markDirty key _ h))

theorem sendTracked (c sec : Nat) (h : P t) : P (t.sendTracked c sec) := by
  unfold State.sendTracked
  split
  · exact h
  · exact holds_ite h (hP.setL1 _ _ _ (holds_ite (hP.setPoison _ (hP.homePokes _ _ h)) (hP.homePokes _ _ h)))

theorem recallFor (c key : Nat) (h : P t) : P (t.recallFor c key) := by
  unfold State.recallFor
  split
  · refine holds_ite h (hP.setDir _ _ (holds_foldl h fun t sec h => ?_))
    dsimp only
    split
    · exact holds_ite (hP.setL1 _ _ _ (hP.sendTracked _ _ h)) (hP.sendTracked _ _ h)
    · exact hP.sendTracked _ _ h
  · exact h

theorem recallSector (key : Nat) (h : P t) : P (t.recallSector key) := by
  unfold State.recallSector
  split
  · exact hP.sendTracked _ _ h
  · exact h

theorem invalidateSector (key : Nat) (h : P t) : P (t.invalidateSector key) :=
  holds_foldl (hP.recallSector key h) fun _ _ h => hP.dropL1 _ _ h

theorem evictLine (n line : Nat) (h : P t) : P (t.evictLine n line) := by
  unfold State.evictLine
  refine hP.setSlice _ _ (holds_foldl (hP.setDir _ _ (holds_foldl (hP.recallFor 256 _ h) fun t o h => ?_)) fun t sec h => ?_)
  · exact holds_foldl h fun _ _ h => hP.dropL1 _ _ h
  · exact holds_ite (hP.setPoison _ h) h

theorem placeLine (n line w : Nat) (h : P t) : P (t.placeLine n line w) := by
  refine hP.setSlice _ _ ?_
  split
  · exact holds_ite h (hP.evictLine _ _ h)
  · exact h

theorem atHome (p key : Nat) (h : P t) : P (t.atHome p key) := by
  have met := hP.meetBad key h
  refine holds_ite met ?_
  split
  · exact hP.setSlice _ _ met
  · split
    · exact hP.placeLine _ _ _ met
    · exact met

theorem mergeHome (p key : Nat) (ps : List (Nat × Byte)) (h : P t) : P (t.mergeHome p key ps) :=
  hP.invalidateSector _ (hP.homePokes _ _ (hP.recallSector _ (hP.atHome _ _ h)))

theorem redApply (op : RedOp) (w32 : Bool) (key : Nat) (v : Word) (p : Nat) (h : P t) :
    P (t.redApply op w32 key v p) :=
  hP.invalidateSector _ (hP.homePokes _ _ (hP.recallSector _ (hP.atHome _ _ h)))

theorem redServe (gs : Nat) (op : RedOp) (w32 etol : Bool) (key : Nat) (v : Word) (p : Nat) (h : P t) :
    P (t.redServe gs op w32 etol key v p) := by
  have reached := hP.recallSector key (hP.atHome p key h)
  exact hP.redApply _ _ _ _ _ (holds_ite (hP.count _ _ _ (hP.invalidateSector _ (hP.homePokes _ _ reached))) reached)

theorem setAmo (n : Nat) (l : List AmoRes) (h : P t) : P (t.setAmo n l) := hP.setSlice _ _ h

theorem advanceWord (n key fuel : Nat) (h : P t) : P (t.advanceWord n key fuel) := by
  induction fuel generalizing t with
  | zero => exact h
  | succ fuel ih =>
    unfold State.advanceWord
    split
    · exact h
    · dsimp only
      split
      · exact holds_ite h (hP.setAmo _ _ (hP.recallSector _ h))
      · exact ih (hP.mergeHome _ _ _ (hP.setAmo _ _ h))
      · exact ih (hP.redServe _ _ _ _ _ _ _ (hP.setAmo _ _ h))

/-- What waits behind a withdrawn reservation takes its turn at the home (R98, R369). -/
theorem amoWithdraw (gs : Nat) (h : P t) : P (t.amoWithdraw gs) := by
  unfold State.amoWithdraw
  split
  · exact holds_ite (hP.advanceWord _ _ _ (hP.setAmo _ _ h)) (hP.setAmo _ _ h)
  · exact h

end

end HomeClosed

/-! ## The same accumulators, engine queues and records -/

/-- Every core has the accumulator tiles and the matrix steps of `s`. -/
def State.SameTiles (s t : State) : Prop := ∀ c, (t.core c).acc = (s.core c).acc ∧ (t.core c).matrix = (s.core c).matrix

section
variable {s t : State}

theorem State.SameTiles.of_cores {u : State} (h : s.SameTiles t) (hc : u.cores = t.cores) (hh : u.hub = t.hub) :
    s.SameTiles u := fun c => by
  have same : u.core c = t.core c := by simp only [State.core, State.freshCore, hc, hh]
  rw [same]
  exact h c

theorem State.SameTiles.setCore {c : Nat} {k : Core} (h : s.SameTiles t) (ha : k.acc = (t.core c).acc)
    (hm : k.matrix = (t.core c).matrix) : s.SameTiles (t.setCore c k) := fun b => by
  by_cases hb : b = c
  · rw [hb, State.core_setCore_self, ha, hm]
    exact h c
  · rw [State.core_setCore_ne _ _ hb]
    exact h b

theorem State.SameTiles.setSlot (gs : Nat) (x : Slot) (h : s.SameTiles t) : s.SameTiles (t.setSlot gs x) := h.setCore rfl rfl

end

/-- The slots run as in `s` with the same engine queues, the tiles are the same, and the same fault records wait. -/
structure State.SameEngines (s t : State) : Prop where
  tiles : s.SameTiles t
  records : t.fqWait = s.fqWait
  slots : ∀ gs, (t.slot gs).run = (s.slot gs).run ∧ (t.slot gs).engq = (s.slot gs).engq

section
variable {s t : State}

theorem State.SameEngines.refl (s : State) : s.SameEngines s := ⟨fun _ => ⟨rfl, rfl⟩, rfl, fun _ => ⟨rfl, rfl⟩⟩

theorem State.SameEngines.of_cores {u : State} (h : s.SameEngines t) (hc : u.cores = t.cores) (hh : u.hub = t.hub)
    (hr : u.fqWait = t.fqWait) : s.SameEngines u :=
  ⟨h.tiles.of_cores hc hh, hr.trans h.records, fun gs => by rw [State.slot_congr hc hh]; exact h.slots gs⟩

theorem State.SameEngines.setSlot {gs : Nat} {x : Slot} (h : s.SameEngines t) (hr : x.run = (t.slot gs).run)
    (hq : x.engq = (t.slot gs).engq) : s.SameEngines (t.setSlot gs x) := by
  refine ⟨h.tiles.setSlot gs x, h.records, fun g => ?_⟩
  by_cases hg : g = gs
  · rw [hg, State.slot_setSlot_self, hr, hq]
    exact h.slots gs
  · rw [State.slot_setSlot_ne _ _ hg]
    exact h.slots g

theorem State.SameEngines.setCore {c : Nat} {k : Core} (h : s.SameEngines t) (ha : k.acc = (t.core c).acc)
    (hm : k.matrix = (t.core c).matrix) (hslots : k.slots = (t.core c).slots) (hscan : k.scan = (t.core c).scan) :
    s.SameEngines (t.setCore c k) :=
  ⟨h.tiles.setCore ha hm, h.records, fun gs => by rw [t.slot_setCore c gs hslots hscan]; exact h.slots gs⟩

theorem State.SameEngines.forgetWalks (gs : Nat) (kinds : AskKind → Bool) (h : s.SameEngines t) :
    s.SameEngines (t.forgetWalks gs kinds) :=
  (h.setSlot (gs := gs) (x := { t.slot gs with walked := (t.slot gs).walked.filter (fun w => !kinds w.kind) }) rfl
    rfl).of_cores rfl rfl rfl

/-- No operation at a home touches them. -/
theorem State.SameEngines.homeClosed (s : State) : HomeClosed s.SameEngines where
  home _ _ _ _ h := h.of_cores rfl rfl rfl
  l1 _ _ _ _ h := h.setCore rfl rfl rfl rfl
  count _ _ _ h := h.setSlot rfl rfl

end

/-! ## Parks (R396) -/

/-- A slot with its waits at gates marked and what it asked for dropped, before it is parked. -/
def State.unasked (s : State) (gs : Nat) : State := (s.parkGates gs).dropAsked gs

section
variable (s : State) (gs : Nat) (why : ParkWhy)

theorem unasked_sameEngines : s.SameEngines (s.unasked gs) := by
  have marked : s.SameEngines (s.parkGates gs) := (State.SameEngines.refl s).of_cores rfl rfl rfl
  exact (State.SameEngines.homeClosed s).amoWithdraw gs (marked.forgetWalks gs _)

/-- A park changes one slot, which keeps its engine queue and, if it was not parked, stands parked for the reason given. -/
theorem parkSlot_slot : ∃ y : Slot, (s.parkSlot gs why).cores = ((s.unasked gs).setSlot gs y).cores ∧
    (s.parkSlot gs why).hub = (s.unasked gs).hub ∧ (s.parkSlot gs why).fqWait = (s.unasked gs).fqWait ∧
    y.engq = (s.slot gs).engq ∧ ((∀ w, (s.slot gs).run ≠ .parked w) → y.run = .parked why) := by
  obtain ⟨hrun, hq⟩ := (unasked_sameEngines s gs).slots gs
  rw [← hrun, ← hq, State.parkSlot, ← State.unasked]
  dsimp only
  split
  · next w hw => exact ⟨_, rfl, rfl, rfl, rfl, fun h => absurd hw (h w)⟩
  · exact ⟨_, rfl, rfl, rfl, rfl, fun _ => rfl⟩
  · exact ⟨_, rfl, rfl, rfl, rfl, fun _ => rfl⟩
  · exact ⟨_, rfl, rfl, rfl, rfl, fun _ => rfl⟩

theorem parkSlot_tiles : s.SameTiles (s.parkSlot gs why) := by
  obtain ⟨y, hcores, hhub, -⟩ := parkSlot_slot s gs why
  exact ((unasked_sameEngines s gs).tiles.setSlot gs y).of_cores hcores hhub

theorem parkSlot_records : (s.parkSlot gs why).fqWait = s.fqWait := by
  obtain ⟨y, -, -, hrecords, -⟩ := parkSlot_slot s gs why
  exact hrecords.trans (unasked_sameEngines s gs).records

theorem parkSlot_engq : ((s.parkSlot gs why).slot gs).engq = (s.slot gs).engq := by
  obtain ⟨y, hcores, hhub, -, hq, -⟩ := parkSlot_slot s gs why
  rw [State.slot_congr (b := (s.unasked gs).setSlot gs y) hcores hhub, State.slot_setSlot_self, hq]

theorem parkSlot_run (h : ∀ w, (s.slot gs).run ≠ .parked w) : ((s.parkSlot gs why).slot gs).run = .parked why := by
  obtain ⟨y, hcores, hhub, -, -, hrun⟩ := parkSlot_slot s gs why
  rw [State.slot_congr (b := (s.unasked gs).setSlot gs y) hcores hhub, State.slot_setSlot_self, hrun h]

end

/-! ## Matrix steps that complete (R287) -/

section
variable {s t : State}

theorem fillBank_tiles (k : Core) : k.fillBank.acc = k.acc ∧ k.fillBank.matrix = k.matrix := by
  unfold Core.fillBank
  split
  · exact ⟨rfl, rfl⟩
  · split
    · exact ⟨rfl, rfl⟩
    · split
      · exact ⟨rfl, rfl⟩
      · split <;> exact ⟨rfl, rfl⟩

theorem fillBanks_tiles (k : Core) : k.fillBanks.acc = k.acc ∧ k.fillBanks.matrix = k.matrix := by
  obtain ⟨hacc, hmatrix⟩ := fillBank_tiles k.fillBank
  exact ⟨hacc.trans (fillBank_tiles k).1, hmatrix.trans (fillBank_tiles k).2⟩

theorem State.SameTiles.ite {c : Prop} [Decidable c] {a b : State} (ha : s.SameTiles a) (hb : s.SameTiles b) :
    s.SameTiles (if c then a else b) := by
  split <;> assumption

theorem State.SameTiles.resume (gs : Nat) (h : s.SameTiles t) : s.SameTiles (t.resume gs) := by
  unfold State.resume
  dsimp only
  have ready {c : Prop} [Decidable c] (x y : Slot) :
      s.SameTiles (if c then (t.setSlot gs x).budgetNamed gs else t.setSlot gs y) :=
    .ite ((h.setSlot gs x).of_cores rfl rfl) (h.setSlot gs y)
  exact .ite (.setCore (ready _ _) (fillBanks_tiles _).1 (fillBanks_tiles _).2) (ready _ _)

theorem State.SameTiles.budgetReady (gs : Nat) (h : s.SameTiles t) : s.SameTiles (t.budgetReady gs) := by
  unfold State.budgetReady
  split
  · exact .ite (h.resume gs) h
  · exact h

/-- A slot that stops after its last matrix step leaves the tiles as written (R287). -/
theorem stopNow_tiles (s : State) (gs : Nat) : s.SameTiles (s.stopNow gs) := by
  have same : s.SameTiles s := fun _ => ⟨rfl, rfl⟩
  unfold State.stopNow
  split
  · exact .ite same ((parkSlot_tiles s gs _).budgetReady gs)
  · exact same

/-- The tiles of a core are those of any core with the same accumulator. -/
theorem tile_congr {j k : Core} (h : j.acc = k.acc) (a : Nat) : j.tile a = k.tile a := by
  rw [Core.tile, Core.tile, h]

/-- The oldest matrix step is written whole, and the other tiles stay (R287). -/
theorem matrixStep_writes {core : Nat} {w : MatrixWrite} {ws : List MatrixWrite} (h : (s.core core).matrix = w :: ws)
    (hl : w.elems.length = 1024) : ∃ t : State, exec (.matrixStepComplete core) s = .next t ∧ (t.core core).matrix = ws ∧
      (t.core core).tile w.acc = w.elems ∧ ∀ a, a ≠ w.acc → (t.core core).tile a = (s.core core).tile a := by
  have done : (s.core core).matrixDone = { (s.core core).setTile w.acc w.elems with matrix := ws } := by
    rw [Core.matrixDone, h]
  obtain ⟨hacc, hmatrix⟩ := stopNow_tiles (s.setCore core (s.core core).matrixDone) (core * 16 + w.slot) core
  rw [State.core_setCore_self, done] at hacc hmatrix
  refine ⟨_, exec_next (i := .matrixStepComplete core) rfl (by rw [h]), ?_, ?_, fun a ha => ?_⟩
  · rw [done]
    exact hmatrix
  · rw [done, tile_congr hacc]
    exact tile_setTile_self _ hl
  · rw [done, tile_congr hacc]
    exact tile_setTile_ne _ hl ha

end

end Sys2Proof.Machine

/-! # Engines

Starts of queued engine instructions and of replayed ones, the faults and kills that they meet, and the statement of trees,
tiles and engines (R263, R289, R401, R469). -/

namespace Sys2Proof.Machine

/-! ## Faults and kills of an engine stream (R401, R469) -/

section
variable {s : State} {gs : Nat}

/-- The state in which a fault of an engine stream has parked its slot, before the record is posted. -/
def State.engineParked (s : State) (gs : Nat) : State :=
  (s.parkSlot gs .fault).setSlot gs { (s.parkSlot gs .fault).slot gs with late := none }

/-- The slot stands parked, its engine queue as it was, and one more record waits. -/
theorem engineParked_record (hrun : ∀ w, (s.slot gs).run ≠ .parked w) (f : FaultInfo) (pc : Nat) (replay : Bool)
    (extra : List (Nat × List Byte)) :
    let t := (s.engineParked gs).slotRecord gs f pc replay extra
    (t.slot gs).run = .parked .fault ∧ (t.slot gs).engq = (s.slot gs).engq ∧ t.fqWait.length = s.fqWait.length + 1 := by
  intro t
  have slot : t.slot gs = { (s.parkSlot gs .fault).slot gs with late := none } :=
    (State.slot_congr (b := s.engineParked gs) rfl rfl gs).trans (State.slot_setSlot_self ..)
  rw [slot]
  refine ⟨parkSlot_run s gs .fault hrun, parkSlot_engq s gs .fault, ?_⟩
  show ((s.parkSlot gs .fault).fqWait ++ [_]).length = _
  rw [parkSlot_records, List.length_append, List.length_singleton]

theorem engineKill_open (h : s.amoOpen gs = true) (pc next : Nat) : s.engineKill gs pc next = s := if_pos h

theorem engineKill_closed (h : s.amoOpen gs = false) (pc next : Nat) : s.engineKill gs pc next =
    (s.slotRecord gs signatureFault pc false [(32, bytesOf 8 next)]).kill gs fcSignature := if_neg (by simp [h])

end

/-! ## The engine queue (R263, R469) -/

section
variable {s : State} {gs : Nat}

theorem engineTurn_parked {why : ParkWhy} (h : (s.slot gs).run = .parked why) : s.engineTurn gs = s := by
  rw [State.engineTurn, h]

theorem engineTurn_empty (h : (s.slot gs).engq = []) : s.engineTurn gs = s := by
  rw [State.engineTurn, h]
  cases (s.slot gs).run <;> rfl

/-- What an engine turn makes of the end of the start that heads the queue. -/
def State.engineEnds (s : State) (gs : Nat) (e : EngEntry) (r : Except Stop (Unit × State)) : State :=
  match r with
  | .ok (_, t) =>
    let v : State := { t.setCore (gs / 16) ({ t.core (gs / 16) with tb := (s.core (gs / 16)).tb }.unitsWritten (gs % 16)
      (wroteUnits e.instr)) with cur := s.cur, iss := s.iss }
    (v.setSlot gs { v.slot gs with
      engq := (v.slot gs).engq.tail
      walked := (v.slot gs).walked.filter (fun w => !decide (w.kind = .engine)) }).charge gs
  | .error (.wait _ keep) =>
    let v := keep (s.engineOf gs false)
    { v.setCore (gs / 16) { v.core (gs / 16) with tb := (s.core (gs / 16)).tb } with cur := s.cur, iss := s.iss }
  | .error (.fault f _) => if s.amoOpen gs then s else s.engineFault gs e f

section
variable {e : EngEntry} {l : List EngEntry} {start : List Word → M Unit} (hrun : ∀ w, (s.slot gs).run ≠ .parked w)
  (hq : (s.slot gs).engq = e :: l) (hs : startOf e.instr = some start)
include hrun hq hs

/-- A turn of a slot that is not parked is the start that heads its queue, unless a register word is bad (R401). -/
theorem engineTurn_head : s.engineTurn gs =
    if (s.core (gs / 16)).unitsBad (gs % 16) (startUnits e.instr) then s.engineKill gs e.pc (s.slot gs).pc
    else s.engineEnds gs e (start e.srcs ((s.engineOf gs false).withBanks (gs / 16) e.banks)) := by
  cases hr : (s.slot gs).run with
  | parked w => exact absurd hr (hrun w)
  | ready | waiting w =>
    rw [State.engineTurn, hr, hq]
    dsimp only
    rw [hs]
    rfl

theorem engineTurn_bad (hb : (s.core (gs / 16)).unitsBad (gs % 16) (startUnits e.instr) = true) :
    s.engineTurn gs = s.engineKill gs e.pc (s.slot gs).pc := by
  rw [engineTurn_head hrun hq hs, if_pos hb]

theorem engineTurn_start (hb : (s.core (gs / 16)).unitsBad (gs % 16) (startUnits e.instr) = false)
    {r : Except Stop (Unit × State)} (h : start e.srcs ((s.engineOf gs false).withBanks (gs / 16) e.banks) = r) :
    s.engineTurn gs = s.engineEnds gs e r := by
  rw [engineTurn_head hrun hq hs, hb, if_neg Bool.false_ne_true, h]

/-- A start that faults stays at the head of its queue, and its slot parks with a record (R469). -/
theorem engineTurn_fault (hb : (s.core (gs / 16)).unitsBad (gs % 16) (startUnits e.instr) = false)
    (ho : s.amoOpen gs = false) {f : FaultInfo} {k : State → State}
    (h : start e.srcs ((s.engineOf gs false).withBanks (gs / 16) e.banks) = .error (.fault f k)) :
    ((s.engineTurn gs).slot gs).run = .parked .fault ∧ ((s.engineTurn gs).slot gs).engq = e :: l ∧
      (s.engineTurn gs).fqWait.length = s.fqWait.length + 1 := by
  have faults : s.engineTurn gs = s.engineFault gs e f :=
    (engineTurn_start hrun hq hs hb h).trans (if_neg (by simp [ho]))
  rw [faults, ← hq]
  exact engineParked_record hrun { f with kind := 0, cause := 7 } e.pc false _

end

end

/-! ## The replay (R289, R292) -/

section
variable {s : State} {gs : Nat}

theorem replayIssue_parked {why : ParkWhy} (h : (s.slot gs).run = .parked why) : s.replayIssue gs = s := by
  rw [State.replayIssue, h]

/-- A replay waits for the engine instructions before it (R289). -/
theorem replayIssue_idle (h : (s.slot gs).tr.active = false ∨ (s.slot gs).engq ≠ []) : s.replayIssue gs = s := by
  have idle : (!(s.slot gs).tr.active || !(s.slot gs).engq.isEmpty) = true := by
    simpa using h
  cases hr : (s.slot gs).run with
  | parked w => exact replayIssue_parked hr
  | ready | waiting w =>
    rw [State.replayIssue, hr]
    exact if_pos idle

/-- The instruction that a captured one stands for in the pass that the replay is in (R289). -/
def Slot.replayed (x : Slot) (b : TrEntry) : Instr := renamed (x.tr.p * x.tr.stride) b.instr

/-- What a replay's turn makes of the end of its instruction. -/
def State.replayEnds (s : State) (gs : Nat) (b : TrEntry) (r : Except Stop (Unit × State)) : State :=
  match r with
  | .ok (_, t) =>
    let v : State := { t.setCore (gs / 16) ((t.core (gs / 16)).unitsWritten (gs % 16)
      (wroteUnits ((s.slot gs).replayed b))) with cur := s.cur, iss := s.iss }
    (v.setSlot gs { v.slot gs with
      walked := (v.slot gs).walked.filter (fun w => !decide (w.kind = .engine)) }).charge gs
  | .error (.wait _ keep) => { keep (s.engineOf gs true) with cur := s.cur, iss := s.iss }
  | .error (.fault f _) =>
    if s.amoOpen gs then s
    else (s.engineParked gs).slotRecord gs f b.pc true [(32, bytesOf 8 (b.pc + 2 * b.words.length)),
      (40, bytesOf 2 (s.slot gs).tr.p), (42, bytesOf 1 (s.slot gs).tr.j)]

section
variable {b : TrEntry} (hrun : ∀ w, (s.slot gs).run ≠ .parked w) (ha : (s.slot gs).tr.active = true)
  (hq : (s.slot gs).engq = []) (hb : (s.slot gs).tr.buf[(s.slot gs).tr.j]? = some b)
include hrun ha hq hb

theorem replayIssue_at : s.replayIssue gs =
    if (s.core (gs / 16)).unitsBad (gs % 16) (startUnits ((s.slot gs).replayed b))
    then s.engineKill gs b.pc (b.pc + 2 * b.words.length)
    else s.replayEnds gs b (replayOp (s.engineOf gs true)) := by
  cases hr : (s.slot gs).run with
  | parked w => exact absurd hr (hrun w)
  | ready | waiting w =>
    rw [State.replayIssue, hr]
    dsimp only
    rw [ha, hq, hb]
    rfl

theorem replayIssue_bad (hu : (s.core (gs / 16)).unitsBad (gs % 16) (startUnits ((s.slot gs).replayed b)) = true) :
    s.replayIssue gs = s.engineKill gs b.pc (b.pc + 2 * b.words.length) := by
  rw [replayIssue_at hrun ha hq hb, if_pos hu]

theorem replayIssue_op (hu : (s.core (gs / 16)).unitsBad (gs % 16) (startUnits ((s.slot gs).replayed b)) = false)
    {r : Except Stop (Unit × State)} (h : replayOp (s.engineOf gs true) = r) :
    s.replayIssue gs = s.replayEnds gs b r := by
  rw [replayIssue_at hrun ha hq hb, hu, if_neg Bool.false_ne_true, h]

/-- A replayed instruction that faults parks its slot with a record (R292). -/
theorem replayIssue_fault (hu : (s.core (gs / 16)).unitsBad (gs % 16) (startUnits ((s.slot gs).replayed b)) = false)
    (ho : s.amoOpen gs = false) {f : FaultInfo} {k : State → State}
    (h : replayOp (s.engineOf gs true) = .error (.fault f k)) :
    ((s.replayIssue gs).slot gs).run = .parked .fault ∧ (s.replayIssue gs).fqWait.length = s.fqWait.length + 1 := by
  have faults := (replayIssue_op hrun ha hq hb hu h).trans (if_neg (by simp [ho]))
  obtain ⟨hparked, -, hrecord⟩ := engineParked_record hrun f b.pc true [(32, bytesOf 8 (b.pc + 2 * b.words.length)),
    (40, bytesOf 2 (s.slot gs).tr.p), (42, bytesOf 1 (s.slot gs).tr.j)]
  rw [faults]
  exact ⟨hparked, hrecord⟩

end

end

/-! ## The claim -/

/-- R148, R149, R151, R263, R278, R287, R289, R401, R469: nodes, tiles and engine streams. -/
theorem treesTilesEngines : Claims.TreesTilesEngines := by
  refine ⟨fun s core p => ⟨fun h => ?_, fun hv hl hsrc he _ hempty hr hright hf => ?_⟩,
    fun s core t => ?_, fun s core src => ?_, fun s core => ?_, fun s gs => ?_⟩
  · exact exec_next (i := .treePacketArrival core p) rfl (treeArrive_invalid h)
  · exact exec_next (i := .treePacketArrival core p) rfl (treeArrive_left rfl hv hl hsrc he hempty hr hright hf)
  · refine ⟨fun htime hf hparts => ?_, fun hf hmay => ?_, fun c hc hle hv hf hr hres hearly => ?_,
      fun c hc hle hv hf hr hmay hearly => ?_⟩
    · exact exec_next (i := .treeTimeout core t) rfl (treeExpire_rest (expired_early htime) (.inl ⟨hparts, hf⟩))
    · exact exec_next (i := .treeTimeout core t) rfl (treeExpire_rest (expired_of_frozen hf _) (.inr hmay))
    · exact treeExpire_root hv (expired_due hv hf hc hle) hearly hr hres
    · exact treeExpire_child hv (expired_due hv hf hc hle) hearly hr hmay
  · refine ⟨fun h => exec_next (i := .ringTileArrival core src) rfl (tileArrive_none h),
      fun x hx => ⟨fun h => exec_next (i := .ringTileArrival core src) rfl (tileArrive_away hx h), ?_⟩⟩
    intro g h hdest hthere hg hne hfor hspills hbank hspill
    exact ringTile_fills hx hdest (there_of x hthere) hg hne hfor hspills hbank hspill
  · exact ⟨fun h => exec_next (i := .matrixStepComplete core) rfl (by rw [h]), fun w ws h hl => matrixStep_writes h hl⟩
  · have turn {u : State} (h : s.engineTurn gs = u) : exec (.engineTurn gs) s = .next u :=
      exec_next (i := .engineTurn gs) rfl h
    have issue {u : State} (h : s.replayIssue gs = u) : exec (.treadleReplayIssue gs) s = .next u :=
      exec_next (i := .treadleReplayIssue gs) rfl h
    refine ⟨fun why h => ⟨turn (engineTurn_parked h), issue (replayIssue_parked h)⟩, fun h => turn (engineTurn_empty h),
      fun h => issue (replayIssue_idle h), fun hrun e l start hq hs => ⟨fun hb => ⟨fun ho => ?_, fun ho => ?_⟩, fun hb => ?_⟩,
      fun hrun ha hq b hbuf => ⟨fun hb ho => ?_, fun hb => ?_⟩⟩
    · exact turn ((engineTurn_bad hrun hq hs hb).trans (engineKill_open ho ..))
    · exact turn ((engineTurn_bad hrun hq hs hb).trans (engineKill_closed ho ..))
    · refine ⟨fun y k h => turn (engineTurn_start hrun hq hs hb h), fun t h => turn (engineTurn_start hrun hq hs hb h),
        fun f k h => ⟨fun ho => ?_, fun ho => ?_⟩⟩
      · exact turn ((engineTurn_start hrun hq hs hb h).trans (if_pos ho))
      · exact ⟨_, turn rfl, engineTurn_fault hrun hq hs hb ho h⟩
    · exact issue ((replayIssue_bad hrun ha hq hbuf hb).trans (engineKill_closed ho ..))
    · refine ⟨fun y k h => issue (replayIssue_op hrun ha hq hbuf hb h), fun t h => issue (replayIssue_op hrun ha hq hbuf hb h),
        fun f k h => ⟨fun ho => ?_, fun ho => ?_⟩⟩
      · exact issue ((replayIssue_op hrun ha hq hbuf hb h).trans (if_pos ho))
      · exact ⟨_, issue rfl, replayIssue_fault hrun ha hq hbuf hb ho h⟩

/-- Settles O52: messages on their way, then trees, tiles and engines. -/
theorem deliverySteps : Obligations.DeliverySteps := ⟨messageDelivery, treesTilesEngines⟩

end Sys2Proof.Machine
